-- ==== Sys2Proof/Word.lean ====
section
/-! DEFINITION. The word types of the module: bytes and 32-bit scratchpad words (R7, R32). -/

namespace Sys2Proof

/-- One byte of memory. -/
abbrev Byte := BitVec 8

/-- One 32-bit scratchpad word (R32). -/
abbrev Word := BitVec 32

end Sys2Proof
end

