-- ==== Sys2Proof/Syntax.lean ====
section
/-! DEFINITION. The commands of the module: one constructor per row of the table of operations and events. An operand is
what its sender knows: a holm by physical number p, a channel, a port, a queue, or what the part has observed. -/

namespace Sys2Proof

/-- A redundant element of the memories (R340, R343). -/
inductive Element where
  | stack (s : Nat)
  | channel (s c : Nat)
  | pseudo (s c : Nat)
  | package (k : Nat)
  deriving DecidableEq, Repr

/-- A refusal of admission by a term that rests on timing or measured power (R477). -/
structure Verdict where
  term : Nat
  quad : Nat
  unit : Nat
  period : Nat
  deriving DecidableEq, Repr

/-- What the admission calculation found of a plan (R469 to R477): a refusal, the earliest S0, the admitted power in W in all
and of each quadrant (R515), and the checkpoint barriers of each stage (R471). -/
structure Admission where
  refusal : Option Verdict
  earliest : Nat
  power : Nat
  quads : List Nat
  ckpts : List (List Nat)
  deriving DecidableEq, Repr

/-- A share of the energy of one interval, in nJ, and whose it is: a partition above 255, a unit of work 0 or a command that
does not exist is no one's (R530). -/
structure Share where
  tenant : Nat
  partition : Nat
  fn : Nat
  queue : Nat
  cmd : Nat
  work : Nat
  nj : Nat
  deriving DecidableEq, Repr

/-- What a current-sense check has found of a phase (R528). -/
inductive Sense where
  | good | outOfRange | disagrees
  deriving DecidableEq, Repr

/-- What a boot stage has found (R533 to R548): whether it passed, the flash slots whose image verifies, the physical holms, the
scratchpad rows (holm, bank, row) and the memory elements that failed their test, the repair records whose CRC fails, by their place
in the table, and the phases (0, rail, phase), strait lanes (1, port, lane) and die-to-die lanes (2, link, lane) of the table that
pass again. -/
structure BootFound where
  ok : Bool
  authentic : List Bool
  failedHolms : List Nat
  failedRows : List (Nat × Nat × Nat)
  failedElements : List Element
  badRecords : List Nat
  retested : List (Nat × Nat × Nat)
  deriving DecidableEq, Repr

/-- The commands, one constructor per row of the table of operations and events. -/
inductive Instr where
  /-- The all-zero instruction issues and does nothing for one holm cycle (R300). -/
  | nop (p : Nat)
  /-- Ends a one-shot invocation once the completion conditions of R232 hold; in a tidal invocation it is a precise BAD_COMMAND fault (R323). -/
  | halt (p : Nat)
  /-- Ends a tidal invocation once the completion conditions of R232 hold; in a one-shot invocation it is a precise BAD_COMMAND fault (R323). -/
  | tide (p : Nat)
  /-- A conditional or unconditional branch on an index-selector value; a taken branch adds 2 holm cycles (R322). -/
  | br (p : Nat)
  /-- Sets general register G[DST] to s + imm (R322). -/
  | loopSet (p : Nat)
  /-- Adds s + imm to general register G[DST] (R322). -/
  | loopAdd (p : Nat)
  /-- Sets general register G[DST] to s × imm (R322). -/
  | loopMul (p : Nat)
  /-- Decrements the counter and branches back while it is above 1; otherwise clears it and falls through (R322). -/
  | loopBack (p : Nat)
  /-- Issues an arrival at a barrier; the arrival takes effect only after prior writes retire and the masked out-channels drain (R226). -/
  | barArrive (p : Nat)
  /-- Waits at the head until the barrier's phase exceeds the holm's wait phase, then advances the wait phase (R226). -/
  | barWait (p : Nat)
  /-- An ARRIVE followed by a WAIT on the same barrier (R226). -/
  | barArriveWait (p : Nat)
  /-- An issued arrival takes effect once its WRITE entries have retired and its masked out-channels have drained, and is added to the barrier's count (R226). -/
  | barrierArrivalEffect (p bar : Nat)
  /-- At Tr + ⌊125k/2⌋ ns, wave k of the waiters learns of the release or starts its invocation (R229). -/
  | waveRelease (work : Nat)
  /-- Creates a DECLARED scoreboard entry over a line range, tied to a tile-count, arrival-count or barrier-phase event (R320). -/
  | rng (p : Nat)
  /-- Reads a two-line payload and sends a 64-byte message to a logical holm of the partition (R321). -/
  | msgSend (p : Nat)
  /-- Claims the oldest unclaimed inbox message and writes it into the buffer (R321). -/
  | msgRecv (p : Nat)
  /-- Issues a matrix multiply-accumulate over its shape and creates READ and WRITE scoreboard entries (R307). -/
  | mma (p : Nat)
  /-- Runs a list of MMA problems from the scratchpad in list order, checking each descriptor as it is read (R135). -/
  | mmap (p : Nat)
  /-- One attention step: reads its control block, computes scores, applies masks and the online softmax, and updates O, m and l (R182). -/
  | ats (p : Nat)
  /-- Finalises an attention chain into Y and the log-sum-exp (R187). -/
  | atf (p : Nat)
  /-- One backward attention step: recomputes p and accumulates dQ, dK and dV (R201). -/
  | atb (p : Nat)
  /-- A vector operation over an element tile, with one rounding per result (R313). -/
  | vop (p : Nat)
  /-- Converts a tile between element formats, MX formats included (R117). -/
  | cvt (p : Nat)
  /-- Applies a picot to a tile, with optional per-column bias and scale, or performs a rotary-pair rotation (R156). -/
  | sfn (p : Nat)
  /-- Starts a bobbin channel on a pricking slot with run-ahead depth D and a parameter block (R221). -/
  | bobStart (p : Nat)
  /-- Stops a channel from beginning further far requests (R221). -/
  | bobStop (p : Nat)
  /-- Adds go credits to a channel, and for an out-channel names the range of its next tile (R221). -/
  | bobPost (p : Nat)
  /-- Frees the next n landed tiles of an in-channel (R221). -/
  | bobRelease (p : Nat)
  /-- Appends K and V rows of a sequence through an out-channel, past the committed length (R318). -/
  | kva (p : Nat)
  /-- A scoreboard entry's retire event occurs and the entry retires, releasing any head instruction waiting on it (R44). -/
  | scoreboardRetire (p id : Nat)
  /-- A named tile count, arrival count or barrier phase reaches the RNG's target count and the DECLARED entry retires (R320). -/
  | declaredEntryRetire (p id : Nat)
  /-- The holm's TIDE or HALT completes once every entry, channel, arrival and response is done; the invocation ends (R232). -/
  | invocationComplete (p : Nat)
  /-- A precise or deferred fault stops issue, abandons the engines and brings the holm to FAULTED with a fault record (R325). -/
  | holmFault (p : Nat) (hw : Bool)
  /-- An instruction has waited at the head for 64,000 holm cycles and the watchdog fires (R498). -/
  | segmentWatchdog (p : Nat)
  /-- A bobbin moves 1–128 lines between a far address and the scratchpad, optionally closing the tile (R217). -/
  | prickingEmit (p ch : Nat)
  /-- Adds a signed immediate to a pricking address register (R217). -/
  | prickingAdd (p ch : Nat)
  /-- Sets a pricking address register to an immediate (R217). -/
  | prickingSeta (p ch : Nat)
  /-- Sets a pricking loop counter from an immediate or a parameter (R217). -/
  | prickingSetl (p ch : Nat)
  /-- Decrements a pricking loop counter and branches back while it is above 1 (R217). -/
  | prickingLoop (p ch : Nat)
  /-- Consumes one go credit, waiting while there is none (R217). -/
  | cwait (p ch : Nat)
  /-- Asks a walker to land tokens of a sequence layer as one whole tile (R217). -/
  | pemit (p ch : Nat)
  /-- Closes any open tile and ends the pricking (R217). -/
  | prickingEnd (p ch : Nat)
  /-- The channel reads the START's parameter block in NR opportunities; a reserved bit is a deferred BAD_COMMAND fault (R215). -/
  | bobbinParamBlockRead (p ch : Nat)
  /-- The last line of an in-channel tile lands and the tile count increases, in tile order (R220). -/
  | tileLanded (p ch : Nat)
  /-- Every write of an out-channel tile has been acknowledged; the tile is counted and freed (R219). -/
  | tileDrained (p ch : Nat)
  /-- After END or STOP, the channel's last tiles are freed or its issued requests complete, and the channel ends (R217). -/
  | channelEnded (p ch : Nat)
  /-- A far request or emit fails; the channel stops and the holm faults with the cause's status (R224). -/
  | bobbinFault (p ch : Nat)
  /-- A remote access reaches the target holm's router and is checked for role epoch and exposure, then served in NR slots or refused (R62). -/
  | remoteAccessArrival (i : Nat)
  /-- A response to a remote access or message reaches the sender and ends its request with its status (R62). -/
  | remoteResponseArrival (i : Nat)
  /-- A remote request has had no response for 1.5 µs; it is held and the target is reported to firmware (R56). -/
  | remoteRequestHeld (i : Nat)
  /-- A message reaches the target router, is checked once, and enters the inbox or waits for a free entry (R55). -/
  | msgArrival (i : Nat)
  /-- An inbox entry frees, and a message waiting at the target enters the inbox; the response is sent (R55). -/
  | msgInboxEnter (i : Nat)
  /-- Firmware reissues a request that met a remap to the new physical holm (R64). -/
  | staleRoleReissue (i : Nat)
  /-- The scrubber reads a written line in an SC opportunity and writes it back if it corrected a word (R94). -/
  | scrubVisit (p line : Nat) (errs : List (Nat × Bool))
  /-- A repair-candidate row is copied into a spare row, with writes mirrored, and entered in the shadow map (R96). -/
  | rowRepairCopy (p bank row : Nat)
  /-- Firmware writes a repair record into flash within 1 s of the event (R96). -/
  | repairTableWrite (p : Nat)
  /-- Firmware loads a holm's lagoon from its image under FILL, setting the written bits (R85). -/
  | lagoonImageLoad (p : Nat)
  /-- Firmware tests an active holm at 2.0 GHz; a holm that fails is retired by planned substitution (R51). -/
  | ratedFloorCheck (p : Nat) (pass needsMore : Bool)
  /-- At the scheduled instant, or at close + 250 ns, staged settings swap, epochs increment, the tide number advances and barriers reset (R233). -/
  | slack (work : Nat)
  /-- A holm's checkpoint state is written into its harbour copy; the acknowledgement lets the checkpoint arrival take effect (R486). -/
  | checkpointSpill (p : Nat) (carried : List (Nat × Nat))
  /-- The walker receives a PEMIT, reads the descriptor and list, and issues fetches in exact, summary, select or selected mode (R251). -/
  | walkerRequest (i : Nat) (lost : Bool)
  /-- The last row of a tile lands; the walker writes the header lines and the tile is counted (R252). -/
  | walkerTileComplete (i : Nat)
  /-- A PEMIT fails as a whole with the status of the first cause, and its channel stops (R253). -/
  | walkerFailure (i : Nat)
  /-- The walker checks an append against the pending record's counts and accepts or refuses it (R256). -/
  | kvAppendAccept (p ch : Nat)
  /-- A page whose count reached 0 rejoins the free list after earlier PEMITs have counted or failed (R265). -/
  | pageFreeReturn (pool : Nat)
  /-- The shuttle fetches an origin block through the walker, or takes a written one at a ready-barrier release (R282). -/
  | originBlockFetch (rid : Nat) (lost : Bool)
  /-- The shuttle sends a block to the next rank while it holds a credit for the slot (R284). -/
  | shuttleBlockSend (rid : Nat) (arrived : List Nat)
  /-- A block lands in its slot and is counted in count order on each destination holm (R281). -/
  | shuttleBlockLanding (rid : Nat)
  /-- The shuttle reads a received block for forwarding, or sends the accumulators back to the origin (R283). -/
  | shuttleForward (rid : Nat) (arrived : List Nat)
  /-- At the start of a tide, once every destination holm has started, the rank grants S credits to the previous rank (R284). -/
  | slotCreditGrant (rid : Nat)
  /-- A ring-abort arrives; the rank stops the ring, forwards the abort, and its tide completes with ABORTED (R296). -/
  | ringAbortReceive
  /-- A rank meets an unmasked ring failure, stops the ring, and sends ring-aborts both ways (R296). -/
  | ringFailure (rid status : Nat)
  /-- A piece arrives, is checked, and is written to the output or placed in a collector slot (R407). -/
  | collectivePieceArrival (idx : List Nat)
  /-- The collector combines the parts of an element in fixed part-index order and returns a credit (R410). -/
  | collectorCombine (cid piece : Nat)
  /-- A CREDIT piece arrives and lets the source send further pieces (R416). -/
  | collectiveCreditReceive
  /-- The destination receives COUNT pieces and, once it has all n, computes the grants and sends GRANT pieces (R414). -/
  | alltoallCountReceive
  /-- A source receives its GRANT and sends its granted rows, dropping the rest (R414). -/
  | alltoallGrantReceive
  /-- An intermediate engine holds a piece in a transit slot and sends it on unchanged (R408). -/
  | transitForward (slot : Nat)
  /-- After a column chunk's last write, the MXE hands the chunk to the bound collective (R418). -/
  | mmaEmitChunk (cid row chunk : Nat)
  /-- A collective ABORT arrives; the rank records the failure and stops waiting on the failed rank (R421). -/
  | collectiveAbortReceive
  /-- The collective completes on a rank and writes its status record (R419). -/
  | collectiveComplete (cid : Nat)
  /-- A read of HBM data is served at its placed stack and pseudo-channel, reconstructing missing blocks (R334). -/
  | hbmRead (dpa n : Nat)
  /-- A write updates parity through the combiner, then writes the data and is acknowledged (R337). -/
  | hbmWrite (dpa : Nat) (data : List Nat)
  /-- A read of a tier-2 or tier-3 unit is expanded through the codec (R344). -/
  | codecRead (extent off n : Nat)
  /-- A write to a tier-2 or tier-3 unit is merged, compressed, appended, and made current (R347). -/
  | codecRewrite (extent off : Nat) (data : List Nat)
  /-- An HBM stack, channel or pseudo-channel, or an LPDDR package, is declared failed and degraded operation begins (R340). -/
  | elementFailureDeclare (e : Element)
  /-- Patrol scrub reads a block or sector in MNT slots and writes back corrected data (R357). -/
  | patrolScrub (dpa found : Nat)
  /-- At the end of each 1 ms window, the balance monitor evaluates skew and reports it (R352). -/
  | balanceWindow
  /-- Firmware moves a hot region to a new DPA region with a new key (R352). -/
  | regionRekey (region : Nat)
  /-- The migration engine copies the next unit of a dual-mapped page (R350). -/
  | migrationUnitCopy (i : Nat)
  /-- The migration engine moves the live units of a sparse segment into the open segment (R346). -/
  | segmentCompaction (seg : Nat)
  /-- A freed DPA region is zeroed, or a codec extent released, in the background (R331). -/
  | regionZeroing (i : Nat)
  /-- A new memory or die-to-die slot table becomes current at a frame boundary (R356). -/
  | slotTableSwap (ch : Nat) (table : BitVec 1024)
  /-- A new flit-slot table becomes current at the next flit slot 0 (R368). -/
  | flitSlotTableSwap (port : Nat) (table : BitVec 1024)
  /-- A link block arrives; if good, its flits and control fields are applied, and if bad a NAK is sent and later blocks are discarded (R364). -/
  | linkBlockReceive (port : Nat) (decoded : Bool) (flits : List (List Nat)) (ctl : BitVec 40)
  /-- No ACK has advanced for 4 µs; the sender replays from the oldest unacknowledged block (R365). -/
  | replayTimeout (port : Nat)
  /-- Every 1 µs without REPLAY_START, the receiver repeats the NAK (R364). -/
  | nakRepeatTimer (port : Nat)
  /-- A LINK_INIT management flit is received, announcing credits and relay buffers, and the version is checked (R370). -/
  | linkInit (port : Nat)
  /-- A CHART HELLO is received; echoes and cabling are checked and the coordinate claim is updated (R389). -/
  | hello (port : Nat)
  /-- A CHART ENABLE or withdrawal is received; the port moves to UP or back to CHARTED (R393). -/
  | chartEnable (port : Nat)
  /-- A CHART TIME flit is received and the offset to the reference rack is updated (R399). -/
  | chartTime (port : Nat)
  /-- A LANE_FAIL management flit is received; the port stops using the port and answers with LANE_SWAP (R378). -/
  | laneFail (port : Nat)
  /-- A LANE_SWAP management flit is received, confirming b0 (R378). -/
  | laneSwap (port : Nat)
  /-- A PORT_DOWN management flit is received and the port is failed (R379). -/
  | portDown (port : Nat)
  /-- A port sends a HELLO in every MGT slot while in CHART, and every 10 ms after charting (R389). -/
  | helloTimer (port : Nat)
  /-- Every 100 µs, a port of a rack-spanning archipelago sends a TIME flit (R399). -/
  | timeFlitTimer (port : Nat)
  /-- A coordinate claim that has not changed for 100 ms becomes fixed (R390). -/
  | claimFixTimer
  /-- A receive lane fails; LANE_FAIL is sent and the port goes out of service (R378). -/
  | laneFailureDetect (port lane : Nat)
  /-- At block b0, both ends map the failed logical lane onto the spare lane and realign (R378). -/
  | laneRemap (port : Nat)
  /-- A port fails; its unanswered transfers are resent whole on the sibling ports or relay routes (R379). -/
  | portFailure (port : Nat)
  /-- A port loses signal, enters HOLD, starts the hold timer, and ends unanswered transfers with LINK_LOST (R383). -/
  | lossOfSignal (port : Nat)
  /-- Signal appears on at least four lanes and the port enters TRAIN (R382). -/
  | signalDetect (port : Nat)
  /-- Training has not completed within 50 ms and the port returns to DOWN (R382). -/
  | trainTimeout (port : Nat)
  /-- The hold timer expires; the port enters DOWN and PEER_ABSENT is posted (R383). -/
  | holdTimerExpiry (port : Nat)
  /-- A WRITE transfer header arrives at the target and is checked; the write lands or is refused (R374). -/
  | straitWriteArrival (port : Nat)
  /-- A READ transfer arrives and is checked; it is answered with READ_DATA or RESPONSE (R374). -/
  | straitReadArrival (port : Nat)
  /-- Once every byte has landed and been acknowledged, the target sends the reply (R372). -/
  | transferReplySend
  /-- A RESPONSE or READ_DATA arrives at the sender and ends the transfer (R372). -/
  | straitResponseArrival (port : Nat)
  /-- After STALE_ROLE with REDIRECT, the sender resends the transfer every 2 µs, up to 16 times (R375). -/
  | redirectResend (xid : Nat)
  /-- A relay forwards a transfer not addressed to it, decrementing STH_RELAY, or discards it (R381). -/
  | relayForward (port : Nat)
  /-- An RTP pulse is decoded; the counter is aligned or slewed and frames are assembled (R397). -/
  | rtpEdge (width : Nat)
  /-- No valid RTP edge for 4 µs; the counter enters HOLDOVER (R397). -/
  | rtpLoss
  /-- The working reference clock goes bad and the module moves to the other clock (R395). -/
  | refclkBad (b : Bool)
  /-- The reference-rack depth has been 7 for 10 ms; tides are suspended and TIME_STATE is posted (R400). -/
  | timeDepthLost
  /-- The host writes a new command tail to a queue's doorbell (R424). -/
  | dbCmdTail (fn q value : Nat) (host : List (Nat × List Nat))
  /-- The host writes a new completion head, freeing completion entries (R424). -/
  | dbCplHead (fn q value : Nat)
  /-- The host releases consumed notice entries (R567). -/
  | ntcDbHead (fn value : Nat)
  /-- A write to the high word of QUE_CFG commits the queue 0 setup (R564). -/
  | queCfgCommit (fn value : Nat)
  /-- A confirmed write of RST_REQ with the cold code starts a cold reset (R571). -/
  | rstReqCold (fn value : Nat)
  /-- A confirmed write of RST_REQ with the warm code starts a warm reset (R571). -/
  | rstReqWarm (fn value : Nat)
  /-- A confirmed write of RST_REQ with the soft code starts a module soft reset (R571). -/
  | rstReqSoft (fn value : Nat)
  /-- A write to a register with no behaviour of its own, or to an unimplemented location, which raises a bus error (R13). -/
  | registerWrite (fn off size value : Nat)
  /-- The device fetches a command entry while room allows and accepts it through checks 1–4 (R426). -/
  | commandFetch (fn q : Nat)
  /-- A completion is posted once every effect of the command is visible (R427). -/
  | commandCompletionPost (fn q : Nat)
  /-- A held TIDE completion is posted as a completion entry frees (R428). -/
  | heldCompletionPost (work : Nat)
  /-- The oldest unsignalled completion has waited t µs and the MSI-X message is sent (R429). -/
  | interruptCoalesceTimer (fn q : Nat)
  /-- Returns the supported ICI version range, the native generation and the firmware release (R437). -/
  | iciVersion (fn q : Nat)
  /-- Copies the capability registers and the tenant's quotas into a buffer (R569). -/
  | queryCaps (fn q : Nat)
  /-- Creates or re-arms queue 1–7 with rings, vector, thresholds and ICI version (R423). -/
  | queueCreate (fn q : Nat)
  /-- Stops a queue, waits for its commands to complete, then removes it (R430). -/
  | queueDelete (fn q : Nat)
  /-- Sets or replaces the function's notice ring (R431). -/
  | noticeRingSet (fn q : Nat)
  /-- Allocates zeroed 2 MiB pages in a tier at a tenant address (R460). -/
  | regionAlloc (fn q : Nat)
  /-- Frees pages and their aliases (R460). -/
  | regionFree (fn q : Nat)
  /-- Aliases tenant pages, or from PF0 maps free DPA regions to a tenant (R460). -/
  | regionMap (fn q : Nat)
  /-- Copies bytes between two addresses (R478). -/
  | copy (fn q : Nat) (adm : Option Verdict)
  /-- Moves pages to another tier, all or none, with a swap at a slack (R351). -/
  | migrate (fn q : Nat) (adm : Option Verdict)
  /-- Loads a model into tier-1 pages and locks them (R460). -/
  | modelLoad (fn q : Nat)
  /-- Sets the lagoon size and image for a range of holms (R85). -/
  | lagoonSet (fn q : Nat)
  /-- Unlocks a model's pages (R460). -/
  | modelFree (fn q : Nat)
  /-- Creates a KV page pool after ordered checks (R596). -/
  | poolCreate (fn q : Nat)
  /-- Creates a sequence descriptor and its list (R245). -/
  | seqCreate (fn q : Nat)
  /-- Creates a sequence sharing a prefix of its parent's pages (R262). -/
  | seqFork (fn q : Nat)
  /-- Appends K and V rows from host memory, committing at completion (R255). -/
  | seqAppend (fn q : Nat) (adm : Option Verdict)
  /-- Shortens a sequence's committed length (R263). -/
  | seqTruncate (fn q : Nat)
  /-- Frees a sequence, its page references and its arena blocks (R264). -/
  | seqFree (fn q : Nat)
  /-- Frees a pool that no live descriptor names (R439). -/
  | poolFree (fn q : Nat)
  /-- Submits a plan image, which is admitted or refused and returns a handle (R469). -/
  | planSubmit (fn q : Nat) (adm : Admission)
  /-- Starts a plan at S0 (R442). -/
  | planStart (fn q : Nat)
  /-- Stops a plan at its next slack (R236). -/
  | planStop (fn q : Nat)
  /-- Replaces sections of a plan after readmission, effective at a slack (R476). -/
  | planStageUpdate (fn q : Nat) (adm : Admission)
  /-- Frees a stopped plan and its reservations (R476). -/
  | planFree (fn q : Nat)
  /-- Attends a sequence's committed tokens in blocks of 256 and finalises (R441). -/
  | attend (fn q : Nat) (adm : Option Verdict)
  /-- A matrix multiply in chains split at multiples of 8,192 (R441). -/
  | gemm (fn q : Nat) (adm : Option Verdict)
  /-- Runs 1–256 GEMM or ATTEND entries (R439). -/
  | batch (fn q : Nat) (adm : Option Verdict)
  /-- Opens a keyed memory or scratchpad window and returns its handle and key (R373). -/
  | windowOpen (fn q : Nat)
  /-- Closes a window and advances its generation (R373). -/
  | windowClose (fn q : Nat)
  /-- Binds the tenant's partitions to an archipelago and opens its transit window (R392). -/
  | sliceJoin (fn q : Nat)
  /-- Runs a one-shot collective from a descriptor (R402). -/
  | collective (fn q : Nat) (adm : Option Verdict)
  /-- The tenant leaves an archipelago (R439). -/
  | sliceLeave (fn q : Nat)
  /-- Sets the power cap and averaging window (R516). -/
  | capSet (fn q : Nat)
  /-- Returns an energy counter with a rack-time stamp (R530). -/
  | energyRead (fn q : Nat)
  /-- Loads a native image into holm stores and returns a native handle (R298). -/
  | nativeLoad (fn q : Nat)
  /-- Reloads stores where needed and runs one invocation of a native image (R597). -/
  | nativeRun (fn q : Nat)
  /-- Frees a native handle (R597). -/
  | nativeFree (fn q : Nat)
  /-- Creates a tenant bound to a VF, or replaces its quotas (R452). -/
  | tenantCreate (fn q : Nat)
  /-- Destroys a tenant that holds no objects (R453). -/
  | tenantDestroy (fn q : Nat)
  /-- Defines, changes or deletes a partition, effective at a slack or at completion (R455). -/
  | partitionSet (fn q : Nat)
  /-- Defines or replaces an archipelago's member table (R392). -/
  | sliceDefine (fn q : Nat)
  /-- Enables or withdraws ports for an archipelago and sets the hold time (R393). -/
  | linkEnable (fn q : Nat)
  /-- Authenticates an image and writes it into the inactive flash slot (R449). -/
  | firmwareStage (fn q : Nat) (authentic : Bool)
  /-- Boots the staged image on the spare core and requests a handover (R450). -/
  | firmwareActivate (fn q : Nat)
  /-- At a slack, the running pair passes its state to the new image within a 30 µs pause, or abandons the attempt (R450). -/
  | firmwareHandover (faulted : Bool)
  /-- Sets the parity settings in flash, to take effect at the next cold reset (R332). -/
  | paritySet (fn q : Nat)
  /-- Registers host memory as tier-3 backing (R349). -/
  | tier3Register (fn q : Nat)
  /-- Every 4 µs, the controller forms the power estimate and sets voltages, frequencies and throttles (R512). -/
  | powerEstimateTick (estimate measured : Nat) (shares : List Share) (plans : List (Nat × Nat × Nat))
  /-- Every 1 ms, the estimate is compared with measured energy and the weights are rescaled (R512). -/
  | energyCorrection (estimated measured : Nat)
  /-- Every 1 ms, the enforced average is checked against the cap and the steering target is updated (R516). -/
  | capCheck (avg : Nat)
  /-- At E, with the excess period still running, the controller lowers plans until the target is met (R518). -/
  | capEnforcementInstant
  /-- A rail reaches 98 % of its limit and best-effort holms are throttled; sustained excess asserts VR_ALERT (R514). -/
  | railCurrentLimit (rail : Nat) (sustained : Bool)
  /-- VR_ALERT asserts and the module enters the lowest operating state (R525). -/
  | vrAlert (cause : Nat)
  /-- PWR_BRAKE_N asserts and the module enters the lowest operating state within 1 µs (R525). -/
  | pwrBrakeN
  /-- 100 µs after the last signal clears, the module restores its settings (R525). -/
  | lowestStateExit
  /-- A core-rail phase fails open; it is disabled and the limit is derated (R527). -/
  | phaseFailOpen (rail phase : Nat)
  /-- A spare phase is calibrated and brought in, and the limit is restored (R527). -/
  | sparePhaseInService (rail : Nat)
  /-- Every 1 µs, each phase's current sense is checked against a model (R528). -/
  | currentSenseCheck (rail phase : Nat) (reading : Sense)
  /-- The supply falls below the droop level and the holm cycle doubles until it recovers (R524). -/
  | droopStretch (p : Nat)
  /-- Every 4 µs, junction sensors are read and thermal limits are applied (R529). -/
  | thermalRead (temps : List Nat) (alarm : Bool)
  /-- Every 1 ms, a power report is sent to each eligible torus neighbour (R522). -/
  | powerReportSend (avg : Nat)
  /-- A neighbour's power report arrives; loans are made, taken or repaid (R523). -/
  | powerReportReceive (group report : Nat)
  /-- Without reports for 3 ms the borrower drops a loan; after 10 ms the lender restores its side (R523). -/
  | loanTimeout (group : Nat) (lender : Bool)
  /-- A holm-quad domain meeting the conditions is power-gated (R506). -/
  | holmQuadGate (q c : Nat)
  /-- A gated holm-quad is woken before a slack, at a start, or by an arrival (R506). -/
  | holmQuadWake (q c : Nat)
  /-- 100 ms with no tenant puts the module into deep idle (R504). -/
  | deepIdleEnter
  /-- A strait group whose four ports have been DOWN for 1 s is gated (R504). -/
  | straitGroupGate (g : Nat)
  /-- The codec domain is gated after 10 ms without tier-2 or tier-3 pages or migration (R504). -/
  | codecDomainGate
  /-- The input reaches 40 V and the boot sequence runs from stage ROM (R533). -/
  | powerUp
  /-- A boot stage completes and the stages that depend on it start (R533). -/
  | bootStageComplete (stage : Nat) (found : BootFound)
  /-- The input is below 38 V for 2 µs; transmitters idle, work stops, and the log is written to flash (R553). -/
  | powerFailure
  /-- PERST_N asserted for at least 1 µs triggers a warm reset (R532). -/
  | perstAssert
  /-- PERST_N deasserts and PCIe link training begins (R537). -/
  | perstDeassert
  /-- The entry phase of a warm or soft reset ends invocations, saves the log, and idles transmitters (R535). -/
  | warmResetEntry
  /-- A VF function-level reset frees the tenant's objects and idles its holms (R551). -/
  | flrVf (v : Nat)
  /-- A PF0 function-level reset resets PF0's queues and clears VF Enable (R552). -/
  | flrPf0
  /-- A write of effecter 0x0101 sets the rack identity (R591). -/
  | pldmRackIdentity (value : Nat)
  /-- A write of effecter 0x0102 requests a cold or warm reset (R591). -/
  | pldmResetRequest (code : Nat)
  /-- In RECOVERY, an image delivered over PLDM is authenticated and booted (R540). -/
  | pldmFirmwareUpdate (header : Nat) (authentic : Bool)
  /-- Returns signed boot measurements (R541). -/
  | spdmGetMeasurements
  /-- Leaving an EXTEST-class TAP instruction starts a warm reset (R592). -/
  | jtagExtestExit
  /-- The input stays below 38 V for 1 s and the trip clears (R585). -/
  | thermalTripClear
  /-- The host link goes down; tier-3 accesses end with LINK_LOST (R349). -/
  | hostLinkDown
  /-- A holm's pulse has been absent for 1 µs and the holm is declared failed (R483). -/
  | holmPulseLoss (p : Nat)
  /-- For the stage's holms, the remap swap and epoch increment of a fault substitution take effect (R492). -/
  | recoverySlack
  /-- The stage restores its checkpoint state and resumes in combed waves (R489). -/
  | stageReplay
  /-- A poisoned row is mapped to a spare and restored, and the stage replays (R493). -/
  | rowFaultRecovery
  /-- A lockstep mismatch or self-check failure makes the spare core take over (R500). -/
  | mgmtCoreFault (survivor : Option Nat)
  /-- A reference clock that was bad becomes good again against the always-on oscillator, updating its good flag and letting the counter leave FREE (R395). -/
  | refclkGood (b : Bool)
  /-- The rack releases PWR_BRAKE_N, clearing the PWR_BRAKE flag and starting the 100 µs count to leaving the lowest operating state (R525). -/
  | pwrBrakeNDeassert
  /-- CRC errors or loss of lock on a die-to-die lane are detected, and the lane is replaced by a spare lane with link retrain and retry (R483). -/
  | dieToDieLaneFailure (link lane : Nat)
  /-- The supply has stayed above the droop level plus 10 mV for 8 holm cycles, and the holm cycle returns to normal length (R524). -/
  | droopStretchEnd (p : Nat)
  /-- A host read of a reserved or unimplemented BAR location raises a bus error with Completer Abort and is logged (R13). -/
  | registerRead (fn off size : Nat)
  /-- A configuration write sets or clears VF Enable in PF0's SR-IOV capability, creating the VF BARs or performing R551 for every VF (R552). -/
  | vfEnableWrite (on : Bool) (num : Nat)
  /-- A fault that is not masked and not confined to a request, such as an upset in the hub switch, is detected and firmware triggers a warm reset (R532). -/
  | unconfinedFault
  /-- The host PCIe link returns to up in operation, and tier-3 accesses stop ending with LINK_LOST (R349). -/
  | hostLinkUp
  /-- The 100 ms with every rail except the always-on island switched off ends, and the power-up sequence runs from stage RAILS (R532). -/
  | coldResetOffEnd
  /-- An EXTEST-class TAP instruction is selected, and the strait and PCIe lanes are driven by the boundary cells, or BYPASS is taken when this is not allowed (R592). -/
  | jtagExtestSelect
  deriving DecidableEq, Repr

end Sys2Proof
end

