-- ==== Sys2Proof/Config.lean ====
section
/-! DEFINITION. What the spec leaves open: the free values of the model. None has a body, so no proof can see one. -/

namespace Sys2Proof.Config

/-- What a free value stands for. The tag keeps free values of different origin apart. -/
inductive FreeKind where
  /-- A scratchpad word that the spec calls undefined (R83, R177, R184, R200, R203, R325). -/
  | undefWord
  /-- A byte of memory that the spec calls undefined (R25, R358). -/
  | undefByte
  /-- A value drawn from the module's random source (region keys R336, window keys R373, incarnation R386). -/
  | random
  /-- A bit of a calculation the spec fixes mathematically but whose evaluation ran out of the model's fuel (R154). -/
  | fuel
  /-- A choice the spec leaves to firmware or to an implementation. -/
  | choice
  /-- A measured quantity (temperature, current, activity) that only the part knows. -/
  | measure
  deriving DecidableEq, Repr

/-- The free value of a kind, an index and a second index. It has no body. -/
opaque freeNat : FreeKind → Nat → Nat → Nat

end Sys2Proof.Config
end

