-- ==== Sys2Proof/Machine/Num.lean ====
section
/-! DEFINITION. Numbers: exact values, element formats and the single rounding (R100, R107, R113, R115, R140, R141). -/

namespace Sys2Proof.Machine

/-- An exact extended value: a NaN, an infinity, or (-1)^neg * mag * 2^exp with a signed zero at mag = 0. -/
inductive Num where
  | nan
  | inf (neg : Bool)
  | fin (neg : Bool) (mag : Nat) (exp : Int)
  deriving DecidableEq, Repr

/-- Bits [lo + w - 1 : lo] of x (R7). -/
def fld (x lo w : Nat) : Nat := (x >>> lo) % 2 ^ w

/-- The bit at position i of x (R7). -/
def bitAt (x i : Nat) : Bool := (x >>> i) % 2 == 1

namespace Num

def zero : Num := .fin false 0 0
def one : Num := .fin false 1 0
def ofNat (n : Nat) : Num := .fin false n 0
def ofInt (i : Int) : Num := .fin (decide (i < 0)) i.natAbs 0
/-- 2^e exactly. -/
def pow2 (e : Int) : Num := .fin false 1 e

def isNaN : Num → Bool | nan => true | _ => false
def isInf : Num → Bool | inf _ => true | _ => false
def isZero : Num → Bool | fin _ 0 _ => true | _ => false
def isFin : Num → Bool | fin .. => true | _ => false
def isNeg : Num → Bool | nan => false | inf n => n | fin n _ _ => n

def neg : Num → Num
  | nan => nan | inf n => inf (!n) | fin n m e => fin (!n) m e

def abs : Num → Num
  | nan => nan | inf _ => inf false | fin _ m e => fin false m e

/-- The value as an integer multiple of 2^e0, for e0 not above its exponent. -/
def scaled (n : Bool) (m : Nat) (e e0 : Int) : Int :=
  let v : Int := Int.ofNat (m * 2 ^ (e - e0).toNat)
  if n then -v else v

/-- The exact sum; zeros and infinities as IEEE 754 roundTiesToEven has them (R113, R141). -/
def add : Num → Num → Num
  | nan, _ => nan
  | _, nan => nan
  | inf a, inf b => if a == b then inf a else nan
  | inf a, fin .. => inf a
  | fin .., inf b => inf b
  | fin n1 m1 e1, fin n2 m2 e2 =>
    if m1 = 0 ∧ m2 = 0 then fin (n1 && n2) 0 0
    else if m1 = 0 then fin n2 m2 e2
    else if m2 = 0 then fin n1 m1 e1
    else
      let e := min e1 e2
      let v := scaled n1 m1 e1 e + scaled n2 m2 e2 e
      fin (decide (v < 0)) v.natAbs e

def sub (a b : Num) : Num := add a (neg b)

/-- The exact product; infinity times zero is NaN (R112). -/
def mul : Num → Num → Num
  | nan, _ => nan
  | _, nan => nan
  | inf a, inf b => inf (a != b)
  | inf a, fin n m _ => if m = 0 then nan else inf (a != n)
  | fin n m _, inf b => if m = 0 then nan else inf (n != b)
  | fin n1 m1 e1, fin n2 m2 e2 =>
    if m1 = 0 ∨ m2 = 0 then fin (n1 != n2) 0 0 else fin (n1 != n2) (m1 * m2) (e1 + e2)

/-- a * b + c, exactly (R146). -/
def fma (a b c : Num) : Num := add (mul a b) c

/-- The value times 2^k, exactly. -/
def shl (v : Num) (k : Int) : Num :=
  match v with
  | fin n m e => if m = 0 then v else fin n m (e + k)
  | v => v

/-- floor of log2 of the magnitude of a finite non-zero value. -/
def ilog : Num → Int
  | fin _ m e => Int.ofNat m.log2 + e
  | _ => 0

/-- Exact comparison of two values that are not NaN; zeros are equal. -/
def lt : Num → Num → Bool
  | nan, _ => false
  | _, nan => false
  | inf a, inf b => a && !b
  | inf a, fin .. => a
  | fin .., inf b => !b
  | fin n1 m1 e1, fin n2 m2 e2 =>
    let e := min e1 e2
    decide (scaled n1 m1 e1 e < scaled n2 m2 e2 e)

def eqv : Num → Num → Bool
  | nan, _ => false
  | _, nan => false
  | a, b => !(lt a b) && !(lt b a)

def le (a b : Num) : Bool := lt a b || eqv a b

/-- Maximum with +0 above -0; NaN when either is NaN (R313, R182). -/
def max (a b : Num) : Num :=
  if a.isNaN || b.isNaN then nan
  else if lt a b then b
  else if lt b a then a
  else if a.isNeg then b else a

/-- Minimum with -0 below +0; NaN when either is NaN (R313). -/
def min (a b : Num) : Num :=
  if a.isNaN || b.isNaN then nan
  else if lt a b then a
  else if lt b a then b
  else if a.isNeg then a else b

/-- An exact zero of a sum is +0 (R107, R313). -/
def posZero (v : Num) : Num := if v.isZero then zero else v

/-- |v| is below 2^-126, the flush threshold of the SFU (R141, R154, R156). -/
def tiny (v : Num) : Bool := lt v.abs (pow2 (-126))

/-- A zero that keeps the sign of v. -/
def signedZero (v : Num) : Num := fin v.isNeg 0 0

/-- The value of a, flushed below 2^-126 to a zero of its sign. -/
def flush (v : Num) : Num := if v.tiny then v.signedZero else v

/-- floor of a finite value. -/
def floorInt : Num → Int
  | fin n m e =>
    if e ≥ 0 then scaled n m e 0
    else
      let d := 2 ^ (-e).toNat
      if n then -(Int.ofNat ((m + d - 1) / d)) else Int.ofNat (m / d)
  | _ => 0

/-- The nearest integer of a finite value, ties to even. -/
def roundInt : Num → Int
  | fin n m e =>
    if e ≥ 0 then scaled n m e 0
    else
      let d := 2 ^ (-e).toNat
      let q := m / d
      let r := m % d
      let q' := if 2 * r > d ∨ (2 * r = d ∧ q % 2 = 1) then q + 1 else q
      if n then -(Int.ofNat q') else Int.ofNat q'
  | _ => 0

end Num

/-- A magnitude to be rounded: mag * 2^exp, with a further fraction of one unit when sticky is set. -/
structure Mag where
  mag : Nat
  exp : Int
  sticky : Bool
  deriving DecidableEq, Repr

/-- roundTiesToEven of a magnitude to a multiple of 2^u, as the count of units. -/
def Mag.toUnit (x : Mag) (u : Int) : Nat :=
  if u ≤ x.exp then x.mag * 2 ^ (x.exp - u).toNat
  else
    let d := (u - x.exp).toNat
    if d > x.mag.log2 + 2 then 0
    else
      let q := x.mag >>> d
      let r := x.mag % 2 ^ d
      let half := 2 ^ (d - 1)
      if r > half ∨ (r = half ∧ (x.sticky ∨ q % 2 = 1)) then q + 1 else q

/-- The quotient p / q as a magnitude with 80 or more significant bits and a sticky bit. -/
def Mag.ofRat (p q : Nat) (exp : Int) : Mag :=
  if q = 0 then ⟨0, 0, false⟩
  else
    let k := 96 + q.log2
    ⟨p * 2 ^ k / q, exp - k, decide (p * 2 ^ k % q ≠ 0)⟩

/-- The scalar element formats of R100, block scales apart. -/
inductive Flt where
  | e4m3 | e5m2 | e3m2 | e2m3 | e2m1 | fp16 | bf16 | fp32
  deriving DecidableEq, Repr

namespace Flt

/-- Width in bits (R100). -/
def width : Flt → Nat
  | e4m3 => 8 | e5m2 => 8 | e3m2 => 6 | e2m3 => 6 | e2m1 => 4 | fp16 => 16 | bf16 => 16 | fp32 => 32

/-- Mantissa bits (R100). -/
def mbits : Flt → Nat
  | e4m3 => 3 | e5m2 => 2 | e3m2 => 2 | e2m3 => 3 | e2m1 => 1 | fp16 => 10 | bf16 => 7 | fp32 => 23

/-- Exponent bias (R100). -/
def bias : Flt → Nat
  | e4m3 => 7 | e5m2 => 15 | e3m2 => 3 | e2m3 => 1 | e2m1 => 1 | fp16 => 15 | bf16 => 127 | fp32 => 127

/-- The magnitude code of the largest finite value (R100). -/
def maxCode : Flt → Nat
  | e4m3 => 0x7E | e5m2 => 0x7B | e3m2 => 0x1F | e2m3 => 0x1F | e2m1 => 0x7 | fp16 => 0x7BFF
  | bf16 => 0x7F7F | fp32 => 0x7F7FFFFF

/-- The magnitude code of infinity, where the format has one (R100). -/
def infCode? : Flt → Option Nat
  | e5m2 => some 0x7C | fp16 => some 0x7C00 | bf16 => some 0x7F80 | fp32 => some 0x7F800000 | _ => none

/-- The canonical NaN (R113), where the format has a NaN. -/
def nanCode? : Flt → Option Nat
  | e4m3 => some 0x7F | e5m2 => some 0x7E | fp16 => some 0x7E00 | bf16 => some 0x7FC0 | fp32 => some 0x7FC00000
  | _ => none

/-- The exponent of the unit of the subnormals. -/
def emin (f : Flt) : Int := 1 - Int.ofNat f.bias - Int.ofNat f.mbits

/-- The exponent of the largest normal binade (R116). -/
def emax (f : Flt) : Int := Int.ofNat (f.maxCode >>> f.mbits) - Int.ofNat f.bias

/-- The sign bit of a negative value. -/
def signBit (f : Flt) (neg : Bool) : Nat := if neg then 2 ^ (f.width - 1) else 0

/-- The value a code stands for (R100). -/
def decode (f : Flt) (code : Nat) : Num :=
  let neg := bitAt code (f.width - 1)
  let m := code % 2 ^ (f.width - 1)
  if some m = f.infCode? then .inf neg
  else if m > f.maxCode then .nan
  else
    let e := m >>> f.mbits
    let fr := m % 2 ^ f.mbits
    if e = 0 then .fin neg fr f.emin
    else .fin neg (2 ^ f.mbits + fr) (f.emin + Int.ofNat e - 1)

/-- The magnitude code of a rounded magnitude, unbounded above: overflow shows as a code past maxCode. -/
def magCode (f : Flt) (x : Mag) : Nat :=
  if x.mag = 0 then 0
  else
    let u := max (x.exp + Int.ofNat x.mag.log2 - Int.ofNat f.mbits) f.emin
    (u - f.emin).toNat * 2 ^ f.mbits + x.toUnit u

/-- What an infinity or a finite overflow becomes (R115). -/
def overflowCode (f : Flt) (sat neg : Bool) : Nat :=
  if sat then f.signBit neg + f.maxCode
  else
    match f.infCode? with
    | some c => f.signBit neg + c
    | none => (f.nanCode?).getD (f.signBit neg + f.maxCode)

/-- The canonical NaN code; a format without NaN has none and is never asked (R113). -/
def nanCode (f : Flt) : Nat := (f.nanCode?).getD f.maxCode

/-- One rounding of a signed magnitude into the format (R115). -/
def encodeMag (f : Flt) (sat neg : Bool) (x : Mag) : Nat :=
  let c := f.magCode x
  if c > f.maxCode then f.overflowCode sat neg else f.signBit neg + c

/-- One rounding of an exact value into the format (R107, R115). -/
def encode (f : Flt) (sat : Bool) : Num → Nat
  | .nan => f.nanCode
  | .inf neg => f.overflowCode sat neg
  | .fin neg m e => f.encodeMag sat neg ⟨m, e, false⟩

end Flt

/-- rne_fp32 (R107). -/
def rneFp32 (v : Num) : Nat := Flt.fp32.encode false v

/-- Binary32 addition of two codes (R108). -/
def fp32Add (a b : Nat) : Nat := rneFp32 ((Flt.fp32.decode a).add (Flt.fp32.decode b))

/-- Binary32 multiplication of two codes (R114). -/
def fp32Mul (a b : Nat) : Nat := rneFp32 ((Flt.fp32.decode a).mul (Flt.fp32.decode b))

/-! ### SW40 (R140, R141) -/

/-- rne_sw40 of a signed magnitude (R141). -/
def sw40Mag (neg : Bool) (x : Mag) : Num :=
  if x.mag = 0 then .fin neg 0 0
  else
    let l := x.exp + Int.ofNat x.mag.log2
    if l < -126 then .fin neg 0 0
    else
      let u := l - 31
      let q := x.toUnit u
      if u + Int.ofNat q.log2 > 127 then .inf neg else .fin neg q u

/-- rne_sw40 (R141). -/
def rneSw40 : Num → Num
  | .nan => .nan
  | .inf n => .inf n
  | .fin n m e => sw40Mag n ⟨m, e, false⟩

/-- The conversion of a source element into SW40: FP32 and BF16 subnormals become zeros (R142). -/
def toSw40 (f : Flt) (code : Nat) : Num :=
  let v := f.decode code
  match f with
  | .fp32 => v.flush
  | .bf16 => v.flush
  | _ => v

/-- The value of a 40-bit SW40 image (R140). -/
def sw40Decode (x : Nat) : Num :=
  let fr := fld x 0 31
  let e := fld x 31 8
  let neg := bitAt x 39
  if e = 0 then .fin neg 0 0
  else if e = 255 then (if fr = 0 then .inf neg else .nan)
  else .fin neg (2 ^ 31 + fr) (Int.ofNat e - 127 - 31)

/-! ### Format codes (R303) and conversions (R115 to R117) -/

/-- The format codes of R303. -/
inductive EFmt where
  | e4m3 | e5m2 | bf16 | fp16 | fp32 | int8 | int32 | mx8e4m3 | mx8e5m2 | mx6e2m3 | mx6e3m2 | mx4
  deriving DecidableEq, Repr

namespace EFmt

def ofCode? : Nat → Option EFmt
  | 0 => some .e4m3 | 1 => some .e5m2 | 2 => some .bf16 | 3 => some .fp16 | 4 => some .fp32 | 5 => some .int8
  | 6 => some .int32 | 7 => some .mx8e4m3 | 8 => some .mx8e5m2 | 9 => some .mx6e2m3 | 10 => some .mx6e3m2
  | 11 => some .mx4 | _ => none

/-- The floating-point element format, where there is one. -/
def flt? : EFmt → Option Flt
  | e4m3 => some .e4m3 | e5m2 => some .e5m2 | bf16 => some .bf16 | fp16 => some .fp16 | fp32 => some .fp32
  | int8 => none | int32 => none
  | mx8e4m3 => some .e4m3 | mx8e5m2 => some .e5m2 | mx6e2m3 => some .e2m3 | mx6e3m2 => some .e3m2 | mx4 => some .e2m1

def isMx : EFmt → Bool
  | mx8e4m3 => true | mx8e5m2 => true | mx6e2m3 => true | mx6e3m2 => true | mx4 => true | _ => false

/-- Element width in bits in the element plane (R102). -/
def width : EFmt → Nat
  | int8 => 8 | int32 => 32
  | mx8e4m3 => 8 | mx8e5m2 => 8 | mx6e2m3 => 6 | mx6e3m2 => 6 | mx4 => 4
  | e4m3 => 8 | e5m2 => 8 | bf16 => 16 | fp16 => 16 | fp32 => 32

/-- Bytes of a row of n elements in the element plane; MX rows hold whole blocks (R102, R103, R128). -/
def rowBytes (f : EFmt) (n : Nat) : Nat :=
  if f.isMx then (n + 31) / 32 * (4 * f.width) else (n * f.width + 7) / 8

/-- Blocks, and so scale bytes, of a row of n elements (R102). -/
def scaleBytes (f : EFmt) (n : Nat) : Nat := if f.isMx then (n + 31) / 32 else 0

/-- The exact value of an element code, its block scale apart. -/
def value (f : EFmt) (code : Nat) : Num :=
  match f with
  | int8 => Num.ofInt ((BitVec.ofNat 8 code).toInt)
  | int32 => Num.ofInt ((BitVec.ofNat 32 code).toInt)
  | _ => match f.flt? with
    | some g => g.decode code
    | none => .nan

end EFmt

/-- The value of an E8M0 block scale (R100). -/
def e8m0 (x : Nat) : Num := if x = 255 then .nan else Num.pow2 (Int.ofNat x - 127)

/-- A saturating conversion to a two's-complement integer of w bits (R117). -/
def toIntCode (w : Nat) (v : Num) : Nat :=
  let hi : Int := 2 ^ (w - 1) - 1
  let lo : Int := -(2 ^ (w - 1))
  let i : Int := match v with
    | .nan => 0
    | .inf n => if n then lo else hi
    | v => max lo (min hi v.roundInt)
  (BitVec.ofInt w i).toNat

/-- One conversion of an exact value into a format that is not MX (R115, R117). -/
def toCode (f : EFmt) (sat : Bool) (v : Num) : Nat :=
  match f with
  | .int8 => toIntCode 8 v
  | .int32 => toIntCode 32 v
  | _ => match f.flt? with
    | some g => g.encode sat v
    | none => 0

/-- One block of an MX output: the scale code and the element codes (R116). -/
def mxBlock (g : Flt) (vs : List Num) : Nat × List Nat :=
  if vs.any (fun v => v.isNaN || v.isInf) then (255, vs.map fun _ => 0)
  else
    let m := vs.foldl (fun a v => Num.max a v.abs) Num.zero
    if m.isZero then (0, vs.map fun _ => 0)
    else
      let e := max (-127) (min 127 (m.ilog - g.emax))
      ((e + 127).toNat, vs.map fun v => g.encode true (v.shl (-e)))

end Sys2Proof.Machine
end

