-- ==== Sys2Proof/Machine/Flags.lean ====
section
/-! DEFINITION. Status codes (R446), the flags a completion, a fault record and a refusal carry. -/

namespace Sys2Proof.Machine

/-- The status codes of R446. -/
inductive Status where
  | done | doneDegraded | refusedAdmission | badCommand | badAddress | noPermission | limit | memoryError
  | linkLost | peerGone | aborted | deadlockBroken | staleRole | overflowDropped | guaranteeSuspended | version
  deriving DecidableEq, Repr

namespace Status

/-- The 8-bit code (R446). -/
def code : Status → Nat
  | done => 0 | doneDegraded => 1 | refusedAdmission => 2 | badCommand => 3 | badAddress => 4 | noPermission => 5
  | limit => 6 | memoryError => 7 | linkLost => 8 | peerGone => 9 | aborted => 10 | deadlockBroken => 11
  | staleRole => 12 | overflowDropped => 13 | guaranteeSuspended => 14 | version => 15

def ofCode? : Nat → Option Status
  | 0 => some done | 1 => some doneDegraded | 2 => some refusedAdmission | 3 => some badCommand
  | 4 => some badAddress | 5 => some noPermission | 6 => some limit | 7 => some memoryError | 8 => some linkLost
  | 9 => some peerGone | 10 => some aborted | 11 => some deadlockBroken | 12 => some staleRole
  | 13 => some overflowDropped | 14 => some guaranteeSuspended | 15 => some version | _ => none

/-- The work ended with every effect. -/
def isDone : Status → Bool
  | done => true | doneDegraded => true | _ => false

end Status

end Sys2Proof.Machine
end

