-- ==== Sys2Proof/Machine/RealFn.lean ====
section
/-! DEFINITION. Enclosures of real functions, from which the correctly rounded built-ins of R153 and R154 are formed. -/

namespace Sys2Proof.Machine

/-- A closed interval [lo, hi] in units of 2^-p, for a precision p carried beside it. -/
structure Encl where
  lo : Int
  hi : Int
  deriving DecidableEq, Repr

namespace Encl

/-- Division rounded toward minus infinity. -/
def fdiv (a b : Int) : Int := Int.fdiv a b

/-- Division rounded toward plus infinity. -/
def cdiv (a b : Int) : Int := -(Int.fdiv (-a) b)

def ofInt (p : Nat) (i : Int) : Encl := ⟨i * 2 ^ p, i * 2 ^ p⟩

/-- The interval around num / den, for den > 0. -/
def ofRat (p : Nat) (num : Int) (den : Nat) : Encl := ⟨fdiv (num * 2 ^ p) den, cdiv (num * 2 ^ p) den⟩

/-- The interval around the dyadic value m * 2^e. -/
def ofDyadic (p : Nat) (m : Int) (e : Int) : Encl :=
  let k := e + Int.ofNat p
  if k ≥ 0 then ⟨m * 2 ^ k.toNat, m * 2 ^ k.toNat⟩
  else ⟨fdiv m (2 ^ (-k).toNat), cdiv m (2 ^ (-k).toNat)⟩

def ofNum (p : Nat) : Num → Encl
  | .fin n m e => ofDyadic p (if n then -(Int.ofNat m) else Int.ofNat m) e
  | _ => ⟨0, 0⟩

def add (a b : Encl) : Encl := ⟨a.lo + b.lo, a.hi + b.hi⟩
def neg (a : Encl) : Encl := ⟨-a.hi, -a.lo⟩
def sub (a b : Encl) : Encl := a.add b.neg

def mul (p : Nat) (a b : Encl) : Encl :=
  let x1 := a.lo * b.lo
  let x2 := a.lo * b.hi
  let x3 := a.hi * b.lo
  let x4 := a.hi * b.hi
  let lo := min (min x1 x2) (min x3 x4)
  let hi := max (max x1 x2) (max x3 x4)
  ⟨fdiv lo (2 ^ p), cdiv hi (2 ^ p)⟩

/-- The reciprocal of an interval above zero. -/
def inv (p : Nat) (a : Encl) : Encl :=
  if a.lo ≤ 0 then ⟨0, 2 ^ (4 * p)⟩ else ⟨fdiv (2 ^ (2 * p)) a.hi, cdiv (2 ^ (2 * p)) a.lo⟩

/-- Division by a positive integer. -/
def divNat (a : Encl) (n : Nat) : Encl := ⟨fdiv a.lo n, cdiv a.hi n⟩

/-- Times 2^k. -/
def shift (a : Encl) (k : Int) : Encl :=
  if k ≥ 0 then ⟨a.lo * 2 ^ k.toNat, a.hi * 2 ^ k.toNat⟩
  else ⟨fdiv a.lo (2 ^ (-k).toNat), cdiv a.hi (2 ^ (-k).toNat)⟩

/-- The larger magnitude of the two ends. -/
def amp (a : Encl) : Int := max (Int.ofNat a.lo.natAbs) (Int.ofNat a.hi.natAbs)

/-- Widened by r on both sides. -/
def widen (a : Encl) (r : Int) : Encl := ⟨a.lo - r, a.hi + r⟩

/-- A power series by its term rule: `next k t` is term k + 1 from term k. The last term, doubled, bounds the rest. -/
def series (next : Nat → Encl → Encl) : Nat → Nat → Encl → Encl → Encl
  | 0, _, t, acc => acc.widen (2 * t.amp + 1)
  | n + 1, k, t, acc => series next n (k + 1) (next k t) (acc.add t)

/-- A series whose summed term is a further function `out` of the running term. -/
def series2 (next : Nat → Encl → Encl) (out : Nat → Encl → Encl) : Nat → Nat → Encl → Encl → Encl
  | 0, k, t, acc => acc.widen (2 * (out k t).amp + 2)
  | n + 1, k, t, acc => series2 next out n (k + 1) (next k t) (acc.add (out k t))

/-- atanh(1/d) * 2 as an interval, for d >= 2. -/
def twoAtanhInv (p d : Nat) : Encl :=
  let t0 := ofRat p 1 d
  (series2 (fun _ t => t.divNat (d * d)) (fun k t => t.divNat (2 * k + 1)) (p / 2 + 4) 0 t0 ⟨0, 0⟩).shift 1

def ln2 (p : Nat) : Encl := twoAtanhInv p 3

/-- atan(1/d). -/
def atanInv (p d : Nat) : Encl :=
  series2 (fun _ t => (t.divNat (d * d)).neg) (fun k t => t.divNat (2 * k + 1)) (p / 4 + 4) 0 (ofRat p 1 d) ⟨0, 0⟩

/-- pi by Machin's formula. -/
def pi (p : Nat) : Encl :=
  let a := atanInv p 5
  let b := atanInv p 239
  ⟨16 * a.lo - 4 * b.hi, 16 * a.hi - 4 * b.lo⟩

/-- e^r for |r| at most about 1/2. -/
def expSmall (p : Nat) (r : Encl) : Encl :=
  series (fun k t => (mul p t r).divNat (k + 1)) (p / 4 + 16) 0 (ofInt p 1) ⟨0, 0⟩

/-- e^x. -/
def exp (p : Nat) (x : Encl) : Encl :=
  let l := ln2 p
  let n := fdiv (2 * x.lo + l.lo) (2 * l.lo)
  (expSmall p (x.sub ⟨min (n * l.lo) (n * l.hi), max (n * l.lo) (n * l.hi)⟩)).shift n

/-- The natural logarithm of one positive number v * 2^-p. -/
def lnPoint (p : Nat) (v : Nat) : Encl :=
  let k : Int := Int.ofNat v.log2 - Int.ofNat p
  let m := (⟨Int.ofNat v, Int.ofNat v⟩ : Encl).shift (-k)
  let z := mul p (m.sub (ofInt p 1)) (inv p (m.add (ofInt p 1)))
  let z2 := mul p z z
  let s := series2 (fun _ t => mul p t z2) (fun j t => t.divNat (2 * j + 1)) (p / 2 + 4) 0 z ⟨0, 0⟩
  let l := ln2 p
  (s.shift 1).add ⟨min (k * l.lo) (k * l.hi), max (k * l.lo) (k * l.hi)⟩

/-- The natural logarithm of an interval above zero. -/
def ln (p : Nat) (x : Encl) : Encl :=
  if x.lo ≤ 0 then ⟨-(2 ^ (2 * p)), 2 ^ (2 * p)⟩
  else ⟨(lnPoint p x.lo.toNat).lo, (lnPoint p x.hi.toNat).hi⟩

/-- sin of an interval inside about [-1, 1]. -/
def sinSmall (p : Nat) (x : Encl) : Encl :=
  let x2 := mul p x x
  series (fun k t => ((mul p t x2).divNat ((2 * k + 2) * (2 * k + 3))).neg) (p / 4 + 16) 0 x ⟨0, 0⟩

/-- cos of an interval inside about [-1, 1]. -/
def cosSmall (p : Nat) (x : Encl) : Encl :=
  let x2 := mul p x x
  series (fun k t => ((mul p t x2).divNat ((2 * k + 1) * (2 * k + 2))).neg) (p / 4 + 16) 0 (ofInt p 1) ⟨0, 0⟩

/-- The sum over n of (-t)^n / (n! (2n + 1)), for t at most about 100: erf apart from its leading factor. -/
def erfSum (p : Nat) (t : Encl) : Encl :=
  series2 (fun k u => ((mul p u t).divNat (k + 1)).neg) (fun k u => u.divNat (2 * k + 1)) (p + 320) 0 (ofInt p 1) ⟨0, 0⟩

/-- floor of the square root, bit by bit. -/
def isqrtGo : Nat → Nat → Nat → Nat
  | 0, _, r => r
  | b + 1, n, r =>
    let c := r + 2 ^ b
    if c * c ≤ n then isqrtGo b n c else isqrtGo b n r

def isqrt (n : Nat) : Nat := isqrtGo (n.log2 / 2 + 1) n 0

/-- The square root of an interval that is not negative. -/
def sqrt (p : Nat) (x : Encl) : Encl :=
  ⟨Int.ofNat (isqrt (x.lo.toNat * 2 ^ p)), Int.ofNat (isqrt (x.hi.toNat * 2 ^ p)) + 1⟩

/-- The lower end as an exact value, and the upper end. -/
def toNum (p : Nat) (v : Int) : Num := .fin (decide (v < 0)) v.natAbs (-(Int.ofNat p))

end Encl

/-- A rounding of an exact value into codes or other comparable results; the value must be decided by both ends. -/
def decideRound {α : Type} [DecidableEq α] (ρ : Num → α) (encl : Nat → Encl) : Nat → Nat → Option α
  | 0, _ => none
  | fuel + 1, p =>
    let e := encl p
    let a := ρ (Encl.toNum p e.lo)
    let b := ρ (Encl.toNum p e.hi)
    if a = b then some a else decideRound ρ encl fuel (2 * p)

/-- What a function's value is: an exact value, or a real number given by its enclosures. -/
inductive RealVal where
  | exact (v : Num)
  | encl (f : Nat → Encl)

/-- A magnitude far above every format, of the given sign: it overflows in any of them. -/
def hugeNum (neg : Bool) : Num := .fin neg 1 4096

/-- A magnitude far below 2^-126, of the given sign. -/
def tinyNum (neg : Bool) : Num := .fin neg 1 (-4096)

/-- x is above c, for an integer c. -/
def Num.gtInt (x : Num) (c : Int) : Bool := Num.lt (Num.ofInt c) x

/-- x is below c, for an integer c. -/
def Num.ltInt (x : Num) (c : Int) : Bool := Num.lt x (Num.ofInt c)

/-- A value is an integer. -/
def Num.isInteger : Num → Bool
  | .fin _ m e => e ≥ 0 || m % 2 ^ (-e).toNat == 0
  | _ => false

namespace Fn
open Encl

/-- 2^x (slot 0). -/
def exp2 (x : Num) : RealVal :=
  match x with
  | .nan => .exact .nan
  | .inf n => .exact (if n then .zero else .inf false)
  | x =>
    if x.isInteger && !(x.gtInt 300) && !(x.ltInt (-300)) then .exact (Num.pow2 x.floorInt)
    else if x.gtInt 300 then .exact (hugeNum false)
    else if x.ltInt (-300) then .exact (tinyNum false)
    else .encl fun p => Encl.exp p (mul p (ofNum p x) (ln2 p))

/-- e^x (slot 1). -/
def exp (x : Num) : RealVal :=
  match x with
  | .nan => .exact .nan
  | .inf n => .exact (if n then .zero else .inf false)
  | x =>
    if x.isZero then .exact .one
    else if x.gtInt 300 then .exact (hugeNum false)
    else if x.ltInt (-300) then .exact (tinyNum false)
    else .encl fun p => Encl.exp p (ofNum p x)

/-- ln of a finite positive value as an enclosure. -/
def lnNum (p : Nat) (m : Nat) (e : Int) : Encl :=
  let l := ln2 p
  (lnPoint p (m * 2 ^ p)).add ⟨min (e * l.lo) (e * l.hi), max (e * l.lo) (e * l.hi)⟩

/-- m is a power of two. -/
def isPow2 (m : Nat) : Bool := m != 0 && m == 2 ^ m.log2

/-- log2 x (slot 2). -/
def log2 (x : Num) : RealVal :=
  match x with
  | .nan => .exact .nan
  | .inf n => .exact (if n then .nan else .inf false)
  | .fin n m e =>
    if m = 0 then .exact (.inf true)
    else if n then .exact .nan
    else if isPow2 m then .exact (Num.ofInt (Int.ofNat m.log2 + e))
    else .encl fun p => mul p (lnNum p m e) (inv p (ln2 p))

/-- ln x (slot 3). -/
def ln (x : Num) : RealVal :=
  match x with
  | .nan => .exact .nan
  | .inf n => .exact (if n then .nan else .inf false)
  | .fin n m e =>
    if m = 0 then .exact (.inf true)
    else if n then .exact .nan
    else if isPow2 m ∧ Int.ofNat m.log2 + e = 0 then .exact .zero
    else .encl fun p => lnNum p m e

/-- 1/x (slot 4): exact for powers of two. -/
def recip (x : Num) : RealVal :=
  match x with
  | .nan => .exact .nan
  | .inf n => .exact (.fin n 0 0)
  | .fin n m e =>
    if m = 0 then .exact (.inf n)
    else if isPow2 m then .exact (.fin n 1 (-(Int.ofNat m.log2 + e)))
    else .encl fun p =>
      let r := (ofRat p 1 m).shift (-e)
      if n then r.neg else r

/-- The mantissa and even exponent of a positive value: m * 4^k. -/
def evenExp (m : Nat) (e : Int) : Nat × Int := if e % 2 = 0 then (m, e / 2) else (2 * m, (e - 1) / 2)

/-- 1/sqrt x (slot 5). -/
def rsqrt (x : Num) : RealVal :=
  match x with
  | .nan => .exact .nan
  | .inf n => .exact (if n then .nan else .zero)
  | .fin n m e =>
    if m = 0 then .exact (.inf n)
    else if n then .exact .nan
    else
      let (a, k) := evenExp m e
      let s := isqrt a
      if s * s = a ∧ isPow2 s then .exact (Num.pow2 (-(Int.ofNat s.log2) - k))
      else .encl fun p => (Encl.inv p (Encl.sqrt p (ofInt p a))).shift (-k)

/-- sqrt x (slot 6). -/
def sqrt (x : Num) : RealVal :=
  match x with
  | .nan => .exact .nan
  | .inf n => .exact (if n then .nan else .inf false)
  | .fin n m e =>
    if m = 0 then .exact (.fin n 0 0)
    else if n then .exact .nan
    else
      let (a, k) := evenExp m e
      let s := isqrt a
      if s * s = a then .exact (.fin false s k)
      else .encl fun p => (Encl.sqrt p (ofInt p a)).shift k

/-- 1/(1 + e^-x) as an enclosure. -/
def sigEncl (p : Nat) (x : Num) : Encl :=
  if x.isNeg then
    let e := Encl.exp p (ofNum p x)
    mul p e (inv p (e.add (ofInt p 1)))
  else inv p ((Encl.exp p (ofNum p x.neg)).add (ofInt p 1))

/-- [c (1 - 2^-200), c]: a value just below c in magnitude. -/
def justBelow (c : Num) : RealVal :=
  .exact (c.mul (Num.add .one (.fin true 1 (-200))))

/-- 1/(1 + e^-x) (slot 7). -/
def sigmoid (x : Num) : RealVal :=
  match x with
  | .nan => .exact .nan
  | .inf n => .exact (if n then .zero else .one)
  | x =>
    if x.isZero then .exact (Num.pow2 (-1))
    else if x.gtInt 300 then justBelow .one
    else if x.ltInt (-300) then .exact (tinyNum false)
    else .encl fun p => sigEncl p x

/-- tanh x as an enclosure. -/
def tanhEncl (p : Nat) (x : Encl) : Encl :=
  let e := Encl.exp p (x.shift 1)
  (ofInt p 1).sub ((inv p (e.add (ofInt p 1))).shift 1)

/-- tanh x (slot 8). -/
def tanh (x : Num) : RealVal :=
  match x with
  | .nan => .exact .nan
  | .inf n => .exact (.fin n 1 0)
  | x =>
    if x.isZero then .exact x
    else if x.gtInt 300 || x.ltInt (-300) then justBelow (.fin x.isNeg 1 0)
    else .encl fun p => tanhEncl p (ofNum p x)

/-- x/(1 + e^-x) (slot 9). -/
def silu (x : Num) : RealVal :=
  match x with
  | .nan => .exact .nan
  | .inf n => .exact (if n then .fin true 0 0 else .inf false)
  | x =>
    if x.isZero then .exact .zero
    else if x.gtInt 300 then justBelow x
    else if x.ltInt (-300) then .exact (tinyNum true)
    else .encl fun p => mul p (ofNum p x) (sigEncl p x)

/-- 0.5 x (1 + tanh(sqrt(2/pi) (x + 0.044715 x^3))), constants exact (slot 10). -/
def geluTanh (x : Num) : RealVal :=
  match x with
  | .nan => .exact .nan
  | .inf n => .exact (if n then .fin true 0 0 else .inf false)
  | x =>
    if x.isZero then .exact .zero
    else if x.gtInt 12 then justBelow x
    else if x.ltInt (-12) then .exact (tinyNum true)
    else .encl fun p =>
      let v := ofNum p x
      let c := Encl.sqrt p (mul p (ofInt p 2) (inv p (pi p)))
      let x3 := mul p v (mul p v v)
      let w := mul p c (v.add (mul p (ofRat p 44715 1000000) x3))
      -- (1 + tanh w) / 2 = 1 / (1 + e^(-2w)), formed without cancellation
      let e := Encl.exp p ((w.neg).shift 1)
      mul p v (inv p (e.add (ofInt p 1)))

/-- 0.5 x (1 + erf(x / sqrt 2)) (slot 11). -/
def geluErf (x : Num) : RealVal :=
  match x with
  | .nan => .exact .nan
  | .inf n => .exact (if n then .fin true 0 0 else .inf false)
  | x =>
    if x.isZero then .exact .zero
    else if x.gtInt 14 then justBelow x
    else if x.ltInt (-14) then .exact (tinyNum true)
    else .encl fun p =>
      let v := ofNum p x
      let s := erfSum p ((mul p v v).shift (-1))
      let c := Encl.sqrt p (mul p (ofInt p 2) (inv p (pi p)))
      let er := mul p (mul p c v) s
      (mul p v (er.add (ofInt p 1))).shift (-1)

/-- ln(1 + e^x) as an enclosure. -/
def softplusEncl (p : Nat) (x : Num) : Encl := Encl.ln p ((Encl.exp p (ofNum p x)).add (ofInt p 1))

/-- ln(1 + e^x) (slot 12). -/
def softplus (x : Num) : RealVal :=
  match x with
  | .nan => .exact .nan
  | .inf n => .exact (if n then .zero else .inf false)
  | x =>
    if x.gtInt 300 then .exact (x.mul (Num.add .one (.fin false 1 (-200))))
    else if x.ltInt (-300) then .exact (tinyNum false)
    else .encl fun p => softplusEncl p x

/-- PARAM tanh(x / PARAM) (slot 13). -/
def softcap (param x : Num) : RealVal :=
  match param, x with
  | _, .nan => .exact .nan
  | .fin false m e, x =>
    if m = 0 then .exact .nan
    else
      match x with
      | .inf n => .exact (.fin n m e)
      | .fin nx mx ex =>
        if mx = 0 then .exact x
        else
          let d := Num.sub (.fin false mx ex) (Num.mul (Num.ofNat 300) (.fin false m e))
          if !d.isNeg then justBelow (.fin nx m e)
          else .encl fun p =>
            let sh := Int.ofNat p + ex - e
            let r : Encl :=
              if sh ≥ 0 then ofRat 0 (Int.ofNat (mx * 2 ^ sh.toNat)) m
              else (ofRat 0 (Int.ofNat mx) (m * 2 ^ (-sh).toNat))
            let t := tanhEncl p r
            let q : Encl := (⟨t.lo * Int.ofNat m, t.hi * Int.ofNat m⟩ : Encl).shift e
            if nx then q.neg else q
      | .nan => .exact .nan
  | _, _ => .exact .nan

/-- sin and cos of 2 pi x for x in turns given exactly; `which` picks the quarter offset (0 sin, 1 cos). -/
def sincosTurns (which : Int) (x : Num) : RealVal :=
  match x with
  | .fin .. =>
    let m := (x.shl 2).roundInt
    let r := x.sub (Num.shl (Num.ofInt m) (-2))
    let q := (m + which) % 4
    let neg := q ≥ 2
    if r.isZero then
      .exact (if q % 2 = 0 then (if x.isZero && which == 0 then x else .zero) else .fin (decide neg) 1 0)
    else .encl fun p =>
      let a := (mul p (ofNum p r) (pi p)).shift 1
      let v := if q % 2 = 0 then sinSmall p a else cosSmall p a
      if neg then v.neg else v
  | _ => .exact .nan

/-- sin 2 pi x (slot 14). -/
def sinTurns (x : Num) : RealVal := sincosTurns 0 x

/-- cos 2 pi x (slot 15). -/
def cosTurns (x : Num) : RealVal := sincosTurns 1 x

/-- erf x (slot 18). -/
def erf (x : Num) : RealVal :=
  match x with
  | .nan => .exact .nan
  | .inf n => .exact (.fin n 1 0)
  | x =>
    if x.isZero then .exact x
    else if x.gtInt 10 || x.ltInt (-10) then justBelow (.fin x.isNeg 1 0)
    else .encl fun p =>
      let v := ofNum p x
      let s := erfSum p (mul p v v)
      let c := inv p (Encl.sqrt p (pi p))
      (mul p (mul p c v) s).shift 1

/-- -ln(1 + e^-x) (slot 19). -/
def logsigmoid (x : Num) : RealVal :=
  match x with
  | .nan => .exact .nan
  | .inf n => .exact (if n then .inf true else .fin true 0 0)
  | x =>
    if x.ltInt (-300) then .exact (x.mul (Num.add .one (.fin false 1 (-200))))
    else if x.gtInt 300 then .exact (tinyNum true)
    else .encl fun p => (softplusEncl p x.neg).neg

/-- e^x - 1 (slot 20). -/
def expm1 (x : Num) : RealVal :=
  match x with
  | .nan => .exact .nan
  | .inf n => .exact (if n then .fin true 1 0 else .inf false)
  | x =>
    if x.isZero then .exact .zero
    else if x.gtInt 300 then .exact (hugeNum false)
    else if x.ltInt (-300) then justBelow (.fin true 1 0)
    else .encl fun p => (Encl.exp p (ofNum p x)).sub (ofInt p 1)

/-- ln(1 + x) (slot 21). -/
def log1p (x : Num) : RealVal :=
  match x with
  | .nan => .exact .nan
  | .inf n => .exact (if n then .nan else .inf false)
  | x =>
    if x.isZero then .exact .zero
    else
      match Num.add .one x with
      | .fin n m e =>
        if m = 0 then .exact (.inf true)
        else if n then .exact .nan
        else .encl fun p => lnNum p m e
      | v => .exact v

/-- x^2 (slot 22). -/
def square (x : Num) : RealVal := .exact (x.mul x)

end Fn

/-- The real value of built-in slot `slot` at x, with PARAM (R153). Slot 16 is not a function of one element. -/
def builtin (slot : Nat) (param x : Num) : RealVal :=
  match slot with
  | 0 => Fn.exp2 x | 1 => Fn.exp x | 2 => Fn.log2 x | 3 => Fn.ln x | 4 => Fn.recip x | 5 => Fn.rsqrt x
  | 6 => Fn.sqrt x | 7 => Fn.sigmoid x | 8 => Fn.tanh x | 9 => Fn.silu x | 10 => Fn.geluTanh x
  | 11 => Fn.geluErf x | 12 => Fn.softplus x | 13 => Fn.softcap param x | 14 => Fn.sinTurns x
  | 15 => Fn.cosTurns x | 17 => .exact x | 18 => Fn.erf x | 19 => Fn.logsigmoid x | 20 => Fn.expm1 x
  | 21 => Fn.log1p x | 22 => Fn.square x | 23 => .exact .zero | _ => .exact x

/-- The starting precision and the number of doublings of an evaluation. -/
def evalPrec : Nat := 96
def evalFuel : Nat := 10

/-- A rounding ρ of a real value; where the enclosures do not decide it in the model's fuel, a free value. -/
def RealVal.roundCode (ρ : Num → Nat) (key : Nat) : RealVal → Nat
  | .exact v => ρ v
  | .encl f => (decideRound ρ f evalFuel evalPrec).getD (Config.freeNat .fuel key 0)

/-- A rounding into SW40 of a real value. -/
def RealVal.roundSw (key : Nat) : RealVal → Num
  | .exact v => rneSw40 v
  | .encl f => (decideRound rneSw40 f evalFuel evalPrec).getD (sw40Decode (Config.freeNat .fuel key 1))

/-- The rounding of R154 and R156 into a format: below 2^-126 a signed zero, else one rounding under R115. -/
def flushEncode (g : Flt) (sat : Bool) (v : Num) : Nat :=
  if v.tiny then g.encode sat v.signedZero else g.encode sat v

end Sys2Proof.Machine
end

