-- ==== Sys2Proof/Machine/Operands.lean ====
section
/-! DEFINITION. Operand forms: how elements, rows, scale planes and vectors lie in a scratchpad, and what hulls they have
(R40, R41, R100, R102, R103, R120, R121, R123, R128, R175, R310). -/

namespace Sys2Proof.Machine

/-- A reader of bytes: byte address to byte value. -/
abbrev Rd := Nat → Nat

/-- A little-endian number of n bytes at a byte address (R7). -/
def rdLE (rd : Rd) (a : Nat) : Nat → Nat
  | 0 => 0
  | n + 1 => rd a + 256 * rdLE rd (a + 1) n

/-- Bits [pos + w - 1 : pos] counted from a byte address (R7, R102). -/
def rdBits (rd : Rd) (a pos w : Nat) : Nat :=
  (rdLE rd (a + pos / 8) ((pos % 8 + w + 7) / 8) >>> (pos % 8)) % 2 ^ w

/-- A 32-bit word at a word address. -/
def rdWord (rd : Rd) (w : Nat) : Nat := rdLE rd (4 * w) 4

/-- The code of element i of a row that starts at word address `base` (R102, R120). -/
def elemCode (rd : Rd) (f : EFmt) (base i : Nat) : Nat := rdBits rd (4 * base) (f.width * i) f.width

/-- The exact value of element i of a row, its block scale included (R102, R106). -/
def elemVal (rd : Rd) (f : EFmt) (base sbase i : Nat) : Num :=
  let v := f.value (elemCode rd f base i)
  if f.isMx then v.mul (e8m0 (rd (4 * sbase + i / 32))) else v

/-- Codes of w bits packed from the lowest bit up (R102). -/
def packCodes (w : Nat) : List Nat → Nat
  | [] => 0
  | c :: cs => c % 2 ^ w + 2 ^ w * packCodes w cs

/-- n words of a number, the lowest first. -/
def toWords (v : Nat) : Nat → List Nat
  | 0 => []
  | n + 1 => v % 2 ^ 32 :: toWords (v / 2 ^ 32) n

/-- Word writes at consecutive word addresses. -/
def wordsAt (base : Nat) : List Nat → List (Nat × Nat)
  | [] => []
  | w :: ws => (base, w) :: wordsAt (base + 1) ws

/-- The word writes of one packed row of codes; the last word is completed with zero bytes (R70, R128). -/
def packRow (f : EFmt) (base : Nat) (codes : List Nat) : List (Nat × Nat) :=
  wordsAt base (toWords (packCodes f.width codes) ((f.rowBytes codes.length + 3) / 4))

/-- The word writes of one row of scale bytes. -/
def packScales (base : Nat) (codes : List Nat) : List (Nat × Nat) :=
  wordsAt base (toWords (packCodes 8 codes) ((codes.length + 3) / 4))

/-- Consecutive runs of n elements; the last may be shorter. -/
def chunksGo {α : Type} (n : Nat) : Nat → List α → List (List α)
  | 0, _ => []
  | fuel + 1, l => if l.isEmpty then [] else l.take n :: chunksGo n fuel (l.drop n)

def chunks {α : Type} (n : Nat) (l : List α) : List (List α) := chunksGo n l.length l

/-- One output row of exact values in a format, scales included: element writes and scale writes (R115, R116, R128). -/
def outRow (f : EFmt) (sat : Bool) (base sbase : Nat) (vs : List Num) : List (Nat × Nat) :=
  if f.isMx then
    match f.flt? with
    | some g =>
      let bs := (chunks 32 vs).map (mxBlock g)
      packRow f base (bs.flatMap (·.2)) ++ packScales sbase (bs.map (·.1))
    | none => []
  else packRow f base (vs.map (toCode f sat))

/-! ### Hulls (R41) -/

/-- A range of lines, first and last inclusive; none is the empty hull. -/
abbrev Hull := Option (Nat × Nat)

/-- The last word address of the scratchpad (R32). -/
def lastWord : Nat := 0xFFFFF

/-- The hull of `rows` rows of `bytes` bytes at `base`, `stride` words apart (R41, R121). -/
def rowsHull (base stride rows bytes : Nat) : Hull :=
  if rows = 0 ∨ bytes = 0 then none
  else some (base / 8, (base + (rows - 1) * stride + (bytes + 3) / 4 - 1) / 8)

/-- A hull ends at or below the last line (R121). -/
def hullOk : Hull → Bool
  | none => true
  | some (_, l) => l ≤ lastWord / 8

/-- Two hulls share a line (R123). -/
def hullMeet : Hull → Hull → Bool
  | some (a, b), some (c, d) => a ≤ d && c ≤ b
  | _, _ => false

/-- The hull of two parts taken as one operand. -/
def hullJoin : Hull → Hull → Hull
  | none, h => h
  | h, none => h
  | some (a, b), some (c, d) => some (min a c, max b d)

/-- Word w lies in row storage: `rows` rows of `bytes` bytes, `stride` words apart. -/
def rowsHas (base stride rows bytes w : Nat) : Bool :=
  (List.range rows).any fun r => base + r * stride ≤ w && w < base + r * stride + (bytes + 3) / 4

/-- A word address is line-aligned. -/
def lineAligned (w : Nat) : Bool := w % 8 == 0

/-- A 32-bit effective field value: immediate plus selected value (R302). -/
def eff (imm sel : Nat) : Nat := (imm + sel) % 2 ^ 32

end Sys2Proof.Machine
end

