-- ==== Sys2Proof/Machine/Mxe.lean ====
section
/-! DEFINITION. The matrix engine: slices, accumulation, output conversion, and one MMA problem with its checks
(R103 to R137, R304 to R308). -/

namespace Sys2Proof.Machine

/-- The accumulation class of an operand pair (R104). -/
inductive MClass where
  | narrow | integer | wide
  deriving DecidableEq, Repr

/-- The class of a pair of formats; none for a refused pair (R104). -/
def mclass (a b : EFmt) : Option MClass :=
  let narrowFmt (f : EFmt) : Bool := f.isMx || f == .e4m3 || f == .e5m2
  if narrowFmt a && narrowFmt b then some .narrow
  else if a == .int8 && b == .int8 then some .integer
  else if a == b && (a == .bf16 || a == .fp16) then some .wide
  else none

/-- Slice length of a class (R104). -/
def MClass.slice : MClass → Nat
  | .narrow => 64 | .integer => 1 | .wide => 16

/-- The exact sum of a slice's products, special values by R112; an exact zero is +0 (R106, R107, R112). -/
def sumExact (ps : List Num) : Num := (ps.foldl Num.add Num.zero).posZero

/-- A finite value truncated toward zero to a multiple of 2^u (R110). -/
def truncTo (u : Int) : Num → Num
  | .fin n m e => if e ≥ u then .fin n m e else .fin n (m >>> (u - e).toNat) u
  | v => v

/-- The window sum of a wide slice before its rounding (R110, R112). -/
def sumWindow (ps : List Num) : Num :=
  if ps.all Num.isFin then
    match ps.filter (fun v => !v.isZero) with
    | [] => .zero
    | v :: vs =>
      let e := vs.foldl (fun a x => max a x.ilog) v.ilog
      sumExact ((v :: vs).map (truncTo (e - 58)))
  else sumExact ps

/-- The slice total (R107, R110, R112). -/
def sliceTotal (c : MClass) (ps : List Num) : Nat :=
  match c with
  | .wide => rneFp32 (sumWindow ps)
  | _ => rneFp32 (sumExact ps)

/-- The FP32 accumulator over the positions in order; `none` is an excluded position (R108, R111). -/
def accumulate (c : MClass) (init : Nat) (ps : List (Option Num)) : Nat :=
  let start := rneFp32 (Flt.fp32.decode init)
  (chunks c.slice ps).foldl (fun acc s => fp32Add acc (sliceTotal c (s.filterMap id))) start

/-- The INT32 accumulator modulo 2^32 (R109). -/
def accumulateInt (init : Nat) (ps : List Num) : Nat :=
  (BitVec.ofInt 32 (ps.foldl (fun a p => a + p.floorInt) (Int.ofNat init))).toNat

/-- One matrix problem: the fields an MMA or an MMAP descriptor gives (R120, R133, R305, R306). -/
structure MProb where
  aBase : Nat
  bBase : Nat
  cBase : Nat
  iBase : Nat
  asBase : Nat
  bsBase : Nat
  csBase : Nat
  aStride : Nat
  bStride : Nat
  cStride : Nat
  iStride : Nat
  asStride : Nat
  bsStride : Nat
  csStride : Nat
  m : Nat
  n : Nat
  k : Nat
  aFmt : EFmt
  bFmt : EFmt
  cFmt : EFmt
  outSat : Bool
  acc : Bool
  scaleEn : Bool
  oscale : Nat
  deriving DecidableEq, Repr

/-- Why an instruction's fields are refused: the two statuses of R124. -/
inductive FieldErr where
  | badCommand | badAddress
  deriving DecidableEq, Repr

namespace MProb

/-- The output format is allowed for the class (R114, R305). -/
def outFmtOk (c : MClass) (p : MProb) : Bool :=
  match p.cFmt with
  | .int8 => false
  | .int32 => c == .integer && !p.scaleEn
  | _ => true

/-- Hulls of the element plane and of the scale plane of A; empty at K = 0 (R129). -/
def hullAElem (p : MProb) : Hull := if p.n = 0 then none else rowsHull p.aBase (8 * p.aStride) p.m (p.aFmt.rowBytes p.k)
def hullAScale (p : MProb) : Hull := if p.n = 0 then none else rowsHull p.asBase p.asStride p.m (p.aFmt.scaleBytes p.k)

def hullBElem (p : MProb) : Hull := if p.m = 0 then none else rowsHull p.bBase (8 * p.bStride) p.n (p.bFmt.rowBytes p.k)
def hullBScale (p : MProb) : Hull := if p.m = 0 then none else rowsHull p.bsBase p.bsStride p.n (p.bFmt.scaleBytes p.k)

/-- Hull of A, its scale plane included (R41, R307). -/
def hullA (p : MProb) : Hull := hullJoin p.hullAElem p.hullAScale

def hullB (p : MProb) : Hull := hullJoin p.hullBElem p.hullBScale

def hullCElem (p : MProb) : Hull := rowsHull p.cBase (8 * p.cStride) p.m (p.cFmt.rowBytes p.n)
def hullCScale (p : MProb) : Hull := rowsHull p.csBase p.csStride p.m (p.cFmt.scaleBytes p.n)
def hullC (p : MProb) : Hull := hullJoin p.hullCElem p.hullCScale
def hullI (p : MProb) : Hull := if p.acc then rowsHull p.iBase (8 * p.iStride) p.m (4 * p.n) else none

/-- A plane of C overlaps one of two planes: each plane counts with its own hull (R123). -/
def meetsC (p : MProb) (a b : Hull) : Bool :=
  hullMeet p.hullCElem a || hullMeet p.hullCElem b || hullMeet p.hullCScale a || hullMeet p.hullCScale b

/-- init and C are one operand updated in place (R123). -/
def inPlace (p : MProb) : Bool :=
  p.acc && p.iBase == p.cBase && p.iStride == p.cStride && (p.cFmt == .fp32 || p.cFmt == .int32)

/-- The field checks of R104, R120 to R125, BAD_COMMAND before BAD_ADDRESS. The flags say which of A, B, C and init are
known: at load a check is made when every field it involves is constant, at issue all of them are (R299). -/
def checkK (ka kb kc ki : Bool) (p : MProb) : Option FieldErr :=
  match mclass p.aFmt p.bFmt with
  | none => some .badCommand
  | some c =>
    if p.m > 128 || p.n > 256 || p.k > 8192 || !p.outFmtOk c then some .badCommand
    else if (ka && !lineAligned p.aBase) || (kb && !lineAligned p.bBase) || (kc && !lineAligned p.cBase)
        || (ki && p.acc && !lineAligned p.iBase) then some .badAddress
    else if (ka && p.aBase > lastWord) || (kb && p.bBase > lastWord) || (kc && p.cBase > lastWord)
        || (ki && p.acc && p.iBase > lastWord) || (ka && p.aFmt.isMx && p.asBase > lastWord)
        || (kb && p.bFmt.isMx && p.bsBase > lastWord) || (kc && p.cFmt.isMx && p.csBase > lastWord) then some .badAddress
    else if p.m > 1 && (8 * p.cStride * 4 < p.cFmt.rowBytes p.n
        || (p.cFmt.isMx && p.csStride < (p.cFmt.scaleBytes p.n + 3) / 4)) then some .badAddress
    else if (ka && !hullOk p.hullA) || (kb && !hullOk p.hullB) || (kc && !hullOk p.hullC) || (ki && !hullOk p.hullI) then
      some .badAddress
    else if (kc && ka && p.meetsC p.hullAElem p.hullAScale) || (kc && kb && p.meetsC p.hullBElem p.hullBScale)
        || (kc && hullMeet p.hullCElem p.hullCScale) || (kc && ki && p.meetsC p.hullI none && !p.inPlace) then some .badAddress
    else none

-- DEDUCED, unsafe: log 15.
/-- The checks at issue, against the effective values of every field. -/
def check (p : MProb) : Option FieldErr := p.checkK true true true true

/-- The products of output element (r, c), K position by K position (R106, R110). -/
def products (rd : Rd) (p : MProb) (r c : Nat) : List Num :=
  (List.range p.k).map fun k =>
    (elemVal rd p.aFmt (p.aBase + 8 * p.aStride * r) (p.asBase + p.asStride * r) k).mul
      (elemVal rd p.bFmt (p.bBase + 8 * p.bStride * c) (p.bsBase + p.bsStride * c) k)

/-- The final value of output element (r, c) before its conversion (R108, R109, R114). -/
def outVal (rd : Rd) (p : MProb) (r c : Nat) : Num :=
  let init := if p.acc then rdWord rd (p.iBase + 8 * p.iStride * r + c) else 0
  match mclass p.aFmt p.bFmt with
  | some .integer =>
    let a := accumulateInt init (products rd p r c)
    if p.cFmt == .int32 then EFmt.int32.value a
    else
      let f := rneFp32 (EFmt.int32.value a)
      Flt.fp32.decode (if p.scaleEn then fp32Mul f p.oscale else f)
  | some cl =>
    let a := accumulate cl init ((products rd p r c).map some)
    Flt.fp32.decode (if p.scaleEn then fp32Mul a p.oscale else a)
  | none => .nan

/-- The words an MMA writes (R114 to R116, R128, R129). -/
def writes (rd : Rd) (p : MProb) : List (Nat × Nat) :=
  if p.n = 0 then []
  else (List.range p.m).flatMap fun r =>
    outRow p.cFmt p.outSat (p.cBase + 8 * p.cStride * r) (p.csBase + p.csStride * r)
      ((List.range p.n).map (outVal rd p r))

/-- Word w holds an element or a contributing scale byte that the problem reads (R126, R127). -/
def reads (p : MProb) (w : Nat) : Bool :=
  p.m > 0 && p.n > 0 &&
  (rowsHas p.aBase (8 * p.aStride) p.m ((p.aFmt.width * p.k + 7) / 8) w
    || rowsHas p.bBase (8 * p.bStride) p.n ((p.bFmt.width * p.k + 7) / 8) w
    || rowsHas p.asBase p.asStride p.m (p.aFmt.scaleBytes p.k) w
    || rowsHas p.bsBase p.bsStride p.n (p.bFmt.scaleBytes p.k) w
    || (p.acc && rowsHas p.iBase (8 * p.iStride) p.m (4 * p.n) w))

end MProb

/-- A matrix shape entry, with the fields an MMA's word gives (R305, R306). -/
def mprobOf (sh word : Nat) (aSel bSel cSel iSel : Nat) : Option MProb :=
  match EFmt.ofCode? (fld sh 147 4), EFmt.ofCode? (fld sh 151 4), EFmt.ofCode? (fld sh 155 4) with
  | some fa, some fb, some fc =>
    let acc := bitAt word 14
    some {
      aBase := eff (fld word 16 20) aSel, bBase := eff (fld word 36 20) bSel, cBase := eff (fld word 56 20) cSel
      iBase := if acc then eff (fld word 76 20) iSel else 0
      asBase := if fa.isMx then eff (fld sh 193 20) aSel else 0
      bsBase := if fb.isMx then eff (fld sh 213 20) bSel else 0
      csBase := if fc.isMx then eff (fld sh 233 20) cSel else 0
      aStride := fld sh 0 17, bStride := fld sh 17 17, cStride := fld sh 34 17, iStride := fld sh 51 17
      asStride := fld sh 68 16, bsStride := fld sh 84 16, csStride := fld sh 100 16
      m := fld sh 116 8, n := fld sh 124 9, k := fld sh 133 14
      aFmt := fa, bFmt := fb, cFmt := fc
      outSat := bitAt sh 159, acc := acc, scaleEn := bitAt sh 192, oscale := fld sh 160 32 }
  | _, _, _ => none

/-- What one MMAP gives every problem (R132, R308). -/
structure MapSpec where
  list : Nat
  count : Nat
  aFmt : EFmt
  bFmt : EFmt
  cFmt : EFmt
  outSat : Bool
  src : Nat × Nat
  dst : Nat × Nat
  deriving DecidableEq, Repr

/-- Lines a to b are covered by the ranges, walked range by range. -/
def coverGo (rs : List (Nat × Nat)) : Nat → Nat → Nat → Bool
  | 0, a, b => decide (a > b)
  | f + 1, a, b =>
    decide (a > b) ||
      match rs.find? (fun r => decide (r.1 ≤ a) && decide (a ≤ r.2)) with
      | some r => coverGo rs f (r.2 + 1) b
      | none => false

/-- A hull lies inside a union of line ranges (R134). -/
def hullIn : Hull → List (Nat × Nat) → Bool
  | none, _ => true
  | some (a, b), rs => coverGo rs (rs.length + 1) a b

/-- The problem a 512-bit descriptor names under the shared fields (R133). -/
def mprobOfDesc (s : MapSpec) (d : Nat) : MProb :=
  { aBase := fld d 0 20, bBase := fld d 32 20, cBase := fld d 64 20, iBase := fld d 96 20
    asBase := fld d 128 20, bsBase := fld d 160 20, csBase := fld d 192 20
    aStride := fld d 224 17, bStride := fld d 256 17, cStride := fld d 288 17, iStride := fld d 320 17
    asStride := fld d 352 16, bsStride := fld d 368 16, csStride := fld d 384 16
    m := fld d 416 8, n := fld d 424 9, k := fld d 433 14
    aFmt := s.aFmt, bFmt := s.bFmt, cFmt := s.cFmt
    outSat := s.outSat, acc := bitAt d 480, scaleEn := bitAt d 481, oscale := fld d 448 32 }

/-- The reserved and zero-when-unused fields of a descriptor (R133). -/
def descReserved (s : MapSpec) (d : Nat) : Bool :=
  fld d 20 12 == 0 && fld d 52 12 == 0 && fld d 84 12 == 0 && fld d 116 12 == 0 && fld d 148 12 == 0
    && fld d 180 12 == 0 && fld d 212 12 == 0 && fld d 241 15 == 0 && fld d 273 15 == 0 && fld d 305 15 == 0
    && fld d 337 15 == 0 && fld d 400 16 == 0 && fld d 447 1 == 0 && fld d 482 14 == 0
    && (s.aFmt.isMx || (fld d 128 20 == 0 && fld d 352 16 == 0))
    && (s.bFmt.isMx || (fld d 160 20 == 0 && fld d 368 16 == 0))
    && (s.cFmt.isMx || (fld d 192 20 == 0 && fld d 384 16 == 0))
    && (bitAt d 480 || (fld d 96 20 == 0 && fld d 320 17 == 0))
    && (bitAt d 481 || fld d 448 32 == 0)

-- DEDUCED, unsafe: log 16.
/-- The check of one descriptor (R137). -/
def mapCheck (s : MapSpec) (d : Nat) : Option FieldErr :=
  if !descReserved s d then some .badCommand
  else
    let p := mprobOfDesc s d
    match p.check with
    | some e => some e
    | none =>
      if [p.hullAElem, p.hullAScale, p.hullBElem, p.hullBScale].all (fun h => hullIn h [s.src, s.dst])
          && hullIn p.hullC [s.dst] && hullIn p.hullI [s.dst]
      then none else some .badAddress

end Sys2Proof.Machine
end

