-- ==== Sys2Proof/Machine/Sfu.lean ====
section
/-! DEFINITION. The special-function unit: picots, their load checks and steps, the built-ins, the TAMIO mode, one SFN
element, and the rotary pair (R140 to R168). -/

namespace Sys2Proof.Machine

/-- Lemoajo's generation code (R298). -/
def genCode : Nat := 0x0002

/-! ### Picots -/

/-- A picot as its image gives it: steps and constants (R150). -/
structure Picot where
  steps : List Nat
  consts : List Nat
  deriving DecidableEq, Repr

/-- The state of one lane (R143). -/
structure Lane where
  x : Num
  w0 : Num
  w1 : Num
  w2 : Num
  w3 : Num
  n : Int
  f : Bool
  deriving DecidableEq, Repr

namespace Lane

def start (x : Num) : Lane := ⟨x, .zero, .zero, .zero, .zero, 0, false⟩

/-- Operand selector codes (R145). -/
def sel (l : Lane) (param : Num) (ks : List Num) (c : Nat) : Num :=
  match c with
  | 0 => l.x | 1 => l.w0 | 2 => l.w1 | 3 => l.w2 | 4 => l.w3 | 5 => .zero | 6 => .one | 7 => param
  | _ => ks.getD (c - 8) .zero

/-- A write of a working register (R144). -/
def set (l : Lane) (d : Nat) (v : Num) : Lane :=
  match d with
  | 1 => { l with w0 := v } | 2 => { l with w1 := v } | 3 => { l with w2 := v } | 4 => { l with w3 := v }
  | _ => l

/-- N is clamped to 2^30 in magnitude whenever a step sets it (R148). -/
def clampN (i : Int) : Int := max (-(2 ^ 30)) (min (2 ^ 30) i)

def setN (l : Lane) (i : Int) : Lane := { l with n := clampN i }

end Lane

/-- Rounded to 8 significant bits with roundTiesToEven (RCPSEED, R146). -/
def round8 : Num → Num
  | .fin n m e =>
    if m = 0 then .fin n 0 0
    else
      let u := e + Int.ofNat m.log2 - 7
      .fin n (Mag.toUnit ⟨m, e, false⟩ u) u
  | v => v

/-- The nearest integer to a real value under its enclosures, clamped (RED_LN2, R146). -/
def RealVal.roundClamp (key : Nat) : RealVal → Int
  | .exact v => Lane.clampN v.roundInt
  | .encl f => (decideRound (fun v => Lane.clampN v.roundInt) f evalFuel evalPrec).getD (Int.ofNat (Config.freeNat .fuel key 2))

/-- RED_LN2 (R146, R147): N and the reduced argument. -/
def redLn2 (a : Num) : Int × Num :=
  match a with
  | .fin _ m _ =>
    if m = 0 then (0, a)
    else
      let n := (RealVal.encl fun p => Encl.mul p (Encl.ofNum p a) (Encl.inv p (Encl.ln2 p))).roundClamp m
      if n = 0 then (0, a)
      else
        (n, (RealVal.encl fun p =>
          let l := Encl.ln2 p
          (Encl.ofNum p a).sub ⟨min (n * l.lo) (n * l.hi), max (n * l.lo) (n * l.hi)⟩).roundSw m)
  | v => (0, v)

/-- HORNER from the highest coefficient down (R146). -/
def horner (a : Num) (ks : List Num) (k : Nat) : Nat → Num → Num
  | 0, acc => acc
  | i + 1, acc => horner a ks k i (rneSw40 (Num.fma acc a (ks.getD (k + i) .zero)))

/-- EXPEXT (R146, R147). -/
def expExt (low : Nat) (a : Num) : Int × Num :=
  match a with
  | .fin _ m _ =>
    if m = 0 then (0, a)
    else
      let n := a.ilog
      let d := a.shl (-n)
      if low % 2 = 1 ∧ !(Num.lt (d.mul d) (Num.ofNat 2)) then (n + 1, d.shl (-1)) else (n, d)
  | v => (0, v)

/-- RCPSEED (R146, R147). -/
def rcpSeed (low : Nat) (a : Num) : Num :=
  let r := if low = 0 then Fn.recip a else Fn.rsqrt a
  match r with
  | .exact v => rneSw40 (round8 v)
  | .encl f => (decideRound (fun v => rneSw40 (round8 v)) f evalFuel evalPrec).getD .nan

/-- NEWTON (R146, R147). -/
def newton (low : Nat) (a y : Num) : Num :=
  if a.isZero || a.isInf || a.isNaN || y.isZero || y.isInf then y
  else if low = 0 then
    let e := rneSw40 (Num.fma a.neg y .one)
    rneSw40 (Num.fma y e y)
  else
    let h := rneSw40 (a.mul y)
    let e := rneSw40 (Num.fma h.neg y .one)
    rneSw40 (Num.fma (y.shl (-1)) e y)

/-- The CMP conditions (R146, R147). -/
def cmpCond (c : Nat) (a b : Num) (n : Int) : Bool :=
  match c with
  | 0 => Num.lt a b | 1 => Num.le a b | 2 => Num.eqv a b | 3 => a.isNaN || b.isNaN
  | 4 => n % 2 == 1 | 5 => (n / 2) % 2 == 1 | 6 => Num.lt a.abs b.abs | _ => false

/-- CLAMP (R146). -/
def clampVal (a b c : Num) : Num :=
  if a.isNaN then .nan else if Num.lt a b then b else if Num.lt c a then c else a

/-- One step other than END on a lane (R146 to R148). -/
def picotStep (param : Num) (ks : List Num) (l : Lane) (st : Nat) : Lane :=
  let low := fld st 0 4
  let kb := fld st 4 4
  let cond := fld st 8 4
  let c := l.sel param ks (fld st 12 4)
  let b := l.sel param ks (fld st 16 4)
  let a := l.sel param ks (fld st 20 4)
  let d := fld st 24 4
  match fld st 28 4 with
  | 1 =>
    let a' := if bitAt low 2 then a.abs else a
    let pr := a'.mul b
    l.set d (rneSw40 (Num.add (if bitAt low 0 then pr.neg else pr) (if bitAt low 1 then c.neg else c)))
  | 2 => let (n, v) := redLn2 a; (l.setN n).set d v
  | 3 =>
    if a.isFin then
      let n := Lane.clampN (if low = 1 then a.floorInt else a.roundInt)
      (l.setN n).set d (rneSw40 (a.sub (Num.ofInt n)))
    else (l.setN 0).set d a
  | 4 =>
    if a.isFin then
      let m := (a.shl 2).roundInt
      (l.setN (m % 4)).set d (rneSw40 (a.sub ((Num.ofInt m).shl (-2))))
    else (l.setN 0).set d .nan
  | 5 => l.set d (horner a ks kb low (ks.getD (kb + low) .zero))
  | 6 => l.set d (rneSw40 (a.shl l.n))
  | 7 => let (n, v) := expExt low a; (l.setN n).set d v
  | 8 => l.set d (rneSw40 (Num.ofInt l.n))
  | 9 => l.set d (rcpSeed low a)
  | 10 => l.set d (newton low a b)
  | 11 => { l with f := cmpCond cond a b l.n }
  | 12 => l.set d (if l.f then a else b)
  | 13 => l.set d (clampVal a b c)
  | _ => l

/-- The run of a picot's steps to its END or past its last step (R146, R148). -/
def picotGo (param : Num) (ks : List Num) : List Nat → Lane → Num
  | [], l => l.w0
  | st :: rest, l =>
    if fld st 28 4 = 0 then l.sel param ks (fld st 20 4) else picotGo param ks rest (picotStep param ks l st)

def Picot.run (p : Picot) (param x : Num) : Num := picotGo param (p.consts.map sw40Decode) p.steps (Lane.start x)

/-- An operand selector is legal for a picot of nc constants (R145, R151). -/
def selOk (nc c : Nat) : Bool := c < 8 || c - 8 < nc

/-- The load check of one step (R144, R145, R146, R151). -/
def stepOk (nc st : Nat) : Bool :=
  let low := fld st 0 4
  let kb := fld st 4 4
  let cond := fld st 8 4
  let sc := fld st 12 4
  let sb := fld st 16 4
  let sa := fld st 20 4
  let d := fld st 24 4
  let op := fld st 28 4
  let dOk := 1 ≤ d && d ≤ 4
  let nz := fun (xs : List Nat) => xs.all (· == 0)
  match op with
  | 0 => d == 0 && nz [low, kb, cond, sc, sb] && selOk nc sa
  | 1 => dOk && low < 8 && nz [kb, cond] && selOk nc sa && selOk nc sb && selOk nc sc
  | 2 => dOk && nz [low, kb, cond, sc, sb] && selOk nc sa
  | 3 => dOk && low < 2 && nz [kb, cond, sc, sb] && selOk nc sa
  | 4 => dOk && nz [low, kb, cond, sc, sb] && selOk nc sa
  | 5 => dOk && 1 ≤ low && low ≤ 7 && kb + low ≤ 15 && kb + low < nc && nz [cond, sc, sb] && selOk nc sa
  | 6 => dOk && nz [low, kb, cond, sc, sb] && selOk nc sa
  | 7 => dOk && low < 2 && nz [kb, cond, sc, sb] && selOk nc sa
  | 8 => dOk && nz [low, kb, cond, sc, sb, sa]
  | 9 => dOk && low < 2 && nz [kb, cond, sc, sb] && selOk nc sa
  | 10 => dOk && low < 2 && nz [kb, cond, sc] && selOk nc sa && selOk nc sb
  | 11 => d == 1 && cond ≤ 6 && nz [low, kb, sc]
      && (if cond == 4 || cond == 5 then nz [sa, sb] else selOk nc sa && selOk nc sb)
  | 12 => dOk && nz [low, kb, cond, sc] && selOk nc sa && selOk nc sb
  | 13 => dOk && nz [low, kb, cond] && selOk nc sa && selOk nc sb && selOk nc sc
  | _ => false

/-- Why a native payload is refused at load (R3, R9). -/
inductive LoadErr where
  | version | badCommand | badAddress
  deriving DecidableEq, Repr

/-- The load of a 2048-bit picot image: its slot and picot, or the refusal (R150, R151). -/
def loadPicot (img : Nat) : Except LoadErr (Nat × Picot) :=
  if fld img 0 16 ≠ genCode then .error .version
  else
    let slot := fld img 16 6
    let ns := fld img 24 5
    let nc := fld img 32 5
    let steps := (List.range 16).map fun i => fld img (128 + 32 * i) 32
    let cons := (List.range 16).map fun j => fld img (640 + 64 * j) 64
    if fld img 22 2 ≠ 0 ∨ fld img 29 3 ≠ 0 ∨ fld img 37 91 ≠ 0 ∨ fld img 1664 384 ≠ 0 ∨ slot < 24
        ∨ ns < 1 ∨ 16 < ns ∨ 16 < nc then .error .badCommand
    else if !((steps.drop ns).all (· == 0)) || !((cons.drop nc).all (· == 0)) then .error .badCommand
    else if !((cons.take nc).all fun k => k < 2 ^ 40 && (fld k 31 8 != 0 || fld k 0 31 == 0)) then .error .badCommand
    else if !((steps.take ns).all (stepOk nc)) then .error .badCommand
    else .ok (slot, ⟨steps.take ns, cons.take nc⟩)

/-! ### The TAMIO evaluations (R162), on FP32 codes -/

namespace T4

def one : Nat := 0x3F800000
def posInf : Nat := 0x7F800000
def qnan : Nat := 0x7FC00000
def neg (c : Nat) : Nat := c ^^^ 0x80000000
def sub (a b : Nat) : Nat := fp32Add a (neg b)
def geN (x : Nat) (c : Nat) : Bool := Num.le (Flt.fp32.decode c) (Flt.fp32.decode x)
def leN (x : Nat) (c : Nat) : Bool := Num.le (Flt.fp32.decode x) (Flt.fp32.decode c)
/-- A result below 2^-126 in magnitude becomes +0. -/
def flush (c : Nat) : Nat := if (Flt.fp32.decode c).tiny then 0 else c
/-- rne_fp32 of an irrational constant. -/
def const (key : Nat) (f : Nat → Encl) : Nat := (RealVal.encl f).roundCode rneFp32 key
def log2e : Nat := const 101 fun p => Encl.inv p (Encl.ln2 p)
def lnPow (p : Nat) : Nat → Encl
  | 0 => Encl.ofInt p 1
  | k + 1 => (Encl.mul p (lnPow p k) (Encl.ln2 p)).divNat (k + 1)
/-- rne_fp32((ln 2)^k / k!). -/
def coef (k : Nat) : Nat := if k = 0 then one else const (110 + k) fun p => lnPow p k
def c044 : Nat := rneFp32 (Flt.fp32.decode (Flt.fp32.encodeMag false false (Mag.ofRat 44715 1000000 0)))
def sqrt2pi : Nat := const 102 fun p => Encl.sqrt p (Encl.mul p (Encl.ofInt p 2) (Encl.inv p (Encl.pi p)))

def poly (r : Nat) : Nat → Nat → Nat
  | 0, p => p
  | k + 1, p => poly r k (fp32Add (fp32Mul p r) (coef k))

def exp2Core (x : Nat) : Nat :=
  let v := Flt.fp32.decode x
  let n := v.roundInt
  let r := rneFp32 (v.sub (Num.ofInt n))
  flush (rneFp32 ((Flt.fp32.decode (poly r 7 (coef 7))).shl n))

def exp2 (x : Nat) : Nat := if geN x 0x43000000 then posInf else if leN x 0xC2FE0000 then 0 else exp2Core x

def expCore (x : Nat) : Nat := exp2Core (fp32Mul x log2e)

def exp (x : Nat) : Nat := if geN x 0x42B17218 then posInf else if leN x 0xC2AEAC50 then 0 else expCore x

/-- A seed below the normal range becomes +0. -/
def seed (a b : Nat) : Nat := if a < b + 0x00800000 then 0 else a - b

def recipIter (ax : Nat) : Nat → Nat → Nat
  | 0, y => y
  | k + 1, y => recipIter ax k (fp32Mul y (sub 0x40000000 (fp32Mul ax y)))

def recipCore (x : Nat) : Nat :=
  let ax := x % 2 ^ 31
  let y := flush (recipIter ax 3 (seed 0x7EF32000 ax))
  if y = 0 then 0 else if x ≥ 2 ^ 31 then neg y else y

def recip (x : Nat) : Nat :=
  let ax := x % 2 ^ 31
  if ax = 0 then posInf else if geN ax 0x7E800000 then 0 else recipCore x

def rsqrtIter (h : Nat) : Nat → Nat → Nat
  | 0, y => y
  | k + 1, y => rsqrtIter h k (fp32Mul y (sub 0x3FC00000 (fp32Mul h (fp32Mul y y))))

def rsqrtCore (x : Nat) : Nat := flush (rsqrtIter (fp32Mul 0x3F000000 x) 3 (seed 0x5F376000 (x / 2)))

def rsqrt (x : Nat) : Nat :=
  if x % 2 ^ 31 = 0 then posInf else if x ≥ 2 ^ 31 then qnan else if x = posInf then 0 else rsqrtCore x

def sqrt (x : Nat) : Nat :=
  if x % 2 ^ 31 = 0 then 0 else if x ≥ 2 ^ 31 then qnan else if x = posInf then posInf
  else flush (fp32Mul x (rsqrtCore x))

def sigmoidCore (x : Nat) : Nat := recipCore (fp32Add one (expCore (neg x)))

def sigmoid (x : Nat) : Nat := if geN x 0x41880000 then one else if leN x 0xC2B00000 then 0 else sigmoidCore x

def tanhCore (x : Nat) : Nat :=
  let s := sigmoidCore (fp32Mul 0x40000000 x)
  flush (sub (fp32Mul 0x40000000 s) one)

def tanh (x : Nat) : Nat := if geN x 0x41100000 then one else if leN x 0xC1100000 then neg one else tanhCore x

def silu (x : Nat) : Nat :=
  if geN x 0x41880000 then x else if leN x 0xC2B00000 then 0 else flush (fp32Mul x (sigmoidCore x))

def geluTanh (x : Nat) : Nat :=
  if geN x 0x41100000 then x
  else if leN x 0xC1100000 then 0
  else
    let u := fp32Mul x (fp32Mul x x)
    let v := fp32Add x (fp32Mul c044 u)
    let w := fp32Mul sqrt2pi v
    flush (fp32Mul (fp32Mul 0x3F000000 x) (fp32Add one (tanhCore w)))

-- DESIGN CHOICE, safe: log 12.
/-- The marked slots of R153. -/
def marked (slot : Nat) : Bool := [0, 1, 4, 5, 6, 7, 8, 9, 10].contains slot

/-- A marked built-in on an FP32 code (R162). -/
def eval (slot x0 : Nat) : Nat :=
  let v := Flt.fp32.decode x0
  if v.isNaN then qnan
  else
    let x := if v.tiny then 0 else x0
    match slot with
    | 0 => exp2 x | 1 => exp x | 4 => recip x | 5 => rsqrt x | 6 => sqrt x | 7 => sigmoid x | 8 => tanh x
    | 9 => silu x | _ => geluTanh x

end T4

/-- The SFU mode (R160). -/
inductive SfuMode where
  | native | tamio
  deriving DecidableEq, Repr

/-- One element through SFN: the code written (R156, R162). `pic` is the picot of a user slot. -/
def sfnElem (mode : SfuMode) (slot : Nat) (pic : Picot) (param : Nat) (sf df : Flt) (sat : Bool)
    (bias scale : Option Nat) (code : Nat) : Nat :=
  if mode == .tamio && T4.marked slot then
    let x0 := rneFp32 (sf.decode code)
    let x1 := if (Flt.fp32.decode x0).tiny then 0 else x0
    let x := match bias with | some b => fp32Add x1 b | none => x1
    let y := T4.eval slot x
    let z := match scale with | some s => fp32Mul y s | none => y
    df.encode sat (Flt.fp32.decode z)
  else
    let x0 := toSw40 sf code
    let x := match bias with | some b => rneSw40 (x0.add (toSw40 .fp32 b)) | none => x0
    let prm := toSw40 .fp32 param
    if slot < 24 then
      match scale with
      | some s => flushEncode df sat (((builtin slot prm x).roundSw code).mul (toSw40 .fp32 s))
      | none => (builtin slot prm x).roundCode (flushEncode df sat) code
    else
      let y := pic.run prm x
      flushEncode df sat (match scale with | some s => y.mul (toSw40 .fp32 s) | none => y)

/-- The rotation of one pair: position, frequency word and the two source values (R165). -/
def rotaryPair (pos freq : Nat) (sf df : Flt) (sat : Bool) (c0 c1 : Nat) : Nat × Nat :=
  let t := (pos * (freq % 2 ^ 48)) % 2 ^ 48
  let th : Num := .fin false t (-48)
  let c := Flt.fp32.decode ((Fn.cosTurns th).roundCode (flushEncode .fp32 false) t)
  let s := Flt.fp32.decode ((Fn.sinTurns th).roundCode (flushEncode .fp32 false) t)
  let x0 := toSw40 sf c0
  let x1 := toSw40 sf c1
  (flushEncode df sat ((x0.mul c).sub (x1.mul s)), flushEncode df sat ((x0.mul s).add (x1.mul c)))

/-- A built-in or user picot rounded directly to FP32, as the soft-cap of R178 is. -/
def picotFp32 (slot : Nat) (pic : Picot) (param : Num) (x : Num) (key : Nat) : Nat :=
  if slot < 24 then (builtin slot param x).roundCode (flushEncode .fp32 false) key
  else flushEncode .fp32 false (pic.run param x)

/-- A built-in or user picot as an SW40 value, as the position bias of R178 is. -/
def picotSw (slot : Nat) (pic : Picot) (param : Num) (x : Num) (key : Nat) : Num :=
  if slot < 24 then (builtin slot param x).roundSw key else pic.run param x

end Sys2Proof.Machine
end

