-- ==== Sys2Proof/Machine/VecOps.lean ====
section
/-! DEFINITION. The element-tile instructions as functions of the scratchpad: VOP, CVT and SFN, with their field checks,
hulls and writes (R155 to R166, R302 to R316). -/

namespace Sys2Proof.Machine

/-- What an engine produces: word writes, ranges of words left undefined (first word, count), and exported records. -/
structure EngOut where
  writes : List (Nat × Nat)
  undef : List (Nat × Nat)
  records : List (List Nat)
  deriving DecidableEq, Repr

def EngOut.none : EngOut := ⟨[], [], []⟩
def EngOut.ofWrites (ws : List (Nat × Nat)) : EngOut := ⟨ws, [], []⟩

/-- How an operand of an element instruction lies. -/
inductive OpKind where
  | unused | matrix | colVec | rowVec
  deriving DecidableEq, Repr

/-- The vector operations of R312. -/
inductive VOp where
  | copy | fill | add | sub | mul | max | min | abs | neg | addi | muli | axpy | coladd | colmul | rowmul | rowsub
  | rowmax | rowsum | rowsumsq | rowdot | cmplt
  deriving DecidableEq, Repr

namespace VOp

def ofCode? : Nat → Option VOp
  | 0x00 => some copy | 0x01 => some fill | 0x02 => some add | 0x03 => some sub | 0x04 => some mul
  | 0x05 => some max | 0x06 => some min | 0x07 => some abs | 0x08 => some neg | 0x09 => some addi
  | 0x0A => some muli | 0x0B => some axpy | 0x0C => some coladd | 0x0D => some colmul | 0x0E => some rowmul
  | 0x0F => some rowsub | 0x10 => some rowmax | 0x11 => some rowsum | 0x12 => some rowsumsq | 0x13 => some rowdot
  | 0x14 => some cmplt | _ => none

def usesA : VOp → Bool | fill => false | _ => true

def bKind : VOp → OpKind
  | add => .matrix | sub => .matrix | mul => .matrix | max => .matrix | min => .matrix | axpy => .matrix
  | rowdot => .matrix | cmplt => .matrix | coladd => .colVec | colmul => .colVec | rowmul => .rowVec
  | rowsub => .rowVec | _ => .unused

def dKind : VOp → OpKind
  | rowmax => .rowVec | rowsum => .rowVec | rowsumsq => .rowVec | rowdot => .rowVec | _ => .matrix

def usesImm : VOp → Bool | fill => true | addi => true | muli => true | axpy => true | _ => false

/-- The exact value of an element result (R312, R313). -/
def elem (op : VOp) (a b imm : Num) : Num :=
  match op with
  | fill => imm
  | add => (a.add b).posZero | coladd => (a.add b).posZero
  | sub => (a.sub b).posZero | rowsub => (a.sub b).posZero
  | mul => a.mul b | colmul => a.mul b | rowmul => a.mul b
  | max => Num.max a b | min => Num.min a b | abs => a.abs | neg => a.neg
  | addi => (a.add imm).posZero | muli => a.mul imm | axpy => (Num.fma imm a b).posZero
  | cmplt => if Num.lt a b then .one else .zero
  | _ => a

/-- The exact value of a reduction over one row (R312, R313). -/
def reduce (op : VOp) (as bs : List Num) : Num :=
  match op with
  | rowmax => match as with | [] => .zero | v :: vs => vs.foldl Num.max v
  | rowsum => sumExact as
  | rowsumsq => sumExact (as.map fun v => v.mul v)
  | _ => sumExact (List.zipWith Num.mul as bs)

end VOp

/-- The fields of an element shape entry (R310). -/
structure EShape where
  aStride : Nat
  bStride : Nat
  dStride : Nat
  rows : Nat
  cols : Nat
  aFmt : Nat
  bFmt : Nat
  dFmt : Nat
  outSat : Bool
  biasEn : Bool
  scaleEn : Bool
  layout : Bool
  param : Nat
  deriving DecidableEq, Repr

def eshapeOf (sh : Nat) : EShape :=
  { aStride := fld sh 0 17, bStride := fld sh 17 17, dStride := fld sh 34 17, rows := fld sh 51 8, cols := fld sh 59 10
    aFmt := fld sh 69 4, bFmt := fld sh 73 4, dFmt := fld sh 77 4, outSat := bitAt sh 81, biasEn := bitAt sh 82
    scaleEn := bitAt sh 83, layout := bitAt sh 84, param := fld sh 96 32 }

/-- One operand: base, row stride in words, kind and format. -/
structure Opd where
  kind : OpKind
  base : Nat
  stride : Nat
  fmt : EFmt
  deriving DecidableEq, Repr

namespace Opd

/-- The hull over the tile's rows and columns (R41, R310). -/
def hull (o : Opd) (rows cols : Nat) : Hull :=
  match o.kind with
  | .unused => none
  | .matrix => rowsHull o.base o.stride rows (o.fmt.rowBytes cols)
  | .colVec => if rows = 0 then none else rowsHull o.base 0 1 (o.fmt.rowBytes cols)
  | .rowVec => if cols = 0 then none else rowsHull o.base 0 1 (o.fmt.rowBytes rows)

/-- Word w holds an element inside the extents. -/
def has (o : Opd) (rows cols w : Nat) : Bool :=
  match o.kind with
  | .unused => false
  | .matrix => rowsHas o.base o.stride rows ((o.fmt.width * cols + 7) / 8) w
  | .colVec => rows != 0 && rowsHas o.base 0 1 ((o.fmt.width * cols + 7) / 8) w
  | .rowVec => cols != 0 && rowsHas o.base 0 1 ((o.fmt.width * rows + 7) / 8) w

/-- Base alignment and range (R310, R311, R121). -/
def addrOk (o : Opd) : Bool :=
  match o.kind with
  | .unused => true
  | .matrix => lineAligned o.base && o.base ≤ lastWord
  | _ => o.base ≤ lastWord

/-- The exact element at (r, c) of the operand. -/
def at_ (rd : Rd) (o : Opd) (r c : Nat) : Num :=
  match o.kind with
  | .unused => .zero
  | .matrix => elemVal rd o.fmt (o.base + o.stride * r) 0 c
  | .colVec => elemVal rd o.fmt o.base 0 c
  | .rowVec => elemVal rd o.fmt o.base 0 r

-- DEDUCED, unsafe: log 15.
/-- D equals another operand in place: same base, same stride, formats of one width (R158). -/
def sameAs (d a : Opd) : Bool :=
  d.kind == .matrix && a.kind == .matrix && d.base == a.base && d.stride == a.stride && d.fmt.width == a.fmt.width

/-- D overlaps another operand in a way that R158 and R314 do not allow. -/
def clash (d a : Opd) (rows cols : Nat) : Bool := hullMeet (d.hull rows cols) (a.hull rows cols) && !(d.sameAs a)

end Opd

/-- The stride of a destination covers its row (R310). -/
def strideOk (rows strideWords bytes : Nat) : Bool := rows ≤ 1 || bytes ≤ 4 * strideWords

/-! ### VOP -/

structure VopSpec where
  op : VOp
  rows : Nat
  cols : Nat
  a : Opd
  b : Opd
  d : Opd
  outSat : Bool
  imm : Nat
  deriving DecidableEq, Repr

/-- The VOP an instruction word and its shape entry give; an error is a reserved or non-zero unused field (R311, R312). -/
def vopOf (sh word aSel bSel dSel : Nat) : Except FieldErr VopSpec :=
  let e := eshapeOf sh
  match VOp.ofCode? (fld word 14 6), EFmt.ofCode? e.aFmt, EFmt.ofCode? e.bFmt, EFmt.ofCode? e.dFmt with
  | some op, some fa, some fb, some fd =>
    let imm := fld word 96 32
    if e.aFmt > 4 || e.bFmt > 4 || e.dFmt > 4 || e.rows > 128 || e.cols > 512 || bitAt word 95 then .error .badCommand
    else if (op.bKind == .unused && (fld word 40 20 != 0 || fld word 85 5 != 0 || e.bFmt != 0))
        || (op.bKind != .matrix && e.bStride != 0) || (!op.usesImm && imm != 0) then .error .badCommand
    else .ok
      { op := op, rows := e.rows, cols := e.cols
        a := ⟨if op.usesA then .matrix else .unused, eff (fld word 20 20) aSel, 8 * e.aStride, fa⟩
        b := ⟨op.bKind, eff (fld word 40 20) bSel, 8 * e.bStride, fb⟩
        d := ⟨op.dKind, eff (fld word 60 20) dSel, 8 * e.dStride, fd⟩
        outSat := e.outSat, imm := imm }
  | _, _, _, _ => .error .badCommand

namespace VopSpec

/-- The address checks on the operands that are known (R299, R310, R314). -/
def checkK (ka kb kd : Bool) (v : VopSpec) : Option FieldErr :=
  if (ka && !v.a.addrOk) || (kb && !v.b.addrOk) || (kd && !v.d.addrOk) then some .badAddress
  else if v.d.kind == .matrix && !strideOk v.rows v.d.stride (v.d.fmt.rowBytes v.cols) then some .badAddress
  else if (ka && !hullOk (v.a.hull v.rows v.cols)) || (kb && !hullOk (v.b.hull v.rows v.cols))
      || (kd && !hullOk (v.d.hull v.rows v.cols)) then some .badAddress
  else if (kd && ka && v.d.clash v.a v.rows v.cols) || (kd && kb && v.d.clash v.b v.rows v.cols) then some .badAddress
  else none

def check (v : VopSpec) : Option FieldErr := v.checkK true true true

def reads (v : VopSpec) (w : Nat) : Bool := v.a.has v.rows v.cols w || v.b.has v.rows v.cols w

/-- The words a VOP writes; a tile with no rows or no columns writes nothing (R313). -/
def run (rd : Rd) (v : VopSpec) : List (Nat × Nat) :=
  if v.rows = 0 ∨ v.cols = 0 then []
  else
    let im := Flt.fp32.decode v.imm
    match v.d.kind with
    | .matrix =>
      (List.range v.rows).flatMap fun r =>
        outRow v.d.fmt v.outSat (v.d.base + v.d.stride * r) 0
          ((List.range v.cols).map fun c => v.op.elem (v.a.at_ rd r c) (v.b.at_ rd r c) im)
    | _ =>
      outRow v.d.fmt v.outSat v.d.base 0 ((List.range v.rows).map fun r =>
        v.op.reduce ((List.range v.cols).map fun c => v.a.at_ rd r c) ((List.range v.cols).map fun c => v.b.at_ rd r c))

end VopSpec

/-! ### CVT -/

structure CvtSpec where
  rows : Nat
  cols : Nat
  a : Opd
  d : Opd
  asBase : Nat
  dsBase : Nat
  outSat : Bool
  deriving DecidableEq, Repr

def cvtOf (sh word aSel dSel : Nat) : Except FieldErr CvtSpec :=
  let e := eshapeOf sh
  match EFmt.ofCode? e.aFmt, EFmt.ofCode? e.dFmt with
  | some fa, some fd =>
    let ssc := fld word 54 20
    let dsc := fld word 74 20
    if e.rows > 128 || e.cols > 512 || e.bFmt != 0 || e.bStride != 0 || fld word 104 24 != 0
        || (!fa.isMx && ssc != 0) || (!fd.isMx && dsc != 0) then .error .badCommand
    else .ok
      { rows := e.rows, cols := e.cols
        a := ⟨.matrix, eff (fld word 14 20) aSel, 8 * e.aStride, fa⟩
        d := ⟨.matrix, eff (fld word 34 20) dSel, 8 * e.dStride, fd⟩
        asBase := if fa.isMx then eff ssc aSel else 0
        dsBase := if fd.isMx then eff dsc dSel else 0
        outSat := e.outSat }
  | _, _ => .error .badCommand

namespace CvtSpec

/-- Words from one scale row to the next (R315). -/
def scaleStride (v : CvtSpec) : Nat := ((v.cols + 31) / 32 + 3) / 4

def hullAs (v : CvtSpec) : Hull := rowsHull v.asBase v.scaleStride v.rows (v.a.fmt.scaleBytes v.cols)
def hullDs (v : CvtSpec) : Hull := rowsHull v.dsBase v.scaleStride v.rows (v.d.fmt.scaleBytes v.cols)
def hullA (v : CvtSpec) : Hull := hullJoin (v.a.hull v.rows v.cols) v.hullAs
def hullD (v : CvtSpec) : Hull := hullJoin (v.d.hull v.rows v.cols) v.hullDs

/-- The address checks on the operands that are known (R299, R315). -/
def checkK (ka kd : Bool) (v : CvtSpec) : Option FieldErr :=
  if (ka && (!v.a.addrOk || v.asBase > lastWord)) || (kd && (!v.d.addrOk || v.dsBase > lastWord)) then some .badAddress
  else if !strideOk v.rows v.d.stride (v.d.fmt.rowBytes v.cols) then some .badAddress
  else if (ka && !hullOk v.hullA) || (kd && !hullOk v.hullD) then some .badAddress
  else if (ka && kd && ((hullMeet (v.d.hull v.rows v.cols) (v.a.hull v.rows v.cols) && !(v.d.sameAs v.a))
        || hullMeet (v.d.hull v.rows v.cols) v.hullAs || hullMeet v.hullDs (v.a.hull v.rows v.cols) || hullMeet v.hullDs v.hullAs))
      || (kd && hullMeet (v.d.hull v.rows v.cols) v.hullDs) then some .badAddress
  else none

def check (v : CvtSpec) : Option FieldErr := v.checkK true true

def reads (v : CvtSpec) (w : Nat) : Bool :=
  v.a.has v.rows v.cols w || rowsHas v.asBase v.scaleStride v.rows (v.a.fmt.scaleBytes v.cols) w

def run (rd : Rd) (v : CvtSpec) : List (Nat × Nat) :=
  if v.cols = 0 then []
  else (List.range v.rows).flatMap fun r =>
    outRow v.d.fmt v.outSat (v.d.base + v.d.stride * r) (v.dsBase + v.scaleStride * r)
      ((List.range v.cols).map fun c => elemVal rd v.a.fmt (v.a.base + v.a.stride * r) (v.asBase + v.scaleStride * r) c)

end CvtSpec

/-! ### SFN -/

structure SfnSpec where
  slot : Nat
  rows : Nat
  cols : Nat
  a : Opd
  d : Opd
  aux1 : Nat
  aux2 : Nat
  biasEn : Bool
  scaleEn : Bool
  layout : Bool
  param : Nat
  outSat : Bool
  deriving DecidableEq, Repr

def sfnOf (sh word aSel dSel x1Sel x2Sel slotSel : Nat) : Except FieldErr SfnSpec :=
  let e := eshapeOf sh
  match EFmt.ofCode? e.aFmt, EFmt.ofCode? e.dFmt with
  | some fa, some fd =>
    let slot := eff (fld word 14 6) slotSel
    if e.aFmt > 4 || e.dFmt > 4 || e.bFmt != 0 || e.bStride != 0 || e.rows > 128 || e.cols > 512
        || fld word 125 3 != 0 || slot > 63 then .error .badCommand
    else if slot = 16 ∧ (e.biasEn || e.scaleEn || e.cols % 2 == 1) then .error .badCommand
    else if slot ≠ 16 ∧ (e.layout || (!e.biasEn && (fld word 60 20 != 0 || fld word 110 5 != 0))
        || (!e.scaleEn && (fld word 80 20 != 0 || fld word 115 5 != 0))) then .error .badCommand
    else .ok
      { slot := slot, rows := e.rows, cols := e.cols
        a := ⟨.matrix, eff (fld word 20 20) aSel, 8 * e.aStride, fa⟩
        d := ⟨.matrix, eff (fld word 40 20) dSel, 8 * e.dStride, fd⟩
        aux1 := if slot = 16 ∨ e.biasEn then eff (fld word 60 20) x1Sel else 0
        aux2 := if slot = 16 ∨ e.scaleEn then eff (fld word 80 20) x2Sel else 0
        biasEn := e.biasEn, scaleEn := e.scaleEn, layout := e.layout, param := e.param, outSat := e.outSat }
  | _, _ => .error .badCommand

namespace SfnSpec

def hull1 (v : SfnSpec) : Hull :=
  if v.cols = 0 then none
  else if v.slot = 16 then rowsHull v.aux1 0 1 (4 * v.rows)
  else if v.biasEn ∧ v.rows ≠ 0 then rowsHull v.aux1 0 1 (4 * v.cols) else none

def hull2 (v : SfnSpec) : Hull :=
  if v.rows = 0 then none
  else if v.slot = 16 then rowsHull v.aux2 0 1 (8 * (v.cols / 2))
  else if v.scaleEn then rowsHull v.aux2 0 1 (4 * v.cols) else none

/-- The address checks on the operands that are known: source, destination, AUX1 and AUX2 (R299, R316). -/
def checkK (ka kd k1 k2 : Bool) (v : SfnSpec) : Option FieldErr :=
  if (ka && !v.a.addrOk) || (kd && !v.d.addrOk) || (k1 && v.aux1 > lastWord) || (k2 && v.aux2 > lastWord) then some .badAddress
  else if k2 && v.slot == 16 && !lineAligned v.aux2 then some .badAddress
  else if !strideOk v.rows v.d.stride (v.d.fmt.rowBytes v.cols) then some .badAddress
  else
    let hd := v.d.hull v.rows v.cols
    if (ka && !hullOk (v.a.hull v.rows v.cols)) || (kd && !hullOk hd) || (k1 && !hullOk v.hull1) || (k2 && !hullOk v.hull2) then
      some .badAddress
    else if (ka && kd && v.d.clash v.a v.rows v.cols) || (kd && k1 && hullMeet hd v.hull1) || (kd && k2 && hullMeet hd v.hull2) then
      some .badAddress
    else none

def check (v : SfnSpec) : Option FieldErr := v.checkK true true true true

def reads (v : SfnSpec) (w : Nat) : Bool :=
  v.a.has v.rows v.cols w
    || (match v.hull1 with | none => false | some _ => v.aux1 ≤ w && w < v.aux1 + (if v.slot = 16 then v.rows else v.cols))
    || (match v.hull2 with | none => false | some _ => v.aux2 ≤ w && w < v.aux2 + v.cols)

/-- The codes of the source's row r. -/
def srcCodes (rd : Rd) (v : SfnSpec) (r : Nat) : List Nat :=
  (List.range v.cols).map fun c => elemCode rd v.a.fmt (v.a.base + v.a.stride * r) c

/-- The codes of row r under slot 16 (R164, R165). -/
def rotaryRow (rd : Rd) (v : SfnSpec) (sf df : Flt) (r : Nat) : List Nat :=
  let cs := srcCodes rd v r
  let pos := rdWord rd (v.aux1 + r)
  let half := v.cols / 2
  let pair (i : Nat) : Nat × Nat :=
    let j0 := if v.layout then i else 2 * i
    let j1 := if v.layout then i + half else 2 * i + 1
    rotaryPair pos (rdLE rd (4 * v.aux2 + 8 * i) 8) sf df v.outSat (cs.getD j0 0) (cs.getD j1 0)
  let ps := (List.range half).map pair
  if v.layout then ps.map (·.1) ++ ps.map (·.2) else ps.flatMap fun p => [p.1, p.2]

/-- A position word at or beyond 2^26 (R166). -/
def posLimit (rd : Rd) (v : SfnSpec) : Bool :=
  v.slot == 16 && v.cols != 0 && (List.range v.rows).any fun r => rdWord rd (v.aux1 + r) ≥ 2 ^ 26

/-- The words an SFN writes (R156, R157). -/
def run (rd : Rd) (v : SfnSpec) (mode : SfuMode) (pic : Picot) : List (Nat × Nat) :=
  if v.cols = 0 then []
  else
    match v.a.fmt.flt?, v.d.fmt.flt? with
    | some sf, some df =>
      (List.range v.rows).flatMap fun r =>
        packRow v.d.fmt (v.d.base + v.d.stride * r)
          (if v.slot = 16 then rotaryRow rd v sf df r
           else (srcCodes rd v r).zipIdx.map fun (code, c) =>
             sfnElem mode v.slot pic v.param sf df v.outSat
               (if v.biasEn then some (rdWord rd (v.aux1 + c)) else none)
               (if v.scaleEn then some (rdWord rd (v.aux2 + c)) else none) code)
    | _, _ => []

end SfnSpec

end Sys2Proof.Machine
end

