-- ==== Sys2Proof/Machine/Attn.lean ====
section
/-! DEFINITION. The attention step, its finalise and the backward step as functions of the scratchpad (R169 to R210). -/

namespace Sys2Proof.Machine

/-- The formats of a 2-bit code of R173. -/
def attFmt (c : Nat) : EFmt :=
  match c with | 0 => .e4m3 | 1 => .e5m2 | 2 => .bf16 | _ => .fp16

def EFmt.isFp8 (f : EFmt) : Bool := f == .e4m3 || f == .e5m2

/-- A step control block, as its 2048 bits give it (R172, R173). -/
structure Acb where
  raw : Nat
  deriving DecidableEq, Repr

namespace Acb

def qBase (c : Acb) := fld c.raw 0 20
def kBase (c : Acb) := fld c.raw 20 20
def vBase (c : Acb) := fld c.raw 40 20
def oBase (c : Acb) := fld c.raw 60 20
def statBase (c : Acb) := fld c.raw 80 20
def rowBase (c : Acb) := fld c.raw 100 20
def sBase (c : Acb) := fld c.raw 120 20
def qStride (c : Acb) := 8 * fld c.raw 144 17
def kStride (c : Acb) := 8 * fld c.raw 161 17
def vStride (c : Acb) := 8 * fld c.raw 178 17
def oStride (c : Acb) := 8 * fld c.raw 195 17
def m (c : Acb) := fld c.raw 216 8
def n (c : Acb) := fld c.raw 224 9
def d (c : Acb) := fld c.raw 233 9
def qFmt (c : Acb) := attFmt (fld c.raw 242 2)
def kFmt (c : Acb) := attFmt (fld c.raw 244 2)
def vFmt (c : Acb) := attFmt (fld c.raw 246 2)
def pFmt (c : Acb) := attFmt (fld c.raw 248 2)
def scale (c : Acb) := fld c.raw 256 32
def cap (c : Acb) := fld c.raw 288 32
def capSlot (c : Acb) := fld c.raw 320 6
def capEn (c : Acb) := bitAt c.raw 326
def biasSlot (c : Acb) := fld c.raw 328 6
def biasEn (c : Acb) := bitAt c.raw 334
def causal (c : Acb) := bitAt c.raw 336
def winEn (c : Acb) := bitAt c.raw 337
def pfxEn (c : Acb) := bitAt c.raw 338
def validEn (c : Acb) := bitAt c.raw 339
def bmpEn (c : Acb) := bitAt c.raw 340
def first (c : Acb) := bitAt c.raw 341
def expEn (c : Acb) := bitAt c.raw 342
def expCh (c : Acb) := fld c.raw 343 2
def window (c : Acb) := fld c.raw 352 26
def pfxLen (c : Acb) := fld c.raw 384 26
/-- The position of token t of the block (R172). -/
def kpos (c : Acb) (t : Nat) : Nat := (fld c.raw (512 + 32 * (t / 16)) 32 + t % 16) % 2 ^ 32
def valid (c : Acb) (t : Nat) : Bool := bitAt c.raw (1024 + t)
def bmp (c : Acb) (r t : Nat) : Bool := bitAt c.raw (1280 + 16 * (r / 16) + t / 16)
def biasParam (c : Acb) (h : Nat) : Nat := fld c.raw (1408 + 32 * h) 32

/-- The format combinations of R171. -/
def comboOk (c : Acb) : Bool :=
  let q := c.qFmt; let k := c.kFmt; let p := c.pFmt; let v := c.vFmt
  if q.isFp8 && k.isFp8 then
    (p == .e4m3 && v.isFp8) || (p == .bf16 && (v == .bf16 || v.isFp8))
  else
    let w : EFmt := if q.isFp8 then k else q
    (q.isFp8 || q == w) && (k.isFp8 || k == w) && p == w && (v == w || v.isFp8)

/-- The class of the score product (R171). -/
def scoreClass (c : Acb) : MClass := if c.qFmt.isFp8 && c.kFmt.isFp8 then .narrow else .wide

/-- The class of the PV product (R171). -/
def pvClass (c : Acb) : MClass := if c.pFmt == .e4m3 then .narrow else .wide

/-- Reserved and disabled-function fields are zero (R172, R173, R177). -/
def fieldsOk (c : Acb) : Bool :=
  fld c.raw 140 4 == 0 && fld c.raw 212 4 == 0 && fld c.raw 250 6 == 0 && !bitAt c.raw 327 && !bitAt c.raw 335
    && fld c.raw 345 7 == 0 && fld c.raw 378 6 == 0 && fld c.raw 410 102 == 0 && fld c.raw 1920 128 == 0
    && (c.capEn || (c.cap == 0 && c.capSlot == 0)) && (c.biasEn || c.biasSlot == 0)
    && (if c.winEn then c.window != 0 else c.window == 0) && (c.pfxEn || c.pfxLen == 0) && (c.expEn || c.expCh == 0)
    && fld c.raw 248 2 != 1

def extentsOk (c : Acb) : Bool := c.m ≤ 128 && c.n ≤ 256 && 16 ≤ c.d && c.d ≤ 256 && c.d % 16 == 0

/-- Words of one row of the S-buffer (R175). -/
def sRow (c : Acb) : Nat := (c.n + 7) / 8 * 8

def hullQ (c : Acb) : Hull :=
  hullJoin (rowsHull c.qBase c.qStride c.m (c.qFmt.rowBytes c.d)) (rowsHull c.rowBase 1 c.m 4)
def hullK (c : Acb) : Hull := if c.m = 0 then none else rowsHull c.kBase c.kStride c.n (c.kFmt.rowBytes c.d)
def hullV (c : Acb) : Hull := if c.m = 0 then none else rowsHull c.vBase c.vStride c.n (c.vFmt.rowBytes c.d)
def hullS (c : Acb) : Hull := rowsHull c.sBase c.sRow c.m (4 * c.sRow)
def hullStat (c : Acb) : Hull := rowsHull c.statBase 4 c.m 16
def hullO (c : Acb) : Hull := rowsHull c.oBase c.oStride c.m (4 * c.d)
def hullAcc (c : Acb) : Hull := hullJoin c.hullO c.hullStat

/-- A control block at word address cb: its own hull. -/
def hullSelf (cb bytes : Nat) : Hull := rowsHull cb 0 1 bytes

/-- A picot slot can be run: built in, or a loaded user slot, and not slot 16 (R152, R177). -/
def slotOk (loaded : Nat → Bool) (s : Nat) : Bool := s != 16 && (s < 24 || loaded s)

def basesAligned (c : Acb) : Bool :=
  lineAligned c.qBase && lineAligned c.kBase && lineAligned c.vBase && lineAligned c.oBase && lineAligned c.statBase
    && lineAligned c.rowBase && lineAligned c.sBase

/-- The checks of R177 on an ATS at control block cb. -/
def check (c : Acb) (cb : Nat) (loaded : Nat → Bool) (expPerm : Bool) : Option Status :=
  if !c.fieldsOk || !c.extentsOk || !c.comboOk || (c.capEn && !slotOk loaded c.capSlot)
      || (c.biasEn && !slotOk loaded c.biasSlot) then some .badCommand
  else if c.m = 0 then (if c.expEn && !expPerm then some .noPermission else none)
  else if !c.basesAligned || (c.m > 1 && c.oStride < c.d) then some .badAddress
  else
    let rs := [hullSelf cb 256, c.hullQ, c.hullK, c.hullV]
    let ws := if c.n = 0 then [c.hullAcc] else [c.hullS, c.hullAcc]
    if !(rs.all hullOk && ws.all hullOk) then some .badAddress
    else if ws.any (fun w => rs.any (hullMeet w)) || (c.n != 0 && hullMeet c.hullS c.hullAcc) then some .badAddress
    else if c.expEn && !expPerm then some .noPermission
    else none

/-- The row's word of the row table (R174). -/
def rowWord (rd : Rd) (c : Acb) (r : Nat) : Nat := rdWord rd (c.rowBase + r)

/-- Visibility (R180). -/
def vis (rd : Rd) (c : Acb) (r t : Nat) : Bool :=
  let qp : Int := Int.ofNat (fld (c.rowWord rd r) 0 26)
  let kp : Int := Int.ofNat (c.kpos t)
  let pf := c.pfxEn && decide (kp < Int.ofNat c.pfxLen)
  decide (t < c.n) && (!c.validEn || c.valid t) && (!c.bmpEn || c.bmp r t)
    && (!c.causal || decide (kp ≤ qp) || pf)
    && (!c.winEn || decide (kp > qp - Int.ofNat c.window) || pf)

/-- The products of two rows of d elements. -/
def rowDot (rd : Rd) (cl : MClass) (fa fb : EFmt) (abase bbase d : Nat) : Nat :=
  accumulate cl 0 ((List.range d).map fun i => some ((elemVal rd fa abase 0 i).mul (elemVal rd fb bbase 0 i)))

/-- The score of a visible position (R178). `pics` gives the picots of user slots. -/
def score (rd : Rd) (pics : Nat → Picot) (c : Acb) (r t : Nat) : Nat :=
  let qk := rowDot rd c.scoreClass c.qFmt c.kFmt (c.qBase + c.qStride * r) (c.kBase + c.kStride * t) c.d
  let s0 := fp32Mul qk c.scale
  let s1 := if c.capEn then picotFp32 c.capSlot (pics c.capSlot) (toSw40 .fp32 c.cap) (toSw40 .fp32 s0) s0 else s0
  if c.biasEn then
    let w := c.rowWord rd r
    let x := Num.ofInt (Int.ofNat (c.kpos t) - Int.ofNat (fld w 0 26))
    let b := picotSw c.biasSlot (pics c.biasSlot) (toSw40 .fp32 (c.biasParam (fld w 28 4))) x (c.kpos t)
    flushEncode .fp32 false ((Flt.fp32.decode s1).add b).posZero
  else s1

/-- The factor pi of R182 as a power of two. -/
def piLog (c : Acb) : Int := if c.pFmt == .e4m3 then 8 else 0

/-- exp2 of an SW40 difference, times 2^k, rounded once into a format (R154, R182). -/
def exp2To (g : Flt) (k : Int) (x : Num) : Nat :=
  (Fn.exp2 x).roundCode (fun v => flushEncode g false (v.shl k)) x.floorInt.natAbs

/-- A row's running state (R182). -/
structure Row where
  m : Nat
  l : Nat
  o : List Nat
  deriving DecidableEq, Repr

def Row.nanRow (d : Nat) : Row := ⟨0x7FC00000, 0x7FC00000, List.replicate d 0x7FC00000⟩
def Row.init (d : Nat) : Row := ⟨0xFF800000, 0, List.replicate d 0⟩

/-- What one row of a step gives: its new state, its P codes, and the correction a. -/
structure RowOut where
  row : Row
  p : List Nat
  a : Nat
  deriving DecidableEq, Repr

def pFlt (c : Acb) : Flt := (c.pFmt.flt?).getD .bf16

/-- The accumulation of one column over the visible tokens (R182). -/
def pvCol (rd : Rd) (c : Acb) (ps : List (Option Num)) (init col : Nat) : Nat :=
  accumulate c.pvClass init (ps.zipIdx.map fun (p, t) =>
    p.map fun x => x.mul (elemVal rd c.vFmt (c.vBase + c.vStride * t) 0 col))

/-- One row of one ATS (R182 to R184). -/
def rowStep (rd : Rd) (pics : Nat → Picot) (c : Acb) (r : Nat) (old : Row) : RowOut :=
  let st := if c.first then Row.init c.d else old
  let toks := List.range c.n
  let pf := c.pFlt
  let nanP := toks.map fun t => if c.vis rd r t then pf.nanCode else 0
  if (Flt.fp32.decode st.m).isNaN then ⟨st, nanP, 0x7FC00000⟩
  else
    let ss := toks.map fun t => if c.vis rd r t then some (score rd pics c r t) else none
    if ss.any (fun o => match o with
        | some s => (Flt.fp32.decode s).isNaN || s == 0x7F800000 | none => false) then
      ⟨Row.nanRow c.d, nanP, 0x7FC00000⟩
    else
      let mb := (ss.filterMap id).foldl (fun a s => Num.max a (Flt.fp32.decode s)) (.inf true)
      let mn := Num.max (Flt.fp32.decode st.m) mb
      if mn == .inf true then ⟨st, toks.map fun _ => 0, 0x3F800000⟩
      else
        let swm := mn.flush
        let a := exp2To .fp32 0 (rneSw40 ((toSw40 .fp32 st.m).sub swm))
        let ps := ss.map fun o => o.map fun s => exp2To pf c.piLog (rneSw40 ((toSw40 .fp32 s).sub swm))
        let pv := ps.map fun o => o.map pf.decode
        let corr (x : Nat) : Nat := if a = 0x3F800000 then x else fp32Mul x a
        ⟨{ m := rneFp32 mn
           l := accumulate c.pvClass (corr st.l) pv
           o := st.o.zipIdx.map fun (x, col) => c.pvCol rd pv (corr x) col },
         ps.map fun o => o.getD 0, a⟩

/-- A row's state as the statistics area and O hold it. -/
def oldRow (rd : Rd) (c : Acb) (r : Nat) : Row :=
  ⟨rdWord rd (c.statBase + 4 * r), rdWord rd (c.statBase + 4 * r + 1),
   (List.range c.d).map fun i => rdWord rd (c.oBase + c.oStride * r + i)⟩

/-- An export record of one row (R192), as words. -/
def record (rd : Rd) (c : Acb) (r : Nat) (o : RowOut) : List Nat :=
  let w := c.rowWord rd r
  let hdr := o.row.m + 2 ^ 32 * o.a + 2 ^ 64 * fld w 0 26 + 2 ^ 92 * fld w 28 4
    + 2 ^ 96 * (c.kpos 0 % 2 ^ 26) + 2 ^ 128 * c.n
  toWords hdr 8 ++ toWords (packCodes c.pFmt.width o.p) ((c.pFmt.rowBytes c.n + 31) / 32 * 8)

/-- A run-time stop of a step: a reserved row field, then a position at the limit, then a poisoned word (R177, R179, R181). -/
def stops (rd : Rd) (c : Acb) (poison : List Nat) (has : Nat → Bool) : Option Status :=
  if (List.range c.m).any (fun r => fld (c.rowWord rd r) 26 2 != 0) then some .badCommand
  else if c.m != 0 && (List.range c.n).any (fun t => c.kpos t ≥ 2 ^ 26) then some .limit
  else if poison.any has then some .memoryError
  else none

/-- A token that some row sees, whose K and V are therefore read (R181). -/
def tokenRead (rd : Rd) (c : Acb) (t : Nat) : Bool := (List.range c.m).any fun r => c.vis rd r t

/-- Word w is read by an ATS (R181). -/
def atsReads (rd : Rd) (c : Acb) (w : Nat) : Bool :=
  rowsHas c.rowBase 1 c.m 4 w || rowsHas c.qBase c.qStride c.m (c.qFmt.rowBytes c.d) w
    || (!c.first && (rowsHas c.oBase c.oStride c.m (4 * c.d) w || rowsHas c.statBase 4 c.m 8 w))
    || (List.range c.n).any fun t => tokenRead rd c t &&
        (rowsHas (c.kBase + c.kStride * t) 0 1 (c.kFmt.rowBytes c.d) w
          || rowsHas (c.vBase + c.vStride * t) 0 1 (c.vFmt.rowBytes c.d) w)

/-- One ATS (R182 to R185, R192). -/
def ats (rd : Rd) (pics : Nat → Picot) (c : Acb) (poison : List Nat) : Except Status EngOut :=
  match c.stops rd poison (c.atsReads rd) with
  | some e => .error e
  | none =>
    if c.m = 0 ∨ (c.n = 0 ∧ !c.first) then .ok .none
    else
      let rows := (List.range c.m).map fun r => (r, c.rowStep rd pics r (c.oldRow rd r))
      let used := (c.pFmt.rowBytes c.n + 3) / 4
      .ok
        { writes := rows.flatMap fun (r, o) =>
            wordsAt (c.statBase + 4 * r) [o.row.m, o.row.l] ++ wordsAt (c.oBase + c.oStride * r) o.row.o
              ++ packRow c.pFmt (c.sBase + c.sRow * r) o.p
          undef := if c.n = 0 then [] else rows.map fun (r, _) => (c.sBase + c.sRow * r + used, c.sRow - used)
          records := if c.expEn then rows.map fun (r, o) => c.record rd r o else [] }

/-! ### Finalise -/

/-- The exact quotient of two FP32 codes rounded once into a format; the key names the free value of a case the spec
does not state (R187). -/
def quotient (f : EFmt) (sat : Bool) (o l : Num) (key : Nat) : Nat :=
  match o, l with
  | .nan, _ => toCode f sat .nan
  | _, .nan => toCode f sat .nan
  | .inf n, .fin nl ml _ => if ml = 0 then Config.freeNat .choice key 0 % 2 ^ f.width else toCode f sat (.inf (n != nl))
  | .fin n mo eo, .fin nl ml el =>
    if ml = 0 then Config.freeNat .choice key 0 % 2 ^ f.width
    else if mo = 0 then toCode f sat (.fin (n != nl) 0 0)
    else
      match f.flt? with
      | some g => g.encodeMag sat (n != nl) (Mag.ofRat mo ml (eo - el))
      | none => 0
  | _, _ => Config.freeNat .choice key 0 % 2 ^ f.width

/-- The output operand of an ATF (R186, R309). -/
structure AtfOut where
  base : Nat
  stride : Nat
  fmt : EFmt
  outSat : Bool
  deriving DecidableEq, Repr

def hullY (c : Acb) (y : AtfOut) : Hull := rowsHull y.base y.stride c.m (y.fmt.rowBytes c.d)

/-- The checks of an ATF (R177, R186, R309). -/
def atfCheck (c : Acb) (cb : Nat) (loaded : Nat → Bool) (y : AtfOut) : Option Status :=
  if !c.fieldsOk || !c.extentsOk || !c.comboOk || (c.capEn && !slotOk loaded c.capSlot)
      || (c.biasEn && !slotOk loaded c.biasSlot) then some .badCommand
  else if c.m = 0 then (if lineAligned y.base && y.base ≤ lastWord then none else some .badAddress)
  else if !(lineAligned c.oBase && lineAligned c.statBase && lineAligned y.base)
      || (c.m > 1 && (c.oStride < c.d || 4 * y.stride < y.fmt.rowBytes c.d)) then some .badAddress
  else
    let hy := c.hullY y
    let self := hullSelf cb 256
    if !(hullOk c.hullAcc && hullOk hy) then some .badAddress
    else if hullMeet hy self || hullMeet c.hullAcc self || hullMeet hy c.hullStat then some .badAddress
    else if hullMeet hy c.hullAcc && !(y.fmt == .fp32 && y.base == c.oBase && y.stride == c.oStride) then some .badAddress
    else none

/-- Word w is read by an ATF. -/
def atfReads (c : Acb) (w : Nat) : Bool := rowsHas c.oBase c.oStride c.m (4 * c.d) w || rowsHas c.statBase 4 c.m 8 w

/-- The log-sum-exp of a row (R187). -/
def lse (c : Acb) (m l : Nat) : Nat :=
  let x := (Fn.log2 ((Flt.fp32.decode l).shl (-c.piLog))).roundCode (flushEncode .fp32 false) l
  fp32Add m x

/-- One ATF (R187, R188). -/
def atf (rd : Rd) (c : Acb) (y : AtfOut) (poison : List Nat) (key : Nat) : Except Status EngOut :=
  if poison.any c.atfReads then .error .memoryError
  else .ok (.ofWrites ((List.range c.m).flatMap fun r =>
    let st := c.oldRow rd r
    let row := y.base + y.stride * r
    let stat := c.statBase + 4 * r + 2
    match Flt.fp32.decode st.m with
    | .nan => packRow y.fmt row (st.o.map fun _ => toCode y.fmt y.outSat .nan) ++ wordsAt stat [0x7FC00000, 0]
    | .inf true => packRow y.fmt row (st.o.map fun _ => 0) ++ wordsAt stat [0xFF800000, 0]
    | _ =>
      packRow y.fmt row (st.o.zipIdx.map fun (o, i) =>
        quotient y.fmt y.outSat (Flt.fp32.decode o) (Flt.fp32.decode st.l) (key + 256 * r + i))
        ++ wordsAt stat [c.lse st.m st.l, 0]))

end Acb

/-! ### Backward -/

/-- A backward control block: the step control block and the gradient descriptor (R196, R197). -/
structure Bcb where
  step : Acb
  grad : Nat
  deriving DecidableEq, Repr

namespace Bcb
open Acb

def doBase (b : Bcb) := fld b.grad 0 20
def dqBase (b : Bcb) := fld b.grad 20 20
def dkBase (b : Bcb) := fld b.grad 40 20
def dvBase (b : Bcb) := fld b.grad 60 20
def dpBase (b : Bcb) := fld b.grad 80 20
def doStride (b : Bcb) := 8 * fld b.grad 128 17
def dqStride (b : Bcb) := 8 * fld b.grad 145 17
def dkStride (b : Bcb) := 8 * fld b.grad 162 17
def dvStride (b : Bcb) := 8 * fld b.grad 179 17
def doFmt (b : Bcb) := attFmt (fld b.grad 200 2)
def oCode (b : Bcb) := fld b.grad 202 3
def oFmt (b : Bcb) : EFmt := if b.oCode = 4 then .fp32 else attFmt b.oCode
def delta (b : Bcb) := bitAt b.grad 205
def dqAcc (b : Bcb) := bitAt b.grad 206
def dkAcc (b : Bcb) := bitAt b.grad 207
def dvAcc (b : Bcb) := bitAt b.grad 208

/-- The restrictions of R195 and R198 and the reserved fields. -/
def cmdOk (b : Bcb) (loaded : Nat → Bool) : Bool :=
  let c := b.step
  let p := c.pFmt
  let half (f : EFmt) : Bool := f.isFp8 || f == p
  c.fieldsOk && c.extentsOk && c.comboOk && !p.isFp8 && half c.qFmt && half c.kFmt && half c.vFmt && half b.doFmt
    && !(c.capEn && c.biasEn) && (!c.capEn || c.capSlot == 13) && (!c.biasEn || slotOk loaded c.biasSlot)
    && !c.first && !c.expEn && fld b.grad 100 28 == 0 && fld b.grad 196 4 == 0 && fld b.grad 209 815 == 0
    && b.oCode ≤ 4 && (b.delta || (b.oCode == 0 && c.oBase == 0 && c.oStride == 0))

def hullQuery (b : Bcb) : Hull :=
  let c := b.step
  hullJoin (hullJoin c.hullQ (rowsHull b.doBase b.doStride c.m (b.doFmt.rowBytes c.d)))
    (if b.delta then rowsHull c.oBase c.oStride c.m (b.oFmt.rowBytes c.d) else none)
def hullKey (b : Bcb) : Hull :=
  hullJoin (rowsHull b.step.kBase b.step.kStride b.step.n (b.step.kFmt.rowBytes b.step.d))
    (rowsHull b.step.vBase b.step.vStride b.step.n (b.step.vFmt.rowBytes b.step.d))
def hullScratch (b : Bcb) : Hull := hullJoin b.step.hullS (rowsHull b.dpBase b.step.sRow b.step.m (4 * b.step.sRow))
def hullRow (b : Bcb) : Hull := hullJoin (rowsHull b.dqBase b.dqStride b.step.m (4 * b.step.d)) b.step.hullStat
def hullBlock (b : Bcb) : Hull :=
  hullJoin (rowsHull b.dkBase b.dkStride b.step.n (4 * b.step.d)) (rowsHull b.dvBase b.dvStride b.step.n (4 * b.step.d))

/-- The checks of R200 on an ATB at control block cb. -/
def check (b : Bcb) (cb : Nat) (loaded : Nat → Bool) : Option Status :=
  let c := b.step
  if !b.cmdOk loaded then some .badCommand
  else if c.m = 0 ∧ c.n = 0 then none
  else if !(c.basesAligned && lineAligned b.doBase && lineAligned b.dqBase && lineAligned b.dkBase && lineAligned b.dvBase
      && lineAligned b.dpBase) then some .badAddress
  else if (c.m > 1 && b.dqStride < c.d) || (c.n > 1 && (b.dkStride < c.d || b.dvStride < c.d)) then some .badAddress
  else
    let rs := [hullSelf cb 384, b.hullQuery, b.hullKey]
    let ws := [b.hullScratch, b.hullRow, b.hullBlock]
    if !(rs.all hullOk && ws.all hullOk) then some .badAddress
    else if ws.any (fun w => rs.any (hullMeet w)) || hullMeet b.hullScratch b.hullRow || hullMeet b.hullScratch b.hullBlock
        || hullMeet b.hullRow b.hullBlock then some .badAddress
    else none

/-- D of row r (R202). -/
def deltaOf (rd : Rd) (b : Bcb) (r : Nat) : Nat :=
  let c := b.step
  if b.delta then
    rneFp32 (sumExact ((List.range c.d).map fun i =>
      (elemVal rd b.doFmt (b.doBase + b.doStride * r) 0 i).mul (elemVal rd b.oFmt (c.oBase + c.oStride * r) 0 i)))
  else rdWord rd (c.statBase + 4 * r + 3)

/-- A quotient of two SW40 values, rounded once (R203). -/
def divSw (a c : Num) : Num :=
  match a, c with
  | .fin n ma ea, .fin nc mc ec => if mc = 0 then .nan else sw40Mag (n != nc) (Mag.ofRat ma mc (ea - ec))
  | .inf n, .fin nc _ _ => .inf (n != nc)
  | .fin n _ _, .inf nc => .fin (n != nc) 0 0
  | _, _ => .nan

/-- p and ds codes of a visible position (R201, R203). -/
def cell (rd : Rd) (pics : Nat → Picot) (b : Bcb) (r t : Nat) (dr : Nat) : Nat × Nat :=
  let c := b.step
  let pf := c.pFlt
  let l := Flt.fp32.decode (rdWord rd (c.statBase + 4 * r + 2))
  let s := c.score rd pics r t
  let sv := Flt.fp32.decode s
  let p := if l.isNaN || sv.isNaN || sv == .inf false then pf.nanCode
    else if l == .inf true then 0
    else exp2To pf 0 (rneSw40 ((toSw40 .fp32 s).sub l.flush))
  let dpCl : MClass := if b.doFmt.isFp8 && c.vFmt.isFp8 then .narrow else .wide
  let dp := rowDot rd dpCl b.doFmt c.vFmt (b.doBase + b.doStride * r) (c.vBase + c.vStride * t) c.d
  let x := (Flt.fp32.decode dp).sub (Flt.fp32.decode dr)
  let g := if c.capEn then
      let u := divSw (toSw40 .fp32 s) (toSw40 .fp32 c.cap)
      rneSw40 (Num.one.sub (u.mul u))
    else .one
  (p, pf.encode true (((pf.decode p).mul x).mul g).posZero)

/-- Word w is read by an ATB. -/
def reads (rd : Rd) (b : Bcb) (w : Nat) : Bool :=
  let c := b.step
  rowsHas c.rowBase 1 c.m 4 w || rowsHas c.qBase c.qStride c.m (c.qFmt.rowBytes c.d) w
    || rowsHas b.doBase b.doStride c.m (b.doFmt.rowBytes c.d) w
    || (b.delta && rowsHas c.oBase c.oStride c.m (b.oFmt.rowBytes c.d) w)
    || rowsHas (c.statBase + 2) 4 c.m (if b.delta then 4 else 8) w
    || (b.dqAcc && rowsHas b.dqBase b.dqStride c.m (4 * c.d) w)
    || (b.dkAcc && rowsHas b.dkBase b.dkStride c.n (4 * c.d) w)
    || (b.dvAcc && rowsHas b.dvBase b.dvStride c.n (4 * c.d) w)
    || (List.range c.n).any fun t => tokenRead rd c t &&
        (rowsHas (c.kBase + c.kStride * t) 0 1 (c.kFmt.rowBytes c.d) w
          || rowsHas (c.vBase + c.vStride * t) 0 1 (c.vFmt.rowBytes c.d) w)

/-- One accumulator element: the initial value and the terms in order (R204). -/
def accElem (rd : Rd) (acc : Bool) (addr : Nat) (terms : List (Option Num)) : Nat :=
  accumulate .wide (if acc then rdWord rd addr else 0) terms

/-- One ATB (R201 to R205). Codes of masked positions are free values: the spec gives them no value. -/
def run (rd : Rd) (pics : Nat → Picot) (b : Bcb) (poison : List Nat) (key : Nat) : Except Status EngOut :=
  let c := b.step
  match c.stops rd poison (b.reads rd) with
  | some e => .error e
  | none =>
    if c.m = 0 ∧ c.n = 0 then .ok .none
    else
      let pf := c.pFlt
      let ds := (List.range c.m).map (b.deltaOf rd)
      let cells : List (List (Option (Nat × Nat))) := (List.range c.m).map fun r =>
        (List.range c.n).map fun t => if c.vis rd r t then some (b.cell rd pics r t (ds.getD r 0)) else none
      let pAt (r t : Nat) : Option Num := ((cells.getD r []).getD t none).map fun x => pf.decode x.1
      let dAt (r t : Nat) : Option Num := ((cells.getD r []).getD t none).map fun x => pf.decode x.2
      let used := (c.pFmt.rowBytes c.n + 3) / 4
      let free (k r t : Nat) : Nat := Config.freeNat .undefWord (key + k) (256 * r + t) % 2 ^ pf.width
      let rowWrites := cells.zipIdx.flatMap fun (cs, r) =>
        packRow c.pFmt (c.sBase + c.sRow * r) (cs.zipIdx.map fun (o, t) => (o.map (·.1)).getD (free 0 r t))
          ++ packRow c.pFmt (b.dpBase + c.sRow * r) (cs.zipIdx.map fun (o, t) => (o.map (·.2)).getD (free 1 r t))
      let stats := if b.delta then ds.zipIdx.map fun (x, r) => (c.statBase + 4 * r + 3, x) else []
      let dq := (List.range c.m).flatMap fun r => wordsAt (b.dqBase + b.dqStride * r) ((List.range c.d).map fun i =>
        accElem rd b.dqAcc (b.dqBase + b.dqStride * r + i) ((List.range c.n).map fun t =>
          (dAt r t).map fun x => x.mul (elemVal rd c.kFmt (c.kBase + c.kStride * t) 0 i)))
      let dk := (List.range c.n).flatMap fun t => wordsAt (b.dkBase + b.dkStride * t) ((List.range c.d).map fun i =>
        accElem rd b.dkAcc (b.dkBase + b.dkStride * t + i) ((List.range c.m).map fun r =>
          (dAt r t).map fun x => x.mul (elemVal rd c.qFmt (c.qBase + c.qStride * r) 0 i)))
      let dv := (List.range c.n).flatMap fun t => wordsAt (b.dvBase + b.dvStride * t) ((List.range c.d).map fun i =>
        accElem rd b.dvAcc (b.dvBase + b.dvStride * t + i) ((List.range c.m).map fun r =>
          (pAt r t).map fun x => x.mul (elemVal rd b.doFmt (b.doBase + b.doStride * r) 0 i)))
      .ok
        { writes := (if c.n = 0 then [] else rowWrites) ++ stats ++ dq ++ dk ++ dv
          undef := if c.n = 0 then [] else (List.range c.m).flatMap fun r =>
            [(c.sBase + c.sRow * r + used, c.sRow - used), (b.dpBase + c.sRow * r + used, c.sRow - used)]
          records := [] }

end Bcb

end Sys2Proof.Machine
end

