-- ==== Sys2Proof/Machine/Maps.lean ====
section
/-! DEFINITION. Plain-data containers: maps by number, sets of ranges, and byte memory in one canonical form (R7, R331). -/

namespace Sys2Proof.Machine

/-- A map from numbers: keys strictly rising. -/
abbrev AMap (α : Type) := List (Nat × α)

namespace AMap

def get? {α : Type} (m : AMap α) (k : Nat) : Option α :=
  match m with
  | [] => none
  | (a, v) :: t => if a = k then some v else get? t k

def getD {α : Type} (m : AMap α) (k : Nat) (d : α) : α := (get? m k).getD d

def set {α : Type} (m : AMap α) (k : Nat) (v : α) : AMap α :=
  match m with
  | [] => [(k, v)]
  | (a, w) :: t => if k < a then (k, v) :: (a, w) :: t else if k = a then (k, v) :: t else (a, w) :: set t k v

def del {α : Type} (m : AMap α) (k : Nat) : AMap α :=
  match m with
  | [] => []
  | (a, w) :: t => if a = k then del t k else (a, w) :: del t k

/-- The least key not below `lo` that the map does not hold, found in at most `fuel` tries. -/
def freeKey {α : Type} (m : AMap α) : Nat → Nat → Nat
  | 0, lo => lo
  | f + 1, lo => if (get? m lo).isSome then freeKey m f (lo + 1) else lo

def keys {α : Type} (m : AMap α) : List Nat := m.map (·.1)

/-- A change of the value under a key that is present. -/
def modify {α : Type} (m : AMap α) (k : Nat) (f : α → α) : AMap α :=
  m.map fun (a, v) => if a = k then (a, f v) else (a, v)

end AMap

/-- Element i of a list replaced. -/
def setAt {α : Type} : List α → Nat → α → List α
  | [], _, _ => []
  | _ :: t, 0, v => v :: t
  | x :: t, i + 1, v => x :: setAt t i v

/-- Element i of a list changed. -/
def modAt {α : Type} : List α → Nat → (α → α) → List α
  | [], _, _ => []
  | x :: t, 0, f => f x :: t
  | x :: t, i + 1, f => x :: modAt t i f

/-- A set of numbers as disjoint ranges, rising and not adjacent. -/
abbrev Ranges := List (Nat × Nat)

namespace Ranges

def has (r : Ranges) (x : Nat) : Bool := r.any fun (a, b) => a ≤ x && x ≤ b

def add (lo hi : Nat) : Ranges → Ranges
  | [] => [(lo, hi)]
  | (a, b) :: t =>
    if hi + 1 < a then (lo, hi) :: (a, b) :: t
    else if b + 1 < lo then (a, b) :: add lo hi t
    else add (min lo a) (max hi b) t

def del (lo hi : Nat) (r : Ranges) : Ranges :=
  r.flatMap fun (a, b) =>
    if b < lo ∨ hi < a then [(a, b)]
    else (if a < lo then [(a, lo - 1)] else []) ++ (if hi < b then [(hi + 1, b)] else [])

/-- How many runs of n numbers a set of ranges holds. -/
def runs (n : Nat) (r : Ranges) : Nat := (r.map fun (a, b) => b + 2 - a - n).sum

/-- The start of the run of number i. -/
def nthRun (n : Nat) : Ranges → Nat → Option Nat
  | [], _ => none
  | (a, b) :: t, i => if i < b + 2 - a - n then some (a + i) else nthRun n t (i - (b + 2 - a - n))

/-- A run of n numbers, which of them the key says; none when there is none. -/
def pickRun (n key : Nat) (r : Ranges) : Option Nat :=
  let c := runs n r
  if c = 0 then none else if c = 1 then nthRun n r 0 else nthRun n r (Config.freeNat .choice key c % c)

end Ranges

/-- One element of a list, which of them the key says (a choice the spec leaves open). -/
def pickOne {α : Type} (key : Nat) (l : List α) : Option α :=
  match l with
  | [] => none
  | [x] => some x
  | _ => l[Config.freeNat .choice key l.length % l.length]?

/-- Ranges of words whose content is a free value, each with the tag its values are taken under. -/
abbrev TagRanges := List (Nat × Nat × Nat)

namespace TagRanges

def tag? (r : TagRanges) (x : Nat) : Option Nat :=
  (r.find? fun (a, b, _) => a ≤ x && x ≤ b).map fun (_, _, t) => t

def del (lo hi : Nat) (r : TagRanges) : TagRanges :=
  r.flatMap fun (a, b, t) =>
    if b < lo ∨ hi < a then [(a, b, t)]
    else (if a < lo then [(a, lo - 1, t)] else []) ++ (if hi < b then [(hi + 1, b, t)] else [])

def add (lo hi t : Nat) (r : TagRanges) : TagRanges := (lo, hi, t) :: del lo hi r

end TagRanges

/-- Byte memory: addresses strictly rising, no entry equal to 0, which is what an unlisted address reads as. -/
abbrev Mem := List Host.Cell

namespace Mem

/-- What an unlisted address reads as: memory is zeroed before a tenant gets it (R331), open water at start (R82). -/
def blank : BitVec 8 := 0

def get (m : Mem) (a : Nat) : BitVec 8 :=
  match m with
  | [] => blank
  | (k, v) :: t => if k = a then v else get t a

def set (m : Mem) (a : Nat) (v : BitVec 8) : Mem :=
  match m with
  | [] => if v = blank then [] else [(a, v)]
  | (k, w) :: t =>
    if a < k then (if v = blank then (k, w) :: t else (a, v) :: (k, w) :: t)
    else if a = k then (if v = blank then t else (a, v) :: t)
    else (k, w) :: set t a v

/-- Keys strictly rising from a lower bound, and no blank entry. -/
def wfFrom : Nat → Mem → Bool
  | _, [] => true
  | lo, (k, v) :: t => decide (lo ≤ k) && decide (v ≠ blank) && wfFrom (k + 1) t

/-- The canonical form. -/
def wf (m : Mem) : Bool := wfFrom 0 m

/-- n bytes from an address, as numbers. -/
def read (m : Mem) (a : Nat) : Nat → List Nat
  | 0 => []
  | n + 1 => (m.get a).toNat :: read m (a + 1) n

/-- Bytes stored from an address up. -/
def write (m : Mem) (a : Nat) : List Nat → Mem
  | [] => m
  | b :: bs => write (m.set a (BitVec.ofNat 8 b)) (a + 1) bs

/-- Every byte from lo to hi - 1 set to 0. -/
def clear (m : Mem) (lo hi : Nat) : Mem := m.filter fun (k, _) => decide (k < lo) || decide (hi ≤ k)

/-- A little-endian number of n bytes (R7). -/
def readLE (m : Mem) (a : Nat) : Nat → Nat
  | 0 => 0
  | n + 1 => (m.get a).toNat + 256 * readLE m (a + 1) n

/-- A little-endian number stored in n bytes (R7). -/
def writeLE (m : Mem) (a v : Nat) : Nat → Mem
  | 0 => m
  | n + 1 => writeLE (m.set a (BitVec.ofNat 8 v)) (a + 1) (v / 256) n

end Mem

/-- The bytes of a number, the lowest first. -/
def toBytes (v : Nat) : Nat → List Nat
  | 0 => []
  | n + 1 => v % 256 :: toBytes (v / 256) n

/-- The number of a list of bytes, the lowest first. -/
def ofBytes : List Nat → Nat
  | [] => 0
  | b :: bs => b % 256 + 256 * ofBytes bs

end Sys2Proof.Machine
end

