-- ==== Sys2Proof/Machine/HolmState.lean ====
section
/-! DEFINITION. The state of one physical holm, and of requests on the on-die network (R32 to R99, R149, R213 to R225,
R298 to R327). -/

namespace Sys2Proof.Machine

/-- The states of a physical holm (R66). -/
inductive HState where
  | fusedOut | spare | gated | idle | running | faulted
  deriving DecidableEq, Repr

/-- The engine queues (R34). -/
inductive Queue where
  | mxe | vec | sfu | bob | msg
  deriving DecidableEq, Repr

/-- The kinds of a scoreboard entry (R40). -/
inductive SbKind where
  | write | read | declared
  deriving DecidableEq, Repr

/-- What retires an entry (R40, R45, R222, R320). -/
inductive RetireEv where
  /-- the engine's last access of the operand -/
  | engine
  /-- the channel has read the parameter block -/
  | params (ch : Nat)
  /-- the channel has read the last tile of a POST -/
  | post (ch : Nat)
  /-- the channel has read the last line of an append -/
  | kva (ch : Nat)
  /-- the in-channel's tile count reaches the number -/
  | tiles (ch n : Nat)
  /-- the arrival counter reaches the number -/
  | arrivals (n : Nat)
  /-- the barrier's phase reaches the number -/
  | phase (b n : Nat)
  deriving DecidableEq, Repr

/-- A scoreboard entry (R40). -/
structure SbEntry where
  id : Nat
  kind : SbKind
  first : Nat
  last : Nat
  owner : List Queue
  ev : RetireEv
  deriving DecidableEq, Repr

/-- An issued engine instruction that has not completed: its place in the queues and its operands (R34, R35, R325). -/
structure InFlight where
  pc : Nat
  opc : Nat
  queues : List Queue
  entries : List Nat
  writes : List (Nat × Nat)
  /-- column chunks an emitting MMA has still to hand to its collective, and the collective's slot (R307, R418) -/
  emits : List (Nat × Nat)
  cslot : Nat
  /-- where its C rows lie: base and stride in words, element width in bits, columns -/
  emitAt : Nat × Nat × Nat × Nat
  deriving DecidableEq, Repr

/-- The fault record HFR (R326). -/
structure FaultRec where
  status : Status
  pc : Nat
  opc : Nat
  ch : Nat
  deferred : Bool
  detail : Nat
  hw : Bool
  more : Nat
  tide : Nat
  deriving DecidableEq, Repr

/-- The 128 bits of a fault record (R326). -/
def FaultRec.bits (r : FaultRec) : Nat :=
  r.status.code + 2 ^ 8 * (r.pc % 2 ^ 12) + 2 ^ 20 * (r.opc % 2 ^ 8) + 2 ^ 28 * (r.ch % 8)
    + 2 ^ 31 * r.deferred.toNat + 2 ^ 32 * (r.detail % 2 ^ 32) + 2 ^ 64 * r.hw.toNat
    + 2 ^ 72 * min r.more 255 + 2 ^ 80 * (r.tide % 2 ^ 48)

/-- A wheel descriptor (R74). -/
structure Wheel where
  preset : Nat
  entries : Nat
  deriving DecidableEq, Repr

def Wheel.general : Wheel := ⟨1, 0⟩
def Wheel.fill : Wheel := ⟨4, 0⟩

/-- A loaded program image (R298). -/
structure Program where
  words : List (BitVec 128)
  shapes : List (BitVec 256)
  noRank : Bool
  deriving DecidableEq, Repr

/-- A loaded pricking (R213). -/
structure Pricking where
  outDir : Bool
  code : List (BitVec 64)
  deriving DecidableEq, Repr

/-- An exposure entry in use (R88). -/
structure Exposure where
  first : Nat
  last : Nat
  mode : Nat
  deriving DecidableEq, Repr

/-- A tile of a channel's run (R219, R221). -/
structure Tile where
  num : Nat
  closed : Bool
  /-- far requests issued and not yet answered -/
  outstanding : Nat
  counted : Bool
  freed : Bool
  /-- closed by a STOP: never counted -/
  dropped : Bool
  /-- a walker request that has not completed -/
  walker : Bool
  /-- go credits consumed for it, and the POST entries that retire when it has been read (R222) -/
  credits : Nat
  due : List Nat
  deriving DecidableEq, Repr

/-- A POST on a channel that still has credits to be consumed (R222). -/
structure Post where
  left : Nat
  entry : Option Nat
  deriving DecidableEq, Repr

/-- A KVA that occupies a channel (R318). -/
structure KvaJob where
  entry : Nat
  handle : Nat
  src : Nat
  tokens : Nat
  layer : Nat
  h0 : Nat
  hcnt : Nat
  off : Nat
  pc : Nat
  deriving DecidableEq, Repr

/-- A bobbin channel (R214, R219 to R222). -/
structure Chan where
  /-- a run is in progress; it has been stopped; its END has executed -/
  active : Bool
  stopping : Bool
  ended : Bool
  slot : Nat
  depth : Nat
  startPc : Nat
  paramAddr : Nat
  paramEntry : Option Nat
  loaded : Bool
  pc : Nat
  ar : List (BitVec 48)
  loops : List Word
  params : List Word
  credits : Nat
  tileOpen : Bool
  tiles : List Tile
  begun : Nat
  count : Nat
  posts : List Post
  /-- credits consumed, and their POST entries, since the last tile began -/
  taken : Nat
  takenDue : List Nat
  /-- credits issued by POSTs of the invocation, and those whose tile has drained or that were discarded (R226) -/
  posted : Nat
  settled : Nat
  kva : Option KvaJob
  failed : Option (Status × Nat × Nat)
  /-- score records an ATS has sent to the channel (R192) -/
  exported : List (List Nat)
  deriving DecidableEq, Repr

-- DESIGN CHOICE, unsafe: log 8.
-- DESIGN CHOICE, unsafe: log 121.
def Chan.reset : Chan :=
  { active := false, stopping := false, ended := false, slot := 0, depth := 1, startPc := 0, paramAddr := 0
    paramEntry := none, loaded := false, pc := 0, ar := List.replicate 4 0, loops := List.replicate 4 0
    params := List.replicate 4 0, credits := 0, tileOpen := false, tiles := [], begun := 0, count := 0, posts := []
    taken := 0, takenDue := [], posted := 0, settled := 0, kva := none, failed := none, exported := [] }

/-- An operation waiting in the bobbin control queue (R34, R221, R318). -/
inductive BobOp where
  | start (ch slot depth param entry pc : Nat)
  | stop (ch : Nat)
  | post (ch n : Nat) (entry : Option Nat) (pc : Nat)
  | release (ch n pc : Nat)
  | kva (ch : Nat) (job : KvaJob)
  deriving DecidableEq, Repr

/-- An issued arrival that has not taken effect (R226). -/
structure Arrival where
  bar : Nat
  writes : List Nat
  /-- for each masked out-channel, how many of its credits must be settled -/
  drains : List (Nat × Nat)
  deriving DecidableEq, Repr

/-- What a holm is running (R39, R82, R301): a unit of work and the identity the program reads. -/
structure Invocation where
  work : Nat
  tidal : Bool
  exportPerm : Bool
  lg : Nat
  index : Nat
  size : Nat
  epoch : Nat
  tide : Nat
  /-- stage of the unit of work, and the partition it runs in -/
  stage : Nat
  part : Nat
  /-- TIDE or HALT has issued and waits for R232 -/
  ending : Bool
  deriving DecidableEq, Repr

/-- A repair in progress: the row (as a line of its bank), the spare, and whether the copy is complete (R96). -/
structure RowRepair where
  bank : Nat
  row : Nat
  spare : Nat
  copied : Bool
  deriving DecidableEq, Repr

/-- The staged settings of a holm waiting for a slack or for the start of an invocation (R237). -/
structure Staged where
  wheel : Option Wheel
  exposure : Option (List Exposure)
  lagoon : Option (Nat × Nat)
  sfuMode : Option SfuMode
  program : Option Program
  picots : Option (AMap Picot)
  prickings : Option (AMap Pricking)
  deriving DecidableEq, Repr

def Staged.none : Staged := ⟨.none, .none, .none, .none, .none, .none, .none⟩

/-- One physical holm. -/
structure Holm where
  st : HState
  mem : Mem
  written : Ranges
  undef : TagRanges
  poison : List Nat
  program : Program
  picots : AMap Picot
  prickings : AMap Pricking
  sfuMode : SfuMode
  wheel : Wheel
  /-- lagoon size L (R80) and the tenant address of the lagoon image plus one, 0 for none (R85) -/
  lagoon : Nat
  image : Nat
  /-- the lagoon is to be loaded from its image before the next invocation (R85) -/
  loadDue : Bool
  exposure : List Exposure
  staged : Staged
  pc : Nat
  g : List Word
  scoreboard : List SbEntry
  nextEntry : Nat
  inFlight : List InFlight
  bobq : List BobOp
  arrivals : List Arrival
  /-- the ARRIVE_WAIT at the head has issued its arrival (R226) -/
  headArrived : Bool
  /-- barriers held: barrier numbers (R226) -/
  held : List Nat
  waitPhase : AMap Nat
  /-- phases the holm has learnt of, by combed release (R229) -/
  seenPhase : AMap Nat
  /-- arrivals made at each barrier in the invocation (R490) -/
  arrCount : AMap Nat
  arrivalCount : Nat
  inbox : List (List Nat)
  /-- messages sent to each logical holm, and numbers of the messages delivered from each (R485, R490) -/
  msgSeq : AMap Nat
  gotSeq : AMap Ranges
  chans : List Chan
  inv : Option Invocation
  fault : Option FaultRec
  record : Option FaultRec
  /-- the holm and line of the poisoned word that a bobbin of this holm met (R98, R493) -/
  badRow : Option (Nat × Nat)
  ramp : Bool
  fmax : Nat
  freq : Nat
  /-- throttle level (R510) -/
  throttle : Nat
  /-- droop stretches: one under way since a tick, all of them counted, and their time in the tide, ns (R524) -/
  stretched : Bool
  stretchFrom : Nat
  stretchTime : Nat
  stretchCount : Nat
  ceCount : Nat
  staleCount : Nat
  repairs : List (Nat × Nat × Nat)
  /-- per line: scrub passes with errors and correctable errors since boot (R96) -/
  rowErrors : AMap (Nat × Nat)
  repairing : List RowRepair
  repairRecord : List (Nat × Nat × Nat)
  retirePlanned : Bool
  /-- the tenant whose partition last held it (R457) -/
  owner : Option Nat
  /-- a sender has reported it to firmware for want of a response (R56) -/
  reported : Bool
  deriving DecidableEq, Repr

def Program.empty : Program := ⟨[], [], false⟩

def Holm.reset (st : HState) : Holm :=
  { st := st, mem := [], written := [], undef := [], poison := [], program := .empty, picots := [], prickings := []
    sfuMode := .native, wheel := .general, lagoon := 0, image := 0, loadDue := false, exposure := [], staged := .none
    pc := 0, g := List.replicate 16 0, scoreboard := [], nextEntry := 0, inFlight := [], bobq := [], arrivals := [], headArrived := false
    held := [], waitPhase := [], seenPhase := [], arrCount := [], arrivalCount := 0, inbox := [], msgSeq := [], gotSeq := []
    chans := List.replicate 8 Chan.reset, inv := none, fault := none, record := none, badRow := none, ramp := false
    fmax := 2000, freq := 2000, throttle := 16, stretched := false, stretchFrom := 0, stretchTime := 0, stretchCount := 0, ceCount := 0, staleCount := 0, repairs := []
    rowErrors := [], repairing := [], repairRecord := [], retirePlanned := false, owner := none, reported := false }

/-- A remap table entry (R57). -/
structure Remap where
  phys : Nat
  valid : Bool
  epoch : Nat
  deriving DecidableEq, Repr

/-- The 32 bits of a remap entry (R57). -/
def Remap.bits (r : Remap) : Nat := r.phys % 2 ^ 7 + 2 ^ 7 * r.valid.toNat + 2 ^ 8 * (r.epoch % 2 ^ 24)

/-- What ordered the last change of a role (R64). -/
inductive RoleCause where
  | none | firmware | ordered
  deriving DecidableEq, Repr

/-- The kinds of a network request (R53, R55). -/
inductive NetKind where
  | read | write | msg
  deriving DecidableEq, Repr

/-- A remote access or message on the on-die network (R53, R55, R56, R62). -/
structure NetReq where
  kind : NetKind
  src : Nat
  ch : Nat
  pc : Nat
  tile : Nat
  tgtLg : Nat
  tgtPhys : Nat
  epoch : Nat
  addr : Nat
  lines : Nat
  local_ : Nat
  data : List Nat
  /-- arrived and checked at the target -/
  accepted : Bool
  /-- order of arrival of a message at its target, 0 before it has arrived -/
  arrived : Nat
  /-- sending logical holm, and a message's number among those it sent to the target -/
  srcLg : Nat
  seq : Nat
  resp : Option Status
  held : Bool
  deriving DecidableEq, Repr

end Sys2Proof.Machine
end

