-- ==== Sys2Proof/Machine/MemState.lean ====
section
/-! DEFINITION. The state of the memory tiers, of tenants, partitions and translation (R26, R329 to R359, R452 to R461). -/

namespace Sys2Proof.Machine

/-- The two orderable parts (R1). -/
inductive Part where
  | a | b
  deriving DecidableEq, Repr

/-- A unit entry of a codec extent: stored place and size in sectors (R345); size 0 for an all-zero unit. -/
structure UnitEntry where
  seg : Nat
  sector : Nat
  size : Nat
  poisoned : Bool
  deriving DecidableEq, Repr

/-- A codec extent: the logical bytes of its page and its unit entries (R330, R344, R345). -/
structure Extent where
  tier : Nat
  owner : Nat
  mem : Mem
  units : AMap UnitEntry
  deriving DecidableEq, Repr

/-- A segment of stored sectors (R346). -/
structure Segment where
  tier : Nat
  used : Nat
  live : Nat
  deriving DecidableEq, Repr

/-- A page being moved (R350). The source and destination are tier and target. -/
structure Move where
  tenant : Nat
  page : Nat
  srcTier : Nat
  src : Nat
  dstTier : Nat
  dst : Nat
  next : Nat
  /-- the command that ordered it: function, queue, cid; none for a re-key -/
  cmd : Option (Nat × Nat × Nat)
  failed : Option Status
  accepted : Nat
  deriving DecidableEq, Repr

/-- What a freed DPA region or extent waits for (R331, R461). -/
structure Zeroing where
  tier : Nat
  target : Nat
  deriving DecidableEq, Repr

/-- The memory tiers. -/
structure MemState where
  /-- HBM contents by place: ((stack * 64 + pc) * 196608 + slot) * 4096 + byte, parity slots included (R333, R334) -/
  hbm : Mem
  /-- placed 64-byte blocks that a code could not correct (R358), by place / 64 -/
  badBlocks : List Nat
  /-- data blocks marked poisoned (R358), by DPA / 64 -/
  poisoned : List Nat
  hbmParity : Bool
  lpdParity : Bool
  /-- settings in flash for the next cold reset (R332) -/
  hbmParityNext : Bool
  lpdParityNext : Bool
  /-- region keys, current (R335), and shadow (R336) -/
  keys : AMap (BitVec 32)
  keysShadow : AMap (BitVec 32)
  /-- fresh state of each data slot, by DPA / 4096: fresh bit and fill mark (R337) -/
  fresh : AMap (Bool × Nat)
  /-- failed elements (R340, R343): stacks, pseudo-channels (stack * 64 + pc), LPDDR packages -/
  failedStacks : List Nat
  failedPcs : List Nat
  failedPkgs : List Nat
  /-- DPA regions issued, by owner tenant; regions and extents on their way back (R331) -/
  issued : AMap Nat
  zeroing : List Zeroing
  extents : AMap Extent
  nextExtent : Nat
  segments : AMap Segment
  openSeg : AMap Nat
  rewrites : Nat
  /-- tier-3 backing: host address and length of each range registered (R349) -/
  backing : List (Nat × Nat)
  hostLinkUp : Bool
  moves : List Move
  /-- bytes served per pseudo-channel in the window in progress, and consecutive skewed windows (R352) -/
  pcBytes : AMap Nat
  skewRun : Nat
  sampleCount : Nat
  hot : AMap Nat
  rekeys : AMap (List Nat)
  rekeysInSecond : List Nat
  skewReported : Bool
  /-- slot tables, current and shadow, by channel (R353, R354, R356) -/
  slots : AMap (BitVec 1024)
  slotsShadow : AMap (BitVec 1024)
  /-- correctable-error counts per stack and per package; rows for post-package repair (R357) -/
  ceHbm : AMap Nat
  ceLpd : AMap Nat
  scrubRows : AMap Nat
  pprRows : List Nat
  degraded : Bool
  /-- the answer to the last memory request served: status and bytes (model's own) -/
  reply : Status × List Nat
  deriving DecidableEq, Repr

def MemState.reset : MemState :=
  { hbm := [], badBlocks := [], poisoned := [], hbmParity := true, lpdParity := true, hbmParityNext := true
    lpdParityNext := true, keys := [], keysShadow := [], fresh := [], failedStacks := [], failedPcs := []
    failedPkgs := [], issued := [], zeroing := [], extents := [], nextExtent := 0, segments := []
    openSeg := [], rewrites := 0, backing := [], hostLinkUp := true, moves := [], pcBytes := [], skewRun := 0
    sampleCount := 0, hot := [], rekeys := [], rekeysInSecond := [], skewReported := false, slots := []
    slotsShadow := [], ceHbm := [], ceLpd := [], scrubRows := [], pprRows := [], degraded := false
    reply := (.done, []) }

/-- A translation entry that is valid (R458); its owner is the tenant of the table. -/
structure Trn where
  tier : Nat
  write : Bool
  locked : Bool
  /-- the page this entry is a second mapping of -/
  aliasOf : Option Nat
  mig : Bool
  target : Nat
  deriving DecidableEq, Repr

/-- The 64 bits of a valid entry (R458). -/
def Trn.bits (owner : Nat) (e : Trn) : Nat :=
  1 + 2 * (e.tier % 4) + 2 ^ 3 * e.write.toNat + 2 ^ 4 * e.locked.toNat + 2 ^ 5 * e.aliasOf.isSome.toNat
    + 2 ^ 6 * e.mig.toNat + 2 ^ 8 * (e.target % 2 ^ 28) + 2 ^ 36 * (owner % 2 ^ 10)

/-- Quotas (R454). -/
structure Quotas where
  tier1 : Nat
  tier2 : Nat
  tier3 : Nat
  descriptors : Nat
  pools : Nat
  windows : Nat
  deriving DecidableEq, Repr

/-- A tenant (R452). -/
structure Tenant where
  vf : Nat
  quotas : Quotas
  table : AMap Trn
  tier3Key : Nat
  deriving DecidableEq, Repr

/-- A pending change of one partition (R457). -/
structure PartChange where
  part : Nat
  tenant : Nat
  bitmap : Nat
  accepted : Nat
  cmd : Nat × Nat × Nat
  deriving DecidableEq, Repr

/-- A partition in force (R455): its tenant and 256-bit bitmap. -/
structure Partition where
  tenant : Nat
  bitmap : BitVec 256
  deriving DecidableEq, Repr

/-- Tenants and partitions. -/
structure TenState where
  tenants : AMap Tenant
  parts : AMap Partition
  changes : List PartChange
  deriving DecidableEq, Repr

def TenState.reset : TenState := ⟨[], [], []⟩

/-- The holms of a partition in ascending l_global (R456). -/
def Partition.holms (p : Partition) : List Nat := (List.range 256).filter fun i => p.bitmap.getLsbD i

end Sys2Proof.Machine
end

