-- ==== Sys2Proof/Machine/KvState.lean ====
section
/-! DEFINITION. The state of KV pools, sequences, pending appends and the page walkers (R238 to R272). -/

namespace Sys2Proof.Machine

/-- A KV page pool (R238 to R240, R245). -/
structure Pool where
  tenant : Nat
  /-- P, tokens per page -/
  p : Nat
  /-- H, KV heads per layer -/
  h : Nat
  /-- head dimension -/
  d : Nat
  kf : EFmt
  vf : EFmt
  layers : Nat
  /-- C, page capacity -/
  cap : Nat
  sums : Bool
  region : Nat
  arena : Nat
  blocks : Nat
  freePages : Ranges
  freeBlocks : Ranges
  /-- reference counts above 0 (R240) -/
  refs : AMap Nat
  /-- pages whose current summary copy is copy 1 (R240) -/
  sumOne : List Nat
  /-- pages of count 0 that wait for earlier PEMITs, with the number of the first later PEMIT (R265) -/
  waiting : List (Nat × Nat)
  /-- pages a tenant has written while a sequence used them (R240) -/
  taint : List Nat
  deriving DecidableEq, Repr

/-- A live sequence descriptor (R241). -/
structure Desc where
  gen : Nat
  tenant : Nat
  pool : Nat
  /-- list format: 0 inline, 1 one-level, 2 two-level -/
  lfmt : Nat
  shard : Bool
  len : Nat
  max : Nat
  list : Nat
  split : Nat
  pos0 : Nat
  pos1 : Nat
  inl : List Nat
  /-- leaf blocks allocated, LST_TOP (R246) -/
  leaves : Nat
  /-- a tenant has written into its list (R247) -/
  taint : Bool
  deriving DecidableEq, Repr

/-- A pending record (R256 to R258). -/
structure PendRec where
  /-- the unit of work it belongs to -/
  unit : Nat
  /-- counts above 0, by layer * 16 + head -/
  counts : AMap Nat
  /-- shadow list entries of new and copied pages, by entry index k -/
  entries : AMap Nat
  /-- entries prepared, new, copied or in place -/
  prepared : List Nat
  /-- shadow leaf blocks of a two-level list, by leaf number -/
  leaves : AMap Nat
  /-- pages that copy-on-write replaces -/
  replaced : List Nat
  /-- pages and heads whose shadow summary has started: (page, head) -/
  sums : List (Nat × Nat)
  /-- the stage that appends to each layer and head (R487) -/
  owner : AMap Nat
  deriving DecidableEq, Repr

def PendRec.fresh (unit : Nat) : PendRec := ⟨unit, [], [], [], [], [], [], []⟩

/-- A PEMIT at a walker (R217, R249 to R253). -/
structure Walk where
  id : Nat
  phys : Nat
  ch : Nat
  tile : Nat
  walker : Nat
  handle : Nat
  sel : Nat
  sreg : Nat
  treg : Nat
  tokens : Nat
  layer : Nat
  incT : Nat
  /-- index of the PEMIT in its pricking -/
  pc : Nat
  /-- every fetch has landed; the header lines are still to be written -/
  landed : Bool
  header : List (Nat × List Nat)
  failed : Option Status
  deriving DecidableEq, Repr

/-- A sequence command waiting for a commit point (R261). -/
inductive SeqOp where
  | create (pool max split pos0 pos1 : Nat) (shard : Bool) (result : Nat)
  | fork (parent f result : Nat)
  | truncate (handle len result : Nat)
  | free (handle : Nat)
  deriving DecidableEq, Repr

/-- A command whose effect waits for a commit point: a sequence command (R261), or a change of the tenant's translation
(R460, R461). -/
inductive CommitOp where
  | seq (op : SeqOp)
  | alloc (tier pages addr : Nat)
  | free (pages addr : Nat)
  /-- a second mapping of own pages -/
  | mapPages (write : Bool) (pages src tgt : Nat)
  /-- free DPA regions as pages -/
  | mapDpa (pages dpa tgt : Nat)
  /-- a model's pages are locked, and unlocked -/
  | lock (addr bytes : Nat)
  | unlock (handle : Nat)
  deriving DecidableEq, Repr

structure CommitCmd where
  tenant : Nat
  op : CommitOp
  /-- function, queue and command number that it answers -/
  cmd : Nat × Nat × Nat
  accepted : Nat
  deriving DecidableEq, Repr

structure KvState where
  pools : AMap Pool
  descs : AMap Desc
  /-- generations of indices freed at least once (R243) -/
  gens : AMap Nat
  nextIndex : Nat
  freed : List Nat
  records : AMap PendRec
  walks : List Walk
  nextWalk : Nat
  /-- commands waiting for a commit point, in the order of acceptance -/
  commits : List CommitCmd
  deriving DecidableEq, Repr

def KvState.reset : KvState := ⟨[], [], [], 0, [], [], [], 0, []⟩

end Sys2Proof.Machine
end

