-- ==== Sys2Proof/Machine/NetState.lean ====
section
/-! DEFINITION. The state of strait ports, transfers, windows, charting, archipelagos, rack time, rings and collectives
(R273 to R297, R360 to R422). -/

namespace Sys2Proof.Machine

/-! ### Transfers (R371) -/

/-- A transfer: its 256-bit header and its data bytes. -/
structure Xfer where
  hdr : Nat
  data : List Nat
  deriving DecidableEq, Repr

namespace Xfer

def ty (x : Xfer) := fld x.hdr 0 4
def redirect (x : Xfer) := bitAt x.hdr 4
def relay (x : Xfer) := fld x.hdr 5 2
def mcast (x : Xfer) := bitAt x.hdr 7
def status (x : Xfer) := fld x.hdr 8 8
def src (x : Xfer) := fld x.hdr 16 10
def dst (x : Xfer) := fld x.hdr 26 10
def xid (x : Xfer) := fld x.hdr 36 16
def eng (x : Xfer) := fld x.hdr 52 2
def len (x : Xfer) := fld x.hdr 56 21
def win (x : Xfer) := fld x.hdr 80 32
def key (x : Xfer) := fld x.hdr 112 64
def off (x : Xfer) := fld x.hdr 176 48
def inc (x : Xfer) := fld x.hdr 224 32

/-- A header from its fields (R371). -/
def header (ty redirect relay mcast status src dst xid eng len win key off inc : Nat) : Nat :=
  ty % 16 + 2 ^ 4 * (redirect % 2) + 2 ^ 5 * (relay % 4) + 2 ^ 7 * (mcast % 2) + 2 ^ 8 * (status % 256)
    + 2 ^ 16 * (src % 1024) + 2 ^ 26 * (dst % 1024) + 2 ^ 36 * (xid % 65536) + 2 ^ 52 * (eng % 4)
    + 2 ^ 56 * (len % 2 ^ 21) + 2 ^ 80 * (win % 2 ^ 32) + 2 ^ 112 * (key % 2 ^ 64) + 2 ^ 176 * (off % 2 ^ 48)
    + 2 ^ 224 * (inc % 2 ^ 32)

/-- Data bytes that follow the header: none for a READ (R371). -/
def dataLen (x : Xfer) : Nat := if x.ty = 2 then 0 else x.len

/-- Flits the transfer occupies (R371). -/
def flits (x : Xfer) : Nat := (32 + x.dataLen + 255) / 256

/-- The bytes of flit i, padded with zeros (R371). -/
def flit (x : Xfer) (i : Nat) : List Nat :=
  let body := toBytes x.hdr 32 ++ x.data
  let part := (body.drop (256 * i)).take 256
  part ++ List.replicate (256 - part.length) 0

end Xfer

/-- Who issued a transfer and learns its end. -/
inductive XOwner where
  | none
  /-- block q of a ring, or its returning accumulators -/
  | ring (rid q : Nat)
  /-- a collective piece toward a rank -/
  | piece (cid rank : Nat)
  /-- a transit hop from a transit slot -/
  | transit (slot : Nat)
  deriving DecidableEq, Repr

/-- A transfer not yet answered (R372, R375, R379). -/
structure Sent where
  x : Xfer
  arch : Nat
  /-- virtual channel: 1 REQ, 2 RSP, 3 COL, 4 SHT -/
  chan : Nat
  /-- ports it may use -/
  ports : List Nat
  port : Nat
  owner : XOwner
  redirects : Nat
  degraded : Bool
  deriving DecidableEq, Repr

/-- A reply the target has still to send (R372). -/
structure Reply where
  x : Xfer
  port : Nat
  arch : Nat
  deriving DecidableEq, Repr

/-- A kept reply of a completed transfer (R376). -/
structure Kept where
  /-- source: archipelago * 1024 + index -/
  src : Nat
  xid : Nat
  reply : Xfer
  deriving DecidableEq, Repr

/-- A window (R373, R375). `base` and `len` count bytes, in tenant memory or in a scratchpad. -/
structure Window where
  tenant : Nat
  memory : Bool
  write : Bool
  read : Bool
  base : Nat
  len : Nat
  /-- partition, logical index and bound epoch of each holm -/
  holms : List (Nat × Nat × Nat)
  arch : Nat
  gen : Nat
  key : Nat
  deriving DecidableEq, Repr

/-! ### Ports (R360 to R384) -/

/-- Port states (R382). -/
inductive PortSt where
  | down | train | chart | charted | up | failed | hold
  deriving DecidableEq, Repr

/-- A flit being sent or kept: its tag and bytes. -/
structure Flit where
  tag : Nat
  bytes : List Nat
  deriving DecidableEq, Repr

/-- What a peer's HELLO has told (R388, R389). -/
structure Peer where
  serial : Nat
  inc : Nat
  port : Nat
  rack : Nat
  deriving DecidableEq, Repr

/-- A transfer leaving a port: its channel, relay level and flits not yet sent (R367, R381). -/
structure Leaving where
  chan : Nat
  level : Nat
  x : Xfer
  next : Nat
  deriving DecidableEq, Repr

structure Port where
  st : PortSt
  /-- logical lanes 0 to 3 to physical lanes, transmit and receive (R360) -/
  txMap : List Nat
  rxMap : List Nat
  /-- a remap that waits for a block: lane, block index, transmit direction (R378) -/
  swapAt : Option (Nat × Nat × Bool)
  rxLaneLost : Bool
  txLaneLost : Bool
  /-- two receive lanes have failed -/
  lanesGone : Bool
  txIndex : Nat
  rxIndex : Nat
  /-- blocks sent and not acknowledged, with their flits, oldest first (R365) -/
  unacked : List (Nat × List Flit)
  /-- flits to be sent again, oldest first (R365) -/
  replay : List Flit
  replayFrom : Option Nat
  /-- index of the first bad block while the receiver discards (R364) -/
  badAt : Option Nat
  nakDue : Bool
  lastGood : Nat
  replays : Nat
  /-- credits by channel * 4 + relay level, and the announced buffers (R367, R381) -/
  credits : AMap Nat
  announced : AMap Nat
  /-- flits to return to the peer -/
  toReturn : AMap Nat
  /-- rotation among credit returns (R366) -/
  rotate : Nat
  initSent : Bool
  initRcvd : Bool
  leaving : List Leaving
  /-- management flits to send, and received ones -/
  mgtOut : List (List Nat)
  mgtIn : List (List Nat)
  /-- transfers being received, by channel * 4 + level: bytes so far -/
  partialIn : AMap (List Nat)
  arrived : List (Nat × Xfer)
  /-- link blocks put on the lanes by the last transmission: index, flits, control bits -/
  wire : Option (Nat × List Flit × Nat)
  fst : BitVec 1024
  fstShadow : Option (BitVec 1024)
  peer : Option Peer
  /-- a HELLO has named the peer since the port left HOLD or DOWN (R389) -/
  peerFixed : Bool
  charted : Bool
  conflict : Bool
  /-- incarnation pair already reported (R391) -/
  noticed : Option (Nat × Nat)
  enabled : Option Nat
  peerEn : Option (Nat × Nat)
  holdMs : Nat
  lastTx : Nat
  lastRx : Nat
  /-- offset and depth offered by the peer, and theta (R399) -/
  offer : Option (Int × Nat)
  discarded : Nat
  retries : Nat
  deriving DecidableEq, Repr

def resetFst : BitVec 1024 := BitVec.ofNat 1024 (2 ^ 1020 - 1 + 4 * 2 ^ 1020)

-- DESIGN CHOICE, unsafe: log 121.
/-- A port before link-up (R360, R368, R382, R383). -/
def Port.reset : Port :=
  { st := .down, txMap := [0, 1, 2, 3], rxMap := [0, 1, 2, 3], swapAt := none, rxLaneLost := false, txLaneLost := false, lanesGone := false
    txIndex := 0, rxIndex := 0, unacked := [], replay := [], replayFrom := none, badAt := none, nakDue := false
    lastGood := 65535, replays := 0, credits := [], announced := [], toReturn := [], rotate := 0, initSent := false
    initRcvd := false, leaving := [], mgtOut := [], mgtIn := [], partialIn := [], arrived := [], wire := none
    fst := resetFst, fstShadow := none, peer := none, peerFixed := false, charted := false, conflict := false
    noticed := none, enabled := none, peerEn := none, holdMs := 250, lastTx := 0, lastRx := 0, offer := none
    discarded := 0, retries := 0 }

/-! ### Charting and archipelagos (R386 to R394) -/

/-- A coordinate claim (R390). -/
structure Claim where
  x : Nat
  y : Nat
  z : Nat
  anchor : Nat
  fixed : Bool
  deriving DecidableEq, Repr

/-- An archipelago definition (R392). -/
structure Arch where
  tenant : Nat
  own : Nat
  /-- index to serial, incarnation and rack -/
  members : AMap (Nat × Nat × Nat)
  joined : Bool
  /-- transit window handle and key (R408) -/
  transit : Option (Nat × Nat)
  deriving DecidableEq, Repr

def Arch.refRack (a : Arch) : Nat := ((a.members.get? 0).map fun (_, _, r) => r).getD 0

/-- Some members lie in another rack than the reference rack. -/
def Arch.spansRacks (a : Arch) : Bool := a.members.any fun (_, _, _, r) => r != a.refRack

/-! ### Rack time (R395 to R400) -/

/-- Synchronisation states (R397). -/
inductive SyncSt where
  | unsync | locked | holdover | free
  deriving DecidableEq, Repr

def SyncSt.code : SyncSt → Nat | unsync => 0 | locked => 1 | holdover => 2 | free => 3

/-- Offset to a reference rack in ns, rack hops from it (7: none known), and whether it has been 7 for 10 ms (R399, R400). -/
structure TimePath where
  offset : Int
  depth : Nat
  lost : Bool
  deriving DecidableEq, Repr

structure RackTime where
  /-- the rack-time counter, ns -/
  now : Nat
  sync : SyncSt
  /-- working clock: false A, true B -/
  clockB : Bool
  goodA : Bool
  goodB : Bool
  /-- slewing still to do, ns (R397) -/
  slew : Int
  /-- bits of the frame being decoded, and how many, none outside a frame -/
  frame : Option (Nat × Nat)
  /-- frames in a row that decoded and agreed -/
  agreed : Nat
  /-- the rack time the next marker has by the last frame, ns -/
  nextMark : Option Nat
  /-- by archipelago that spans racks: offset to its reference rack, depth, and the loss of every path (R399, R400) -/
  paths : AMap TimePath
  /-- nanoseconds for which the counter is held until the rack catches up (R397) -/
  hold : Nat
  /-- it has been FREE and not LOCKED since (R398) -/
  wasFree : Bool
  /-- nanoseconds that have passed, whatever the counter reads (model's own) -/
  ticks : Nat
  deriving DecidableEq, Repr

def RackTime.reset : RackTime :=
  { now := 0, sync := .unsync, clockB := false, goodA := true, goodB := true, slew := 0, frame := none, agreed := 0
    nextMark := none, paths := [], hold := 0, wasFree := false, ticks := 0 }

/-! ### Rings (R276 to R296) -/

/-- A ring descriptor and its run. Blocks are named by round, step and number. -/
structure Ring where
  work : Nat
  stage : Nat
  part : Nat
  quad : Nat
  raw : Nat
  /-- credits held for the slots of the next rank -/
  credits : List Nat
  /-- credits granted or returned to the previous rank, by slot, still to travel -/
  returned : List Nat
  /-- credits of freed slots held back until the stage's next checkpoint (R488) -/
  heldBack : List Nat
  granted : Bool
  /-- origin blocks present: fetched or handed over by the ready barrier -/
  origin : List (Nat × Nat)
  readyReleases : Nat
  /-- blocks landed, by round, step and number -/
  landed : List (Nat × Nat × Nat)
  /-- next block to send, in order -/
  next : Nat
  nextRet : Nat
  /-- slots whose block awaits its free-barrier release, with what the shuttle still owes -/
  freed : Nat
  /-- blocks sent and not yet answered -/
  outstanding : Nat
  stopped : Option Status
  degraded : Bool
  deriving DecidableEq, Repr

namespace Ring

def num (r : Ring) := fld r.raw 0 8
def n (r : Ring) := fld r.raw 8 9
def rank (r : Ring) := fld r.raw 17 8
def dir (r : Ring) := bitAt r.raw 25
def mem (r : Ring) := bitAt r.raw 26
def orig (r : Ring) := bitAt r.raw 27
def bwd (r : Ring) := bitAt r.raw 28
def ports (r : Ring) : List Nat := (List.range 32).filter fun i => bitAt r.raw (32 + i)
def nextIx (r : Ring) := fld r.raw 64 10
def prevIx (r : Ring) := fld r.raw 74 10
def slots (r : Ring) := fld r.raw 84 3
def freeBar (r : Ring) := fld r.raw 88 6
def ndest (r : Ring) := fld r.raw 96 4 + 1
def readyBar (r : Ring) := fld r.raw 104 6
def blocks (r : Ring) := fld r.raw 112 16
def slotBase (r : Ring) := fld r.raw 128 48
def slotStride (r : Ring) := fld r.raw 176 20
def blockLines (r : Ring) := fld r.raw 196 19
def accLines (r : Ring) := fld r.raw 216 19
def rounds (r : Ring) := fld r.raw 236 16
def handle (r : Ring) := fld r.raw 256 32
def token0 (r : Ring) := fld r.raw 288 26
def layer (r : Ring) := fld r.raw 314 7
def lstep (r : Ring) := bitAt r.raw 321
def head (r : Ring) := fld r.raw 322 4
def hcnt (r : Ring) := fld r.raw 326 4
def tokens (r : Ring) := fld r.raw 330 9
def window (r : Ring) := fld r.raw 352 32
def key (r : Ring) := fld r.raw 384 64
def dest (r : Ring) (i : Nat) := fld r.raw (448 + 8 * i) 8
def dests (r : Ring) : List Nat := (List.range r.ndest).map r.dest
def retBase (r : Ring) := fld r.raw 576 48

def fresh (work stage part quad raw : Nat) : Ring :=
  { work := work, stage := stage, part := part, quad := quad, raw := raw, credits := [], returned := [], heldBack := [], granted := false
    origin := [], readyReleases := 0, landed := [], next := 0, nextRet := 0, freed := 0, outstanding := 0
    stopped := none, degraded := false }

end Ring

/-! ### Collectives (R401 to R421) -/

/-- A collective piece: its 512-bit header, payload, and the route entries of a ROUTED piece's rows. -/
structure Piece where
  hdr : Nat
  data : List Nat
  idx : List Nat
  deriving DecidableEq, Repr

/-- An entry of the status record (R419). -/
structure ColEntry where
  status : Status
  dropped : Nat
  landed : Nat
  deriving DecidableEq, Repr

/-- A collective descriptor and its run on this rank. -/
structure Coll where
  work : Nat
  /-- stage of the unit of work, and the ordinal of its COLLECTIVE section (R445) -/
  stage : Nat
  ord : Nat
  tenant : Nat
  part : Nat
  arch : Nat
  raw : Nat
  tide : Nat
  active : Bool
  entries : List ColEntry
  /-- credits this rank holds toward each destination rank -/
  credits : AMap Nat
  /-- next piece to send toward each rank -/
  sentTo : AMap Nat
  /-- pieces in collector slots -/
  held : List Piece
  /-- parts consumed, by piece index: part index, offset in the output, bytes -/
  consumed : AMap (List (Nat × Nat × List Nat))
  /-- pieces of the own output finished -/
  finished : List Nat
  /-- pieces of reduced segments landed, by source rank -/
  gathered : AMap Nat
  /-- landed bits of INDEXED (R415) -/
  rows : Ranges
  /-- ROUTED: counts by source, grants received by destination: (first, accepted) per bucket -/
  counts : AMap (List Nat)
  grants : AMap (List (Nat × Nat))
  granted : Bool
  dropped : Nat
  /-- transfers not yet answered -/
  outstanding : Nat
  /-- chunks handed over by an MMA (R418): piece index, first element of the source, and bytes -/
  emitted : List (Nat × Nat × List Nat)
  /-- elements of the own output that have been reduced -/
  reduced : Nat
  done : Bool
  deriving DecidableEq, Repr

namespace Coll

/-- A collective before its tide or invocation has activated it. -/
def fresh (work stage ord tenant part arch raw tide : Nat) : Coll :=
  { work := work, stage := stage, ord := ord, tenant := tenant, part := part, arch := arch, raw := raw, tide := tide
    active := false, entries := [], credits := [], sentTo := [], held := [], consumed := [], finished := [], gathered := []
    rows := [], counts := [], grants := [], granted := false, dropped := 0, outstanding := 0, emitted := [], reduced := 0
    done := false }

/-! Fields of the descriptor (R403). -/

def id (c : Coll) := fld c.raw 0 32
def op (c : Coll) := fld c.raw 32 4
def red (c : Coll) := fld c.raw 36 2
def tree (c : Coll) := bitAt c.raw 38
def a2a (c : Coll) := fld c.raw 39 2
def dropFail (c : Coll) := bitAt c.raw 41
def outSat (c : Coll) := bitAt c.raw 42
def quad (c : Coll) := fld c.raw 43 2
def inF (c : Coll) := fld c.raw 45 4
def outF (c : Coll) := fld c.raw 49 4
def n (c : Coll) := fld c.raw 53 11
def rank (c : Coll) := fld c.raw 64 10
def root (c : Coll) := fld c.raw 74 10
def shift (c : Coll) := fld c.raw 84 10
def parts (c : Coll) := fld c.raw 94 4 + 1
def part0 (c : Coll) := fld c.raw 98 12
def slots (c : Coll) := fld c.raw 110 2 + 1
def elems (c : Coll) := fld c.raw 128 32
def row (c : Coll) := fld c.raw 160 16
def cap (c : Coll) := fld c.raw 176 16
def src (c : Coll) := fld c.raw 192 48
def srcSpad (c : Coll) := bitAt c.raw 240
def srcHolm (c : Coll) := fld c.raw 241 8
def srcStride (c : Coll) := fld c.raw 256 32
def dstOff (c : Coll) := fld c.raw 288 48
def peers (c : Coll) := fld c.raw 336 48
def route (c : Coll) := fld c.raw 384 48
def prov (c : Coll) := fld c.raw 432 48
def statusAt (c : Coll) := fld c.raw 480 48

end Coll

/-- A transit slot in use (R408). -/
structure Transit where
  arch : Nat
  cls : Nat
  piece : Piece
  port : Nat
  deriving DecidableEq, Repr

/-! ### The whole network side -/

structure NetState where
  ports : List Port
  sent : List Sent
  nextXid : Nat
  replies : List Reply
  kept : List Kept
  windows : AMap Window
  winGens : AMap Nat
  nextKey : Nat
  /-- blocks accepted for the shuttle: arrival port, archipelago, transfer -/
  shuttleIn : List (Nat × Nat × Xfer)
  /-- pieces told to the collective engine: arrival port, archipelago, piece -/
  pieceIn : List (Nat × Nat × Piece)
  transit : AMap Transit
  archs : AMap Arch
  rings : AMap Ring
  colls : AMap Coll
  serial : Nat
  inc : Nat
  prevInc : Nat
  rackId : Nat
  claim : Claim
  time : RackTime
  /-- key and access failures per source (R374) -/
  keyFails : AMap Nat
  relayDrops : Nat
  deriving DecidableEq, Repr

/-- The serial is fused at manufacture (R386); the incarnation is drawn at boot. -/
def NetState.reset (serial inc : Nat) : NetState :=
  { ports := List.replicate 32 .reset, sent := [], nextXid := 0, replies := [], kept := [], windows := [], winGens := []
    nextKey := 0, shuttleIn := [], pieceIn := [], transit := [], archs := [], rings := []
    colls := [], serial := serial, inc := inc, prevInc := 0, rackId := 0
    claim := ⟨0, 0, 0, serial, false⟩, time := .reset, keyFails := [], relayDrops := 0 }

end Sys2Proof.Machine
end

