-- ==== Sys2Proof/Machine/WorkState.lean ====
section
/-! DEFINITION. The state of plans and one-shot runs, of the isthmus queues, and of recovery (R225 to R236, R423 to R451,
R466 to R500, R597). -/

namespace Sys2Proof.Machine

/-- The name of a command in progress: function, queue and the number it was accepted under. -/
abbrev CmdId := Nat × Nat × Nat

/-! ### Units of work -/

/-- A barrier of one plan or invocation (R225). -/
structure Barrier where
  rank : Nat
  parts : Nat
  phase : Nat
  count : Nat
  /-- holms, by l_global, whose arrival the current phase counts (R490) -/
  arrived : List Nat
  /-- arrivals of each holm that have been counted in the invocation (R490) -/
  got : AMap Nat
  deriving DecidableEq, Repr

/-- A stage of a plan or native image (R444, R445). -/
structure Stage where
  part : Nat
  /-- its logical holms by l_global, as its range named them in the partition when the image was read -/
  holms : List Nat
  lagoon : Nat
  tamio : Bool
  lagImg : Nat
  lagStride : Nat
  program : Option Program
  picots : AMap Picot
  prickings : AMap Pricking
  wheel : Wheel
  exposure : List Exposure
  /-- declared barriers: number, rank, participants -/
  barriers : List (Nat × Nat × Nat)
  /-- ring and collective descriptors, in the order of their sections -/
  rings : List Nat
  colls : List Nat
  cslots : List Nat
  /-- entries of the operation list: 128 bytes each, above them a COLLECTIVE entry's descriptor as it was read -/
  oplist : List Nat
  /-- barriers whose release is a checkpoint (R471) -/
  ckpts : List Nat
  deriving DecidableEq, Repr

/-- What a combed release lets its waiters do (R229, R233, R489). -/
inductive WaveKind where
  | start
  | release (key phase : Nat)
  | resume
  deriving DecidableEq, Repr

/-- A combed release under way (R229). -/
structure Wave where
  kind : WaveKind
  /-- waiters by ascending l_global -/
  waiters : List Nat
  next : Nat
  at_ : Nat
  deriving DecidableEq, Repr

/-- A TIDE completion that is held (R428). -/
structure TideCpl where
  status : Status
  tide : Nat
  late : Nat
  merged : Nat
  energy : Nat
  fault : Option Nat
  deriving DecidableEq, Repr

inductive WorkKind where
  | plan | native | abstract
  deriving DecidableEq, Repr

/-- A plan, or a one-shot run (R256). -/
structure Work where
  kind : WorkKind
  /-- plan or native handle -/
  handle : Nat
  tenant : Nat
  /-- queue that accepted it: function and queue -/
  fn : Nat
  q : Nat
  tag : Nat
  arch : Nat
  exportPerm : Bool
  shapeInv : Bool
  stages : List Stage
  /-- T and S0 in ns -/
  period : Nat
  s0 : Nat
  earliest : Nat
  started : Bool
  startCmd : Option CmdId
  stopCmds : List CmdId
  stopping : Bool
  /-- replacement stages waiting for a slack, with the commands that ordered them -/
  update : Option (List Stage)
  updateCmds : List CmdId
  /-- the command of a one-shot run -/
  cmd : Option CmdId
  tide : Nat
  running : Bool
  closeAt : Option Nat
  lastSlack : Nat
  status : Status
  degraded : Bool
  faults : List (Nat × FaultRec)
  barriers : AMap Barrier
  waves : List Wave
  /-- shuttle landings counted per holm, by l_global (R281) -/
  landPos : AMap Nat
  /-- what has landed since the last complete checkpoint: holm, byte address, bytes, counts it made (R488) -/
  keep : List (Nat × Nat × List Nat × Nat)
  /-- instant of each stage's latest complete checkpoint (R486) -/
  ckptAt : AMap Nat
  /-- pending-record counts of each stage at that checkpoint, by descriptor index (R489) -/
  ckptCounts : AMap (List (Nat × AMap Nat))
  /-- next operation of each OPLIST stage in the tide or invocation -/
  opAt : AMap Nat
  held : List TideCpl
  /-- power that admission counted for it, W -/
  power : Nat
  /-- cause of a suspension under way (R518, R526) -/
  suspended : Option Nat
  /-- a suspended tide was reported; GUARANTEE_RESTORED is owed -/
  restoreDue : Bool
  demoted : Bool
  /-- checkpoint releases of the tide so far: the segment under way (R513) -/
  seg : Nat
  /-- learned power, and the largest share observed in the tide, W, by segment * 4 + quadrant; the admission estimate of each
  quadrant (R513, R515) -/
  learned : AMap Nat
  observed : AMap Nat
  admitted : List Nat
  energy : Nat
  /-- stages stopped for recovery -/
  stopped : Bool
  order : Nat
  deriving DecidableEq, Repr

/-! ### Isthmus queues -/

/-- What has become of an accepted command. -/
inductive CmdSt where
  | accepted
  | running
  /-- ended: status, 128-bit result, a fault record in the result, and the order in which commands ended -/
  | ended (status : Status) (result : Nat) (fault : Bool) (seq : Nat)
  deriving DecidableEq, Repr

/-- An accepted command: its 128-byte entry as a number (R432). -/
structure Cmd where
  fn : Nat
  q : Nat
  id : Nat
  raw : Nat
  st : CmdSt
  energy : Nat
  /-- rack time of its acceptance -/
  since : Nat
  /-- objects named at acceptance, by kind and value (0 queue, 1 pool, 2 sequence, 3 plan, 4 native, 5 model, 6 window), and first and
  last tenant pages of the ranges named (R426) -/
  objs : List (Nat × Nat)
  pages : List (Nat × Nat)
  deriving DecidableEq, Repr

/-- A queue (R423 to R429). -/
structure Que where
  err : Bool
  cmdBase : Nat
  cplBase : Nat
  log2 : Nat
  minor : Nat
  vector : Nat
  c : Nat
  t : Nat
  /-- ring indices of the command ring -/
  head : Nat
  tail : Nat
  /-- completions written, and consumed by the host, since the ring was set up -/
  cplTail : Nat
  cplHead : Nat
  unsignalled : Nat
  stopFetch : Bool
  deriving DecidableEq, Repr

-- DESIGN CHOICE, unsafe: log 120.
def Que.size (q : Que) : Nat := 2 ^ q.log2

/-- The phase bit of entry number n of a ring of a size: 1 on the first pass, inverted on every wrap (R424). -/
def phaseBit (n size : Nat) : Bool := n / size % 2 == 0

/-- A notice ring (R431, R447). -/
structure NtcRing where
  base : Nat
  log2 : Nat
  vector : Nat
  /-- notices posted, and released by the host, since the ring was set -/
  tail : Nat
  head : Nat
  deriving DecidableEq, Repr

/-- Queue 0 registers of a function (R564). -/
structure QueRegs where
  cmdBase : Nat
  cplBase : Nat
  cfg : Nat
  errStatus : Nat
  errSrc : Nat
  errValue : Nat
  deriving DecidableEq, Repr

def QueRegs.reset : QueRegs := ⟨0, 0, 0, 0, 0, 0⟩

/-- A firmware image: its bytes, and what its header says (R538, R540). -/
structure FwImage where
  release : Nat
  gen : Nat
  svn : Nat
  keyIndex : Nat
  loMinor : Nat
  hiMinor : Nat
  authentic : Bool
  /-- FWI_ADVANCE -/
  advance : Bool
  deriving DecidableEq, Repr

/-- A model loaded (R439, R460). -/
structure Model where
  tenant : Nat
  addr : Nat
  bytes : Nat
  deriving DecidableEq, Repr

/-- A native image kept by firmware (R597). -/
structure Native where
  tenant : Nat
  stages : List Stage
  exportPerm : Bool
  arch : Nat
  deriving DecidableEq, Repr

/-- An MSI-X table entry (R576). -/
structure Msix where
  addr : Nat
  data : Nat
  masked : Bool
  pending : Bool
  deriving DecidableEq, Repr

structure IsthState where
  /-- host memory (R433), and pages of it the host refuses -/
  host : Mem
  refused : Ranges
  queues : AMap Que
  regs : AMap QueRegs
  cmds : List Cmd
  nextCmd : Nat
  nextEnd : Nat
  rings : AMap NtcRing
  ntcSeq : AMap Nat
  ntcLost : AMap Nat
  msix : AMap Msix
  works : AMap Work
  nextWork : Nat
  models : AMap Model
  natives : AMap Native
  /-- flash slots, the active one, and the staged image (R449, R538) -/
  slots : List FwImage
  active : Nat
  staged : Bool
  /-- FIRMWARE_ACTIVATE in progress: its command and the attempts abandoned -/
  activate : Option (CmdId × Nat)
  deriving DecidableEq, Repr

/-! ### Recovery and management (R482 to R500) -/

/-- The checkpoint state of a holm (R485). -/
structure Ckpt where
  pc : Nat
  g : List Word
  waitPhase : AMap Nat
  arrCount : AMap Nat
  headArrived : Bool
  arrivals : List Arrival
  held : List Nat
  arrivalCount : Nat
  chans : List Chan
  inbox : List (List Nat)
  msgSeq : AMap Nat
  gotSeq : AMap Ranges
  /-- carried ranges: first line, last line, bytes -/
  carried : List (Nat × Nat × List Nat)
  landPos : Nat
  deriving DecidableEq, Repr

/-- A recovery under way (R492, R493). -/
structure Recovery where
  row : Nat
  work : Nat
  stage : Nat
  lg : Nat
  /-- the failed holm, or the holm whose row failed, and the bank and row -/
  phys : Nat
  bank : Nat
  line : Nat
  /-- the recovery slack has fallen -/
  swapped : Bool
  since : Nat
  deriving DecidableEq, Repr

structure FaultState where
  /-- harbour copies by physical holm * 2 + copy, and the number of the next copy -/
  harbour : AMap Ckpt
  spilled : AMap Nat
  complete : AMap Nat
  recovery : List Recovery
  /-- management cores: in lockstep, spare, retired (R500) -/
  pair : List Nat
  spareCore : Option Nat
  /-- die-to-die spare lanes left, by link * 2 + direction (R21) -/
  laneSpares : AMap Nat
  /-- the last wait graph: edges from waiting to producing logical holms, and how many have been recorded (R499) -/
  waitGraph : List (Nat × Nat)
  graphs : Nat
  deriving DecidableEq, Repr

def FaultState.reset : FaultState := ⟨[], [], [], [], [0, 1], some 2, [], [], 0⟩

end Sys2Proof.Machine
end

