-- ==== Sys2Proof/Machine/PowerState.lean ====
section
/-! DEFINITION. The state of rails, domains, caps, loans, thermal limits and energy (R502 to R531). -/

namespace Sys2Proof.Machine

/-- A rail (R502): phases working and in service, spare phases, senses not verified. -/
structure Rail where
  active : List Nat
  spare : List Nat
  failed : List Nat
  /-- phases whose current sense has failed (R528) -/
  unsensed : List Nat
  /-- most phases that count toward the limit -/
  rated : Nat
  limit : Nat
  deriving DecidableEq, Repr

/-- A power report (R522). -/
structure Report where
  cap : Nat
  eff : Nat
  head : Nat
  loan : Int
  slack : Int
  seq : Nat
  deriving DecidableEq, Repr

/-- What a torus neighbour's group of ports has reported and been lent. -/
structure Loan where
  /-- W lent to the neighbour, and W borrowed from it -/
  lent : Nat
  owed : Nat
  /-- the last report that came from it -/
  report : Option Report
  deriving DecidableEq, Repr

/-- Causes of the lowest operating state (R525). -/
inductive LowCause where
  | vrAlert | pwrBrake
  deriving DecidableEq, Repr

structure PowerState where
  rails : List Rail
  /-- gated domains, by number (R504) -/
  gated : List Nat
  /-- droop guard per quadrant, mV (R508) -/
  guard_ : List Nat
  /-- nominal point raised for ageing, mV (R507) -/
  ageing : List Nat
  /-- voltage per quadrant, mV (R508) -/
  volts : List Nat
  /-- throttle levels of the services of each quadrant, and of the tier codec and migration engine (R510) -/
  service : List Nat
  /-- instant of each domain's last wake (R506) -/
  wokeAt : AMap Nat
  /-- the last estimate and the monitor's reading, mW, and the correction factor in thousandths (R503, R512) -/
  estimate : Nat
  factor : Nat
  measured : Nat
  /-- mean power of the last millisecond, W (R570) -/
  msMean : Nat
  /-- cap in W and window in ms (R516) -/
  cap : Nat
  window : Nat
  /-- base power, floor and lowest DVFS point of the part, W (R515, R520, R521) -/
  base : Nat
  floor : Nat
  dvfs : Nat
  enforced : Nat
  target : Nat
  /-- a lowered cap in force from an instant (R517) -/
  enforceFrom : Nat
  /-- the excess period: its enforcement instant (R518) -/
  excess : Option Nat
  enforcing : Bool
  /-- plans lowered, latest first -/
  affected : List Nat
  /-- loans by torus group 0 to 5 (R522, R523) -/
  loans : AMap Loan
  reportSeq : Nat
  /-- least slack of the last millisecond, by archipelago (R522) -/
  minSlack : AMap Int
  /-- active signals, and the lowest operating state (R525) -/
  lowCauses : List LowCause
  lowest : Bool
  /-- why the module last entered it -/
  lowCause : LowCause
  /-- hottest junction of each die and the hub, degrees (R529) -/
  temps : List Nat
  /-- W that the controller has left for best-effort work (R513, R518) -/
  bestEffort : Nat
  trip : Bool
  /-- energy counters in nJ modulo 2^64 (R530): module, unattributed, per tenant, per queue, per partition -/
  energy : Nat
  unattr : Nat
  eTenant : AMap Nat
  eQueue : AMap Nat
  ePart : AMap Nat
  deepIdle : Bool
  deriving DecidableEq, Repr

def coreRail : Rail := ⟨List.range 20, [20, 21, 22, 23], [], [], 20, 800⟩
def fixedRail (n : Nat) : Rail := ⟨List.range n, [], [], [], n - 1, 40 * (n - 1)⟩

/-- The rails of R502 with every phase working. -/
def railsReset : List Rail := List.replicate 4 coreRail ++ [fixedRail 7, fixedRail 11, fixedRail 6, fixedRail 6]

/-- The current limit: 40 A for each phase in service that counts, and 40 A less for each whose sense has failed (R502, R528). -/
def Rail.limitNow (r : Rail) : Nat :=
  40 * (min r.rated r.active.length - (r.active.filter fun p => r.unsensed.contains p).length)

-- DESIGN CHOICE, unsafe: log 60.
def PowerState.reset : PowerState :=
  { rails := railsReset, gated := [], guard_ := [15, 15, 15, 15], ageing := [0, 0, 0, 0], volts := [900, 900, 900, 900]
    service := [16, 16, 16, 16, 16], wokeAt := [], estimate := 0, factor := 1000, measured := 0, msMean := 0, cap := 2500, window := 4000
    base := 210, floor := 620, dvfs := 1050, enforced := 0, target := 2500, enforceFrom := 0, excess := none, enforcing := false
    affected := [], loans := [], reportSeq := 0, minSlack := [], lowCauses := [], lowest := false
    lowCause := .vrAlert, temps := [0, 0, 0, 0, 0], bestEffort := 2500, trip := false, energy := 0, unattr := 0
    eTenant := [], eQueue := [], ePart := [], deepIdle := false }

/-- The effective cap: the cap less what is lent, with what is borrowed, within its range (R522, R523). -/
def PowerState.effCap (p : PowerState) : Nat :=
  let lent := (p.loans.map fun ((_, l) : Nat × Loan) => l.lent).sum
  let owed := (p.loans.map fun ((_, l) : Nat × Loan) => l.owed).sum
  max (max 400 (p.cap / 2)) (min (min 2500 (p.cap * 3 / 2)) (p.cap + owed - lent))

-- PRESUMED, unsafe: log 104.
/-- The domain of a strait group of four ports (R504). -/
def straitDomain (g : Nat) : Nat := 22 * (g / 2) + 19 + g % 2

end Sys2Proof.Machine
end

