-- ==== Sys2Proof/Machine/BootState.lean ====
section
/-! DEFINITION. The state of start-up, resets, pins, the repair table, the error log and the error counters (R532 to R554,
R571 to R576, R584 to R592). -/

namespace Sys2Proof.Machine

/-- Kinds of a start (R561, ID_START). -/
inductive StartKind where
  | powerUp | cold | warm | soft
  deriving DecidableEq, Repr

def StartKind.code : StartKind → Nat | powerUp => 0 | cold => 1 | warm => 2 | soft => 3

/-- Where a start or reset stands (R532 to R535). -/
inductive BootPhase where
  /-- the input is below its operating range, or the module has tripped -/
  | off
  /-- a warm or soft reset has been triggered and its entry phase has still to run -/
  | entryDue
  /-- the rails are switched off in a cold reset (R532) -/
  | railsOff
  /-- stages are being completed -/
  | booting
  | ready
  | recovery
  /-- the boot has failed, with the cause of R574 -/
  | failed (cause : Nat)
  deriving DecidableEq, Repr

/-- Records of the repair table (R542). -/
inductive Repair where
  /-- a physical holm failed or below 2.0 GHz at manufacture -/
  | fuseOut (p : Nat)
  /-- a physical holm retired in the field -/
  | retired (p : Nat)
  | rowMap (p bank row spare : Nat)
  /-- a memory row recorded for post-package repair, by DPA / 64 -/
  | ppr (block : Nat)
  | straitLane (port lane : Nat)
  | dieLane (link lane : Nat)
  | phase (rail phase : Nat)
  deriving DecidableEq, Repr

/-- An error-log entry (R573). -/
structure LogEntry where
  seq : Nat
  cls : Nat
  status : Nat
  tenant : Option Nat
  time : Nat
  unit : Nat
  record : Nat
  deriving DecidableEq, Repr

/-- The 512 bits of an entry (R573). -/
def LogEntry.bits (e : LogEntry) : Nat :=
  e.seq % 2 ^ 32 + 2 ^ 32 * (e.cls % 256) + 2 ^ 40 * (e.status % 256) + 2 ^ 48 * ((e.tenant.getD 0) % 1024)
    + 2 ^ 58 * e.tenant.isSome.toNat + 2 ^ 64 * (e.time % 2 ^ 64) + 2 ^ 128 * (e.unit % 2 ^ 64)
    + 2 ^ 192 * (e.record % 2 ^ 128)

/-- A view of the error log: the next sequence number, and its entries, newest first (R572). -/
structure LogView where
  next : Nat
  entries : List LogEntry
  deriving DecidableEq, Repr

/-- Pins (R584); inputs and outputs by their electrical level. -/
structure Pins where
  perstN : Bool
  pwrBrakeN : Bool
  alertN : Bool
  thermtripN : Bool
  clkreqN : Bool
  prsntN : Bool
  deriving DecidableEq, Repr

structure BootState where
  phase : BootPhase
  /-- stages completed in this start, by code (R533) -/
  stages : List Nat
  kind : StartKind
  /-- minimum security version, by fuses, and revoked key slots (R539) -/
  minSvn : Nat
  revoked : List Nat
  repairs : List Repair
  /-- repair records waiting to be written to flash (R96, R542) -/
  repairsDue : List Repair
  moduleLog : LogView
  /-- the newest entries as flash holds them (R535, R553) -/
  flashLog : LogView
  fnLogs : AMap LogView
  busErrors : Nat
  demotions : Nat
  keyFailPort : AMap Nat
  vfEnable : Bool
  numVfs : Nat
  aoCycles : Nat
  pins : Pins
  /-- a rack identity that takes effect at the next boot (R591) -/
  rackNext : Option Nat
  /-- an EXTEST-class instruction is selected (R592) -/
  extest : Bool
  /-- the value of the last register read, none for a bus error (model's own) -/
  busReply : Option Nat
  /-- the last reply over the SMBus endpoint (model's own) -/
  smbusReply : List Nat
  /-- the release that runs -/
  release : Nat
  deriving DecidableEq, Repr

-- DESIGN CHOICE, unsafe: log 113.
/-- After a power-up that has reached READY (R547, R584). -/
def BootState.reset : BootState :=
  { phase := .ready, stages := [1, 2, 3, 4, 5, 6, 7, 8, 9, 10], kind := .powerUp, minSvn := 0, revoked := [], repairs := []
    repairsDue := [], moduleLog := ⟨0, []⟩, flashLog := ⟨0, []⟩, fnLogs := [], busErrors := 0, demotions := 0
    keyFailPort := [], vfEnable := false, numVfs := 0, aoCycles := 0
    pins := ⟨true, true, true, true, false, false⟩, rackNext := none, extest := false, busReply := none
    smbusReply := [], release := 1 }

end Sys2Proof.Machine
end

