-- ==== Sys2Proof/Machine/State.lean ====
section
/-! DEFINITION. The state of the module, its reset, and the reasons a step can stop. -/

namespace Sys2Proof.Machine

/-- The whole module: everything the spec gives it, the model's own counter of free values, and the queue of commands. -/
structure State where
  /-- the orderable part (R1, R2) -/
  part : Part
  /-- physical holms by number p, 0 to 271 (R14 to R18) -/
  holms : AMap Holm
  /-- remap table by l_global (R57) -/
  remap : AMap Remap
  /-- what ordered the last role change of a logical holm (R64) -/
  roleCause : AMap RoleCause
  /-- requests on the on-die network, by number (R53 to R56) -/
  reqs : AMap NetReq
  nextReq : Nat
  mem : MemState
  ten : TenState
  kv : KvState
  net : NetState
  isth : IsthState
  flt : FaultState
  pow : PowerState
  boot : BootState
  /-- counts the free values used so far; no register of the spec -/
  free : Nat
  /-- commands that wait, first in first out -/
  pending : List Instr
  deriving DecidableEq, Repr

/-- Why a step stops with a fault. -/
inductive Fault where
  /-- Raised by a command that names a physical holm outside 0 to 271 (R14): no such unit exists. Safe: the model stops. -/
  | noSuchHolm
  /-- Raised by a command that names a strait port outside 0 to 31 (R360): no such unit exists. Safe: the model stops. -/
  | noSuchPort
  /-- Raised by a command that names a rail outside 0 to 7 (R502): no such unit exists. Safe: the model stops. -/
  | noSuchRail
  deriving DecidableEq, Repr

/-- Why a step has no meaning. -/
inductive Refusal where
  /-- Raised by an arm of exec whose command has no meaning yet. Safe: the model stops. -/
  | notModelled (mnemonic : String)
  deriving DecidableEq, Repr

/-- Logical holm l_global of quadrant q is served by physical index j = l at delivery: p = 68 q + l (R16, R57). -/
def physOf (lg : Nat) : Nat := 68 * (lg / 64) + lg % 64

-- DESIGN CHOICE, unsafe: log 5.
def IsthState.reset : IsthState :=
  { host := [], refused := [], queues := [], regs := [], cmds := [], nextCmd := 0, nextEnd := 0, rings := [], ntcSeq := []
    ntcLost := [], msix := [], works := [], nextWork := 1
    models := [], natives := [], slots := [⟨1, 2, 0, 0, 0, 4, true, false⟩, ⟨1, 2, 0, 0, 0, 4, true, false⟩], active := 0
    staged := false, activate := none }

/-- The module when a power-up has just reached READY: nothing created, nothing linked, every queue absent (R547). -/
def State.reset : State :=
  { part := .a
    holms := (List.range 272).map fun p => (p, Holm.reset (if p % 68 < 64 then .idle else .spare))
    remap := (List.range 256).map fun lg => (lg, ⟨lg % 64, true, 0⟩)
    roleCause := []
    reqs := []
    nextReq := 0
    mem := .reset
    ten := .reset
    kv := .reset
    net := .reset 1 1
    isth := .reset
    flt := .reset
    pow := .reset
    boot := .reset
    free := 0
    pending := [] }

end Sys2Proof.Machine
end

