-- ==== Sys2Proof/Machine/Memory.lean ====
section
/-! DEFINITION. Operations over the memory tiers: the address map, placement, parity, the codec and translation
(R26 to R30, R333 to R359, R458, R459). -/

namespace Sys2Proof.Machine

/-! ### The address map (R26) -/

/-- What a DPA names. -/
inductive DpaKind where
  | hbm | lpddr | tier3 | scratch (p off : Nat) | control | reserved
  deriving DecidableEq, Repr

def regionSize : Nat := 0x200000
def hbmEnd (parity : Bool) : Nat := if parity then 0x05400000000 else 0x06000000000
def lpdEnd (p : Part) (parity : Bool) : Nat :=
  match p with
  | .a => if parity then 0x1B000000000 else 0x1C000000000
  | .b => if parity then 0x15800000000 else 0x16000000000

/-- The DPA map of R26. -/
def dpaKind (p : Part) (m : MemState) (a : Nat) : DpaKind :=
  if a < hbmEnd m.hbmParity then .hbm
  else if 0x10000000000 ≤ a ∧ a < lpdEnd p m.lpdParity then .lpddr
  else if 0x20000000000 ≤ a ∧ a < 0x30000000000 then .tier3
  else if 0x3F000000000 ≤ a ∧ a < 0x3F044000000 then
    .scratch ((a - 0x3F000000000) / 0x400000) ((a - 0x3F000000000) % 0x400000)
  else if 0x3F800000000 ≤ a ∧ a < 0x100000000000 then .control
  else .reserved

/-! ### HBM placement (R334, R335) -/

/-- perm(key, k) (R335). -/
def permKey (key k : Nat) : Nat :=
  (((2 * fld key 0 8 + 1) * (k ^^^ fld key 8 9)) % 512) ^^^ fld key 17 9

/-- Where a data byte lies: stack, pseudo-channel, slot, byte within the slot, and the frame's parity stack. -/
structure Place where
  stack : Nat
  pc : Nat
  slot : Nat
  byte : Nat
  parStack : Nat
  deriving DecidableEq, Repr

-- PRESUMED, unsafe: log 21.
/-- The placement of a data DPA (R334). -/
def placeOf (parity : Bool) (key a : Nat) : Place :=
  let r := a / regionSize
  let n := if parity then 7 else 8
  let g := r / n
  let i := r % n
  let f := permKey key ((a / 4096) % 512)
  let s := f % 8
  { stack := (if parity then s + 1 + i else s + i) % 8, pc := f / 8, slot := 8 * g + s, byte := a % 4096, parStack := s }

/-- The linear number of a placed byte on a stack. -/
def placeAddr (stack pc slot byte : Nat) : Nat := ((stack * 64 + pc) * 196608 + slot) * 4096 + byte

namespace MemState

-- DESIGN CHOICE, safe: log 39.
def keyOf (m : MemState) (r : Nat) : Nat := (m.keys.getD r 0).toNat

def place (m : MemState) (a : Nat) : Place := placeOf m.hbmParity (m.keyOf (a / regionSize)) a

/-- An element of the place has failed (R340). -/
def missing (m : MemState) (stack pc : Nat) : Bool := m.failedStacks.contains stack || m.failedPcs.contains (stack * 64 + pc)

/-- The block of a stack in a frame can be read as it stands. -/
def readable (m : MemState) (p : Place) (stack : Nat) : Bool :=
  !m.missing stack p.pc && !m.badBlocks.contains (placeAddr stack p.pc p.slot p.byte / 64)

/-- The XOR over the frame's other members at the byte's offset (R340). -/
def rebuilt (m : MemState) (p : Place) : Nat :=
  ((List.range 8).filter (· != p.stack)).foldl (fun x t => x ^^^ (m.hbm.get (placeAddr t p.pc p.slot p.byte)).toNat) 0

/-- Every other member of the frame can be read, so that reconstruction is possible (R358). -/
def canRebuild (m : MemState) (p : Place) : Bool :=
  m.hbmParity && ((List.range 8).filter (· != p.stack)).all (m.readable p)

/-- A data byte: none when its block is lost (R358). -/
def hbmByte (m : MemState) (a : Nat) : Option Nat :=
  let p := m.place a
  if m.poisoned.contains (a / 64) then none
  else if m.readable p p.stack then some (m.hbm.get (placeAddr p.stack p.pc p.slot p.byte)).toNat
  else if m.canRebuild p then some (m.rebuilt p)
  else none

/-- Bytes of HBM data; none when one is lost. -/
def hbmRead (m : MemState) (a : Nat) : Nat → Option (List Nat)
  | 0 => some []
  | n + 1 =>
    match m.hbmByte a, hbmRead m (a + 1) n with
    | some b, some bs => some (b :: bs)
    | _, _ => none

/-- The write-back of a reconstructed block, or the marking of a lost one (R358); `blk` is DPA / 64. -/
def settleBlock (m : MemState) (blk : Nat) : MemState :=
  let p := m.place (64 * blk)
  let pb := placeAddr p.stack p.pc p.slot p.byte / 64
  if m.readable p p.stack then m
  else if m.canRebuild p then
    if m.missing p.stack p.pc then m
    else
      let vals := (List.range 64).map fun i => m.rebuilt (m.place (64 * blk + i))
      { m with hbm := m.hbm.write (64 * pb) vals, badBlocks := m.badBlocks.filter (· != pb) }
  else if m.poisoned.contains blk then m
  else { m with poisoned := blk :: m.poisoned }

/-- The write of one data byte with its parity (R337, R338, R340). -/
def hbmWriteByte (m : MemState) (a v : Nat) : MemState :=
  let p := m.place a
  let at_ := placeAddr p.stack p.pc p.slot p.byte
  let pAt := placeAddr p.parStack p.pc p.slot p.byte
  let old := (m.hbm.get at_).toNat
  let par := (m.hbm.get pAt).toNat
  if !m.hbmParity then { m with hbm := m.hbm.set at_ (BitVec.ofNat 8 v) }
  else if m.missing p.stack p.pc then
    -- a missing block: parity becomes the XOR of the six others with the new data
    let others := ((List.range 8).filter fun t => t != p.stack && t != p.parStack).foldl
      (fun x t => x ^^^ (m.hbm.get (placeAddr t p.pc p.slot p.byte)).toNat) 0
    { m with hbm := m.hbm.set pAt (BitVec.ofNat 8 (others ^^^ v)) }
  else if m.missing p.parStack p.pc then { m with hbm := m.hbm.set at_ (BitVec.ofNat 8 v) }
  else { m with hbm := (m.hbm.set pAt (BitVec.ofNat 8 (par ^^^ old ^^^ v))).set at_ (BitVec.ofNat 8 v) }

def hbmWriteBytes (m : MemState) (a : Nat) : List Nat → MemState
  | [] => m
  | v :: vs => hbmWriteBytes (m.hbmWriteByte a v) (a + 1) vs

/-- The fresh state of a data slot after blocks b0 to b1 have been written (R337). -/
def touchFresh (m : MemState) (slot b0 b1 : Nat) : MemState :=
  let (fr, mark) := m.fresh.getD slot (true, 0)
  let new : Bool × Nat :=
    if b0 = 0 ∧ b1 = 63 then (fr, 64)
    else if fr ∧ b0 ≥ mark then (true, b1 + 1)
    else (false, mark)
  { m with fresh := m.fresh.set slot new }

/-- The data slots a range of bytes touches, with their first and last block. -/
def freshRange (m : MemState) (a n : Nat) : MemState :=
  if n = 0 then m
  else
    let s0 := a / 4096
    let s1 := (a + n - 1) / 4096
    (List.range (s1 - s0 + 1)).foldl (fun m i =>
      let s := s0 + i
      let b0 := if i = 0 then a % 4096 / 64 else 0
      let b1 := if s = s1 then (a + n - 1) % 4096 / 64 else 63
      m.touchFresh s b0 b1) m

/-- Bytes served by a pseudo-channel are counted by the balance monitor, and one request in 4,096 is sampled (R352). -/
def countServed (m : MemState) (a n : Nat) : MemState :=
  let m1 := (List.range ((a % 64 + n + 63) / 64)).foldl (fun (m : MemState) i =>
    let p := m.place (a / 64 * 64 + 64 * i)
    let k := p.stack * 64 + p.pc
    { m with pcBytes := m.pcBytes.set k (m.pcBytes.getD k 0 + 64) }) m
  let c := m1.sampleCount + 1
  if c % 4096 = 0 then
    let r := a / regionSize
    { m1 with sampleCount := c
              hot := if (m1.hot.get? r).isSome || m1.hot.length < 4096 then m1.hot.set r (m1.hot.getD r 0 + 1) else m1.hot }
  else { m1 with sampleCount := c }

/-- A write of a whole range of HBM data: parity, fresh state, poison of blocks written whole (R337, R358, R359). -/
def hbmStore (m : MemState) (a : Nat) (vs : List Nat) : MemState :=
  let m1 := m.hbmWriteBytes a vs
  let m2 := m1.freshRange a vs.length
  let whole (blk : Nat) : Bool := a ≤ 64 * blk && 64 * blk + 64 ≤ a + vs.length
  let m3 := { m2 with
    poisoned := m2.poisoned.filter (fun b => !whole b)
    badBlocks := m2.badBlocks.filter fun pb =>
      !((List.range ((a % 64 + vs.length + 63) / 64)).any fun i =>
        let b := a / 64 + i
        let p := m2.place (64 * b)
        whole b && placeAddr p.stack p.pc p.slot p.byte / 64 == pb) }
  m3.countServed a vs.length

/-! ### LPDDR stripes and the codec (R342 to R349) -/

/-- Sectors of the stored data space (R342). -/
def lpdSectors (p : Part) (parity : Bool) : Nat :=
  match p, parity with
  | .a, true => 2952790016 | .a, false => 3221225472 | .b, true => 1476395008 | .b, false => 1610612736

/-- The package of stored sector z and its stripe (R342). -/
def lpdPlace (parity : Bool) (z : Nat) : Nat × Nat :=
  if parity then
    let stripe := z / 11
    ((stripe % 12 + 1 + z % 11) % 12, stripe)
  else
    let stripe := z / 12
    ((stripe + z % 12) % 12, stripe)

/-- Stored sectors per segment (R346). -/
def segSectors (m : MemState) : Nat := if m.lpdParity then 11264 else 12288

/-- Segments that exist in a tier's stored space. -/
def segTotal (p : Part) (m : MemState) (tier : Nat) : Nat :=
  if tier = 2 then lpdSectors p m.lpdParity / m.segSectors
  else (m.backing.map fun ((_, n) : Nat × Nat) => n / 256 / m.segSectors).sum

/-- Segments of a tier not holding anything. -/
def segFree (p : Part) (m : MemState) (tier : Nat) : Nat :=
  segTotal p m tier - (m.segments.filter fun (_, g) => g.tier == tier).length

/-- A read of a stored unit can be served: at most one package of its sectors' stripes is lost (R343, R358). -/
def unitReadable (m : MemState) (x : Extent) (u : UnitEntry) : Bool :=
  if u.poisoned then false
  else if u.size = 0 then true
  else if x.tier = 3 then true
  else
    (List.range u.size).all fun i =>
      let (pkg, _) := lpdPlace m.lpdParity (u.sector + i)
      !m.failedPkgs.contains pkg || (m.lpdParity && m.failedPkgs.length ≤ 1)

/-- The bytes of a unit are all zero. -/
def unitZero (x : Extent) (u : Nat) : Bool := (Mem.read x.mem (4096 * u) 4096).all (· == 0)

-- DESIGN CHOICE, safe: log 23.
/-- The stored size of a unit: 0 for zeros, else 1 to 16 sectors as the codec compresses it, which the spec leaves open
(R344, R345). -/
def storedSize (x : Extent) (u : Nat) (free : Nat) : Nat :=
  if unitZero x u then 0 else 1 + Config.freeNat .choice free u % 16

/-- A stored copy released: its segment loses live sectors (R346). -/
def dropStored (m : MemState) (u : UnitEntry) : MemState :=
  if u.size = 0 then m
  else
    let m' := { m with segments := m.segments.modify u.seg fun g => { g with live := g.live - u.size } }
    { m' with segments := m'.segments.filter fun (k, g) => !(g.live == 0 && m'.openSeg.getD g.tier (k + 1) != k) }

/-- Space for a stored copy of n sectors in a tier: the segment, the first sector and the new state; none when no free
stored space is left beyond the 64 segments kept for compaction (R346). -/
def takeStored (p : Part) (m : MemState) (tier n reserve : Nat) : Option (Nat × Nat × MemState) :=
  let cur := m.openSeg.getD tier 0
  match if (m.openSeg.get? tier).isSome then m.segments.get? cur else none with
  | some g =>
    if g.tier = tier ∧ g.used + n ≤ m.segSectors then
      some (cur, cur / 2 * m.segSectors + g.used,
        { m with segments := m.segments.set cur { g with used := g.used + n, live := g.live + n } })
    else fresh
  | none => fresh
where
  fresh : Option (Nat × Nat × MemState) :=
    if segFree p m tier ≤ reserve then none
    else
      -- segment numbers of tier 2 are even, of tier 3 odd
      let k := ((List.range (m.segments.length + 1)).map fun i => 2 * i + (tier - 2)).find?
        (fun k => (m.segments.get? k).isNone)
      match k with
      | some k =>
        some (k, k / 2 * m.segSectors,
          { m with segments := m.segments.set k ⟨tier, n, n⟩, openSeg := m.openSeg.set tier k })
      | none => none

/-- A rewrite of unit u of an extent by its new bytes from offset `off` (R347). The status is MEMORY_ERROR for a lost
unit that is not replaced whole, LIMIT for want of stored space (R346, R359), LINK_LOST for tier 3 without its link. -/
def rewriteUnit (p : Part) (m : MemState) (e u off : Nat) (vs : List Nat) (free : Nat) : Except Status MemState :=
  match m.extents.get? e with
  | none => .error .badAddress
  | some x =>
    let old := x.units.getD u ⟨0, 0, 0, false⟩
    if x.tier = 3 ∧ !m.hostLinkUp then .error .linkLost
    else if !(unitReadable m x old) && !(off == 0 && vs.length == 4096) then .error .memoryError
    else
      let x1 := { x with mem := x.mem.write (4096 * u + off) vs }
      let n := storedSize x1 u free
      if n = 0 then
        .ok { dropStored m old with extents := m.extents.set e { x1 with units := x1.units.set u ⟨0, 0, 0, false⟩ } }
      else
        match takeStored p m x.tier n 64 with
        | none => .error .limit
        | some (seg, sec, m1) =>
          .ok { dropStored m1 old with
                extents := m.extents.set e { x1 with units := x1.units.set u ⟨seg, sec, n, false⟩ } }

/-- A read of bytes of an extent through the codec (R344, R349, R358). -/
def codecRead (m : MemState) (e off n : Nat) : Except Status (List Nat) :=
  match m.extents.get? e with
  | none => .error .badAddress
  | some x =>
    if x.tier = 3 ∧ !m.hostLinkUp then .error .linkLost
    else if (List.range ((off % 4096 + n + 4095) / 4096)).all fun i =>
        unitReadable m x (x.units.getD (off / 4096 + i) ⟨0, 0, 0, false⟩) then .ok (Mem.read x.mem off n)
    else .error .memoryError

/-- The pieces of a range cut at multiples of a size: start and length. -/
def pieces (size : Nat) : Nat → Nat → Nat → List (Nat × Nat)
  | 0, _, _ => []
  | f + 1, a, n =>
    if n = 0 then []
    else
      let k := min n (size - a % size)
      (a, k) :: pieces size f (a + k) (n - k)

/-- A write of bytes of an extent, unit by unit; a failure leaves the state as it was (R347, R359). -/
def codecWriteGo (p : Part) (e free : Nat) : List (Nat × Nat) → List Nat → MemState → Except Status MemState
  | [], _, m => .ok m
  | (a, k) :: rest, vs, m =>
    match rewriteUnit p m e (a / 4096) (a % 4096) (vs.take k) free with
    | .error s => .error s
    | .ok m1 => codecWriteGo p e (free + 1) rest (vs.drop k) m1

def codecWrite (p : Part) (m : MemState) (e off : Nat) (vs : List Nat) (free : Nat) : Except Status MemState :=
  codecWriteGo p e free (pieces 4096 (vs.length + 1) off vs.length) vs m

end MemState

/-! ### Translation (R458, R459) -/

/-- One page's translation for an access; `write` says the direction (R459). -/
def translate (t : Tenant) (a : Nat) (write : Bool) : Except Status Trn :=
  match t.table.get? (a / regionSize) with
  | none => .error .badAddress
  | some e => if write && (!e.write || e.locked) then .error .noPermission else .ok e

/-- Bytes of one page piece. -/
def readPiece (m : MemState) (e : Trn) (off n : Nat) : Except Status (List Nat) :=
  if e.tier = 1 then
    match m.hbmRead (e.target * regionSize + off) n with
    | some bs => .ok bs
    | none => .error .memoryError
  else m.codecRead e.target off n

/-- The copy under way of a page, where the page is dual-mapped (R350). -/
def moveOf (m : MemState) (e : Trn) : Option Move :=
  if e.mig then m.moves.find? fun v => v.srcTier == e.tier && v.src == e.target else none

/-- A write of one page piece, to both targets where the unit has been copied (R350). -/
def writePiece (p : Part) (m : MemState) (e : Trn) (off : Nat) (vs : List Nat) (free : Nat) : Except Status MemState :=
  let store (m : MemState) (tier target off : Nat) (vs : List Nat) (free : Nat) : Except Status MemState :=
    if tier = 1 then .ok (m.hbmStore (target * regionSize + off) vs) else MemState.codecWrite p m target off vs free
  match store m e.tier e.target off vs free with
  | .error s => .error s
  | .ok m1 =>
    match moveOf m e with
    | none => .ok m1
    | some v =>
      let copied := min vs.length (4096 * v.next - off)
      if copied = 0 then .ok m1 else store m1 v.dstTier v.dst off (vs.take copied) (free + 512)

/-- A read of tenant memory: a request that spans pages succeeds or fails as a whole (R459). -/
def tenantRead (m : MemState) (t : Tenant) (a n : Nat) : Except Status (List Nat) :=
  (MemState.pieces regionSize (n + 1) a n).foldl (fun acc (pa, k) =>
    match acc with
    | .error s => .error s
    | .ok bs =>
      match translate t pa false with
      | .error s => .error s
      | .ok e =>
        match readPiece m e (pa % regionSize) k with
        | .error s => .error s
        | .ok b => .ok (bs ++ b)) (.ok [])

/-- A write of tenant memory: every page is translated and checked first, then written (R359, R459). -/
def tenantWrite (p : Part) (m : MemState) (t : Tenant) (a : Nat) (vs : List Nat) (free : Nat) : Except Status MemState :=
  let ps := MemState.pieces regionSize (vs.length + 1) a vs.length
  let check := ps.foldl (fun (acc : Except Status Unit) (pa, _) =>
    match acc with
    | .error s => .error s
    | .ok _ => match translate t pa true with | .error s => .error s | .ok _ => .ok ()) (.ok ())
  match check with
  | .error s => .error s
  | .ok _ =>
    (ps.foldl (fun (acc : Except Status (MemState × List Nat × Nat)) (pa, k) =>
      match acc with
      | .error s => .error s
      | .ok (m, vs, fr) =>
        match translate t pa true with
        | .error s => .error s
        | .ok e =>
          match writePiece p m e (pa % regionSize) (vs.take k) fr with
          | .error s => .error s
          | .ok m1 => .ok (m1, vs.drop k, fr + 1024)) (.ok (m, vs, free))).map (·.1)

/-! ### Reset slot tables (R354) -/

/-- The reset table with MNT at slots step*j + step - 1 and OPEN elsewhere. -/
def resetTable (step : Nat) : BitVec 1024 :=
  BitVec.ofNat 1024 (packCodes 4 ((List.range 256).map fun s => if s % step = step - 1 then 5 else 15))

/-- Channels are numbered: 0 to 511 HBM pseudo-channels, 512 to 523 LPDDR channels, 524 up die-to-die directions. -/
def slotReset (ch : Nat) : BitVec 1024 := resetTable (if ch < 512 then 32 else if ch < 524 then 16 else 64)

def MemState.slotTable (m : MemState) (ch : Nat) : BitVec 1024 := (m.slots.get? ch).getD (slotReset ch)

/-- A slot table holds only assigned codes, keeps its maintenance slots, and RMT only on die-to-die links (R353, R354). -/
def slotTableOk (ch : Nat) (t : BitVec 1024) : Bool :=
  let codes := (List.range 256).map fun s => fld t.toNat (4 * s) 4
  codes.all (fun c => c ≤ 5 || (c == 6 && ch ≥ 524) || c == 15)
    && codes.countP (· == 5) == (if ch < 512 then 8 else if ch < 524 then 16 else 4)

end Sys2Proof.Machine
end

