-- ==== Sys2Proof/Machine/Walker.lean ====
section
/-! DEFINITION. Operations of the page walker: pages, lists, PEMIT modes, appends, commit and sequence commands
(R238 to R271, R596). -/

namespace Sys2Proof.Machine

/-- What an operation on sequences works on: the tiers, the tenant and the KV state. -/
structure KvCtx where
  part : Part
  mem : MemState
  tid : Nat
  ten : Tenant
  kv : KvState
  free : Nat
  deriving DecidableEq, Repr

namespace KvCtx

def read (c : KvCtx) (a n : Nat) : Except Status (List Nat) := tenantRead c.mem c.ten a n

def write (c : KvCtx) (a : Nat) (vs : List Nat) : Except Status KvCtx :=
  match tenantWrite c.part c.mem c.ten a vs c.free with
  | .error s => .error s
  | .ok m => .ok { c with mem := m, free := c.free + 65536 }

def copy (c : KvCtx) (src dst n : Nat) : Except Status KvCtx :=
  match c.read src n with
  | .error s => .error s
  | .ok bs => c.write dst bs

end KvCtx

/-! ### Pages (R239) -/

namespace Pool

def wk (q : Pool) : Nat := q.kf.width / 8
def wv (q : Pool) : Nat := q.vf.width / 8
def pageBytes (q : Pool) : Nat := q.h * q.p * q.d * (q.wk + q.wv) + (if q.sums then 8 * q.h * q.d else 0)
def stride (q : Pool) : Nat := (q.pageBytes + 4095) / 4096 * 4096
def pageAt (q : Pool) (n : Nat) : Nat := q.region + n * q.stride
def kRow (q : Pool) (n h t : Nat) : Nat := q.pageAt n + (h * q.p + t) * q.d * q.wk
def vRow (q : Pool) (n h t : Nat) : Nat := q.pageAt n + q.h * q.p * q.d * q.wk + (h * q.p + t) * q.d * q.wv
def sumRow (q : Pool) (n c h : Nat) : Nat := q.pageAt n + q.h * q.p * q.d * (q.wk + q.wv) + (c * q.h + h) * 4 * q.d
/-- The index of a page's current summary copy (R240). -/
def curCopy (q : Pool) (n : Nat) : Nat := if q.sumOne.contains n then 1 else 0
/-- Lines of a landed K row and V row (R250). -/
def rk (q : Pool) : Nat := (q.d * q.wk + 31) / 32
def rv (q : Pool) : Nat := (q.d * q.wv + 31) / 32

/-- The range checks of POOL_CREATE (R238, R596 check 1). -/
def rangesOk (q : Pool) : Bool :=
  [16, 32, 64, 128, 256, 512, 1024].contains q.p && 1 ≤ q.h && q.h ≤ 16 && 16 ≤ q.d && q.d ≤ 256 && q.d % 16 == 0
    && [EFmt.e4m3, .e5m2, .bf16, .fp16].contains q.kf && [EFmt.e4m3, .e5m2, .bf16, .fp16].contains q.vf
    && 1 ≤ q.layers && q.layers ≤ 128 && 1 ≤ q.cap && q.cap ≤ 2 ^ 32 - 2 && 1 ≤ q.blocks && q.blocks ≤ 2 ^ 32 - 1
    && q.region % 4096 == 0 && q.arena % 4096 == 0

/-- A page with a count of 0 after a decrement waits for earlier PEMITs (R265). -/
def unref (q : Pool) (n mark : Nat) : Pool :=
  let r := q.refs.getD n 0
  if r ≤ 1 then { q with refs := q.refs.del n, waiting := q.waiting ++ [(n, mark)] }
  else { q with refs := q.refs.set n (r - 1) }

/-- A page taken from the free list (R240); its count becomes 1. -/
def takePage (q : Pool) (key : Nat) : Option (Nat × Pool) :=
  match q.freePages.pickRun 1 key with
  | none => none
  | some n => some (n, { q with freePages := q.freePages.del n n, refs := q.refs.set n 1
                                sumOne := q.sumOne.filter (· != n), taint := q.taint.filter (· != n) })

/-- n consecutive arena blocks (R245). -/
def takeBlocks (q : Pool) (n key : Nat) : Option (Nat × Pool) :=
  match q.freeBlocks.pickRun n key with
  | none => none
  | some b => some (b, { q with freeBlocks := q.freeBlocks.del b (b + n - 1) })

def giveBlocks (q : Pool) (b n : Nat) : Pool :=
  if n = 0 then q else { q with freeBlocks := q.freeBlocks.add b (b + n - 1) }

end Pool

/-! ### Descriptors and lists (R241 to R246) -/

def nullEntry : Nat := 0xFFFFFFFF

namespace Desc

def handle (d : Desc) (idx : Nat) : Nat := idx + 2 ^ 20 * d.gen

/-- The position of a token index (R242). -/
def pos (d : Desc) (i : Nat) : Nat :=
  if !d.shard then i else if i < d.split then d.pos0 + i else d.pos1 + (i - d.split)

/-- Entries in use, LST_COUNT (R246). -/
def count (d : Desc) (q : Pool) : Nat := (d.len + q.p - 1) / q.p * q.layers

/-- E, the entries the sequence can need (R245). -/
def capE (d : Desc) (q : Pool) : Nat := (d.max + q.p - 1) / q.p * q.layers

/-- Arena blocks of a one-level list or of the top level of a two-level one (R245). -/
def topBlocks (d : Desc) (q : Pool) : Nat :=
  if d.lfmt = 0 then 0
  else if d.lfmt = 1 then (64 + 4 * d.capE q + 4095) / 4096
  else (64 + 4 * ((d.capE q + 1023) / 1024) + 4095) / 4096

/-- The 64-byte image (R241). -/
def image (d : Desc) (idx : Nat) : List Nat :=
  let full := decide (d.len = 2 ^ 26)
  let v := idx + 2 ^ 20 * d.gen + 2 ^ 32 * d.tenant + 2 ^ 42 * d.pool + 2 ^ 48 * d.lfmt + 2 ^ 50
    + 2 ^ 51 * d.shard.toNat + 2 ^ 52 * full.toNat + 2 ^ 64 * (d.len % 2 ^ 26) + 2 ^ 96 * d.max
    + 2 ^ 128 * d.list + 2 ^ 176 * d.split + 2 ^ 200 * d.pos0 + 2 ^ 228 * d.pos1
    + 2 ^ 256 * packCodes 32 (if d.lfmt = 0 then d.inl else [])
  toBytes v 64

/-- The list header (R246). -/
def header (d : Desc) (q : Pool) : List Nat :=
  toBytes (d.count q + 2 ^ 32 * d.capE q + 2 ^ 64 * d.lfmt + 2 ^ 66 * d.pool + 2 ^ 96 * (if d.lfmt = 2 then d.leaves else 0)) 64

end Desc

/-- The descriptor a handle names, for a tenant (R243). -/
def KvState.validDesc (kv : KvState) (tid handle : Nat) : Option (Nat × Desc) :=
  let idx := handle % 2 ^ 20
  match kv.descs.get? idx with
  | some d => if d.tenant = tid ∧ d.gen = handle / 2 ^ 20 % 4096 then some (idx, d) else none
  | none => none

namespace KvCtx

def word (c : KvCtx) (a : Nat) : Except Status Nat :=
  match c.read a 4 with
  | .error s => .error s
  | .ok bs => .ok (ofBytes bs)

def putWord (c : KvCtx) (a v : Nat) : Except Status KvCtx := c.write a (toBytes v 4)

/-- The leaf block of a two-level list that holds entry k; it must lie in the arena (R247). -/
def leafOf (c : KvCtx) (q : Pool) (d : Desc) (k : Nat) : Except Status Nat :=
  match c.word (d.list + 64 + 4 * (k / 1024)) with
  | .error s => .error s
  | .ok b => if b < q.blocks then .ok b else .error .badAddress

/-- Where entry k of a list that is not inline lies (R245). -/
def entryAt (c : KvCtx) (q : Pool) (d : Desc) (k : Nat) : Except Status Nat :=
  if d.lfmt = 1 then .ok (d.list + 64 + 4 * k)
  else
    match c.leafOf q d k with
    | .error s => .error s
    | .ok b => .ok (q.arena + 4096 * b + 4 * (k % 1024))

/-- List entry k: a page below C, or NULL as none (R244). -/
def entry (c : KvCtx) (q : Pool) (d : Desc) (k : Nat) : Except Status (Option Nat) :=
  let raw : Except Status Nat :=
    if d.lfmt = 0 then .ok (d.inl.getD k nullEntry)
    else match c.entryAt q d k with
      | .error s => .error s
      | .ok a => c.word a
  match raw with
  | .error s => .error s
  | .ok e => if e = nullEntry then .ok none else if e < q.cap then .ok (some e) else .error .badAddress

/-- Entry k of a committed list set (R247, R259). -/
def setEntry (c : KvCtx) (q : Pool) (idx : Nat) (d : Desc) (k e : Nat) : Except Status KvCtx :=
  if d.lfmt = 0 then
    .ok { c with kv := { c.kv with descs := c.kv.descs.modify idx fun d =>
      { d with inl := setAt (d.inl ++ List.replicate (8 - d.inl.length) 0) k e } } }
  else
    match c.entryAt q d k with
    | .error s => .error s
    | .ok a => c.putWord a e

/-- Several list entries set in turn. -/
def setEntries (c : KvCtx) (q : Pool) (idx : Nat) (d : Desc) : List (Nat × Nat) → Except Status KvCtx
  | [] => .ok c
  | (k, e) :: t =>
    match c.setEntry q idx d k e with
    | .error s => .error s
    | .ok c => c.setEntries q idx d t

/-- Entries lo to lo + n - 1 of a committed list, NULL as none. -/
def entriesFrom (c : KvCtx) (q : Pool) (d : Desc) (lo : Nat) : Nat → Except Status (List (Option Nat))
  | 0 => .ok []
  | n + 1 =>
    match c.entry q d lo, c.entriesFrom q d (lo + 1) n with
    | .ok e, .ok es => .ok (e :: es)
    | .error s, _ => .error s
    | _, .error s => .error s

def modPool (c : KvCtx) (n : Nat) (f : Pool → Pool) : KvCtx :=
  { c with kv := { c.kv with pools := c.kv.pools.modify n f } }

def modDesc (c : KvCtx) (i : Nat) (f : Desc → Desc) : KvCtx :=
  { c with kv := { c.kv with descs := c.kv.descs.modify i f } }

end KvCtx

/-! ### PEMITs (R249 to R253, R266 to R271) -/

/-- What a PEMIT lands: rows by byte address, then header lines, and word ranges whose content is undefined; and the ranges of tenant
memory that it fetched. -/
structure WalkOut where
  rows : List (Nat × List Nat)
  header : List (Nat × List Nat)
  undef : List (Nat × Nat)
  reads : List (Nat × Nat)
  deriving DecidableEq, Repr

/-- The least of a list under the order of the failure table (R253); a status the table does not name comes last. -/
def worst (es : List Status) : Option Status :=
  if es.contains .badCommand then some .badCommand
  else if es.contains .badAddress then some .badAddress
  else if es.contains .memoryError then some .memoryError
  else es.head?

def errsOf {α : Type} (l : List (Except Status α)) : List Status :=
  l.filterMap fun e => match e with | .error s => some s | .ok _ => none

def oksOf {α : Type} (l : List (Except Status α)) : List α :=
  l.filterMap fun e => match e with | .error _ => none | .ok a => some a

def insertBy {α : Type} (before : α → α → Bool) (x : α) : List α → List α
  | [] => [x]
  | y :: t => if before x y then x :: y :: t else y :: insertBy before x t

/-- A stable insertion sort. -/
def sortBy {α : Type} (before : α → α → Bool) : List α → List α
  | [] => []
  | x :: t => insertBy before x (sortBy before t)

namespace Walk

def mode (w : Walk) : Nat := fld w.sel 0 2
def head (w : Walk) : Nat := fld w.sel 2 4
def hc (w : Walk) : Nat := fld w.sel 6 4 + 1
def addr (w : Walk) : Nat := fld w.sel 10 20

/-- Words of the landing area (R250, R266, R270); S + R + N of the sounding block for select mode. -/
def areaWords (w : Walk) (q : Pool) (srn : Nat) : Nat :=
  match w.mode with
  | 1 => 64 + w.hc * w.tokens * q.d
  | 2 => 8 + 8 * ((srn + 7) / 8)
  | _ => 64 + 8 * w.hc * w.tokens * (q.rk + q.rv)

/-- A sounding block, or none where it is malformed (R268). -/
def sounding (rd : Rd) (w : Walk) : Option (Nat × Bool × Nat × Nat × Nat) :=
  let b := rdLE rd (4 * w.addr) 64
  let bound := fld b 0 48
  let spad := bitAt b 48
  let s := fld b 64 16
  let r := fld b 80 16
  let n := fld b 96 16
  if fld b 49 15 = 0 ∧ fld b 112 400 = 0 ∧ s + r + n ≤ 4096 ∧ (if spad then bound ≤ lastWord else bound % 4 = 0) then
    some (bound, spad, s, r, n)
  else none

/-- A selection list: J and the selected pages, or none where its header or an entry the tile uses is wrong (R271). -/
def selection (rd : Rd) (w : Walk) (q : Pool) : Option (List Nat) :=
  let c := rdWord rd w.addr
  let j := rdWord rd (w.addr + 1)
  let lo := w.treg / q.p
  let hi := min c ((w.treg + w.tokens + q.p - 1) / q.p)
  let sel := (List.range c).map fun i => rdWord rd (w.addr + 8 + i)
  if c ≤ 4096 ∧ ((List.range 6).all fun i => rdWord rd (w.addr + 2 + i) == 0)
      ∧ ((List.range (hi - lo)).all fun i =>
          let e := sel.getD (lo + i) 0
          e < j && (lo + i = 0 || sel.getD (lo + i - 1) 0 < e)) then some sel
  else none

/-- The checks of a PEMIT that need no memory, in the order of R253. -/
def check (rd : Rd) (w : Walk) (q : Pool) : Option Status :=
  let exact := w.mode == 0 || w.mode == 3
  if (exact && w.treg ≥ 2 ^ 26) || (w.mode == 1 && w.treg ≥ 2 ^ 22) then some .limit
  else
    let al := lineAligned w.addr
    let snd := if w.mode = 2 ∧ al then w.sounding rd else some (0, false, 0, 0, 0)
    if (exact && w.treg % 16 != 0) || q.layers ≤ w.layer || q.h < w.head + w.hc || fld w.sel 30 2 != 0
        || (w.mode == 1 && !q.sums) || ((w.mode == 0 || w.mode == 1) && w.addr != 0)
        || (w.mode == 2 && (w.tokens != 1 || w.incT != 0 || snd.isNone))
        || (w.mode == 3 && al && (w.selection rd q).isNone) then some .badCommand
    else
      let srn := match snd with | some (_, _, s, r, n) => s + r + n | none => 0
      if lastWord + 1 < w.sreg + w.areaWords q srn || !lineAligned w.sreg || !al then some .badAddress
      else none

/-- The token index of tile token t (R251, R271). -/
def tokenIx (w : Walk) (q : Pool) (sel : List Nat) (t : Nat) : Option Nat :=
  if w.mode = 0 then some (w.treg + t)
  else
    let u := w.treg + t
    (sel[u / q.p]?).map fun j => j * q.p + u % q.p

/-- An exact or selected tile (R250, R251). -/
def tileOut (c : KvCtx) (w : Walk) (q : Pool) (d : Desc) (sel : List Nat) : Except Status WalkOut :=
  let toks := (List.range w.tokens).map fun t =>
    match w.tokenIx q sel t with
    | none => (t, Except.ok none)
    | some i =>
      if i ≥ d.len then (t, Except.ok none)
      else (t, match c.entry q d (i / q.p * q.layers + w.layer) with
        | .error s => Except.error s
        | .ok e => Except.ok (e.map fun n => (i, n)))
  match worst (errsOf (toks.map (·.2))) with
  | some s => .error s
  | none =>
    let live : List (Nat × Nat × Nat) := toks.filterMap fun (t, e) =>
      match e with | .ok (some (i, n)) => some (t, i, n) | _ => none
    let size := w.tokens * (q.rk + q.rv)
    let rows := (List.range w.hc).flatMap fun h => live.flatMap fun (t, i, n) =>
      let base := w.sreg + 64 + 8 * (h * size)
      let land (wordAt src len : Nat) : Except Status (Nat × List Nat) :=
        match c.read src len with
        | .error s => .error s
        | .ok bs => .ok (4 * wordAt, bs)
      [land (base + 8 * (t * q.rk)) (q.kRow n (w.head + h) (i % q.p)) (q.d * q.wk),
       land (base + 8 * (w.tokens * q.rk + t * q.rv)) (q.vRow n (w.head + h) (i % q.p)) (q.d * q.wv)]
    match worst (errsOf rows) with
    | some s => .error s
    | none =>
      let valid := (live.map fun (t, _, _) => 2 ^ t).sum
      let kpos := (List.range 16).map fun g =>
        if live.any (fun (t, _, _) => t / 16 == g) then ((w.tokenIx q sel (16 * g)).map d.pos).getD 0 else 0
      let tainted := live.flatMap fun (t, _, n) =>
        if q.taint.contains n then (List.range w.hc).flatMap fun h =>
          let base := w.sreg + 64 + 8 * (h * size)
          [(base + 8 * (t * q.rk), base + 8 * (t * q.rk) + 8 * q.rk - 1),
           (base + 8 * (w.tokens * q.rk + t * q.rv), base + 8 * (w.tokens * q.rk + t * q.rv) + 8 * q.rv - 1)]
        else []
      .ok ⟨oksOf rows, [(4 * w.sreg + 64, kpos.flatMap (toBytes · 4)), (4 * w.sreg + 128, toBytes valid 32)],
        if d.taint then [(w.sreg + 16, w.sreg + w.areaWords q 0 - 1)] else tainted,
        (List.range w.hc).flatMap fun h => live.flatMap fun (_, i, n) =>
          [(q.kRow n (w.head + h) (i % q.p), q.d * q.wk), (q.vRow n (w.head + h) (i % q.p), q.d * q.wv)]⟩

/-- A summary tile (R266). -/
def summary (c : KvCtx) (w : Walk) (q : Pool) (d : Desc) : Except Status WalkOut :=
  let pages := (List.range w.tokens).map fun i =>
    let j := w.treg + i
    if j * q.p ≥ d.len then (i, Except.ok none) else (i, c.entry q d (j * q.layers + w.layer))
  match worst (errsOf (pages.map (·.2))) with
  | some s => .error s
  | none =>
    let live : List (Nat × Nat) := pages.filterMap fun (i, e) => match e with | .ok (some n) => some (i, n) | _ => none
    let rows := (List.range w.hc).flatMap fun h => live.map fun (i, n) =>
      match c.read (q.sumRow n (q.curCopy n) (w.head + h)) (4 * q.d) with
      | .error s => Except.error s
      | .ok bs => Except.ok (4 * (w.sreg + 64 + (h * w.tokens + i) * q.d), bs)
    match worst (errsOf rows) with
    | some s => .error s
    | none =>
      let valid := (live.map fun (i, _) => 2 ^ i).sum
      .ok ⟨oksOf rows, [(4 * w.sreg + 64, List.replicate 64 0), (4 * w.sreg + 128, toBytes valid 32)],
        if d.taint ∨ live.any (fun (_, n) => q.taint.contains n) then [(w.sreg + 16, w.sreg + w.areaWords q 0 - 1)] else [],
        (List.range w.hc).flatMap fun h => live.map fun (_, n) => (q.sumRow n (q.curCopy n) (w.head + h), 4 * q.d)⟩

/-- b[j] comes before b[k]: NaN highest, then the value, then the lower index (R269). -/
def boundBefore (x y : Nat × Nat) : Bool :=
  let a := Flt.fp32.decode x.2
  let b := Flt.fp32.decode y.2
  if a.isNaN && b.isNaN then x.1 < y.1
  else if a.isNaN then true
  else if b.isNaN then false
  else if Num.lt b a then true
  else if Num.lt a b then false
  else x.1 < y.1

/-- The pages a selection keeps, in ascending order (R269). -/
def choose (cand : List Nat) (j s r n : Nat) (bound : Nat → Nat) : List Nat :=
  let fixed (k : Nat) : Bool := k < s || j ≤ k + r
  let rest := (cand.filter fun k => !fixed k).map fun k => (k, bound k)
  let top := ((sortBy boundBefore rest).take n).map (·.1)
  cand.filter fun k => fixed k || top.contains k

/-- A select tile: the selection list (R269, R270). -/
def select (c : KvCtx) (rd : Rd) (w : Walk) (q : Pool) (d : Desc) : Except Status WalkOut :=
  match w.sounding rd with
  | none => .error .badCommand
  | some (bound, spad, s, r, n) =>
    let j := (d.len + q.p - 1) / q.p
    let ents := (List.range j).map fun k => (k, c.entry q d (k * q.layers + w.layer))
    match worst (errsOf (ents.map (·.2))) with
    | some e => .error e
    | none =>
      let cand := ents.filterMap fun (k, e) => match e with | .ok (some _) => some k | _ => none
      let rest := cand.filter fun k => !(k < s || j ≤ k + r)
      let at_ (k : Nat) : Except Status Nat :=
        if spad then (if bound + k ≤ lastWord then .ok (rdWord rd (bound + k)) else .error .badCommand)
        else c.word (bound + 4 * k)
      match worst (errsOf (rest.map at_)) with
      | some e => .error e
      | none =>
        let sel := choose cand j s r n fun k => match at_ k with | .ok v => v | .error _ => 0
        let words := [sel.length, j] ++ List.replicate 6 0 ++ sel
          ++ List.replicate (8 * ((s + r + n + 7) / 8) - sel.length) 0xFFFFFFFF
        .ok ⟨[], [(4 * w.sreg, words.flatMap (toBytes · 4))],
          if d.taint then [(w.sreg, w.sreg + words.length - 1)] else [],
          if spad then [] else rest.map fun k => (bound + 4 * k, 4)⟩

/-- One PEMIT, whole (R251, R253). `lost` says that the walker met uncorrectable data. -/
def run (c : KvCtx) (rd : Rd) (w : Walk) (lost : Bool) : Except Status WalkOut :=
  match c.kv.validDesc c.tid w.handle with
  | none => .error .badAddress
  | some (_, d) =>
    match c.kv.pools.get? d.pool with
    | none => .error .badAddress
    | some q =>
      match w.check rd q with
      | some s => .error s
      | none =>
        let out := match w.mode with
          | 0 => w.tileOut c q d []
          | 1 => w.summary c q d
          | 2 => w.select c rd q d
          | _ => w.tileOut c q d ((w.selection rd q).getD [])
        match out with
        | .ok o => if lost then .error .memoryError else .ok o
        | .error s => .error s

end Walk

/-! ### Summaries (R258) -/

/-- A key element as a BF16 code: FP16 keys are rounded toward +infinity (`up`) or -infinity; NaN is canonical (R258). -/
def keyBf16 (f : EFmt) (up : Bool) (code : Nat) : Nat :=
  match f.flt? with
  | none => 0
  | some g =>
    match g.decode code with
    | .nan => 0x7FC0
    | v =>
      let w := Flt.fp32.encode false v
      let t := w / 2 ^ 16
      if w % 2 ^ 16 ≠ 0 ∧ v.isNeg = !up then t + 1 else t

/-- The rank of a BF16 code that is no NaN, +0 above -0 (R258). -/
def bf16Rank (x : Nat) : Int := if x ≥ 0x8000 then -(Int.ofNat (x - 0x8000)) - 1 else Int.ofNat x

def bf16NaN (x : Nat) : Bool := x % 2 ^ 15 > 0x7F80

def mergeMax (a b : Nat) : Nat :=
  if bf16NaN a || bf16NaN b then 0x7FC0 else if bf16Rank a < bf16Rank b then b else a

def mergeMin (a b : Nat) : Nat :=
  if bf16NaN a || bf16NaN b then 0x7FC0 else if bf16Rank b < bf16Rank a then b else a

/-- The codes of a key row. -/
def rowCodes (f : EFmt) (bytes : List Nat) : List Nat := (chunks (f.width / 8) bytes).map ofBytes

/-- The summary of one key row: d maxima, then d minima, as codes. -/
def rowSummary (f : EFmt) (bytes : List Nat) : List Nat :=
  let cs := rowCodes f bytes
  cs.map (keyBf16 f true) ++ cs.map (keyBf16 f false)

/-- A stored summary merged with one key row (R258). -/
def mergeSummary (d : Nat) (old new : List Nat) : List Nat :=
  (List.zipWith mergeMax (old.take d) (new.take d)) ++ (List.zipWith mergeMin (old.drop d) (new.drop d))

def codesBytes (cs : List Nat) : List Nat := cs.flatMap (toBytes · 2)
def bytesCodes (bs : List Nat) : List Nat := (chunks 2 bs).map ofBytes

/-! ### Appends (R255 to R258) -/

/-- The K and V rows an append brings for one layer and head. -/
structure AppendRows where
  layer : Nat
  head : Nat
  k : List (List Nat)
  v : List (List Nat)
  deriving DecidableEq, Repr

namespace KvCtx

/-- A fold that stops at the first error. -/
def foldE {α : Type} (f : KvCtx → α → Except Status KvCtx) (c : KvCtx) : List α → Except Status KvCtx
  | [] => .ok c
  | x :: t =>
    match f c x with
    | .error s => .error s
    | .ok c => foldE f c t

def pend (c : KvCtx) (idx unit : Nat) : PendRec := c.kv.records.getD idx (.fresh unit)

def setRec (c : KvCtx) (idx : Nat) (r : PendRec) : KvCtx := { c with kv := { c.kv with records := c.kv.records.set idx r } }

def poolOf (c : KvCtx) (n : Nat) : Except Status Pool :=
  match c.kv.pools.get? n with
  | some q => .ok q
  | none => .error .noPermission

/-- The acceptance of an append, in the order of R256; exhaustion of pages and blocks shows when pages are prepared. -/
def appendCheck (c : KvCtx) (unit handle a r : Nat) (pairs : List (Nat × Nat)) : Except Status (Nat × Desc × Pool) :=
  match c.kv.validDesc c.tid handle with
  | none => .error .badAddress
  | some (idx, d) =>
    match c.kv.pools.get? d.pool with
    | none => .error .badAddress
    | some q =>
      let held := c.kv.records.get? idx
      if (held.map (·.unit)).getD unit ≠ unit then .error .limit
      else
        let pr := c.pend idx unit
        if pairs.any fun (y, h) => q.layers ≤ y || q.h ≤ h || pr.counts.getD (16 * y + h) 0 != a then .error .badCommand
        else if d.max < d.len + a + r ∨ 2 ^ 26 < d.len + a + r ∨ 65535 < a + r
            ∨ (held.isNone ∧ 65536 ≤ c.kv.records.length) then .error .limit
        else .ok (idx, d, q)

/-- A new page for entry k, the leaf block included (R240, R245, R257). -/
def newPage (c : KvCtx) (unit idx : Nat) (d : Desc) (k : Nat) : Except Status (Nat × KvCtx) :=
  match c.poolOf d.pool with
  | .error s => .error s
  | .ok q =>
    match q.takePage c.free with
    | none => .error .limit
    | some (n, q1) =>
      let pr := c.pend idx unit
      let needLeaf := d.lfmt == 2 && d.leaves ≤ k / 1024 && (pr.leaves.get? (k / 1024)).isNone
      let placed : Option (AMap Nat × Pool) :=
        if needLeaf then (q1.takeBlocks 1 (c.free + 1)).map fun (b, q2) => (pr.leaves.set (k / 1024) b, q2)
        else some (pr.leaves, q1)
      match placed with
      | none => .error .limit
      | some (lv, q2) =>
        let c1 := { c with kv := { c.kv with pools := c.kv.pools.set d.pool q2 }, free := c.free + 2 }
        .ok (n, c1.setRec idx { pr with entries := pr.entries.set k n, prepared := k :: pr.prepared, leaves := lv })

/-- Committed rows and the current summary copied from a shared page to a new one (R257). -/
def copyPage (c : KvCtx) (q : Pool) (old new rows : Nat) : Except Status KvCtx :=
  foldE (fun c h =>
    match c.copy (q.kRow old h 0) (q.kRow new h 0) (rows * q.d * q.wk) with
    | .error s => .error s
    | .ok c1 =>
      match c1.copy (q.vRow old h 0) (q.vRow new h 0) (rows * q.d * q.wv) with
      | .error s => .error s
      | .ok c2 =>
        if q.sums then c2.copy (q.sumRow old (q.curCopy old) h) (q.sumRow new 0 h) (4 * q.d) else .ok c2)
    c (List.range q.h)

/-- The page of token page j of a layer in the record's shadow, prepared on the first write (R257). -/
def preparePage (c : KvCtx) (unit idx : Nat) (d : Desc) (j y : Nat) : Except Status (Nat × KvCtx) :=
  match c.poolOf d.pool with
  | .error s => .error s
  | .ok q =>
    let k := j * q.layers + y
    let pr := c.pend idx unit
    match pr.entries.get? k with
    | some n => .ok (n, c)
    | none =>
      if d.count q ≤ k then c.newPage unit idx d k
      else
        match c.entry q d k with
        | .error s => .error s
        | .ok none => c.newPage unit idx d k
        | .ok (some old) =>
          if pr.prepared.contains k ∨ q.refs.getD old 0 ≤ 1 then
            .ok (old, c.setRec idx { pr with prepared := if pr.prepared.contains k then pr.prepared else k :: pr.prepared })
          else
            match c.newPage unit idx d k with
            | .error s => .error s
            | .ok (n, c1) =>
              match c1.copyPage q old n (d.len % q.p) with
              | .error s => .error s
              | .ok c2 =>
                let pr2 := c2.pend idx unit
                .ok (n, c2.setRec idx { pr2 with replaced := old :: pr2.replaced })

/-- The shadow summary of a page and head merged with one key row (R258). -/
def addSummary (c : KvCtx) (unit idx : Nat) (d : Desc) (q : Pool) (n j h : Nat) (row : List Nat) : Except Status KvCtx :=
  if !q.sums then .ok c
  else
    let cur := q.curCopy n
    let pr := c.pend idx unit
    let new := rowSummary q.kf row
    let started := pr.sums.contains (n, h)
    let committed := decide (j * q.p < d.len)
    let base : Except Status (Option (List Nat)) :=
      if started then (c.read (q.sumRow n (1 - cur) h) (4 * q.d)).map some
      else if committed then (c.read (q.sumRow n cur h) (4 * q.d)).map some
      else .ok none
    match base with
    | .error s => .error s
    | .ok b =>
      let merged := match b with
        | some bs => mergeSummary q.d (bytesCodes bs) new
        | none => new
      match c.write (q.sumRow n (1 - cur) h) (codesBytes merged) with
      | .error s => .error s
      | .ok c1 => .ok (if started then c1 else c1.setRec idx { pr with sums := (n, h) :: pr.sums })

/-- One token's rows written into its page (R255, R257, R258). -/
def appendToken (c : KvCtx) (unit idx : Nat) (d : Desc) (q : Pool) (y h i : Nat) (kr vr : List Nat) : Except Status KvCtx :=
  match c.preparePage unit idx d (i / q.p) y with
  | .error s => .error s
  | .ok (n, c1) =>
    match c1.write (q.kRow n h (i % q.p)) kr with
    | .error s => .error s
    | .ok c2 =>
      match c2.write (q.vRow n h (i % q.p)) vr with
      | .error s => .error s
      | .ok c3 => c3.addSummary unit idx d ((c3.kv.pools.get? d.pool).getD q) n (i / q.p) h kr

/-- An append: accepted whole, its rows written and its counts raised, or refused with no effect (R256). -/
def append (c : KvCtx) (unit handle a r : Nat) (rows : List AppendRows) : Except Status KvCtx :=
  match c.appendCheck unit handle a r (rows.map fun x => (x.layer, x.head)) with
  | .error s => .error s
  | .ok (idx, d, q) =>
    let c0 := c.setRec idx (c.pend idx unit)
    let body := foldE (fun c (x : AppendRows) =>
      foldE (fun c (t, kr, vr) => c.appendToken unit idx d q x.layer x.head (d.len + a + t) kr vr)
        c ((List.range r).map fun t => (t, x.k.getD t [], x.v.getD t []))) c0 rows
    match body with
    | .error s => .error s
    | .ok c1 =>
      let pr := c1.pend idx unit
      .ok (c1.setRec idx { pr with counts := rows.foldl (fun m x => m.set (16 * x.layer + x.head) (a + r)) pr.counts })

/-! ### Commit (R259, R260) -/

/-- The rows that an accepted append has written: those of its tokens in the pages of the pending record, or in place (R256, R257). -/
def rowSpans (c : KvCtx) (unit handle a r : Nat) (pairs : List (Nat × Nat)) : List (Nat × Nat) :=
  match c.kv.validDesc c.tid handle with
  | none => []
  | some (idx, d) => match c.kv.pools.get? d.pool with
    | none => []
    | some q => pairs.flatMap fun (y, h) => (List.range r).flatMap fun t =>
        let i := d.len + a + t
        let k := i / q.p * q.layers + y
        match ((c.pend idx unit).entries.get? k).or (match c.entry q d k with | .ok e => e | .error _ => none) with
        | some n => [(q.kRow n h (i % q.p), q.d * q.wk), (q.vRow n h (i % q.p), q.d * q.wv)]
        | none => []

/-- Every count of the record equals that of layer 0, head 0 (R259). -/
def countsEqual (q : Pool) (pr : PendRec) : Bool :=
  let e := pr.counts.getD 0 0
  (List.range q.layers).all fun y => (List.range q.h).all fun h => pr.counts.getD (16 * y + h) 0 == e

/-- One record commits (R259). A list that cannot be written leaves the record uncommitted. -/
def commitRec (c : KvCtx) (idx : Nat) (pr : PendRec) : KvCtx :=
  match c.kv.descs.get? idx with
  | none => c
  | some d =>
    match c.kv.pools.get? d.pool with
    | none => c
    | some q =>
      let d1 := { d with len := d.len + pr.counts.getD 0 0, leaves := d.leaves + pr.leaves.length }
      let lists : Except Status KvCtx :=
        match foldE (fun c (lf, b) => c.putWord (d.list + 64 + 4 * lf) b) c pr.leaves with
        | .error s => .error s
        | .ok c1 =>
          match c1.setEntries q idx d1 pr.entries with
          | .error s => .error s
          | .ok c2 => if d.lfmt = 0 then .ok c2 else c2.write d.list (d1.header q)
      match lists with
      | .error _ => c
      | .ok c3 =>
        let mark := c3.kv.nextWalk
        let c4 := c3.modDesc idx fun x => { x with len := d1.len, leaves := d1.leaves }
        let c5 := c4.modPool d.pool fun q =>
          let pages := (pr.sums.map (·.1)).eraseDups
          let q1 := { q with sumOne := pages.foldl (fun l n => if l.contains n then l.filter (· != n) else n :: l) q.sumOne }
          pr.replaced.foldl (fun q n => q.unref n mark) q1
        { c5 with kv := { c5.kv with records := c5.kv.records.del idx } }

/-- One record is given up: its pages and leaf blocks return, nothing else changes (R260). -/
def dropRec (c : KvCtx) (idx : Nat) (pr : PendRec) : KvCtx :=
  match c.kv.descs.get? idx with
  | none => { c with kv := { c.kv with records := c.kv.records.del idx } }
  | some d =>
    let c1 := c.modPool d.pool fun q =>
      let q1 := pr.entries.foldl (fun (q : Pool) (_, n) =>
        { q with refs := q.refs.del n, freePages := q.freePages.add n n }) q
      pr.leaves.foldl (fun (q : Pool) (_, b) => q.giveBlocks b 1) q1
    { c1 with kv := { c1.kv with records := c1.kv.records.del idx } }

/-- The records of a unit of work. -/
def unitRecs (c : KvCtx) (unit : Nat) : List (Nat × PendRec) := c.kv.records.filter fun (_, r) => r.unit == unit

/-- Some record of the unit has counts that differ (R260). -/
def unitUneven (c : KvCtx) (unit : Nat) : Bool :=
  (c.unitRecs unit).any fun (idx, pr) =>
    match c.kv.descs.get? idx with
    | none => true
    | some d => match c.kv.pools.get? d.pool with | none => true | some q => !countsEqual q pr

/-- The commit point of a unit of work (R259, R260): all of its records commit, or none does. -/
def commitUnit (c : KvCtx) (unit : Nat) (ok : Bool) : KvCtx :=
  let rs := c.unitRecs unit
  if ok && !c.unitUneven unit then rs.foldl (fun c (i, r) => c.commitRec i r) c
  else rs.foldl (fun c (i, r) => c.dropRec i r) c

/-! ### Sequence commands (R242, R245, R262 to R264) -/

/-- A free descriptor index: one never issued, else the one freed longest ago (R243). -/
def takeIndex (c : KvCtx) : Option (Nat × KvCtx) :=
  if c.kv.nextIndex < 2 ^ 20 then some (c.kv.nextIndex, { c with kv := { c.kv with nextIndex := c.kv.nextIndex + 1 } })
  else match c.kv.freed with
    | [] => none
    | i :: t => some (i, { c with kv := { c.kv with freed := t } })

def descCount (c : KvCtx) : Nat := (c.kv.descs.filter fun (_, d) => d.tenant == c.tid).length

/-- A new descriptor with an empty list of its format, blocks allocated and the header written (R245). -/
def newDesc (c : KvCtx) (d0 : Desc) : Except Status (Nat × KvCtx) :=
  if c.ten.quotas.descriptors ≤ c.descCount then .error .limit
  else
    match c.takeIndex, c.poolOf d0.pool with
    | none, _ => .error .limit
    | _, .error s => .error s
    | some (idx, c1), .ok q =>
      let e := d0.capE q
      let d1 := { d0 with gen := c.kv.gens.getD idx 0, lfmt := if e ≤ 8 then 0 else if e ≤ 262144 then 1 else 2 }
      if d1.lfmt = 0 then
        let d2 := { d1 with list := 0, inl := List.replicate 8 0 }
        .ok (idx, { c1 with kv := { c1.kv with descs := c1.kv.descs.set idx d2 } })
      else
        match q.takeBlocks (d1.topBlocks q) c1.free with
        | none => .error .limit
        | some (b, q1) =>
          let d2 := { d1 with list := q.arena + 4096 * b }
          let c2 := { c1 with kv := { c1.kv with descs := c1.kv.descs.set idx d2, pools := c1.kv.pools.set d0.pool q1 }
                              free := c1.free + 1 }
          match c2.write d2.list (d2.header q) with
          | .error s => .error s
          | .ok c3 => .ok (idx, c3)

/-- SEQ_CREATE (R242, R245). -/
def seqCreate (c : KvCtx) (pool max split pos0 pos1 : Nat) (shard : Bool) : Except Status (Nat × KvCtx) :=
  match c.kv.pools.get? pool with
  | none => .error .noPermission
  | some q =>
    if q.tenant ≠ c.tid then .error .noPermission
    else if max = 0 ∨ 2 ^ 26 < max then .error .badCommand
    else if (!shard && (split != 0 || pos0 != 0 || pos1 != 0))
        || (shard && (split % q.p != 0 || pos0 % q.p != 0 || pos1 % q.p != 0)) then .error .badCommand
    else if shard ∧ (2 ^ 23 < max ∨ 2 ^ 26 < pos0 + min max split ∨ (split < max ∧ 2 ^ 26 < pos1 + (max - split))) then
      .error .limit
    else
      c.newDesc { gen := 0, tenant := c.tid, pool := pool, lfmt := 0, shard := shard, len := 0, max := max, list := 0
                  split := split, pos0 := pos0, pos1 := pos1, inl := [], leaves := 0, taint := false }

/-- Leaf blocks for a forked two-level list (R262). -/
def forkLeaves (c : KvCtx) (idx : Nat) (d : Desc) (q : Pool) : Nat → Except Status KvCtx
  | 0 => .ok c
  | n + 1 =>
    match c.forkLeaves idx d q n with
    | .error s => .error s
    | .ok c1 =>
      match c1.poolOf d.pool with
      | .error s => .error s
      | .ok q1 =>
        match q1.takeBlocks 1 c1.free with
        | none => .error .limit
        | some (b, q2) =>
          let c2 := { c1 with kv := { c1.kv with pools := c1.kv.pools.set d.pool q2 }, free := c1.free + 1 }
          let c3 := c2.modDesc idx fun x => { x with leaves := n + 1 }
          c3.putWord (d.list + 64 + 4 * n) b

/-- SEQ_FORK (R262). -/
def seqFork (c : KvCtx) (parent f : Nat) : Except Status (Nat × KvCtx) :=
  match c.kv.validDesc c.tid parent with
  | none => .error .badAddress
  | some (_, pd) =>
    match c.kv.pools.get? pd.pool with
    | none => .error .badAddress
    | some q =>
      if pd.len < f then .error .limit
      else
        let n := (f + q.p - 1) / q.p * q.layers
        match c.entriesFrom q pd 0 n with
        | .error s => .error s
        | .ok es =>
          if es.any fun e => match e with | some pg => decide (65535 ≤ q.refs.getD pg 0) | none => false then .error .limit
          else
            match c.newDesc { pd with len := 0, leaves := 0, inl := [], taint := pd.taint } with
            | .error s => .error s
            | .ok (idx, c1) =>
              let d1 := (c1.kv.descs.get? idx).getD pd
              match (if d1.lfmt = 2 then c1.forkLeaves idx d1 q ((n + 1023) / 1024) else .ok c1) with
              | .error s => .error s
              | .ok c2 =>
                let d2 := (c2.kv.descs.get? idx).getD d1
                let pairs := (List.range n).zip (es.map fun e => e.getD nullEntry)
                match c2.setEntries q idx d2 pairs with
                | .error s => .error s
                | .ok c3 =>
                  let c4 := c3.modDesc idx fun x => { x with len := f }
                  let c5 := c4.modPool pd.pool fun q => es.foldl (fun q e =>
                    match e with | some pg => { q with refs := q.refs.set pg (q.refs.getD pg 0 + 1) } | none => q) q
                  if d2.lfmt = 0 then .ok (idx, c5)
                  else
                    match c5.write d2.list (({ d2 with len := f } : Desc).header q) with
                    | .error s => .error s
                    | .ok c6 => .ok (idx, c6)

/-- The current summary copy of a page recomputed from its first n rows (R263). -/
def resummarise (c : KvCtx) (q : Pool) (pg n : Nat) : Except Status KvCtx :=
  foldE (fun c h =>
    match c.read (q.kRow pg h 0) (n * q.d * q.wk) with
    | .error s => .error s
    | .ok bs =>
      match (chunks (q.d * q.wk) bs).map (rowSummary q.kf) with
      | [] => .ok c
      | r :: rs => c.write (q.sumRow pg (q.curCopy pg) h) (codesBytes (rs.foldl (mergeSummary q.d) r)))
    c (List.range q.h)

/-- SEQ_TRUNCATE (R263). -/
def seqTruncate (c : KvCtx) (handle t : Nat) : Except Status (Nat × KvCtx) :=
  match c.kv.validDesc c.tid handle with
  | none => .error .badAddress
  | some (idx, d) =>
    match c.kv.pools.get? d.pool with
    | none => .error .badAddress
    | some q =>
      if d.len < t ∨ (c.kv.records.get? idx).isSome then .error .limit
      else
        let keep := (t + q.p - 1) / q.p * q.layers
        match c.entriesFrom q d keep (d.count q - keep) with
        | .error s => .error s
        | .ok es =>
          let part := if t % q.p = 0 ∨ !q.sums ∨ t = d.len then .ok []
            else c.entriesFrom q d (t / q.p * q.layers) q.layers
          match part with
          | .error s => .error s
          | .ok ps =>
            match foldE (fun c pg => c.resummarise q pg (t % q.p)) c (ps.filterMap id) with
            | .error s => .error s
            | .ok c1 =>
              let mark := c1.kv.nextWalk
              let c2 := c1.modPool d.pool fun q => (es.filterMap id).foldl (fun q pg => q.unref pg mark) q
              let c3 := c2.modDesc idx fun x => { x with len := t }
              if d.lfmt = 0 then .ok (idx, c3)
              else
                match c3.write d.list (({ d with len := t } : Desc).header q) with
                | .error s => .error s
                | .ok c4 => .ok (idx, c4)

/-- The arena blocks of a descriptor returned (R264). -/
def releaseBlocks (c : KvCtx) (q : Pool) (d : Desc) : Except Status KvCtx :=
  let leaves := oksOf ((List.range (if d.lfmt = 2 then d.leaves else 0)).map fun i => c.leafOf q d (1024 * i))
  .ok (c.modPool d.pool fun q =>
    let q1 := leaves.foldl (fun q b => q.giveBlocks b 1) q
    if d.lfmt = 0 then q1 else q1.giveBlocks ((d.list - q.arena) / 4096) (d.topBlocks q))

/-- SEQ_FREE (R243, R264). -/
def seqFree (c : KvCtx) (handle : Nat) : Except Status (Nat × KvCtx) :=
  match c.kv.validDesc c.tid handle with
  | none => .error .badAddress
  | some (idx, d) =>
    match c.kv.pools.get? d.pool with
    | none => .error .badAddress
    | some q =>
      if (c.kv.records.get? idx).isSome then .error .limit
      else
        match c.entriesFrom q d 0 (d.count q) with
        | .error s => .error s
        | .ok es =>
          match c.releaseBlocks q d with
          | .error s => .error s
          | .ok c1 =>
            let mark := c1.kv.nextWalk
            let c2 := c1.modPool d.pool fun q => (es.filterMap id).foldl (fun q pg => q.unref pg mark) q
            .ok (idx, { c2 with kv := { c2.kv with descs := c2.kv.descs.del idx, freed := c2.kv.freed ++ [idx]
                                                   gens := c2.kv.gens.set idx ((d.gen + 1) % 4096) } })

/-- One sequence command at its commit point: its status, the descriptor index it concerns, and the new state. -/
def seqRun (c : KvCtx) (op : SeqOp) : Except Status (Nat × KvCtx) :=
  match op with
  | .create pool max split pos0 pos1 shard _ => c.seqCreate pool max split pos0 pos1 shard
  | .fork parent f _ => c.seqFork parent f
  | .truncate handle len _ => c.seqTruncate handle len
  | .free handle => c.seqFree handle

/-! ### Pools (R596, R265) -/

/-- POOL_CREATE after rows 1 to 5 of R434 (R596). -/
def poolCreate (c : KvCtx) (n : Nat) (q : Pool) (mapped : Nat → Nat → Bool) : Except Status KvCtx :=
  if 64 ≤ n ∨ !q.rangesOk then .error .badCommand
  else if 524288 < q.pageBytes then .error .limit
  else if (c.kv.pools.get? n).isSome ∨ 64 ≤ c.kv.pools.length
      ∨ c.ten.quotas.pools ≤ (c.kv.pools.filter fun (_, x) => x.tenant == c.tid).length then .error .limit
  else if !(mapped q.region (q.cap * q.stride)) ∨ !(mapped q.arena (q.blocks * 4096)) then .error .badAddress
  else .ok { c with kv := { c.kv with pools := c.kv.pools.set n q } }

end KvCtx

/-- Pages whose earlier PEMITs have all counted or failed rejoin the free list (R265). -/
def Pool.returnPages (q : Pool) (walks : List Walk) : Pool :=
  let ready (m : Nat) : Bool := walks.all fun w => m ≤ w.id
  { q with freePages := (q.waiting.filter fun (_, m) => ready m).foldl (fun f (n, _) => f.add n n) q.freePages
           waiting := q.waiting.filter fun (_, m) => !ready m }

/-- Bytes [a, a + n) of tenant memory and [b, b + k) share a byte of one stored page (R240, R247). -/
def shareBytes (t : Tenant) (a n b k : Nat) : Bool :=
  (MemState.pieces regionSize (n + 1) a n).any fun (x, xn) =>
    (MemState.pieces regionSize (k + 1) b k).any fun (y, yn) =>
      match t.table.get? (x / regionSize), t.table.get? (y / regionSize) with
      | some e, some f =>
        e.tier == f.tier && e.target == f.target && x % regionSize < y % regionSize + yn && y % regionSize < x % regionSize + xn
      | _, _ => false

/-- A tenant's own write into pages or lists in use (R240, R247). -/
def KvState.noteWrite (kv : KvState) (t : Tenant) (tid a n : Nat) : KvState :=
  let kv1 := { kv with pools := kv.pools.map fun ((i, q) : Nat × Pool) =>
    if q.tenant = tid then
      (i, { q with taint := q.refs.foldl (fun (l : List Nat) ((pg, _) : Nat × Nat) =>
        if !l.contains pg && shareBytes t a n (q.pageAt pg) q.stride then pg :: l else l) q.taint })
    else (i, q) }
  { kv1 with descs := kv1.descs.map fun ((i, d) : Nat × Desc) =>
      match kv.pools.get? d.pool with
      | some q =>
        if d.tenant = tid ∧ d.lfmt ≠ 0 ∧ (shareBytes t a n d.list (4096 * d.topBlocks q)
            ∨ (d.lfmt = 2 ∧ shareBytes t a n q.arena (4096 * q.blocks))) then (i, { d with taint := true }) else (i, d)
      | none => (i, d) }

end Sys2Proof.Machine
end

