-- ==== Sys2Proof/Machine/Ops.lean ====
section
/-! DEFINITION. The named operations every family shares: units named by commands, the scratchpad, host memory, notices,
the error log, ended commands and units of work. -/

namespace Sys2Proof.Machine

namespace MemState

/-- Blocks that a range of HBM data touches. -/
def blocksOf (a n : Nat) : List Nat := (List.range ((a % 64 + n + 63) / 64)).map (a / 64 + ·)

/-- A block that a range touches lies on a failed element (R340, R343). -/
def placeMisses (m : MemState) (tier target off n : Nat) : Bool :=
  if tier = 1 then (blocksOf (target * regionSize + off) n).any fun b => let p := m.place (64 * b); m.missing p.stack p.pc
  else tier == 2 && ((m.extents.get? target).map fun x => x.units.any fun (k, u) =>
    decide (off / 4096 ≤ k ∧ k ≤ (off + n) / 4096) && (List.range u.size).any fun i =>
      m.failedPkgs.contains (lpdPlace m.lpdParity (u.sector + i)).1).getD false

end MemState

/-- What a command answers. -/
abbrev Out := Host.Outcome State Fault Refusal

namespace State

/-! ### Units -/

def holm (s : State) (p : Nat) : Holm := s.holms.getD p (Holm.reset .fusedOut)

def setHolm (s : State) (p : Nat) (h : Holm) : State := { s with holms := s.holms.set p h }

def modHolm (s : State) (p : Nat) (f : Holm → Holm) : State := s.setHolm p (f (s.holm p))

def port (s : State) (i : Nat) : Port := s.net.ports.getD i .reset

def setPort (s : State) (i : Nat) (q : Port) : State := { s with net := { s.net with ports := setAt s.net.ports i q } }

def modPort (s : State) (i : Nat) (f : Port → Port) : State := { s with net := { s.net with ports := modAt s.net.ports i f } }

def now (s : State) : Nat := s.net.time.now

/-- The dies and memories have power: the module is neither off nor in the off time of a cold reset, and has not entered RECOVERY
(R532, R540, R553, R585). -/
def live (s : State) : Bool :=
  match s.boot.phase with
  | .off => false
  | .railsOff => false
  | .recovery => false
  | _ => true

-- DESIGN CHOICE, safe: log 11.
/-- The next free value's number, and the state with it used up. -/
def takeFree (s : State) (n : Nat) : Nat × State := (s.free, { s with free := s.free + n })

/-- A 32-bit handle that no live object of its kind has; which one firmware takes is free (R439). -/
def newHandle (s : State) (used : List Nat) : Nat × State :=
  let (tag, s1) := s.takeFree 1
  let start := Config.freeNat .choice tag 0
  ((((List.range (used.length + 1)).map fun i => (start + i) % 2 ^ 32).find? fun h => !used.contains h).getD 0, s1)

end State

-- DESIGN CHOICE, safe: log 1.
/-- A command that names a physical holm (R14). -/
def onHolm (p : Nat) (s : State) (f : Holm → State → State) : Out :=
  if p < 272 then .next (if s.live then f (s.holm p) s else s) else .fault .noSuchHolm

-- DESIGN CHOICE, safe: log 2.
/-- A command that names a strait port (R360). -/
def onPort (i : Nat) (s : State) (f : Port → State → State) : Out :=
  if i < 32 then .next (if s.live then f (s.port i) s else s) else .fault .noSuchPort

/-- A command of a unit that only a live module has. -/
def onLive (s : State) (f : State → State) : Out := .next (if s.live then f s else s)

/-! ### The scratchpad of a holm (R67 to R99) -/

namespace Holm

-- DEDUCED, safe: log 10.
/-- A byte of the scratchpad: zero in a line whose written bit is 0, a free value in an undefined word (R81). -/
def byte (h : Holm) (a : Nat) : Nat :=
  let w := a / 4
  if !h.written.has (w / 8) then 0
  else match h.undef.tag? w with
    | some t => Config.freeNat .undefWord t w / 256 ^ (a % 4) % 256
    | none => (h.mem.get a).toNat

def rd (h : Holm) : Rd := h.byte

/-- n bytes from a byte address. -/
def bytes (h : Holm) (a : Nat) : Nat → List Nat
  | 0 => []
  | n + 1 => h.byte a :: bytes h (a + 1) n

/-- A word is written: its line's written bit is set, its poison clears (R81, R93). -/
def putWord (h : Holm) (w v : Nat) : Holm :=
  { h with mem := h.mem.writeLE (4 * w) v 4, written := h.written.add (w / 8) (w / 8), undef := h.undef.del w w
           poison := h.poison.filter (· != w) }

def putWords (h : Holm) (ws : List (Nat × Nat)) : Holm := ws.foldl (fun h (w, v) => h.putWord w v) h

/-- Bytes written from a byte address that is a multiple of 4; the last word is completed with zeros (R70). -/
def putBytes (h : Holm) (a : Nat) (bs : List Nat) : Holm := h.putWords (wordsAt (a / 4) ((chunks 4 bs).map ofBytes))

-- DESIGN CHOICE, safe: log 11.
/-- Words lo to hi become undefined (R83, R325). -/
def spoil (h : Holm) (lo hi tag : Nat) : Holm :=
  { h with written := h.written.add (lo / 8) (hi / 8), undef := h.undef.add lo hi tag }

/-- Words that are spoiled, each range under its own tag. -/
def spoilAll (h : Holm) (rs : List (Nat × Nat)) (tag : Nat) : Holm :=
  rs.foldl (fun h (lo, n) => if n = 0 then h else h.spoil lo (lo + n - 1) tag) h

/-- The written bits of lines lo to hi are cleared (R82, R87). -/
def clearLines (h : Holm) (lo hi : Nat) : Holm :=
  { h with written := h.written.del lo hi, mem := h.mem.clear (32 * lo) (32 * (hi + 1)), undef := h.undef.del (8 * lo) (8 * hi + 7)
           poison := h.poison.filter fun w => decide (w < 8 * lo) || decide (8 * hi + 7 < w) }

/-- The first word of the lagoon (R80). -/
def lagoonAt (h : Holm) : Nat := 0x100000 - h.lagoon * 0x10000

/-- Open water cleared at the start of an invocation (R82). -/
def clearOpen (h : Holm) : Holm := h.clearLines 0 (h.lagoonAt / 8 - 1)

/-- The whole lagoon cleared and its image reference dropped (R87). -/
def dropLagoon (h : Holm) : Holm :=
  let h1 := if h.lagoon = 0 then h else h.clearLines (h.lagoonAt / 8) 0x1FFFF
  { h1 with image := 0, loadDue := false }

/-- A new lagoon size: the rows that join or leave the lagoon have their written bits cleared (R87). -/
def setLagoon (h : Holm) (l : Nat) : Holm :=
  if l = h.lagoon then h
  else
    let a := 0x100000 - min l h.lagoon * 0x10000
    let b := 0x100000 - max l h.lagoon * 0x10000
    { h.clearLines (b / 8) (a / 8 - 1) with lagoon := l }

/-- The exposure mode of a line (R88). -/
def modeOf (h : Holm) (line : Nat) : Nat :=
  match h.exposure.find? fun e => e.first ≤ line && line ≤ e.last with
  | some e => e.mode
  | none => 0

/-- Lines a to b are all admitted by a least mode (R89, R90). -/
def exposed (h : Holm) (a b mode : Nat) : Bool := (List.range (b + 1 - a)).all fun i => mode ≤ h.modeOf (a + i)

/-- Some word of lines a to b is poisoned (R98). -/
def poisonedIn (h : Holm) (a b : Nat) : Bool := h.poison.any fun w => a ≤ w / 8 && w / 8 ≤ b

/-- The holm and line of the first poisoned word in lines a to b. -/
def badLine (h : Holm) (p a b : Nat) : Option (Nat × Nat) :=
  (h.poison.find? fun w => a ≤ w / 8 && w / 8 ≤ b).map fun w => (p, w / 8)

def chan (h : Holm) (c : Nat) : Chan := h.chans.getD c .reset
def setChan (h : Holm) (c : Nat) (x : Chan) : Holm := { h with chans := setAt h.chans c x }

/-- Scoreboard entries retire (R44); an engine instruction whose last entry retires is complete (R35). -/
def retire (h : Holm) (ids : List Nat) : Holm :=
  { h with scoreboard := h.scoreboard.filter fun e => !ids.contains e.id
           inFlight := (h.inFlight.map fun f => { f with entries := f.entries.filter fun i => !ids.contains i }).filter
             fun f => !f.entries.isEmpty }

/-- A fault is detected: the record keeps the one lowest in program order, then by channel, a failed holm first
(R325 to R327). -/
def noteFault (h : Holm) (r : FaultRec) : Holm :=
  if h.st ≠ .running then h
  else match h.fault with
    | none => { h with fault := some r }
    | some o =>
      let first := if r.hw != o.hw then r.hw else if r.pc != o.pc then decide (r.pc < o.pc) else decide (r.ch < o.ch)
      { h with fault := some { (if first then r else o) with more := min (o.more + 1) 255 } }

/-- The tide number a fault record carries. -/
def tideNo (h : Holm) : Nat := (h.inv.map (·.tide)).getD 0 % 2 ^ 48

/-- A precise fault: nothing else happens (R325). -/
def precise (h : Holm) (pc opc : Nat) (st : Status) (detail : Nat) : Holm :=
  h.noteFault ⟨st, pc, opc, 0, false, detail, false, 0, h.tideNo⟩

/-- A deferred fault (R325). -/
def deferred (h : Holm) (pc opc ch : Nat) (st : Status) (detail : Nat) : Holm :=
  h.noteFault ⟨st, pc, opc, ch, true, detail, false, 0, h.tideNo⟩

end Holm

namespace State

/-! ### Holm-quad domains (R84, R504, R506) -/

/-- The number of a holm-quad domain (R504). -/
def quadDomain (q c : Nat) : Nat := 22 * q + c

/-- The physical holms of a holm-quad. -/
def quadHolms (q c : Nat) : List Nat := (List.range 4).map fun i => 68 * q + 4 * c + i

/-- A holm-quad wakes: its gated holms become IDLE with their open water unwritten (R84). -/
def wakeDomain (s : State) (q c : Nat) : State :=
  let d := quadDomain q c
  let s1 := { s with pow := { s.pow with gated := s.pow.gated.filter (· != d), wokeAt := s.pow.wokeAt.set d s.net.time.ticks } }
  (quadHolms q c).foldl (fun (s : State) p =>
    if (s.holm p).st = .gated then s.modHolm p fun h => { h.clearOpen with st := .idle } else s) s1

/-- A request that reaches a holm of a gated domain wakes it (R506). -/
def wakeHolm (s : State) (p : Nat) : State :=
  if (s.holm p).st = .gated then s.wakeDomain (p / 68) (p % 68 / 4) else s

/-! ### Units of work -/

def work? (s : State) (w : Nat) : Option Work := s.isth.works.get? w

def modWork (s : State) (w : Nat) (f : Work → Work) : State :=
  { s with isth := { s.isth with works := s.isth.works.modify w f } }

/-- The tenant whose work a holm runs. -/
def tenantOfHolm (s : State) (p : Nat) : Nat :=
  match (s.holm p).inv with
  | some i => ((s.work? i.work).map (·.tenant)).getD 0
  | none => 0

/-- The unit of work a holm runs; 0 is none. -/
def workOfHolm (s : State) (p : Nat) : Nat := ((s.holm p).inv.map (·.work)).getD 0

/-- Holms of a stage in ascending l_global (R444, R456). -/
def stageHolms (_ : State) (st : Stage) : List Nat := st.holms

/-- The holms of a unit of work, by l_global. -/
def workHolms (s : State) (w : Work) : List Nat := w.stages.flatMap s.stageHolms

/-- The physical holm that serves a logical one (R57). -/
def physOf? (s : State) (lg : Nat) : Option Nat :=
  match s.remap.get? lg with
  | some r => if r.valid then some (68 * (lg / 64) + r.phys) else none
  | none => none

def epochOf (s : State) (lg : Nat) : Nat := ((s.remap.get? lg).map (·.epoch)).getD 0

/-- The logical holm a physical one serves. -/
def lgOf? (s : State) (p : Nat) : Option Nat :=
  (s.remap.find? fun ((lg, r) : Nat × Remap) => r.valid && 68 * (lg / 64) + r.phys == p).map (·.1)

/-- The partition of a logical holm. -/
def partOf? (s : State) (lg : Nat) : Option Nat :=
  (s.ten.parts.find? fun ((_, p) : Nat × Partition) => p.bitmap.getLsbD lg).map (·.1)

/-- Role epochs of logical holms increment, modulo 2^24 (R61). -/
def bumpEpochs (s : State) (lgs : List Nat) : State :=
  { s with remap := s.remap.map fun ((lg, r) : Nat × Remap) =>
      (lg, if lgs.contains lg then { r with epoch := (r.epoch + 1) % 2 ^ 24 } else r) }

def setCause (s : State) (lgs : List Nat) (c : RoleCause) : State :=
  { s with roleCause := lgs.foldl (fun m lg => m.set lg c) s.roleCause }

/-- A started plan or a one-shot run in progress uses the logical holm. -/
def holmBusy (s : State) (lg : Nat) : Bool :=
  s.isth.works.any fun ((_, w) : Nat × Work) => (w.started || w.running) && (s.workHolms w).contains lg

/-- A started plan uses the logical holm (R85, R457). -/
def holmPlanned (s : State) (lg : Nat) : Bool :=
  s.isth.works.any fun ((_, w) : Nat × Work) => w.kind == .plan && w.started && (s.workHolms w).contains lg

/-! ### Tenant memory (R359, R459) -/

def tenant? (s : State) (t : Nat) : Option Tenant := s.ten.tenants.get? t

/-- What the sequence operations work on. -/
def kvCtx (s : State) (t : Nat) : Option KvCtx :=
  (s.tenant? t).map fun x => ⟨s.part, s.mem, t, x, s.kv, s.free⟩

def putKv (s : State) (c : KvCtx) : State := { s with mem := c.mem, kv := c.kv, free := c.free }

def memRead (s : State) (t a n : Nat) : Except Status (List Nat) :=
  match s.tenant? t with
  | none => .error .badAddress
  | some x => tenantRead s.mem x a n

/-- A write of tenant memory by the tenant's own work (R240, R247). -/
def memWrite (s : State) (t a : Nat) (vs : List Nat) : Except Status State :=
  match s.tenant? t with
  | none => .error .badAddress
  | some x =>
    match tenantWrite s.part s.mem x a vs s.free with
    | .error e => .error e
    | .ok m => .ok { s with mem := m, kv := s.kv.noteWrite x t a vs.length, free := s.free + 65536 }

/-- A range of tenant memory touches a failed element, and so is served by reconstruction (R340, R359). -/
def meets (s : State) (t a n : Nat) : Bool :=
  s.mem.degraded && match s.tenant? t with
    | none => false
    | some x => (MemState.pieces regionSize (n + 1) a n).any fun (b, k) => match x.table.get? (b / regionSize) with
      | some e => s.mem.placeMisses e.tier e.target (b % regionSize) k
      | none => false

/-- The unit of work has met a failed memory element (R359). -/
def touch (s : State) (w t : Nat) (rs : List (Nat × Nat)) : State :=
  if rs.any fun r => s.meets t r.1 r.2 then s.modWork w fun x => { x with degraded := true } else s

/-! ### Host memory (R433) -/

def hostOk (s : State) (a n : Nat) : Bool :=
  s.mem.hostLinkUp && (List.range ((a % 4096 + n + 4095) / 4096)).all fun i => !s.isth.refused.has (a / 4096 + i)

-- DESIGN CHOICE, unsafe: log 9.
def hostRead (s : State) (a n : Nat) : Option (List Nat) := if s.hostOk a n then some (Mem.read s.isth.host a n) else none

def hostWrite (s : State) (a : Nat) (vs : List Nat) : Option State :=
  if s.hostOk a vs.length then some { s with isth := { s.isth with host := s.isth.host.write a vs } } else none

-- PRESUMED, unsafe: log 58.
/-- A vector's message: a write of its data, or its pending bit where it is masked (R576). -/
def signal (s : State) (fn v : Nat) : State :=
  let m := s.isth.msix.getD (8 * fn + v) ⟨0, 0, true, false⟩
  if m.masked then { s with isth := { s.isth with msix := s.isth.msix.set (8 * fn + v) { m with pending := true } } }
  else (s.hostWrite m.addr (toBytes m.data 4)).getD s

/-! ### Notices (R431, R447, R448) -/

def notice (s : State) (fn code body : Nat) : State :=
  let seq := s.isth.ntcSeq.getD fn 0
  let lost := s.isth.ntcLost.getD fn 0
  let s1 := { s with isth := { s.isth with ntcSeq := s.isth.ntcSeq.set fn ((seq + 1) % 2 ^ 32) } }
  let miss := { s1 with isth := { s1.isth with ntcLost := s1.isth.ntcLost.set fn (min (lost + 1) 255) } }
  match s.isth.rings.get? fn with
  | none => miss
  | some r =>
    let size := 2 ^ r.log2
    if r.head + size ≤ r.tail then miss
    else
      let v := code % 2 ^ 16 + 2 ^ 16 * (phaseBit r.tail size).toNat + 2 ^ 24 * lost + 2 ^ 32 * seq + 2 ^ 64 * (s.now % 2 ^ 64)
        + 2 ^ 128 * (body % 2 ^ 384)
      match s1.hostWrite (r.base + 64 * (r.tail % size)) (toBytes v 64) with
      | none => miss
      | some s2 =>
        let r1 := { r with tail := r.tail + 1 }
        let s3 := { s2 with isth := { s2.isth with rings := s2.isth.rings.set fn r1, ntcLost := s2.isth.ntcLost.set fn 0 } }
        s3.signal fn r.vector

/-- The function bound to a tenant. -/
def fnOf? (s : State) (t : Nat) : Option Nat := (s.tenant? t).map (·.vf)

/-- The tenant that a function is bound to (R452). -/
def boundTo (s : State) (fn : Nat) : Option Nat := (s.ten.tenants.find? fun ((_, t) : Nat × Tenant) => t.vf == fn).map (·.1)

def noticeTenant (s : State) (t code body : Nat) : State :=
  match s.fnOf? t with
  | some f => s.notice f code body
  | none => s

def noticeTenants (s : State) (ts : List Nat) (code body : Nat) : State :=
  ts.foldl (fun s t => s.noticeTenant t code body) s

/-! ### The error log (R572 to R574) -/

def addLog (v : LogView) (n : Nat) (e : LogEntry) : LogView :=
  ⟨(v.next + 1) % 2 ^ 32, ({ e with seq := v.next } :: v.entries).take n⟩

/-- An entry of the module log, and of the function log of its tenant. -/
def log (s : State) (cls status : Nat) (tenant : Option Nat) (unit_ rec_ : Nat) : State :=
  let e : LogEntry := ⟨0, cls, status, tenant, s.now, unit_, rec_⟩
  let s1 := { s with boot := { s.boot with moduleLog := addLog s.boot.moduleLog 1024 e } }
  match tenant.bind s.fnOf? with
  | none => s1
  | some f => { s1 with boot := { s1.boot with fnLogs := s1.boot.fnLogs.set f (addLog (s1.boot.fnLogs.getD f ⟨0, []⟩) 64 e) } }

/-- A bus error, an ignored doorbell or a refused reset request (R13, R566, R571). -/
def busError (s : State) (fn off size value : Nat) (write : Bool) : State :=
  let e : LogEntry := ⟨0, 1, 0, s.boundTo fn, s.now, fn % 2 ^ 11 + 2 ^ 11 * write.toNat + 2 ^ 12 * (size % 16) + 2 ^ 16 * (off % 2 ^ 20),
    value % 2 ^ 32⟩
  let b := s.boot
  let b1 := { b with moduleLog := addLog b.moduleLog 1024 e, busErrors := (b.busErrors + 1) % 2 ^ 32 }
  { s with boot := if fn = 0 then b1 else { b1 with fnLogs := b1.fnLogs.set fn (addLog (b1.fnLogs.getD fn ⟨0, []⟩) 64 e) } }

/-- A masked fault: the log entry of class 3 and the FAULT_MASKED notice to PF0 (R448, R483, R574). -/
def masked (s : State) (kind unit_ delay spares : Nat) : State :=
  (s.log 3 1 none unit_ (kind % 256 + 2 ^ 32 * (delay % 2 ^ 32) + 2 ^ 64 * (spares % 2 ^ 16))).notice 0 0x11
    (kind % 256 + 2 ^ 32 * (unit_ % 2 ^ 32) + 2 ^ 64 * (delay % 2 ^ 32) + 2 ^ 96 * (spares % 2 ^ 16))

/-! ### Commands that end (R427) -/

def cmd? (s : State) (id : CmdId) : Option Cmd :=
  s.isth.cmds.find? fun c => c.fn == id.1 && c.q == id.2.1 && c.id == id.2.2

/-- A command ends: its status, its result and the order of ending are kept until its completion is posted. -/
def endCmd (s : State) (id : CmdId) (st : Status) (result : Nat) (fault : Bool) : State :=
  { s with isth := { s.isth with
      cmds := s.isth.cmds.map fun c =>
        if c.fn == id.1 && c.q == id.2.1 && c.id == id.2.2 then { c with st := .ended st (result % 2 ^ 128) fault s.isth.nextEnd }
        else c
      nextEnd := s.isth.nextEnd + 1 } }

def endCmds (s : State) (ids : List CmdId) (st : Status) (result : Nat) : State :=
  ids.foldl (fun s i => s.endCmd i st result false) s

end State

end Sys2Proof.Machine
end

