-- ==== Sys2Proof/Machine/Barriers.lean ====
section
/-! DEFINITION. Barriers, checkpoints and the count of shuttle landings (R225 to R229, R281, R284, R486, R488, R513). -/

namespace Sys2Proof.Machine

/-- Barrier b of a partition within one unit of work (R225). -/
def barKey (part b : Nat) : Nat := 64 * part + b

/-! ### The count order of landings (R281) -/

/-- The block at a position of the count order: ring, round, step and number; step n is the return of a backward ring. -/
def countAt (rs : List (Nat × Ring)) (pos : Nat) : Option (Nat × Nat × Nat × Nat) :=
  match rs with
  | [] => none
  | (_, r0) :: _ =>
    let perStep := (rs.map fun (_, r) => r.blocks).sum
    let back := (rs.map fun (_, r) => if r.bwd then r.blocks else 0).sum
    let perRound := perStep * r0.n + back
    if perRound = 0 then none
    else
      let ro := pos / perRound
      let x := pos % perRound
      let k := if perStep = 0 then 0 else min (x / perStep) r0.n
      let y := x - k * perStep
      if ro ≥ r0.rounds then none
      else walk (if k = r0.n then rs.filter fun (_, r) => r.bwd else rs) ro k y
where
  walk : List (Nat × Ring) → Nat → Nat → Nat → Option (Nat × Nat × Nat × Nat)
    | [], _, _, _ => none
    | (i, r) :: t, ro, k, y => if y < r.blocks then some (i, ro, k, y) else walk t ro k (y - r.blocks)

/-- Learned power of a segment and quadrant: at first the admission estimate (R513). -/
def Work.learnedAt (x : Work) (k : Nat) : Nat := x.learned.getD k (x.admitted.getD (k % 4) 0)

/-- Learned power after a tide (R513). -/
def Work.learn (x : Work) : Work :=
  { x with learned := x.observed.foldl (fun (m : AMap Nat) ((k, o) : Nat × Nat) => m.set k (max o ((7 * x.learnedAt k + o) / 8))) x.learned
           observed := [], seg := 0 }

namespace State

/-- The rings of a unit of work that land in a logical holm, by ascending ring number (R281). -/
def ringsAt (s : State) (w lg : Nat) : List (Nat × Ring) :=
  sortBy (fun (a b : Nat × Ring) => a.2.num < b.2.num) (s.net.rings.filter fun ((_, r) : Nat × Ring) =>
    r.work == w && match s.ten.parts.get? r.part with
      | some p => r.dests.any fun d => p.holms[d]? == some lg
      | none => false)

/-- Landings of a holm are counted in count order as far as they have completed (R281). -/
def countHolm (s : State) (w lg : Nat) : Nat → State
  | 0 => s
  | f + 1 =>
    match s.work? w, s.physOf? lg with
    | some wk, some p =>
      let pos := wk.landPos.getD lg 0
      match countAt (s.ringsAt w lg) pos with
      | none => s
      | some (i, ro, k, j) =>
        match s.net.rings.get? i with
        | none => s
        | some r =>
          if r.landed.contains (ro, k, j) && (s.holm p).st == .running then
            let s1 := s.modWork w fun x => { x with landPos := x.landPos.set lg (pos + 1) }
            countHolm (s1.modHolm p fun h => { h with arrivalCount := h.arrivalCount + 1 }) w lg f
          else s
    | _, _ => s

/-- Every destination holm of a unit of work counts what has landed. -/
def countLandings (s : State) (w : Nat) : State :=
  let lgs := (s.net.rings.flatMap fun ((_, r) : Nat × Ring) =>
    if r.work == w then (match s.ten.parts.get? r.part with
      | some p => r.dests.filterMap fun d => p.holms[d]?
      | none => []) else []).eraseDups
  let total := (s.net.rings.map fun ((_, r) : Nat × Ring) => r.landed.length).sum
  lgs.foldl (fun s lg => s.countHolm w lg (total + 1)) s

/-! ### Releases (R225, R229, R284, R486, R513) -/

/-- The waiters of a barrier's release: every holm of every stage of the partition that declares it (R229). -/
def waitersOf (s : State) (w : Work) (part b : Nat) : List Nat :=
  sortBy (fun a b => decide (a < b)) (w.stages.flatMap fun st =>
    if st.part == part && st.barriers.any (fun (x, _, _) => x == b) then s.stageHolms st else [])

/-- What a release of a free or ready barrier does at the rings: a freed slot returns one credit, held back until the
stage's next checkpoint where it has any (R284, R488); a ready barrier hands over the next origin block (R282). -/
def ringRelease (s : State) (w part b : Nat) : State :=
  let s1 := { s with net := { s.net with rings := s.net.rings.map fun ((i, r) : Nat × Ring) =>
    if r.work ≠ w ∨ r.part ≠ part then (i, r)
    else
      let slot := b - r.freeBar
      let r1 := if r.freeBar ≤ b ∧ slot < r.slots then
          let hold := match s.work? w with
            | some x => ((x.stages[r.stage]?).map fun (st : Stage) => !st.ckpts.isEmpty).getD false
            | none => false
          if hold then { r with heldBack := r.heldBack ++ [slot], freed := r.freed + 1 }
          else { r with returned := r.returned ++ [slot], freed := r.freed + 1 }
        else r
      let r2 := if r1.orig ∧ r1.readyBar = b ∧ r1.readyReleases < r1.blocks * r1.rounds then
          let ro := r1.readyReleases / r1.blocks
          let j := r1.readyReleases % r1.blocks
          { r1 with readyReleases := r1.readyReleases + 1, origin := r1.origin ++ [(ro, j)], landed := r1.landed ++ [(ro, 0, j)] }
        else r1
      (i, r2) } }
  s1.countLandings w

/-- Pending-record counts that a stage has made, by descriptor index (R487, R489). -/
def stageCounts (s : State) (w stage : Nat) : List (Nat × AMap Nat) :=
  (s.kv.records.filter fun ((_, r) : Nat × PendRec) => r.unit == w).map fun ((i, r) : Nat × PendRec) =>
    (i, r.counts.filter fun ((k, _) : Nat × Nat) => r.owner.get? k == some stage)

/-- A checkpoint is complete: held-back credits return, kept landings are given up, harbour copies count (R486, R488). -/
def checkpointDone (s : State) (w : Nat) (stages : List Nat) (lgs : List Nat) : State :=
  let s1 := { s with net := { s.net with rings := s.net.rings.map fun ((i, r) : Nat × Ring) =>
    (i, if r.work == w && stages.contains r.stage then { r with returned := r.returned ++ r.heldBack, heldBack := [] } else r) } }
  let s2 := s1.modWork w fun x => { x with
    keep := x.keep.filter fun (lg, _) => !lgs.contains lg, ckptAt := stages.foldl (fun m i => m.set i s.now) x.ckptAt
    ckptCounts := stages.foldl (fun m i => m.set i (s.stageCounts w i)) x.ckptCounts, seg := x.seg + 1 }
  { s2 with flt := { s2.flt with complete := lgs.foldl (fun m lg =>
      match s2.physOf? lg with | some p => m.set p (s2.flt.spilled.getD p 0) | none => m) s2.flt.complete } }

/-- At a checkpoint release, power is divided: guaranteed work gets its learned power plus 5 %, best-effort work what is
left of the steering target (R513). -/
def dividePower (s : State) : State :=
  let need (q : Nat) : Nat := (s.isth.works.map fun ((_, x) : Nat × Work) =>
    if x.kind == .plan && x.started then x.learnedAt (4 * x.seg + q) * 105 / 100 else 0).sum
  let total := ((List.range 4).map need).sum
  { s with pow := { s.pow with bestEffort := s.pow.target - total } }

/-- The stages of a unit of work for which a barrier of a partition is a checkpoint (R471). -/
def ckptStages (w : Work) (part b : Nat) : List Nat :=
  (List.range w.stages.length).filter fun i =>
    match w.stages[i]? with
    | some st => st.part == part && st.ckpts.contains b
    | none => false

/-- Holms that hold a barrier from now on (R226). -/
def holdBar (s : State) (b : Nat) (lgs : List Nat) : State :=
  lgs.foldl (fun (s : State) l => match s.physOf? l with
    | some p => s.modHolm p fun h => { h with held := if h.held.contains b then h.held else h.held ++ [b] }
    | none => s) s

/-- One arrival at a barrier; the last one releases the phase (R225, R226). A holm's arrival that the barrier has counted
already, as a replay repeats it, has no effect (R490). -/
def barArrive (s : State) (w part b : Nat) (lg : Option Nat) : State :=
  match s.work? w with
  | none => s
  | some wk =>
    match wk.barriers.get? (barKey part b) with
    | none => s
    | some x =>
      let mine := (lg.map fun l => ((s.physOf? l).map fun p => (s.holm p).arrCount.getD b 0).getD 0).getD 0
      if (lg.map fun l => decide (mine ≤ x.got.getD l 0)).getD false then s.holdBar b (lg.toList.filter x.arrived.contains)
      else
        let got := match lg with | some l => x.got.set l mine | none => x.got
        let who := match lg with | some l => l :: x.arrived | none => x.arrived
        if x.count + 1 < x.parts then
          (s.modWork w fun y => { y with
            barriers := y.barriers.set (barKey part b) { x with count := x.count + 1, arrived := who, got := got } }).holdBar b lg.toList
        else
          let waiters := s.waitersOf wk part b
          let s1 := s.modWork w fun y => { y with
            barriers := y.barriers.set (barKey part b) { x with phase := x.phase + 1, count := 0, arrived := [], got := got }
            waves := y.waves ++ [⟨.release (barKey part b) (x.phase + 1), waiters, 0, s.now⟩] }
          let s2 := who.foldl (fun (s : State) l => match s.physOf? l with
            | some p => s.modHolm p fun h => { h with held := h.held.filter (· != b) }
            | none => s) s1
          let s3 := s2.ringRelease w part b
          let cs := ckptStages wk part b
          if cs.isEmpty then s3
          else
            let lgs := cs.flatMap fun i => match wk.stages[i]? with | some st => s3.stageHolms st | none => []
            (s3.checkpointDone w cs lgs).dividePower

end State

end Sys2Proof.Machine
end

