-- ==== Sys2Proof/Machine/Look.lean ====
section
/-! DEFINITION. What a holm instruction word says: its fields, the checks made at load and at issue, and the hulls it
enters (R299 to R323). -/

namespace Sys2Proof.Machine

def FieldErr.status : FieldErr → Status | badCommand => .badCommand | badAddress => .badAddress

/-- How index selectors are seen: at load only constants are known (R299), at issue every value is. -/
structure Look where
  known : Nat → Bool
  val : Nat → Nat

/-- At load: code 0 is the constant 0. -/
def Look.load : Look := ⟨fun c => c == 0, fun _ => 0⟩

/-- What the checks of a word look at beside the word. -/
structure LookCtx where
  prog : Program
  /-- user picot slots that hold an image -/
  picot : Nat → Bool
  /-- the direction of a pricking slot that holds an image -/
  pricking : Nat → Option Bool
  declared : Nat → Bool
  cslot : Nat → Bool

namespace LookCtx

/-- Shape entry i, of the kind wanted (R299, R304). -/
def shape (c : LookCtx) (i kind : Nat) : Except Status Nat :=
  match c.prog.shapes[i]? with
  | none => .error .badCommand
  | some s => if fld s.toNat 254 2 = kind then .ok s.toNat else .error .badCommand

end LookCtx

/-- Selector codes are assigned (R301). -/
def selsOk (cs : List Nat) : Bool := cs.all (· < 0x18)

/-- A guard: the status where the condition fails. -/
def need (b : Bool) (s : Status) : Except Status Unit := if b then .ok () else .error s

def optErr : Option FieldErr → Except Status Unit
  | none => .ok ()
  | some e => .error e.status

/-! ### Each instruction (R306 to R323) -/

structure MmaOp where
  prob : MProb
  emit : Bool
  cslot : Nat
  deriving DecidableEq, Repr

/-- MMA (R306, R307). -/
def lookMma (c : LookCtx) (k : Look) (w : Nat) : Except Status MmaOp :=
  let acc := bitAt w 14
  let emit := bitAt w 15
  let sels := [fld w 96 5, fld w 101 5, fld w 106 5, fld w 111 5]
  if fld w 120 8 ≠ 0 ∨ !selsOk sels ∨ (!acc ∧ (fld w 76 20 ≠ 0 ∨ fld w 111 5 ≠ 0)) ∨ (!emit ∧ fld w 116 4 ≠ 0) then
    .error .badCommand
  else if emit ∧ !c.cslot (fld w 116 4) then .error .badCommand
  else
    match c.shape (fld w 8 6) 1 with
    | .error e => .error e
    | .ok sh =>
      match mprobOf sh w (k.val (fld w 96 5)) (k.val (fld w 101 5)) (k.val (fld w 106 5)) (k.val (fld w 111 5)) with
      | none => .error .badCommand
      | some p =>
        match p.checkK (k.known (fld w 96 5)) (k.known (fld w 101 5)) (k.known (fld w 106 5)) (k.known (fld w 111 5)) with
        | some e => .error e.status
        | none => .ok ⟨p, emit, fld w 116 4⟩

/-- MMAP (R308, R132, R134). -/
def lookMmap (k : Look) (w : Nat) : Except Status MapSpec :=
  match EFmt.ofCode? (fld w 40 4), EFmt.ofCode? (fld w 44 4), EFmt.ofCode? (fld w 48 4) with
  | some fa, some fb, some fc =>
    let list := eff (fld w 8 20) (k.val (fld w 121 5))
    let count := fld w 28 12 + 1
    let s : MapSpec := ⟨list, count, fa, fb, fc, bitAt w 52, (fld w 53 17, fld w 70 17), (fld w 87 17, fld w 104 17)⟩
    match mclass fa fb with
    | none => .error .badCommand
    | some cl =>
      let okFmt : Bool := match fc with | .int8 => false | .int32 => cl == .integer | _ => true
      if fld w 126 2 ≠ 0 ∨ !selsOk [fld w 121 5] ∨ !okFmt ∨ s.src.2 < s.src.1 ∨ s.dst.2 < s.dst.1 then .error .badCommand
      else if k.known (fld w 121 5) then
        let h := rowsHull list 0 1 (64 * count)
        if !lineAligned list ∨ lastWord < list ∨ !hullOk h ∨ hullMeet h (some s.dst) then .error .badAddress else .ok s
      else .ok s
  | _, _, _ => .error .badCommand

/-- The control block's address of ATS, ATF and ATB (R309): `lines` lines. -/
def lookCb (k : Look) (w lines : Nat) : Except Status Nat :=
  let cb := eff (fld w 8 20) (k.val (fld w 28 5))
  if fld w 80 48 ≠ 0 ∨ !selsOk [fld w 28 5] then .error .badCommand
  else if k.known (fld w 28 5) ∧ (!lineAligned cb ∨ lastWord < cb ∨ !hullOk (rowsHull cb 0 1 (32 * lines))) then .error .badAddress
  else .ok cb

def lookAts (k : Look) (w lines : Nat) : Except Status Nat :=
  if fld w 33 47 ≠ 0 then .error .badCommand else lookCb k w lines

/-- ATF: the control block and the output operand (R186, R309). -/
def lookAtf (k : Look) (w : Nat) : Except Status (Nat × Acb.AtfOut) :=
  match EFmt.ofCode? (fld w 75 4) with
  | none => .error .badCommand
  | some f =>
    if 4 < fld w 75 4 ∨ !selsOk [fld w 53 5] then .error .badCommand
    else
      match lookCb k w 8 with
      | .error e => .error e
      | .ok cb =>
        let y := eff (fld w 33 20) (k.val (fld w 53 5))
        if k.known (fld w 53 5) ∧ (!lineAligned y ∨ lastWord < y) then .error .badAddress
        else .ok (cb, ⟨y, 8 * fld w 58 17, f, bitAt w 79⟩)

def lookVop (c : LookCtx) (k : Look) (w : Nat) : Except Status VopSpec :=
  let sels := [fld w 80 5, fld w 85 5, fld w 90 5]
  if !selsOk sels then .error .badCommand
  else
    match c.shape (fld w 8 6) 2 with
    | .error e => .error e
    | .ok sh =>
      match vopOf sh w (k.val (fld w 80 5)) (k.val (fld w 85 5)) (k.val (fld w 90 5)) with
      | .error e => .error e.status
      | .ok v =>
        match v.checkK (k.known (fld w 80 5)) (k.known (fld w 85 5)) (k.known (fld w 90 5)) with
        | some e => .error e.status
        | none => .ok v

def lookCvt (c : LookCtx) (k : Look) (w : Nat) : Except Status CvtSpec :=
  if !selsOk [fld w 94 5, fld w 99 5] then .error .badCommand
  else
    match c.shape (fld w 8 6) 2 with
    | .error e => .error e
    | .ok sh =>
      match cvtOf sh w (k.val (fld w 94 5)) (k.val (fld w 99 5)) with
      | .error e => .error e.status
      | .ok v =>
        match v.checkK (k.known (fld w 94 5)) (k.known (fld w 99 5)) with
        | some e => .error e.status
        | none => .ok v

/-- SFN (R316). With a run-time slot the checks that depend on the slot are made at issue. -/
def lookSfn (c : LookCtx) (k : Look) (w : Nat) : Except Status SfnSpec :=
  let sels := [fld w 100 5, fld w 105 5, fld w 110 5, fld w 115 5, fld w 120 5]
  let slotKnown := k.known (fld w 120 5)
  if !selsOk sels ∨ fld w 125 3 ≠ 0 then .error .badCommand
  else
    match c.shape (fld w 8 6) 2 with
    | .error e => .error e
    | .ok sh =>
      match sfnOf sh w (k.val (fld w 100 5)) (k.val (fld w 105 5)) (k.val (fld w 110 5)) (k.val (fld w 115 5))
          (k.val (fld w 120 5)) with
      | .error e => if slotKnown then .error e.status else .ok ⟨0, 0, 0, ⟨.unused, 0, 0, .fp32⟩, ⟨.unused, 0, 0, .fp32⟩, 0, 0, false, false, false, 0, false⟩
      | .ok v =>
        if slotKnown ∧ 24 ≤ v.slot ∧ !c.picot v.slot then .error .badCommand
        else
          match v.checkK (k.known (fld w 100 5)) (k.known (fld w 105 5)) (slotKnown && k.known (fld w 110 5))
              (slotKnown && k.known (fld w 115 5)) with
          | some e => .error e.status
          | none => .ok v

/-- The forms of a BOB (R221, R317). -/
inductive BobReq where
  | start (ch slot depth param : Nat)
  | stop (ch : Nat)
  | post (ch n : Nat) (range : Hull)
  | release (ch n : Nat) (range : Nat × Nat)
  deriving DecidableEq, Repr

def lookBob (c : LookCtx) (k : Look) (w : Nat) : Except Status BobReq :=
  let ch := fld w 11 3
  let off := k.val (fld w 53 5)
  let a := eff (fld w 18 17) off
  let b := eff (fld w 35 17) off
  let rngOk : Except Status Unit :=
    if fld w 35 17 < fld w 18 17 then .error .badCommand
    else if k.known (fld w 53 5) ∧ (b < a ∨ lastWord / 8 < b) then .error .badAddress else .ok ()
  if fld w 58 70 ≠ 0 then .error .badCommand
  else match fld w 8 3 with
    | 0 =>
      let slot := eff (fld w 14 5) (k.val (fld w 46 5))
      let par := eff (fld w 21 20) (k.val (fld w 41 5))
      if fld w 51 7 ≠ 0 ∨ !selsOk [fld w 41 5, fld w 46 5] then .error .badCommand
      else if k.known (fld w 46 5) ∧ (31 < slot ∨ c.pricking slot ≠ some (decide (4 ≤ ch))) then .error .badCommand
      else if k.known (fld w 41 5) ∧ (!lineAligned par ∨ !hullOk (rowsHull par 0 1 64)) then .error .badAddress
      else .ok (.start ch slot (fld w 19 2 + 1) par)
    | 1 => if fld w 14 44 ≠ 0 then .error .badCommand else .ok (.stop ch)
    | 2 =>
      let n := fld w 14 4
      if n = 0 ∨ !selsOk [fld w 53 5] ∨ (bitAt w 52 != decide (ch < 4)) then .error .badCommand
      else if bitAt w 52 then
        (if fld w 18 34 ≠ 0 ∨ fld w 53 5 ≠ 0 then .error .badCommand else .ok (.post ch n none))
      else match rngOk with
        | .error e => .error e
        | .ok _ => .ok (.post ch n (some (a, b)))
    | 3 =>
      let n := fld w 14 4
      if n = 0 ∨ 4 < n ∨ 4 ≤ ch ∨ bitAt w 52 ∨ !selsOk [fld w 53 5] then .error .badCommand
      else match rngOk with
        | .error e => .error e
        | .ok _ => .ok (.release ch n (a, b))
    | _ => .error .badCommand

/-- The fields of a KVA (R318). -/
structure KvaReq where
  ch : Nat
  hsel : Nat
  src : Nat
  tokens : Nat
  layer : Nat
  h0 : Nat
  hcnt : Nat
  off : Nat
  deriving DecidableEq, Repr

def lookKva (k : Look) (w : Nat) : Except Status KvaReq :=
  let src := eff (fld w 15 20) (k.val (fld w 35 5))
  let off := eff (fld w 64 16) (k.val (fld w 80 5))
  if fld w 85 43 ≠ 0 ∨ fld w 10 5 = 0 ∨ 0x10 < fld w 10 5 ∨ !selsOk [fld w 35 5, fld w 80 5] ∨ fld w 40 9 = 0
      ∨ 256 < fld w 40 9 then .error .badCommand
  else if k.known (fld w 80 5) ∧ 2 ^ 16 ≤ off then .error .badCommand
  else if k.known (fld w 35 5) ∧ (!lineAligned src ∨ lastWord < src) then .error .badAddress
  else .ok ⟨4 + fld w 8 2, fld w 10 5, src, fld w 40 9, fld w 49 7, fld w 56 4, fld w 60 4 + 1, off⟩

/-- A BAR: form, barrier and out-channel mask (R319). -/
structure BarReq where
  form : Nat
  bar : Nat
  omask : Nat
  deriving DecidableEq, Repr

def lookBar (c : LookCtx) (k : Look) (w : Nat) : Except Status BarReq :=
  let b := eff (fld w 10 6) (k.val (fld w 16 5))
  if fld w 25 103 ≠ 0 ∨ fld w 8 2 = 3 ∨ !selsOk [fld w 16 5] ∨ (fld w 8 2 = 1 ∧ fld w 21 4 ≠ 0) then .error .badCommand
  else if k.known (fld w 16 5) ∧ (63 < b ∨ !c.declared b) then .error .badCommand
  else .ok ⟨fld w 8 2, b, fld w 21 4⟩

/-- An RNG (R320). -/
structure RngReq where
  event : Nat
  ch : Nat
  bar : Nat
  first : Nat
  last : Nat
  count : Nat
  deriving DecidableEq, Repr

def lookRng (c : LookCtx) (k : Look) (w : Nat) : Except Status RngReq :=
  let ev := fld w 8 2
  let a := eff (fld w 18 17) (k.val (fld w 52 5))
  let b := eff (fld w 35 17) (k.val (fld w 52 5))
  if fld w 94 34 ≠ 0 ∨ ev = 3 ∨ (ev ≠ 0 ∧ fld w 10 2 ≠ 0) ∨ (ev ≠ 2 ∧ fld w 12 6 ≠ 0) ∨ fld w 35 17 < fld w 18 17
      ∨ !selsOk [fld w 52 5, fld w 89 5] ∨ (ev = 2 ∧ !c.declared (fld w 12 6)) then .error .badCommand
  else if k.known (fld w 52 5) ∧ (b < a ∨ lastWord / 8 < b) then .error .badAddress
  else .ok ⟨ev, fld w 10 2, fld w 12 6, a, b, eff (fld w 57 32) (k.val (fld w 89 5))⟩

/-- An MSG (R321). -/
structure MsgReq where
  recv : Bool
  tgt : Nat
  buf : Nat
  deriving DecidableEq, Repr

def lookMsg (k : Look) (w : Nat) : Except Status MsgReq :=
  let buf := eff (fld w 22 20) (k.val (fld w 42 5))
  let recv := bitAt w 8
  if fld w 47 81 ≠ 0 ∨ !selsOk [fld w 17 5, fld w 42 5] ∨ (recv ∧ fld w 9 13 ≠ 0) then .error .badCommand
  else if k.known (fld w 42 5) ∧ (!lineAligned buf ∨ !hullOk (rowsHull buf 0 1 64)) then .error .badAddress
  else .ok ⟨recv, eff (fld w 9 8) (k.val (fld w 17 5)), buf⟩

/-- A BR: condition, selector, target and immediate (R322). -/
structure BrReq where
  cond : Nat
  sel : Nat
  target : Nat
  imm : Nat
  deriving DecidableEq, Repr

def lookBr (c : LookCtx) (w : Nat) : Except Status BrReq :=
  if 4 < fld w 8 4 ∨ fld w 29 3 ≠ 0 ∨ fld w 64 64 ≠ 0 ∨ !selsOk [fld w 12 5] ∨ (fld w 8 4 = 0 ∧ fld w 12 5 ≠ 0)
      ∨ c.prog.words.length ≤ fld w 17 12 then .error .badCommand
  else .ok ⟨fld w 8 4, fld w 12 5, fld w 17 12, fld w 32 32⟩

/-- A LOOP: form, register, selector, target and immediate (R322). -/
structure LoopReq where
  form : Nat
  dst : Nat
  sel : Nat
  target : Nat
  imm : Nat
  deriving DecidableEq, Repr

def lookLoop (w pc : Nat) : Except Status LoopReq :=
  let form := fld w 8 2
  if bitAt w 31 ∨ fld w 64 64 ≠ 0 ∨ !selsOk [fld w 14 5] ∨ (form = 3 ∧ (fld w 14 5 ≠ 0 ∨ fld w 32 32 ≠ 0 ∨ pc < fld w 19 12))
      ∨ (form ≠ 3 ∧ fld w 19 12 ≠ 0) then .error .badCommand
  else .ok ⟨form, fld w 10 4, fld w 14 5, fld w 19 12, fld w 32 32⟩

/-- The load check of instruction number pc (R299). -/
def loadWord (c : LookCtx) (pc w : Nat) : Except Status Unit :=
  let k := Look.load
  match fld w 0 8 with
  | 0x00 => need (w == 0) .badCommand
  | 0x01 => need (w == 1) .badCommand
  | 0x02 => need (w == 2) .badCommand
  | 0x03 => (lookBr c w).map fun _ => ()
  | 0x04 => (lookLoop w pc).map fun _ => ()
  | 0x08 => (lookBar c k w).map fun _ => ()
  | 0x09 => (lookRng c k w).map fun _ => ()
  | 0x0A => (lookMsg k w).map fun _ => ()
  | 0x10 => (lookMma c k w).map fun _ => ()
  | 0x11 => (lookMmap k w).map fun _ => ()
  | 0x18 => (lookAts k w 8).map fun _ => ()
  | 0x19 => (lookAtf k w).map fun _ => ()
  | 0x1A => (lookAts k w 12).map fun _ => ()
  | 0x20 => (lookVop c k w).map fun _ => ()
  | 0x21 => (lookCvt c k w).map fun _ => ()
  | 0x28 => (lookSfn c k w).map fun _ => ()
  | 0x30 => (lookBob c k w).map fun _ => ()
  | 0x31 => (lookKva k w).map fun _ => ()
  | _ => .error .badCommand

end Sys2Proof.Machine
end

