-- ==== Sys2Proof/Machine/Issue.lean ====
section
/-! DEFINITION. Issue: the head instruction, the range scoreboard, engine queues and precise faults (R33 to R47, R300 to
R302, R325). -/

namespace Sys2Proof.Machine

namespace Holm

/-- The value an index selector names (R301). -/
def selVal (h : Holm) (c : Nat) : Nat :=
  if c = 0 then 0
  else if c ≤ 16 then (h.g.getD (c - 1) 0).toNat
  else match h.inv with
    | none => 0
    | some i =>
      match c with
      | 0x11 => i.index
      | 0x12 => i.size
      | 0x13 => i.lg / 64
      | 0x14 => i.epoch
      | 0x15 => i.tide % 2 ^ 32
      | 0x16 => i.tide / 2 ^ 32 % 2 ^ 32
      | 0x17 => h.inbox.length
      | _ => 0

/-- At issue every field is known (R302). -/
def look (h : Holm) : Look := ⟨fun _ => true, h.selVal⟩

def setG (h : Holm) (r v : Nat) : Holm := { h with g := setAt h.g r (BitVec.ofNat 32 v) }

/-- The next instruction (R322). -/
def goTo (h : Holm) (pc : Nat) : Holm := { h with pc := pc }

def step1 (h : Holm) : Holm := h.goTo (h.pc + 1)

/-- A holm that issues: running, no fault detected, its end not yet issued, a program present (R37, R325). -/
def issuing (h : Holm) : Bool :=
  h.st == .running && h.fault.isNone && !((h.inv.map (·.ending)).getD true) && !h.program.words.isEmpty

/-- How many instructions a queue holds, and its depth (R34). -/
def queued (h : Holm) (q : Queue) : Nat :=
  (h.inFlight.filter fun f => f.queues.contains q).length + (if q == .bob then h.bobq.length else 0)

def depth : Queue → Nat
  | .mxe => 4
  | _ => 8

/-- Each queue has a free slot: as many waiting as its depth, and one running (R34, R37). -/
def roomIn (h : Holm) (qs : List Queue) : Bool := qs.all fun q => h.queued q < depth q + (if q == .bob then 0 else 1)

def meets (e : SbEntry) (r : Nat × Nat) : Bool := e.first ≤ r.2 && r.1 ≤ e.last

/-- A source hull conflicts with WRITE and DECLARED entries, a destination hull with every entry, of another owner
(R42, R43). -/
def conflicts (h : Holm) (qs : List Queue) (reads writes : List (Nat × Nat)) : Bool :=
  h.scoreboard.any fun e =>
    let own := e.kind != .declared && !qs.isEmpty && e.owner == qs
    !own && ((e.kind != .read && reads.any (meets e)) || writes.any (meets e))

/-- Conditions 1 to 3 of R37. -/
def canIssue (h : Holm) (qs : List Queue) (reads writes : List (Nat × Nat)) : Bool :=
  !h.conflicts qs reads writes && h.scoreboard.length + reads.length + writes.length ≤ 32 && h.roomIn qs

-- DEDUCED, safe: log 14.
/-- Entries are created (R41); their numbers. -/
def enter (h : Holm) (kind : SbKind) (qs : List Queue) (ev : RetireEv) (rs : List (Nat × Nat)) : List Nat × Holm :=
  ((List.range rs.length).map (h.nextEntry + ·),
   { h with scoreboard := h.scoreboard ++ rs.zipIdx.map fun (r, i) => ⟨h.nextEntry + i, kind, r.1, r.2, qs, ev⟩
            nextEntry := h.nextEntry + rs.length })

/-- An engine instruction issues: its entries, its place in the queues, the next instruction (R35, R41). -/
def launch (h : Holm) (opc : Nat) (qs : List Queue) (reads writes : List (Nat × Nat)) : Holm :=
  let (a, h1) := h.enter .read qs .engine reads
  let (b, h2) := h1.enter .write qs .engine writes
  let h3 := if (a ++ b).isEmpty then h2
    else { h2 with inFlight := h2.inFlight ++ [⟨h.pc, opc, qs, a ++ b, writes, [], 0, (0, 0, 0, 0)⟩] }
  h3.step1

/-- The invocation has export permission (R192). -/
def mayExport (h : Holm) : Bool := (h.inv.map (·.exportPerm)).getD false

end Holm

/-- Hulls that are not empty. -/
def hulls (l : List Hull) : List (Nat × Nat) := l.filterMap id

namespace State

/-- What the checks of a holm's words look at. -/
def lookCtx (s : State) (h : Holm) : LookCtx :=
  let wk := h.inv.bind fun i => s.work? i.work
  let part := (h.inv.map (·.part)).getD 0
  let st := h.inv.bind fun i => wk.bind fun w => w.stages[i.stage]?
  { prog := h.program
    picot := fun i => (h.picots.get? i).isSome
    pricking := fun i => (h.prickings.get? i).map (·.outDir)
    declared := fun b => ((wk.bind fun w => w.barriers.get? (barKey part b))).isSome
    cslot := fun i => ((st.map fun (x : Stage) => x.cslots.getD i 0).getD 0) != 0 }

end State

/-- The head instruction of a holm, where it has the opcode and form asked for. Issue from an index at or past the end of
the program is a precise fault (R323). -/
def issueRow (p opc : Nat) (form : Nat → Bool) (s : State) (f : Holm → Nat → State → State) : Out :=
  onHolm p s fun h s =>
    if !h.issuing then s
    else match h.program.words[h.pc]? with
      | none => s.setHolm p (h.precise h.pc 0 .badCommand 0)
      | some w => if fld w.toNat 0 8 = opc ∧ form w.toNat then f h w.toNat s else s

-- DESIGN CHOICE, safe: log 17.
/-- The head instruction's fields checked against its effective values; a failure is a precise fault (R302, R325). -/
def checked {α : Type} (p opc : Nat) (h : Holm) (s : State) (r : Except Status α) (f : α → State) : State :=
  match r with
  | .error e => s.setHolm p (h.precise h.pc opc e 0)
  | .ok a => f a

end Sys2Proof.Machine
end

