-- ==== Sys2Proof/Machine/Engines.lean ====
section
/-! DEFINITION. Engine instructions: MMA, MMAP, ATS, ATF, ATB, VOP, CVT and SFN (R100 to R208, R306 to R316). Their data
effects are made at issue; their entries retire later. -/

namespace Sys2Proof.Machine

namespace State

/-- What an engine has produced is written into the scratchpad (R70, R81, R183). -/
def produce (s : State) (p : Nat) (h : Holm) (o : EngOut) : State :=
  let (tag, s1) := s.takeFree 1
  s1.setHolm p ((h.putWords o.writes).spoilAll o.undef tag)

-- DEDUCED, unsafe: log 13.
/-- An engine instruction at the head: it waits, or issues with its entries and has its effect, or stops on what the
engine finds (R37, R41, R98, R325). -/
def engine (s : State) (p : Nat) (h : Holm) (opc : Nat) (qs : List Queue) (reads writes : List Hull)
    (run : Except Status EngOut) : State :=
  if !h.canIssue qs (hulls reads) (hulls writes) then s
  else
    let h1 := h.launch opc qs (hulls reads) (hulls writes)
    match run with
    | .error e => s.setHolm p (h1.deferred h.pc opc 0 e 0)
    | .ok o => s.produce p h1 o

/-- A picot of the store, empty slots as the identity of no steps. -/
def picotOf (h : Holm) (i : Nat) : Picot := (h.picots.get? i).getD ⟨[], []⟩

end State

/-- Results, or MEMORY_ERROR where a word the engine reads is poisoned (R98). -/
def unlessPoisoned (h : Holm) (reads : Nat → Bool) (ws : Unit → List (Nat × Nat)) : Except Status EngOut :=
  if h.poison.any reads then .error .memoryError else .ok (.ofWrites (ws ()))

/-! ### Matrix engine -/

/-- The collective bound to a slot of the holm's stage (R418). -/
def State.boundColl (s : State) (h : Holm) (slot : Nat) : Option Coll :=
  match h.inv with
  | none => none
  | some i =>
    let st := (s.work? i.work).bind fun w => w.stages[i.stage]?
    let ord := (st.map fun (x : Stage) => x.cslots.getD slot 0).getD 0
    if ord = 0 then none
    else (s.net.colls.find? fun ((_, c) : Nat × Coll) => c.work == i.work && c.stage == i.stage && c.ord + 1 == ord).map (·.2)

/-- The conditions of R418 on an emitting MMA. -/
def emitOk (c : Coll) (h : Holm) (p : MProb) : Bool :=
  c.srcSpad && c.srcHolm == (h.inv.map (·.index)).getD 0 && c.src == p.cBase
    && ((c.op == 1 && c.elems == p.m * p.n) || (c.op == 2 && c.n != 0 && p.m % c.n == 0 && c.elems * c.n == p.m * p.n))

/-- The pieces an emitting MMA hands over: row and column chunk (R130, R418). -/
def emitPieces (p : MProb) : List (Nat × Nat) :=
  (List.range ((p.n + 63) / 64)).flatMap fun c => (List.range p.m).map fun r => (r, c)

/-- The entries of an MMA (R129, R307). -/
def mmaReads (p : MProb) : List Hull :=
  if p.m = 0 ∨ p.n = 0 then []
  else (if p.k = 0 then [] else [p.hullA, p.hullB]) ++ (if p.acc && !p.inPlace then [p.hullI] else [])

def mmaWrites (p : MProb) : List Hull := if p.m = 0 ∨ p.n = 0 then [] else [p.hullC]

/-- MMA (R105 to R131, R306, R307). -/
def execMma (p : Nat) (s : State) : Out :=
  issueRow p 0x10 (fun _ => true) s fun h w s =>
    checked p 0x10 h s (lookMma (s.lookCtx h) h.look w) fun m =>
      let ok := !m.emit || (match s.boundColl h m.cslot with | some c => emitOk c h m.prob | none => false)
      if !ok then s.setHolm p (h.precise h.pc 0x10 .badCommand 0)
      else
        let s1 := s.engine p h 0x10 [.mxe] (mmaReads m.prob) (mmaWrites m.prob)
          (unlessPoisoned h m.prob.reads fun _ => m.prob.writes h.rd)
        if m.emit ∧ (s1.holm p).pc ≠ h.pc then
          s1.modHolm p fun x => { x with inFlight := modAt x.inFlight (x.inFlight.length - 1) fun f =>
            { f with emits := emitPieces m.prob, cslot := m.cslot, emitAt := (m.prob.cBase, 8 * m.prob.cStride, m.prob.cFmt.width, m.prob.n) } }
        else s1

/-- Problem number i of a list: the holm after it, or the failure with its index and tag (R135, R137). -/
def mapStep (sp : MapSpec) (i : Nat) (h : Holm) : Except (Status × Nat × Nat) Holm :=
  let at_ := sp.list + 16 * i
  let d := rdLE h.rd (4 * at_) 64
  if (List.range 16).any fun j => h.poison.contains (at_ + j) then .error (.memoryError, i, 0)
  else
    match mapCheck sp d with
    | some e => .error (e.status, i, fld d 496 16)
    | none =>
      if h.poison.any (mprobOfDesc sp d).reads then .error (.memoryError, i, fld d 496 16)
      else .ok (h.putWords ((mprobOfDesc sp d).writes h.rd))

/-- Problems in list order from number i, up to the first that fails: the holm, and the failure (R135, R137). -/
def mapRun (sp : MapSpec) : Nat → Nat → Holm → Holm × Option (Status × Nat × Nat)
  | 0, _, h => (h, none)
  | f + 1, i, h =>
    match mapStep sp i h with
    | .error e => (h, some e)
    | .ok k => mapRun sp f (i + 1) k

/-- MMAP (R132 to R137, R308). -/
def execMmap (p : Nat) (s : State) : Out :=
  issueRow p 0x11 (fun _ => true) s fun h w s =>
    checked p 0x11 h s (lookMmap h.look w) fun m =>
      let reads := hulls [rowsHull m.list 0 1 (64 * m.count), some m.src]
      if !h.canIssue [.mxe] reads [m.dst] then s
      else
        let (h1, err) := mapRun m m.count 0 (h.launch 0x11 [.mxe] reads [m.dst])
        match err with
        | none => s.setHolm p h1
        | some (e, i, tag) => s.setHolm p (h1.deferred h.pc 0x11 0 e (i + 2 ^ 12 * tag))

/-! ### Attention -/

/-- The control block conflicts with no WRITE or DECLARED entry (R176). -/
def cbFree (h : Holm) (qs : List Queue) (cb bytes : Nat) : Bool := !h.conflicts qs (hulls [Acb.hullSelf cb bytes]) []

def attQueues : List Queue := [.mxe, .vec, .sfu]

/-- A control block's poison stops the step (R98). -/
def cbPoisoned (h : Holm) (cb lines : Nat) : Bool := h.poisonedIn (cb / 8) (cb / 8 + lines - 1)

/-- The records an ATS exports go to its out-channel (R192). -/
def exportTo (h : Holm) (ch : Nat) (rs : List (List Nat)) : Holm :=
  if rs.isEmpty then h else h.setChan ch { h.chan ch with exported := (h.chan ch).exported ++ rs }

/-- ATS (R168 to R193, R309). -/
def execAts (p : Nat) (s : State) : Out :=
  issueRow p 0x18 (fun _ => true) s fun h w s =>
    checked p 0x18 h s (lookAts h.look w 8) fun cb =>
      if !cbFree h [] cb 256 then s
      else if cbPoisoned h cb 8 then s.setHolm p (h.deferred h.pc 0x18 0 .memoryError 0)
      else
        let c : Acb := ⟨rdLE h.rd (4 * cb) 256⟩
        match c.check cb (fun i => (h.picots.get? i).isSome) h.mayExport with
        | some e => s.setHolm p (h.precise h.pc 0x18 e 0)
        | none =>
          let reads := if c.m = 0 then [Acb.hullSelf cb 256] else [Acb.hullSelf cb 256, c.hullQ, c.hullK, c.hullV]
          let writes := if c.m = 0 then [] else if c.n = 0 then [c.hullAcc] else [c.hullS, c.hullAcc]
          let run := c.ats h.rd (State.picotOf h) h.poison
          let s1 := s.engine p h 0x18 attQueues reads writes run
          match run with
          | .ok o => if (s1.holm p).pc = h.pc then s1 else s1.modHolm p fun x => exportTo x (4 + c.expCh) o.records
          | .error _ => s1

/-- ATF (R186 to R188, R191, R309). -/
def execAtf (p : Nat) (s : State) : Out :=
  issueRow p 0x19 (fun _ => true) s fun h w s =>
    checked p 0x19 h s (lookAtf h.look w) fun (cb, y) =>
      if !cbFree h [] cb 256 then s
      else if cbPoisoned h cb 8 then s.setHolm p (h.deferred h.pc 0x19 0 .memoryError 0)
      else
        let c : Acb := ⟨rdLE h.rd (4 * cb) 256⟩
        match c.atfCheck cb (fun i => (h.picots.get? i).isSome) y with
        | some e => s.setHolm p (h.precise h.pc 0x19 e 0)
        | none =>
          let (key, s1) := s.takeFree 65536
          let writes := if c.m = 0 then [] else [c.hullAcc, c.hullY y]
          s1.engine p h 0x19 [.vec, .sfu] [Acb.hullSelf cb 256] writes (c.atf h.rd y h.poison key)

/-- ATB (R194 to R208, R309). -/
def execAtb (p : Nat) (s : State) : Out :=
  issueRow p 0x1A (fun _ => true) s fun h w s =>
    checked p 0x1A h s (lookAts h.look w 12) fun cb =>
      if !cbFree h [] cb 384 then s
      else if cbPoisoned h cb 12 then s.setHolm p (h.deferred h.pc 0x1A 0 .memoryError 0)
      else
        let b : Bcb := ⟨⟨rdLE h.rd (4 * cb) 256⟩, rdLE h.rd (4 * cb + 256) 128⟩
        match b.check cb (fun i => (h.picots.get? i).isSome) with
        | some e => s.setHolm p (h.precise h.pc 0x1A e 0)
        | none =>
          let (key, s1) := s.takeFree 16
          let none_ := b.step.m = 0 ∧ b.step.n = 0
          let reads := if none_ then [Acb.hullSelf cb 384] else [Acb.hullSelf cb 384, b.hullQuery, b.hullKey]
          let writes := if none_ then [] else [b.hullScratch, b.hullRow, b.hullBlock]
          s1.engine p h 0x1A attQueues reads writes (b.run h.rd (State.picotOf h) h.poison key)

/-! ### Vector, conversion and special functions -/

/-- VOP (R310 to R314). -/
def execVop (p : Nat) (s : State) : Out :=
  issueRow p 0x20 (fun _ => true) s fun h w s =>
    checked p 0x20 h s (lookVop (s.lookCtx h) h.look w) fun v =>
      let z := v.rows = 0 ∨ v.cols = 0
      s.engine p h 0x20 [.vec] (if z then [] else [v.a.hull v.rows v.cols, v.b.hull v.rows v.cols])
        (if z then [] else [v.d.hull v.rows v.cols]) (unlessPoisoned h v.reads fun _ => v.run h.rd)

/-- CVT (R116, R117, R315). -/
def execCvt (p : Nat) (s : State) : Out :=
  issueRow p 0x21 (fun _ => true) s fun h w s =>
    checked p 0x21 h s (lookCvt (s.lookCtx h) h.look w) fun v =>
      let z := v.rows = 0 ∨ v.cols = 0
      s.engine p h 0x21 [.vec] (if z then [] else [v.hullA]) (if z then [] else [v.hullD])
        (unlessPoisoned h v.reads fun _ => v.run h.rd)

/-- SFN (R155 to R166, R316). -/
def execSfn (p : Nat) (s : State) : Out :=
  issueRow p 0x28 (fun _ => true) s fun h w s =>
    checked p 0x28 h s (lookSfn (s.lookCtx h) h.look w) fun v =>
      let z := v.rows = 0 ∨ v.cols = 0
      let run : Except Status EngOut :=
        if h.poison.any v.reads then .error .memoryError
        else if v.posLimit h.rd then .error .limit
        else .ok (.ofWrites (v.run h.rd h.sfuMode (State.picotOf h v.slot)))
      s.engine p h 0x28 [.sfu] (if z then [] else [v.a.hull v.rows v.cols, v.hull1, v.hull2])
        (if z then [] else [v.d.hull v.rows v.cols]) run

end Sys2Proof.Machine
end

