-- ==== Sys2Proof/Machine/Reduce.lean ====
section
/-! DEFINITION. The arithmetic of collectives: SUM, MAX and MIN, the SMERGE combination, and the fixed orders of reduction (R288
to R290, R410 to R412). -/

namespace Sys2Proof.Machine

/-! ### Elements (R411) -/

/-- An element widened exactly to FP32, or the INT32 code as it stands (R411). -/
def redWiden (f : EFmt) (code : Nat) : Nat :=
  match f with
  | .int32 => code
  | _ => rneFp32 (f.value code)

/-- One combination of two widened elements: 0 SUM, 1 MAX, else MIN (R411). -/
def redComb (int : Bool) (red a b : Nat) : Nat :=
  if int then
    match red with
    | 0 => (a + b) % 2 ^ 32
    | 1 => if (BitVec.ofNat 32 a).toInt < (BitVec.ofNat 32 b).toInt then b else a
    | _ => if (BitVec.ofNat 32 b).toInt < (BitVec.ofNat 32 a).toInt then b else a
  else
    match red with
    | 0 => fp32Add a b
    | 1 => rneFp32 (Num.max (Flt.fp32.decode a) (Flt.fp32.decode b))
    | _ => rneFp32 (Num.min (Flt.fp32.decode a) (Flt.fp32.decode b))

/-- The final conversion of a widened value (R411). -/
def redOut (f : EFmt) (sat : Bool) (v : Nat) : Nat :=
  match f with
  | .int32 => v
  | _ => toCode f sat (Flt.fp32.decode v)

/-! ### SMERGE (R288) -/

/-- A partial row: FP32 codes of y and of lambda. -/
structure MRow where
  y : List Nat
  lam : Nat
  deriving DecidableEq, Repr

def nan32 : Nat := 0x7FC00000

/-- y of two partial rows in one column: the exact quotient, rounded once; an exact zero is +0 (R288). -/
def mergeCol (ea eb s : Num) (ya yb : Nat) : Nat :=
  match (ea.mul (Flt.fp32.decode ya)).add (eb.mul (Flt.fp32.decode yb)), s with
  | .fin n m e, .fin _ ms es => if m = 0 then 0 else Flt.fp32.encodeMag false n (Mag.ofRat m ms (e - es))
  | v, _ => rneFp32 v

/-- combine (R288). -/
def mergeRows (a b : MRow) : MRow :=
  let la := Flt.fp32.decode a.lam
  let lb := Flt.fp32.decode b.lam
  let bad (x : Num) : Bool := x.isNaN || x == .inf false
  if bad la ∨ bad lb then ⟨a.y.map fun _ => nan32, nan32⟩
  else if lb.isInf then a
  else if la.isInf then b
  else
    let mx := Num.max la lb
    let ex (l : Num) : Nat := Acb.exp2To .fp32 0 (rneSw40 (l.flush.sub mx.flush))
    let ea := ex la
    let eb := ex lb
    let s := fp32Add ea eb
    let lg := (Fn.log2 (Flt.fp32.decode s)).roundCode (flushEncode .fp32 false) s
    ⟨List.zipWith (mergeCol (Flt.fp32.decode ea) (Flt.fp32.decode eb) (Flt.fp32.decode s)) a.y b.y, fp32Add (rneFp32 mx) lg⟩

/-! ### Orders (R410) -/

/-- The left fold over the parts present. -/
def foldSeq {α : Type} (comb : α → α → α) : List α → Option α
  | [] => none
  | a :: t => some (t.foldl comb a)

/-- The balanced tree over 2^h part indices from `lo`; an absent part passes its sibling through. -/
def foldTree {α : Type} (comb : α → α → α) (parts : List (Nat × α)) : Nat → Nat → Option α
  | 0, lo => (parts.find? fun x => x.1 == lo).map (·.2)
  | h + 1, lo =>
    match foldTree comb parts h lo, foldTree comb parts h (lo + 2 ^ h) with
    | some a, some b => some (comb a b)
    | some a, none => some a
    | none, r => r

/-- The result of the parts of one element, given with their part indices in ascending order. -/
def reduceParts {α : Type} (tree : Bool) (comb : α → α → α) (parts : List (Nat × α)) : Option α :=
  if tree then
    let top := (parts.map (·.1)).foldl max 0
    foldTree comb parts (if top = 0 then 0 else top.log2 + 1) 0
  else foldSeq comb (parts.map (·.2))

/-! ### Pieces -/

/-- Codes of w bits of a list of bytes. -/
def codesOf (w : Nat) (bs : List Nat) : List Nat :=
  let v := ofBytes bs
  (List.range (8 * bs.length / w)).map fun i => fld v (w * i) w

/-- The combined output bytes of the parts of one piece (R410, R411). -/
def reduceBytes (tree : Bool) (red : Nat) (inF outF : EFmt) (sat : Bool) (parts : List (Nat × List Nat)) : List Nat :=
  let cs := parts.map fun (i, bs) => (i, codesOf inF.width bs)
  let len := match cs with | [] => 0 | (_, l) :: _ => l.length
  let out := (List.range len).map fun k =>
    redOut outF sat ((reduceParts tree (redComb (inF == .int32) red) (cs.map fun (i, l) => (i, redWiden inF (l.getD k 0)))).getD 0)
  toBytes (packCodes outF.width out) ((outF.width * len + 7) / 8)

/-- Bytes of a row of an SMERGE part (R412). -/
def mergeRowIn (d : Nat) : Nat := (d + 8) / 8 * 32
/-- Bytes of a row of an SMERGE output (R412). -/
def mergeRowOut (d : Nat) (outF : EFmt) : Nat := (d * (outF.width / 8) + 4 + 31) / 32 * 32

/-- Row i of a part (R412). -/
def mergeRowOf (d i : Nat) (part : List Nat) : MRow :=
  let ws := codesOf 32 ((part.drop (i * mergeRowIn d)).take (4 * (d + 1)))
  ⟨ws.take d, ws.getD d 0⟩

/-- Row i of the merged output, without its padding (R412). -/
def mergeOut (tree : Bool) (d i : Nat) (outF : EFmt) (sat : Bool) (parts : List (Nat × List Nat)) : List Nat :=
  match reduceParts tree mergeRows (parts.map fun (k, bs) => (k, mergeRowOf d i bs)) with
  | none => []
  | some r =>
    (r.y.map (redOut outF sat)).flatMap (toBytes · (outF.width / 8)) ++ toBytes r.lam 4

end Sys2Proof.Machine
end

