-- ==== Sys2Proof/Machine/Link.lean ====
section
/-! DEFINITION. The link layer of a strait port: link blocks and their CRC, retry, credits, flit slots, management flits, and
how a transfer leaves a port (R360 to R371, R377, R381, R388). -/

namespace Sys2Proof.Machine

/-! ### The CRC of a link block (R363) -/

/-- Bits of a number from bit 0 up. -/
def bitsUp (v : Nat) (n : Nat) : List Bool := (List.range n).map (bitAt v)

/-- One bit into the CRC register. -/
def crcBit (r : Nat) (b : Bool) : Nat :=
  let x := (2 * r) % 2 ^ 15
  if bitAt r 14 != b then x ^^^ 0x4599 else x

-- PRESUMED, unsafe: log 125.
/-- The CRC of a block: its index from bit 15 down, its flit bytes and 25 control bits from bit 0 up (R363). -/
def linkCrc (index : Nat) (flits : List (List Nat)) (ctl : Nat) : Nat :=
  let r0 := (bitsUp index 16).reverse.foldl crcBit 0x7FFF
  let r1 := flits.foldl (fun r f => f.foldl (fun r b => (bitsUp b 8).foldl crcBit r) r) r0
  (bitsUp ctl 25).foldl crcBit r1

/-! ### Flits -/

def idleFlit : Flit := ⟨0, List.replicate 256 0⟩

/-- A management flit from the number of its bytes (R369). -/
def mgtFlit (v : Nat) : List Nat := toBytes v 256

/-- Type of a management flit (R369). -/
def mgtType (f : List Nat) : Nat := f.headD 0

/-- Receive buffers of the credited channels 1 to 4 at a relay level (R367, R381). -/
def bufferOf (chan level : Nat) : Nat :=
  if chan = 3 ∨ chan = 4 then 1024 else if level = 0 ∨ chan = 1 ∨ chan = 2 then 256 else 0

/-- The key of the credits of a channel at a relay level. -/
def credKey (chan level : Nat) : Nat := 4 * chan + level

/-- The credited buffers in the rotation of credit returns (R366). -/
def credOrder : List (Nat × Nat) :=
  [(1, 0), (2, 0), (3, 0), (4, 0), (1, 1), (2, 1), (3, 1), (4, 1), (1, 2), (2, 2), (3, 2), (4, 2)]

/-- LINK_INIT of a port (R369). -/
def linkInit (q : Port) : List Nat :=
  let creds (level : Nat) : Nat := ((List.range 4).map fun c => bufferOf (c + 1) level * 2 ^ (16 * c)).sum
  let free := ((List.range 5).find? fun l => !q.txMap.contains l).getD 4
  let low := if free = 0 then 1 else 0
  let map := ((List.range 4).map fun k => ((q.txMap.getD k 0 - low) % 4) * 2 ^ (2 * k)).sum
  mgtFlit (0x01 + 2 ^ 8 * 1 + 2 ^ 16 * creds 0 + 2 ^ 80 * map + 2 ^ 96 * creds 1 + 2 ^ 160 * creds 2)

/-- REPLAY_START naming a block (R369). -/
def replayStart (x : Nat) : Flit := ⟨5, mgtFlit (0x02 + 2 ^ 16 * (x % 2 ^ 16))⟩

def laneFail (lane b0 : Nat) : List Nat := mgtFlit (0x04 + 2 ^ 16 * lane + 2 ^ 32 * (b0 % 2 ^ 16))
def laneSwap (lane b0 : Nat) : List Nat := mgtFlit (0x05 + 2 ^ 16 * lane + 2 ^ 32 * (b0 % 2 ^ 16))
def portDownFlit (reason : Nat) : List Nat := mgtFlit (0x06 + 2 ^ 16 * reason)

/-- The fields of a CHART flit every kind carries (R388). -/
def chartBase (s : State) (i kind : Nat) : Nat :=
  0x03 + 2 ^ 8 * kind + 2 ^ 16 * i + 2 ^ 32 * (s.net.serial % 2 ^ 64) + 2 ^ 96 * (s.net.inc % 2 ^ 64) + 2 ^ 160 * (s.net.rackId % 2 ^ 32)

/-- HELLO (R388). -/
def helloFlit (s : State) (i : Nat) : List Nat :=
  let c := s.net.claim
  let echo := match (s.port i).peer with
    | some p => 2 ^ 264 * (p.serial % 2 ^ 64) + 2 ^ 328 * (p.inc % 2 ^ 64) + 2 ^ 392 * (p.port % 32) + 2 ^ 397
    | none => 0
  mgtFlit (chartBase s i 1 + 2 ^ 192 * (c.x % 4) + 2 ^ 194 * (c.y % 4) + 2 ^ 196 * (c.z % 4) + 2 ^ 198
    + 2 ^ 199 * c.fixed.toNat + 2 ^ 200 * (c.anchor % 2 ^ 64) + echo)

/-- ENABLE (R388). -/
def enableFlit (s : State) (i arch : Nat) (on : Bool) : List Nat :=
  let own := ((s.net.archs.get? arch).map (·.own)).getD 0
  mgtFlit (chartBase s i 2 + 2 ^ 400 * (arch % 2 ^ 64) + 2 ^ 464 * (own % 1024) + 2 ^ 474 * on.toNat)

/-- A signed number in 32 bits. -/
def neg32 (o : Int) : Nat := if o < 0 then (2 ^ 32 - o.natAbs % 2 ^ 32) % 2 ^ 32 else o.natAbs % 2 ^ 32

/-- Offset and depth of an archipelago: 0 in its reference rack (R399). -/
def State.pathOf (s : State) (arch : Nat) : TimePath :=
  if (s.net.archs.get? arch).any fun a => a.refRack == s.net.rackId then ⟨0, 0, false⟩ else s.net.time.paths.getD arch ⟨0, 7, false⟩

/-- TIME: the first stamp is set when its block leaves (R388, R399). -/
def timeFlit (s : State) (i : Nat) : List Nat :=
  let q := s.port i
  let path := s.pathOf (q.enabled.getD 0)
  mgtFlit (chartBase s i 3 + 2 ^ 480 * (s.now % 2 ^ 64) + 2 ^ 544 * (q.lastTx % 2 ^ 64) + 2 ^ 608 * (q.lastRx % 2 ^ 64)
    + 2 ^ 672 * neg32 path.offset + 2 ^ 704 * (path.depth % 8))

/-! ### Transmission (R364 to R368) -/

namespace Port

/-- The port sends link blocks. -/
def sends (q : Port) : Bool :=
  match q.st with
  | .down | .hold => false
  | _ => true

/-- 128 blocks are unacknowledged (R365). -/
def windowFull (q : Port) : Bool :=
  match q.unacked with
  | [] => false
  | (i, _) :: _ => decide (128 ≤ (q.txIndex + 65536 - i) % 65536)

-- DEDUCED, unsafe: log 85.
/-- The next flit of a channel, where its transfer has a credit of its relay level (R367, R381). -/
def takeFlit (q : Port) (chan : Nat) : Option (Flit × Port) :=
  match q.leaving.find? fun l => l.chan == chan with
  | none => none
  | some l =>
    let k := credKey chan l.level
    if q.credits.getD k 0 = 0 then none
    else
      let q1 := { q with credits := q.credits.set k (q.credits.getD k 0 - 1) }
      let rest := if l.next + 1 < l.x.flits then q1.leaving.map fun m => if m = l then { m with next := m.next + 1 } else m
        else q1.leaving.erase l
      some (⟨chan, l.x.flit l.next⟩, { q1 with leaving := rest })

/-- The first of some channels that has a flit to send. -/
def takeAny (q : Port) : List Nat → Option (Flit × Port)
  | [] => none
  | c :: t => match q.takeFlit c with | some r => some r | none => takeAny q t

/-- What a port sends in an MGT slot: management flits in order, else LINK_INIT in TRAIN, HELLO in CHART, and ENABLE in
CHARTED while its own end is enabled (R370, R389, R393). -/
def mgtNext (s : State) (i : Nat) (q : Port) : Option (List Nat × Port) :=
  match q.mgtOut with
  | f :: rest =>
    let g := if mgtType f = 0x03 ∧ (f.getD 1 0) % 16 = 3 then
        f.take 60 ++ toBytes (s.now % 2 ^ 64) 8 ++ f.drop 68 else f
    some (g, { q with mgtOut := rest })
  | [] =>
    match q.st with
    | .train => if q.initSent then none else some (linkInit q, { q with initSent := true, st := if q.initRcvd then .chart else .train })
    | .chart => some (helloFlit s i, q)
    | .charted => q.enabled.map fun a => (enableFlit s i a true, q)
    | _ => none

/-- The flit of one slot (R365, R368): a flit to be sent again first; in an MGT slot a management flit; then a flit of the
slot's channel, or of any channel where its own has none. -/
def slotFlit (s : State) (i : Nat) (q : Port) (pos : Nat) : Flit × Port :=
  match q.replay with
  | f :: rest => (f, { q with replay := rest })
  | [] =>
    let slot := (5 * q.txIndex + pos) % 256
    let code := fld q.fst.toNat (4 * slot) 4
    let data : Flit × Port :=
      if q.st ≠ .up ∨ q.windowFull then (idleFlit, q)
      else match q.takeAny ((if code < 4 then [code + 1] else []) ++ [1, 2, 3, 4]) with
        | some r => r
        | none => (idleFlit, q)
    if code = 4 then
      match mgtNext s i q with
      | some (f, q1) => (⟨5, f⟩, q1)
      | none => data
    else data

/-- Kind and value of the control bits of the next block (R362, R366). -/
def control (q : Port) : Nat × Nat × Port :=
  match q.nakDue, q.badAt with
  | true, some x => (1, x % 256, { q with nakDue := false })
  | _, _ =>
    if q.txIndex % 4 = 3 then (0, q.lastGood % 256, q)
    else
      let order := (List.range 12).map fun k => (q.rotate + k) % 12
      let due (k : Nat) : Nat := match credOrder[k]? with | some (c, v) => q.toReturn.getD (credKey c v) 0 | none => 0
      let k := (order.find? fun k => due k != 0).getD q.rotate
      match credOrder[k]? with
      | none => (2, 0, q)
      | some (c, v) =>
        let n := min (due k) (if v = 0 then 63 else 31)
        let q1 := { q with rotate := (k + 1) % 12, toReturn := q.toReturn.set (credKey c v) (due k - n) }
        if v = 0 then (2, n + 64 * (c - 1), q1) else (3, n + 32 * (v - 1) + 64 * (c - 1), q1)

/-- A new flit-slot table becomes current at the next slot 0 (R368). -/
def swapFst (q : Port) : Port :=
  match q.fstShadow with
  | some t => if (5 * q.txIndex) % 256 = 0 ∨ 251 < (5 * q.txIndex) % 256 then { q with fst := t, fstShadow := none } else q
  | none => q

/-- The port sends its next link block: five flits and 40 control bits, kept until acknowledged. -/
def transmit (s : State) (i : Nat) (q0 : Port) : Port :=
  let q := q0.swapFst
  let (first, q1) : Option Flit × Port := match q.replayFrom with
    | some x => (some (replayStart x), { q with replayFrom := none })
    | none => (none, q)
  let (fs, q2) := (List.range 5).foldl (fun (acc : List Flit × Port) pos =>
    match pos, first with
    | 0, some f => (acc.1 ++ [f], acc.2)
    | _, _ =>
      let (f, q') := slotFlit s i acc.2 pos
      (acc.1 ++ [f], q')) ([], q1)
  let (kind, val, q3) := q2.control
  let tags := ((fs.zipIdx).map fun (f, k) => f.tag * 2 ^ (3 * k)).sum
  let ctl := tags + 2 ^ 15 * kind + 2 ^ 17 * val
  let full := ctl + 2 ^ 25 * linkCrc q3.txIndex (fs.map (·.bytes)) ctl
  let keep := fs.filter fun f => f.tag != 0
  { q3 with wire := some (q3.txIndex, fs, full), txIndex := (q3.txIndex + 1) % 65536
            unacked := if keep.isEmpty then q3.unacked else q3.unacked ++ [(q3.txIndex, keep)] }

/-! ### Reception (R362 to R367) -/

/-- The full index that a number modulo 256 names among the blocks last sent (R365). -/
def resolve (q : Port) (v : Nat) : Nat :=
  let t := (q.txIndex + 65535) % 65536
  (t + 65536 - (t + 256 - v % 256) % 256) % 65536

/-- Block index i is not after a. -/
def upTo (i a : Nat) : Bool := decide ((a + 65536 - i) % 65536 < 32768)

/-- Replay from block x: its flits and those of later blocks are sent again, in their order (R365). -/
def replayAt (q : Port) (x : Nat) : Port :=
  let again := q.unacked.filter fun (i, _) => upTo x i
  { q with unacked := q.unacked.filter fun (i, _) => !upTo x i
           replay := (again.flatMap (·.2)).filter (fun f => !(f.tag == 5 && mgtType f.bytes == 0x02)) ++ q.replay
           replayFrom := some x, replays := (q.replays + 1) % 2 ^ 32, retries := q.retries + 1 }

/-- Credits returned; none for an overflow, which is a protocol error (R367). -/
def addCredit (q : Port) (k n : Nat) : Option Port :=
  let v := q.credits.getD k 0 + n
  if q.announced.getD k 0 < v then none else some { q with credits := q.credits.set k v }

/-- The control field of a good block (R362, R364); none for a protocol error. -/
def applyControl (q : Port) (ctl : Nat) : Option Port :=
  let v := fld ctl 17 8
  match fld ctl 15 2 with
  | 0 => some { q with unacked := q.unacked.filter fun (i, _) => !upTo i (q.resolve v) }
  | 1 => some (q.replayAt (q.resolve v))
  | 2 => q.addCredit (credKey (v / 64 + 1) 0) (v % 64)
  | _ => q.addCredit (credKey (v / 64 + 1) (v / 32 % 2 + 1)) (v % 32)

/-- A flit of a good block; none for a protocol error. Flits of credited channels are taken only in UP; in CHARTED they are
discarded and counted, and they are a protocol error (R382, R383). -/
def takeIn (q : Port) (tag : Nat) (f : List Nat) : Option Port :=
  if tag = 0 then some q
  else if 6 ≤ tag then none
  else if tag = 5 then some (if [0x01, 0x03, 0x04, 0x05, 0x06].contains (mgtType f) then { q with mgtIn := q.mgtIn ++ [f] } else q)
  else if q.st = .charted then none
  else if q.st ≠ .up then some q
  else
    let got := q.partialIn.getD tag [] ++ f
    let x : Xfer := ⟨ofBytes (got.take 32), []⟩
    let k := credKey tag x.relay
    let q1 := { q with toReturn := q.toReturn.set k (q.toReturn.getD k 0 + 1) }
    if got.length < 32 + x.dataLen then some { q1 with partialIn := q1.partialIn.set tag got }
    else some { q1 with partialIn := q1.partialIn.del tag, arrived := q1.arrived ++ [(tag, { x with data := (got.drop 32).take x.dataLen })] }

/-- The flits of a good block in order. -/
def takeFlits (q : Port) : List (Nat × List Nat) → Option Port
  | [] => some q
  | (t, f) :: rest => match q.takeIn t f with | some q1 => takeFlits q1 rest | none => none

/-- A good block after its index has been accepted; none for a protocol error. -/
def takeGood (q : Port) (flits : List (List Nat)) (ctl : Nat) : Option Port :=
  match ({ q with lastGood := q.rxIndex } : Port).applyControl ctl with
  | none => none
  | some q1 => q1.takeFlits ((List.range 5).map fun i => (fld ctl (3 * i) 3, flits.getD i []))

-- DEDUCED, unsafe: log 87.
/-- A received block (R363, R364): the port after it, and whether it was a protocol error. -/
def receive (q : Port) (decoded : Bool) (flits : List (List Nat)) (ctl : Nat) : Port × Bool :=
  let good := decoded && flits.length == 5 && flits.all (fun f => f.length == 256)
    && linkCrc q.rxIndex flits (ctl % 2 ^ 25) == fld ctl 25 15
  let adv (q : Port) : Port := { q with rxIndex := (q.rxIndex + 1) % 65536 }
  match q.badAt with
  | some x =>
    let f0 := flits.headD []
    if good ∧ fld ctl 0 3 = 5 ∧ mgtType f0 = 0x02 ∧ ofBytes ((f0.drop 2).take 2) = x then
      match ({ q with badAt := none, nakDue := false } : Port).takeGood flits ctl with
      | some q1 => (adv q1, false)
      | none => (adv q, true)
    else (adv q, false)
  | none =>
    if !good then (adv { q with badAt := some q.rxIndex, nakDue := true }, false)
    else match q.takeGood flits ctl with
      | some q1 => (adv q1, false)
      | none => (adv { q with discarded := (q.discarded + (if q.st = .charted then 1 else 0)) % 2 ^ 16 }, true)

end Port

/-! ### Sending a transfer (R371, R377, R379, R381, R383) -/

/-- The group of a port (R377). -/
def groupOf (i : Nat) : List Nat :=
  if i < 30 then (List.range 5).map (5 * (i / 5) + ·) else [i]

namespace State

/-- Ports of a set that are UP and enabled for an archipelago. -/
def upPorts (s : State) (arch : Nat) (ps : List Nat) : List Nat :=
  ps.filter fun i => (s.port i).st == .up && (s.port i).enabled == some arch

/-- Every port of a set is in HOLD or DOWN (R383). -/
def allLost (s : State) (ps : List Nat) : Bool := ps.all fun i => (s.port i).st == .hold || (s.port i).st == .down

/-- A transfer identifier that no unanswered transfer carries (R371). -/
def freeXid (s : State) : Nat → Nat → Nat
  | 0, x => x % 65536
  | f + 1, x => if s.net.sent.any fun t => t.x.xid == x % 65536 then freeXid s f (x + 1) else x % 65536

/-- Put a transfer on a port: it leaves flit by flit as slots and credits allow. -/
def leave (s : State) (i chan : Nat) (x : Xfer) : State :=
  s.modPort i fun q => { q with leaving := q.leaving ++ [Leaving.mk chan x.relay x 0] }

/-- The same header with another relay count (R381). -/
def withRelay (x : Xfer) (v : Nat) : Xfer := { x with hdr := x.hdr - 2 ^ 5 * fld x.hdr 5 2 + 2 ^ 5 * v }

/-- A port for a transfer (R377, R379, R381): of its own set in rotation; else of the same groups; for an outer port, a torus
port of the relay route, of two relays. The relay table is firmware's: which torus port it names is a choice. -/
def portFor (s : State) (arch : Nat) (ps : List Nat) (turn : Nat) : Option (Nat × Nat) :=
  let own := s.upPorts arch ps
  match own[turn % (max own.length 1)]? with
  | some i => some (i, 0)
  | none =>
    match s.upPorts arch (ps.flatMap groupOf) with
    | i :: _ => some (i, 0)
    | [] =>
      if ps.any (30 ≤ ·) then (pickOne s.free (s.upPorts arch (List.range 30))).map fun i => (i, 2) else none

/-- A member has charted with another incarnation than its table entry holds (R384, R394). -/
def memberGone (s : State) (arch dst : Nat) : Bool :=
  match (s.net.archs.get? arch).bind fun a => a.members.get? dst with
  | some (ser, inc, _) => s.net.ports.any fun q => q.charted && (q.peer.map fun p => p.serial == ser && p.inc != inc).getD false
  | none => false

/-- Send a transfer: PEER_GONE where the member is a new node; LINK_LOST at once where every port to the peer is in HOLD or DOWN; where none is UP yet, it waits
among the sent ones (R379, R383, R394). -/
def sendXfer (s : State) (arch chan : Nat) (ps : List Nat) (turn : Nat) (x : Xfer) (owner : XOwner) : Except Status State :=
  if s.memberGone arch x.dst then .error .peerGone
  else if s.allLost ps ∧ (s.portFor arch ps turn).isNone then .error .linkLost
  else
    let s1 := { s with free := s.free + 1 }
    match s.portFor arch ps turn with
    | some (i, v) =>
      let y := withRelay x v
      .ok (({ s1 with net := { s1.net with sent := s1.net.sent ++ [Sent.mk y arch chan ps i owner 0 false] } } : State).leave i chan y)
    | none => .ok { s1 with net := { s1.net with sent := s1.net.sent ++ [Sent.mk x arch chan ps 32 owner 0 false] } }

/-- A WRITE's header toward a member of an archipelago, with a fresh identifier. -/
def writeXfer (s : State) (arch dst win key off eng : Nat) (data : List Nat) : Option (Xfer × State) :=
  match s.net.archs.get? arch with
  | none => none
  | some a =>
    match a.members.get? dst with
    | none => none
    | some (_, inc, _) =>
      let xid := s.freeXid (s.net.sent.length + 1) s.net.nextXid
      some (⟨Xfer.header 1 0 0 0 0 a.own dst xid eng data.length win key off (inc % 2 ^ 32), data⟩,
        { s with net := { s.net with nextXid := (xid + 1) % 65536 } })

/-- An ABORT toward a member, which gets no reply (R409). -/
def sendAbort (s : State) (arch dst chan : Nat) (ps : List Nat) (body : Nat) : State :=
  match s.net.archs.get? arch with
  | none => s
  | some a =>
    match a.members.get? dst, s.portFor arch ps 0 with
    | some (_, inc, _), some (i, v) =>
      let xid := s.freeXid (s.net.sent.length + 1) s.net.nextXid
      ({ s with net := { s.net with nextXid := (xid + 1) % 65536 } } : State).leave i chan
        (withRelay ⟨Xfer.header 5 0 0 0 0 a.own dst xid 0 32 0 0 0 (inc % 2 ^ 32), toBytes body 32⟩ v)
    | _, _ => s

/-- The body of an ABORT (R409). -/
def abortBody (kind status failed id tide : Nat) : Nat :=
  kind + 2 ^ 8 * status + 2 ^ 16 * (failed % 1024) + 2 ^ 32 * (id % 2 ^ 32) + 2 ^ 64 * (tide % 2 ^ 64)

end State

end Sys2Proof.Machine
end

