-- ==== Sys2Proof/Machine/Windows.lean ====
section
/-! DEFINITION. Windows and transfers at their target: the checks of R374, landing, replies, kept replies and relays (R285,
R371 to R376, R381, R407, R408). -/

namespace Sys2Proof.Machine

/-- Where an accepted transfer lands or reads. -/
inductive Target where
  | transit
  /-- physical holms and the byte address in each scratchpad -/
  | scratch (ps : List Nat) (at_ : Nat)
  /-- tenant and tenant address -/
  | memory (t a : Nat)
  deriving DecidableEq, Repr

namespace State

/-- The archipelago a port is enabled for. -/
def archOfPort (s : State) (i : Nat) : Option (Nat × Arch) :=
  match (s.port i).enabled with
  | some a => (s.net.archs.get? a).map fun x => (a, x)
  | none => none

/-- The transfer names this module as its target. -/
def forMe (s : State) (i : Nat) (x : Xfer) : Bool :=
  match s.archOfPort i with
  | some (_, a) => a.own == x.dst
  | none => true

/-- An open window by its handle and key (R373). -/
def openWindow (s : State) (handle key : Nat) : Option Window :=
  match s.net.windows.get? (handle % 2 ^ 14) with
  | some w => if w.gen = handle / 2 ^ 14 ∧ w.key = key then some w else none
  | none => none

/-- The logical holm of a window's list entry. -/
def windowLg (s : State) (h : Nat × Nat × Nat) : Option Nat := (s.ten.parts.get? h.1).bind fun p => p.holms[h.2.1]?

/-- A holm's substitution is pending, or it is FAULTED (R375). -/
def redirects (s : State) (lg : Nat) : Bool :=
  s.flt.recovery.any (fun c => c.lg == lg && !c.swapped) ||
    match s.physOf? lg with
    | some p => (s.holm p).st == .faulted
    | none => false

/-- The header is well formed (R371, R374). -/
def headerOk (x : Xfer) : Bool :=
  (x.ty == 1 || x.ty == 2) && !x.redirect && x.status == 0 && fld x.hdr 54 2 == 0 && fld x.hdr 77 3 == 0 && x.eng < 3
    && x.relay < 3 && x.len % 32 == 0 && x.off % 32 == 0 && decide (x.len ≤ 1048576)
    && (!x.mcast || (x.ty == 1 && fld x.off 22 4 == 0))

/-- Payload bytes that lie in the window: a piece header is not written (R407). -/
def landLen (x : Xfer) : Nat := if x.eng = 2 then x.len - 64 else x.len

/-- The role check of a scratchpad window (R375): whether each holm has its bound epoch, and whether firmware redirects. -/
def epochCheck (s : State) (hs : List (Nat × Nat × Nat)) : Except (Status × Bool) Unit :=
  if hs.any fun h => (s.windowLg h).any s.redirects then .error (.staleRole, true)
  else if hs.all fun h => match s.windowLg h with
    | some lg => s.epochOf lg == h.2.2 && (s.physOf? lg).isSome
    | none => false
  then .ok () else .error (.staleRole, false)

/-- The checks of a window by its handle and key, in the order of R374: open for the archipelago and its tenant, direction,
range, translation, exposure, role. -/
def checkWindow (s : State) (a : Nat) (tenant : Nat) (x : Xfer) : Except (Status × Bool) Target :=
  match s.openWindow x.win x.key with
  | none => .error (.noPermission, false)
  | some w =>
    if w.arch ≠ a ∨ w.tenant ≠ tenant then .error (.noPermission, false)
    else if (x.ty = 1 ∧ !w.write) ∨ (x.ty = 2 ∧ !w.read) then .error (.noPermission, false)
    else if w.memory then
      if w.len < x.off + landLen x ∨ x.mcast then .error (.badAddress, false)
      else if (MemState.pieces regionSize (landLen x + 1) (w.base + x.off) (landLen x)).all fun (b, _) =>
          match s.tenant? w.tenant with
          | some t => (t.table.get? (b / regionSize)).isSome
          | none => false
      then .ok (.memory w.tenant (w.base + x.off)) else .error (.badAddress, false)
    else
      let off := x.off % 2 ^ 22
      let hs := if x.mcast then w.holms else ((w.holms[fld x.off 22 26]?).map fun h => [h]).getD []
      if w.len < off + landLen x ∨ hs.isEmpty then .error (.badAddress, false)
      else
        let ps := hs.filterMap fun h => (s.windowLg h).bind s.physOf?
        let at_ := w.base + off
        let least := if x.eng = 0 then 2 else 1
        if landLen x ≠ 0 ∧ ps.any fun p => !(s.holm p).exposed (at_ / 32) ((at_ + landLen x - 1) / 32) least then
          .error (.noPermission, false)
        else match s.epochCheck hs with
          | .error e => .error e
          | .ok () => .ok (.scratch ps at_)

/-- The checks of R374 in their order: the target, or the status and the redirect bit. -/
def checkXfer (s : State) (i : Nat) (x : Xfer) : Except (Status × Bool) Target :=
  if !headerOk x then .error (.badCommand, false)
  else if fld x.inc 0 32 ≠ s.net.inc % 2 ^ 32 then .error (.peerGone, false)
  else match s.archOfPort i with
    | none => .error (.noPermission, false)
    | some (a, ar) =>
      if (ar.members.get? x.src).isNone then .error (.noPermission, false)
      else if ar.transit = some (x.win, x.key) then .ok .transit
      else s.checkWindow a ar.tenant x

/-- A failed key or handle check is counted for the source and the port, and logged (R374, R463, R574, R575). -/
def countKeyFail (s : State) (i : Nat) (x : Xfer) : State :=
  match s.archOfPort i with
  | none => s
  | some (_, ar) =>
    if !headerOk x ∨ fld x.inc 0 32 ≠ s.net.inc % 2 ^ 32 ∨ (ar.members.get? x.src).isNone ∨ ar.transit = some (x.win, x.key)
        ∨ (s.openWindow x.win x.key).isSome then s
    else
      let s1 := { s with net := { s.net with keyFails := s.net.keyFails.set x.src (s.net.keyFails.getD x.src 0 + 1) }
                         boot := { s.boot with keyFailPort := s.boot.keyFailPort.set i ((s.boot.keyFailPort.getD i 0 + 1) % 2 ^ 16) } }
      s1.log 5 5 none (x.src % 2 ^ 10 + 2 ^ 10 * (x.win % 2 ^ 14) + 2 ^ 24 * (i % 32)) 1

/-! ### Replies (R371, R372, R376) -/

/-- A reply with the two indices exchanged. -/
def replyOf (s : State) (arch : Nat) (x : Xfer) (st : Status) (redirect : Bool) (data : List Nat) : Xfer :=
  let inc := (((s.net.archs.get? arch).bind fun a => a.members.get? x.src).map fun (_, i, _) => i % 2 ^ 32).getD 0
  if x.ty = 2 ∧ st = .done then ⟨Xfer.header 3 0 0 0 0 x.dst x.src x.xid 0 data.length 0 0 0 inc, data⟩
  else ⟨Xfer.header 4 redirect.toNat 0 0 st.code x.dst x.src x.xid 0 0 0 0 0 inc, []⟩

/-- The source of a transfer as its kept replies are held (R376). -/
def srcKey (arch : Nat) (x : Xfer) : Nat := 1024 * arch + x.src

-- DESIGN CHOICE, unsafe: log 114.
def keptOf (s : State) (arch : Nat) (x : Xfer) : Option Kept :=
  s.net.kept.find? fun k => k.src == srcKey arch x && k.xid == x.xid

/-- A reply is to be sent; that of a transfer that has completed is kept among the last 1,024 of its source (R376). -/
def reply (s : State) (i arch : Nat) (x : Xfer) (st : Status) (redirect : Bool) (data : List Nat) : State :=
  let y := s.replyOf arch x st redirect data
  let net := { s.net with replies := s.net.replies ++ [⟨y, i, arch⟩] }
  if st = .done then
    let mine := net.kept.filter fun k => k.src == srcKey arch x
    let older := net.kept.filter fun k => k.src != srcKey arch x
    { s with net := { net with kept := (⟨srcKey arch x, x.xid, y⟩ :: mine).take 1024 ++ older } }
  else { s with net := net }

/-! ### Landing (R93, R376, R459) -/

/-- Bytes land in a target: MEMORY_ERROR or the translation's status where they cannot. -/
def land (s : State) (t : Target) (bs : List Nat) : Except Status State :=
  match t with
  | .transit => .ok s
  | .scratch ps a => .ok (ps.foldl (fun (s : State) p => (s.wakeHolm p).modHolm p fun h => h.putBytes a bs) s)
  | .memory t a => s.memWrite t a bs

/-- A completed landing in scratchpads is counted by each target holm that runs an invocation (R45). -/
def countArrival (s : State) (t : Target) : State :=
  match t with
  | .scratch ps _ => ps.foldl (fun (s : State) p => s.modHolm p fun h =>
      if h.inv.isSome then { h with arrivalCount := h.arrivalCount + 1 } else h) s
  | _ => s

/-- Bytes read for a READ (R83, R98, R358). -/
def fetch (s : State) (t : Target) (n : Nat) : Except Status (List Nat) :=
  match t with
  | .transit => .error .noPermission
  | .memory t a => s.memRead t a n
  | .scratch ps a =>
    match ps with
    | [] => .error .badAddress
    | p :: _ =>
      let h := s.holm p
      if n = 0 then .ok []
      else if h.inv.isNone ∧ a / 4 < h.lagoonAt then .error .noPermission
      else if h.poisonedIn (a / 32) ((a + n - 1) / 32) then .error .memoryError
      else .ok (h.bytes a n)

/-- The piece that a WRITE told to the collective engine carries (R407). -/
def pieceOf (x : Xfer) : Piece := ⟨ofBytes (x.data.take 64), x.data.drop 64, []⟩

/-- A WRITE at its target (R374 to R376): landed, told to its engine and answered; a block for the shuttle is handed to it,
which lands it line by line and then answers. -/
def takeWrite (s : State) (i : Nat) (x : Xfer) : State :=
  match s.archOfPort i with
  | none => s
  | some (arch, _) =>
    match s.keptOf arch x with
    | some k => { s with net := { s.net with replies := s.net.replies ++ [⟨k.reply, i, arch⟩] } }
    | none =>
      match s.checkXfer i x with
      | .error (st, rd) => (s.countKeyFail i x).reply i arch x st rd []
      | .ok t =>
        if x.eng = 2 then
          let s1 := s.reply i arch x .done false []
          { s1 with net := { s1.net with pieceIn := s1.net.pieceIn ++ [(i, arch, pieceOf x)] } }
        else if x.eng = 1 ∧ t ≠ .transit then { s with net := { s.net with shuttleIn := s.net.shuttleIn ++ [(i, arch, x)] } }
        else match s.land t x.data with
          | .error st => s.reply i arch x st false []
          | .ok s1 => (s1.countArrival t).reply i arch x .done false []

/-- A READ at its target. -/
def takeRead (s : State) (i : Nat) (x : Xfer) : State :=
  match s.archOfPort i with
  | none => s
  | some (arch, _) =>
    match s.keptOf arch x with
    | some k => { s with net := { s.net with replies := s.net.replies ++ [⟨k.reply, i, arch⟩] } }
    | none =>
      match s.checkXfer i x with
      | .error (st, rd) => (s.countKeyFail i x).reply i arch x st rd []
      | .ok t =>
        match s.fetch t x.len with
        | .error st => s.reply i arch x st false []
        | .ok bs => s.reply i arch x .done false bs

/-- A WRITE cut off before its last flit: lines it would have landed are undefined, and it gets no reply (R376). -/
def cutOff (s : State) (i : Nat) (got : List Nat) : State :=
  let x : Xfer := ⟨ofBytes (got.take 32), []⟩
  if got.length < 32 ∨ x.ty ≠ 1 ∨ x.eng = 2 then s
  else match s.checkXfer i x with
    | .error _ => s
    | .ok .transit => s
    | .ok (.scratch ps a) =>
      if x.len = 0 then s
      else
        let (tag, s1) := s.takeFree 1
        ps.foldl (fun (s : State) p => s.modHolm p fun h => h.spoil (a / 4) ((a + x.len - 1) / 4) tag) s1
    | .ok (.memory t a) =>
      let (tag, s1) := s.takeFree 1
      match s1.memWrite t a ((List.range x.len).map fun k => Config.freeNat .undefByte tag k % 256) with
      | .ok s2 => s2
      | .error _ => s1

/-- The first transfer arrived on a port that meets a condition, and the state without it. -/
def popArrived (s : State) (i : Nat) (f : Nat → Xfer → Bool) : Option (Nat × Xfer × State) :=
  match (s.port i).arrived.find? fun (c, x) => f c x with
  | some (c, x) => some (c, x, s.modPort i fun q => { q with arrived := q.arrived.erase (c, x) })
  | none => none

end State

/-- A WRITE reaches its target; so does a transfer of a reserved type, which is not well formed (R374 to R376). -/
def execStraitWriteArrival (port : Nat) (s : State) : Out :=
  onPort port s fun _ s =>
    match s.popArrived port fun _ x => s.forMe port x && !(x.ty == 2 || x.ty == 3 || x.ty == 4 || x.ty == 5) with
    | some (_, x, s1) => s1.takeWrite port x
    | none => s

/-- A READ reaches its target (R374). -/
def execStraitReadArrival (port : Nat) (s : State) : Out :=
  onPort port s fun _ s =>
    match s.popArrived port fun _ x => s.forMe port x && x.ty == 2 with
    | some (_, x, s1) => s1.takeRead port x
    | none => s

/-- The oldest reply leaves, on its arrival port or on any UP port of the group (R372, R379). -/
def execTransferReplySend (s : State) : Out :=
  .next (match s.net.replies with
    | [] => s
    | r :: rest =>
      let s1 : State := { s with net := { s.net with replies := rest } }
      match s1.portFor r.arch [r.port] 0 with
      | some (i, v) => s1.leave i 2 (State.withRelay r.x v)
      | none => s)

/-! ### Relays (R381) -/

-- DESIGN CHOICE, safe: log 84.
/-- The departure port of a relayed transfer: where the target itself is charted, else toward the next relay; the relay
table is firmware's, and which of the ports left it names is a choice. -/
def State.relayPort (s : State) (from_ arch : Nat) (a : Arch) (x : Xfer) : Option Nat :=
  let ups := (s.upPorts arch (List.range 32)).filter (· != from_)
  let direct := ups.find? fun i => match (s.port i).peer, a.members.get? x.dst with
    | some p, some (ser, _, _) => p.serial == ser
    | _, _ => false
  match direct with
  | some i => some i
  | none => pickOne s.free (ups.filter fun i => decide (30 ≤ i) == decide (x.relay = 2 ∧ from_ < 30))

/-- A relay module forwards a transfer for another module, or discards it, counts it and answers NO_PERMISSION (R381). -/
def execRelayForward (port : Nat) (s : State) : Out :=
  onPort port s fun _ s =>
    match s.popArrived port fun _ x => !s.forMe port x with
    | none => s
    | some (c, x, s1) =>
      let refuse (s : State) : State :=
        let s2 := s.modPort port fun q => { q with discarded := (q.discarded + 1) % 2 ^ 16 }
        let s3 : State := { s2 with net := { s2.net with relayDrops := s2.net.relayDrops + 1 } }
        match s3.archOfPort port with
        | some (arch, _) => if x.ty = 1 ∨ x.ty = 2 then s3.reply port arch x .noPermission false [] else s3
        | none => s3
      match s1.archOfPort port with
      | none => refuse s1
      | some (arch, a) =>
        if x.relay = 0 ∨ (a.members.get? x.src).isNone ∨ (a.members.get? x.dst).isNone then refuse s1
        else match s1.relayPort port arch a x with
          | none => refuse s1
          | some j => ({ s1 with free := s1.free + 1 } : State).leave j c (State.withRelay x (x.relay - 1))

end Sys2Proof.Machine
end

