-- ==== Sys2Proof/Machine/Coll.lean ====
section
/-! DEFINITION. The collective engine: what each rank sends and expects, pieces and their routes, landing, consumption, failure
and the status record (R401 to R421). -/

namespace Sys2Proof.Machine

/-! ### What a descriptor describes (R403, R406) -/

/-! The piece header's fields (R407). -/
namespace Piece

def id (p : Piece) := fld p.hdr 0 32
def kind (p : Piece) := fld p.hdr 32 4
def op (p : Piece) := fld p.hdr 36 4
def part (p : Piece) := fld p.hdr 40 12
def src (p : Piece) := fld p.hdr 52 10
def dst (p : Piece) := fld p.hdr 64 10
def dstIdx (p : Piece) := fld p.hdr 74 10
def num (p : Piece) := fld p.hdr 96 32
def bytes (p : Piece) := fld p.hdr 128 13
def win (p : Piece) := fld p.hdr 160 32
def key (p : Piece) := fld p.hdr 192 64
def off (p : Piece) := fld p.hdr 256 48
def body (p : Piece) : List Nat := p.data.take p.bytes

end Piece

/-- What a piece to be sent carries. -/
inductive ShipFrom where
  /-- a local part: number, byte offset and length -/
  | part (j off len : Nat)
  /-- the own output: byte offset and length -/
  | own (off len : Nat)
  /-- source rows of route entries -/
  | rows (es : List Nat)
  | bytes (bs : List Nat)
  deriving DecidableEq, Repr

/-- A piece to be sent: kind, part index, piece index, offset in the destination's output, content, and whether it goes to a
collector slot, for which a credit is needed (R416). -/
structure Ship where
  kind : Nat
  part : Nat
  piece : Nat
  off : Nat
  what : ShipFrom
  credit : Bool
  deriving DecidableEq, Repr

namespace Coll

def inFmt (c : Coll) : EFmt := (EFmt.ofCode? c.inF).getD .fp32
def outFmt (c : Coll) : EFmt := (EFmt.ofCode? c.outF).getD .fp32

/-- Bytes of a number of source elements, or of output elements. -/
def inBytes (c : Coll) (k : Nat) : Nat := (k * c.inFmt.width + 7) / 8
def outBytes (c : Coll) (k : Nat) : Nat := (k * c.outFmt.width + 7) / 8

/-- Bytes of one block (R406, R412); a row in the modes with a route list. -/
def block (c : Coll) : Nat :=
  if c.op = 6 then c.elems * mergeRowIn c.row
  else if c.op = 4 ∧ c.a2a ≠ 0 then c.inBytes c.row else c.inBytes c.elems

/-- The segment of ALLREDUCE that a rank owns: first element and count. -/
def seg (c : Coll) (j : Nat) : Nat × Nat :=
  let l := (c.elems + c.n - 1) / c.n
  (l * j, min l (c.elems - l * j))

/-- The parts are consumed by a reduction. -/
def reduces (c : Coll) : Bool := c.op == 2 || c.op == 3 || c.op == 6

def routed (c : Coll) : Bool := c.op == 4 && c.a2a == 1
def indexed (c : Coll) : Bool := c.op == 4 && c.a2a == 2

/-- Pieces of this rank go through its collector. -/
def collects (c : Coll) : Bool := c.routed || (c.reduces && (c.op != 6 || c.root == c.rank))

/-- Offsets and lengths of the pieces of a range of bytes (R407). -/
def cut (n : Nat) : List (Nat × Nat) := (List.range ((n + 4095) / 4096)).map fun k => (4096 * k, min 4096 (n - 4096 * k))

/-- Source bytes of the block that this rank reduces, per part. -/
def ownBytes (c : Coll) : Nat := if c.op = 3 then c.inBytes (c.seg c.rank).2 else c.block

/-- Elements (rows for SMERGE) that this rank reduces. -/
def ownElems (c : Coll) : Nat :=
  match c.op with | 2 => c.elems | 3 => (c.seg c.rank).2 | 6 => if c.root = c.rank then c.elems else 0 | _ => 0

/-- Offset in the output where this rank's reduced block starts. -/
def ownAt (c : Coll) : Nat := if c.op = 3 then c.outBytes (c.seg c.rank).1 else 0

/-- Output offset of a byte offset of the source block (R407). -/
def outAt (c : Coll) (k : Nat) : Nat := if c.op = 6 then k else k * 8 / c.inFmt.width * c.outFmt.width / 8

/-- Parts of a block sent for reduction: all parts of a piece, then the next piece. -/
def partShips (c : Coll) (srcOff n dstOff : Nat) : List Ship :=
  (cut n).zipIdx.flatMap fun ((o, l), k) => (List.range c.parts).map fun j =>
    ⟨1, c.part0 + j, k, dstOff + c.outAt o, .part j (srcOff + o) l, true⟩

-- DESIGN CHOICE, unsafe: log 83.
/-- A block moved unchanged. -/
def blockShips (c : Coll) (srcOff n dstOff : Nat) : List Ship :=
  (cut n).zipIdx.map fun ((o, l), k) => ⟨1, c.part0, k, dstOff + o, .part 0 (srcOff + o) l, false⟩

/-- Rows a ROUTED source may send to a rank: entry and slot, bucket by bucket (R414). -/
def grantedRows (c : Coll) (route : List Nat) (d : Nat) (g : List (Nat × Nat)) : List (List Nat × Nat) :=
  let per := max 1 (4096 / max 1 c.block)
  (List.range 64).flatMap fun b =>
    let (first, a) := g.getD b (0, 0)
    let es := ((route.zipIdx.filter fun (e, _) => e != 0xFFFFFFFF && e % 1024 == d && e / 1024 % 64 == b).map (·.2)).take a
    (chunks per es).zipIdx.map fun (l, i) => (l, (b * c.cap + first + per * i) * c.block)

/-- The pieces for a rank that can be sent so far, in order (R406, R407, R413, R414, R418). `streams` says that an MMA emits
the source. -/
def ships (c : Coll) (streams : Bool) (route : List Nat) (d : Nat) : List Ship :=
  let done := c.reduced == c.ownElems
  let emit (f : Nat → Option Nat) (credit : Bool) : List Ship := c.emitted.filterMap fun (k, e, bs) =>
    (f e).map fun o => ⟨1, c.part0, k, o, .bytes bs, credit⟩
  match c.op with
  | 0 => if c.rank = c.root then c.blockShips 0 c.block 0 else []
  | 1 => if streams then emit (fun e => some (c.rank * c.block + c.inBytes e)) false else c.blockShips 0 c.block (c.rank * c.block)
  | 2 => if streams then emit (fun e => if c.elems * d ≤ e ∧ e < c.elems * (d + 1) then some (c.outBytes (e - c.elems * d)) else none) true
         else c.partShips (d * c.block) c.block 0
  | 3 =>
    let (a, l) := c.seg d
    let (a0, l0) := c.seg c.rank
    c.partShips (c.inBytes a) (c.inBytes l) (c.outBytes a) ++
      (if done then (cut (c.outBytes l0)).zipIdx.map fun ((o, k), i) => ⟨1, c.part0, i, c.outBytes a0 + o, .own (c.outBytes a0 + o) k, false⟩ else [])
  | 4 =>
    match c.a2a with
    | 0 => c.blockShips (d * c.block) c.block (c.rank * c.block)
    | 1 =>
      let mine := (List.range 64).map fun b => (route.filter fun e => e != 0xFFFFFFFF && e % 1024 == d && e / 1024 % 64 == b).length
      ⟨2, c.part0, 0, 0, .bytes (mine.flatMap (toBytes · 4)), true⟩ ::
        (match c.grants.get? d with
         | none => []
         | some g => (c.grantedRows route d g).zipIdx.map fun ((es, o), k) => ⟨1, c.part0, k, o, .rows es, true⟩)
    | _ => (route.zipIdx.filter fun (e, _) => e != 0xFFFFFFFF && e % 1024 == d).flatMap fun (e, i) =>
        (cut c.block).zipIdx.map fun ((o, l), k) => ⟨1, c.part0, k, e / 1024 * c.block + o, .part 0 (i * c.block + o) l, false⟩
  | 5 => if d = (c.rank + c.shift) % c.n then c.blockShips 0 c.block 0 else []
  | _ => if d = c.root then c.partShips 0 c.block 0 else []

/-- Everything that will ever be sent to a rank is among its pieces so far. -/
def shipsWhole (c : Coll) (streams : Bool) (d : Nat) : Bool :=
  match c.op with
  | 3 => c.reduced == c.ownElems
  | 4 => c.a2a != 1 || (c.grants.get? d).isSome
  | _ => !streams || (c.emitted.map fun (_, _, bs) => bs.length).sum == (if c.op = 2 then c.n * c.block else c.block)

def entry (c : Coll) (s : Nat) : ColEntry := c.entries.getD s ⟨.done, 0, 0⟩
def modEntry (c : Coll) (s : Nat) (f : ColEntry → ColEntry) : Coll := { c with entries := modAt c.entries s f }
def failed (c : Coll) (s : Nat) : Bool := !(c.entry s).status.isDone
def anyFailed (c : Coll) : Bool := c.entries.any fun e => !e.status.isDone

/-- Pieces of moved blocks, and reduced segments, that this rank expects from a source (R406). -/
def expects (c : Coll) (s : Nat) : Nat :=
  let ps (n : Nat) : Nat := (n + 4095) / 4096
  match c.op with
  | 0 => if s = c.root then ps c.block else 0
  | 1 => ps c.block
  | 4 => if c.a2a = 0 then ps c.block else 0
  | 5 => if (s + c.shift) % c.n = c.rank then ps c.block else 0
  | _ => 0

/-- Bytes of the block a source lands in this rank's output: offset and length, for the operations that move blocks (R406). -/
def blockOf (c : Coll) (s : Nat) : Option (Nat × Nat) :=
  match c.op with
  | 0 => if s = c.root then some (0, c.block) else none
  | 1 => some (s * c.block, c.block)
  | 3 => if s = c.rank then none else some (c.outBytes (c.seg s).1, c.outBytes (c.seg s).2)
  | 4 => if c.a2a = 0 then some (s * c.block, c.block) else none
  | 5 => if (s + c.shift) % c.n = c.rank then some (0, c.block) else none
  | _ => none

/-- Bytes of the output of this rank (R406, R412, R413). -/
def outSize (c : Coll) : Nat :=
  match c.op with
  | 0 => c.block
  | 1 => c.n * c.block
  | 2 => c.outBytes c.elems
  | 3 => c.outBytes c.elems
  | 4 => match c.a2a with | 0 => c.n * c.block | 1 => 64 * c.cap * c.block | _ => 0
  | 5 => c.block
  | _ => if c.root = c.rank then c.elems * mergeRowOut c.row c.outFmt else 0

/-- The piece's offset, length and index agree with the descriptor (R407). -/
def agrees (c : Coll) (streams : Bool) (p : Piece) : Bool :=
  let within (o l : Nat) : Bool := decide (o ≤ p.off) && decide (p.off + p.bytes ≤ o + l) && (streams || p.off == o + 4096 * p.num)
  let toCollector : Bool := decide (p.num < (c.ownBytes + 4095) / 4096) && p.off == c.ownAt + c.outAt (4096 * p.num)
    && p.bytes == min 4096 (c.ownBytes - 4096 * p.num)
  match c.op with
  | 2 => if streams then decide (p.off < c.outBytes c.elems) else toCollector
  | 3 => toCollector || (match c.blockOf p.src with | some (o, l) => within o l | none => false)
  | 6 => c.rank == c.root && toCollector
  | 4 => match c.a2a with
    | 0 => within (p.src * c.block) c.block
    | 1 => decide (p.off + p.bytes ≤ c.outSize) && p.off % (max 1 c.block) == 0 && p.bytes % (max 1 c.block) == 0
    | _ => decide (p.off % (max 1 c.block) + p.bytes ≤ c.block) && p.off % (max 1 c.block) == 4096 * p.num
  | _ => match c.blockOf p.src with | some (o, l) => within o l | none => false

end Coll

namespace State

def coll? (s : State) (i : Nat) : Option Coll := s.net.colls.get? i
def modColl (s : State) (i : Nat) (f : Coll → Coll) : State := { s with net := { s.net with colls := s.net.colls.modify i f } }

/-- An MMA of the stage feeds the collective (R418): a slot of the stage is bound to it and its source is a scratchpad. -/
def streams (s : State) (c : Coll) : Bool :=
  c.srcSpad && (c.op == 1 || c.op == 2) &&
    (((s.work? c.work).bind fun w => w.stages[c.stage]?).map fun (st : Stage) => st.cslots.contains (c.ord + 1)).getD false

/-- A rank's entry of the peer table: archipelago index, window and key (R405). -/
def peerOf (s : State) (c : Coll) (d : Nat) : Option (Nat × Nat × Nat) :=
  match s.memRead c.tenant (c.peers + 16 * d) 16 with
  | .ok bs => let v := ofBytes bs; some (fld v 0 10, fld v 32 32, fld v 64 64)
  | .error _ => none

/-- A collective as a command that carries its descriptor sees it. -/
def collView (t part arch raw : Nat) : Coll := Coll.fresh 0 0 0 t part arch raw 0

/-- Own window of a collective, from its peer table (R405). -/
def ownWindow (s : State) (c : Coll) : Option Window :=
  (s.peerOf c c.rank).bind fun (_, win, _) => (s.net.windows.get? (win % 2 ^ 14)).filter fun w => w.tenant == c.tenant && w.gen == win / 2 ^ 14

/-- The route list (R413). -/
def routeOf (s : State) (c : Coll) : List Nat :=
  if c.op = 4 ∧ c.a2a ≠ 0 then
    match s.memRead c.tenant c.route (4 * c.elems) with
    | .ok bs => (chunks 4 bs).map ofBytes
    | .error _ => []
  else []

/-- Bytes of a local part (R403, R406, R418). -/
def readPart (s : State) (c : Coll) (j off n : Nat) : Except Status (List Nat) :=
  if c.srcSpad then
    match ((s.ten.parts.get? c.part).bind fun p => p.holms[c.srcHolm]?).bind s.physOf? with
    | none => .error .staleRole
    | some p =>
      let h := s.holm p
      let a := 4 * c.src + j * c.srcStride + off
      if n ≠ 0 ∧ h.poisonedIn (a / 32) ((a + n - 1) / 32) then .error .memoryError else .ok (h.bytes a n)
  else s.memRead c.tenant (c.src + j * c.srcStride + off) n

/-- Where n bytes at an offset of this rank's output lie (R405, R374). -/
def outTarget (s : State) (c : Coll) (off n : Nat) : Except Status Target :=
  match s.peerOf c c.rank with
  | none => .error .badAddress
  | some (_, win, key) =>
    match s.checkWindow c.arch c.tenant ⟨Xfer.header 1 0 0 0 0 0 0 0 2 (64 + n) win key (c.dstOff + off) 0, []⟩ with
    | .ok t => .ok t
    | .error (st, _) => .error st

/-- What lands in scratchpads of a stage that has checkpoints is kept until its next one, with the count it made (R488). -/
def keepPiece (s : State) (t : Target) (bs : List Nat) : State :=
  match t with
  | .scratch ps a => ps.foldl (fun (s : State) p =>
      match (s.holm p).inv with
      | none => s
      | some i => s.modWork i.work fun w =>
        match w.stages[i.stage]? with
        | some st => if st.ckpts.isEmpty then w else { w with keep := w.keep ++ [(i.lg, a, bs, 1)] }
        | none => w) s
  | _ => s

/-- Bytes written into this rank's output; a landing in scratchpads is counted and kept (R45, R407, R488). -/
def putOut (s : State) (c : Coll) (off : Nat) (bs : List Nat) : Except Status State :=
  match s.outTarget c off bs.length with
  | .error e => .error e
  | .ok t => match s.land t bs with
    | .error e => .error e
    | .ok s1 => .ok ((s1.countArrival t).keepPiece t bs)

/-- Bytes of this rank's output. -/
def getOut (s : State) (c : Coll) (off n : Nat) : Except Status (List Nat) :=
  match s.outTarget c off n with
  | .error e => .error e
  | .ok t => s.fetch t n

/-- The bytes of a piece to be sent. -/
def shipBytes (s : State) (c : Coll) : ShipFrom → Except Status (List Nat)
  | .part j off len => s.readPart c j off len
  | .own off len => s.getOut c off len
  | .bytes bs => .ok bs
  | .rows es => es.foldl (fun acc e => match acc with
      | .error x => .error x
      | .ok bs => match s.readPart c 0 (e * c.block) c.block with
        | .error x => .error x
        | .ok b => .ok (bs ++ b)) (.ok [])

/-! ### Routes (R408) -/

/-- Ports that lead straight to a member of an archipelago. -/
def directPorts (s : State) (a : Arch) (idx : Nat) : List Nat :=
  match a.members.get? idx with
  | none => []
  | some (ser, _, _) => (List.range 32).filter fun i => ((s.port i).peer.map (·.serial)) == some ser

/-- Shorter direction on an axis of length 4, positive on a tie: none, or whether it is positive. -/
def axisDir (a b : Nat) : Option Bool :=
  let d := (b + 4 - a % 4) % 4
  if d = 0 then none else some (decide (d ≤ 2))

/-- Coordinates of a member: charting tells those of this module and of its neighbours only; the rest is what the members'
management endpoints have exchanged, which this model leaves open. -/
def coordOf (a idx axis : Nat) : Nat := Config.freeNat .choice (1024 * a + idx) axis % 4

/-- Ports of the first hop toward a member: straight where it is charted; else in dimension order inside the rack, and by the
relay table between racks. -/
def hopPorts (s : State) (arch : Nat) (a : Arch) (idx : Nat) : List Nat :=
  let direct := s.directPorts a idx
  if !direct.isEmpty then direct
  else
    let rack := ((a.members.get? idx).map fun (_, _, r) => r).getD 0
    if rack ≠ s.net.rackId then ((pickOne idx (s.upPorts arch [30, 31])).map fun i => [i]).getD []
    else
      let c := s.net.claim
      let dirs := [axisDir c.x (coordOf arch idx 0), axisDir c.y (coordOf arch idx 1), axisDir c.z (coordOf arch idx 2)]
      match dirs.zipIdx.find? fun (d, _) => d.isSome with
      | some (some pos, k) => (List.range 5).map fun i => 10 * k + (if pos then 0 else 5) + i
      | _ => []

/-- The member that a port leads to. -/
def memberAt (s : State) (a : Arch) (i : Nat) : Option Nat :=
  match (s.port i).peer with
  | none => none
  | some p => (a.members.find? fun (_, ser, _, _) => ser == p.serial).map (·.1)

-- DESIGN CHOICE, safe: log 84.
/-- The transit window of a member: firmware keeps its handle and key, and the spec gives no way to know them (R408). -/
def transitOf (arch idx : Nat) : Nat × Nat :=
  (Config.freeNat .choice (1024 * arch + idx) 3 % 2 ^ 32, Config.freeNat .choice (1024 * arch + idx) 4 % 2 ^ 64)

/-- A piece on its next hop (R407, R408). -/
def sendPieceOn (s : State) (arch : Nat) (p : Piece) (owner : XOwner) : Except Status State :=
  match s.net.archs.get? arch with
  | none => .error .noPermission
  | some a =>
    let ports := s.hopPorts arch a p.dstIdx
    let next := (ports.filterMap fun i => s.memberAt a i).head?
    match next with
    | none => .error .linkLost
    | some m =>
      let (win, key, off) := if m = p.dstIdx then (p.win, p.key, p.off / 32 * 32) else
        let (w, k) := transitOf arch m
        (w, k, 0)
      let pad := (32 - p.data.length % 32) % 32
      match s.writeXfer arch m win key off 2 (toBytes p.hdr 64 ++ p.data ++ List.replicate pad 0) with
      | none => .error .peerGone
      | some (x, s1) => s1.sendXfer arch 3 ports 0 x owner

/-- The header of a piece (R407). -/
def pieceHdr (c : Coll) (kind part d idx num bytes win key off : Nat) : Nat :=
  c.id + 2 ^ 32 * kind + 2 ^ 36 * c.op + 2 ^ 40 * (part % 4096) + 2 ^ 52 * c.rank + 2 ^ 64 * d + 2 ^ 74 * idx
    + 2 ^ 96 * (num % 2 ^ 32) + 2 ^ 128 * (bytes % 8192) + 2 ^ 160 * win + 2 ^ 192 * key + 2 ^ 256 * (off % 2 ^ 48)

/-! ### Failure (R421) -/

/-- The descriptor that an own rank's entry stands for. -/
def abortAll (s : State) (c : Coll) (rank : Nat) (st : Status) : State :=
  (List.range c.n).foldl (fun (s : State) d =>
    if d = c.rank then s
    else match s.peerOf c d, s.net.archs.get? c.arch with
      | some (idx, _, _), some a =>
        s.sendAbort c.arch idx 3 (s.hopPorts c.arch a idx) (abortBody 2 st.code rank c.id c.tide)
      | _, _ => s) s

/-- The first failure on the exchange with a rank is recorded (R419, R420). -/
def recordFail (s : State) (i rank : Nat) (st : Status) : State :=
  s.modColl i fun c => c.modEntry rank fun e => if e.status.isDone then { e with status := st } else e

/-- A rank meets a failure toward another: recorded, and an ABORT goes to every rank once (R421). -/
def collFail (s : State) (i rank : Nat) (st : Status) : State :=
  match s.coll? i with
  | none => s
  | some c =>
    if !c.active ∨ c.done ∨ c.failed rank then s
    else (s.recordFail i rank st).abortAll c rank st

/-- One piece sent to a rank. -/
def sendShip (s : State) (i : Nat) (c : Coll) (d : Nat) (x : Ship) (bs : List Nat) : State :=
  match s.peerOf c d with
  | none => s.collFail i d .badAddress
  | some (idx, win, key) =>
    match s.sendPieceOn c.arch ⟨pieceHdr c x.kind x.part d idx x.piece bs.length win key x.off, bs, []⟩ (.piece i d) with
    | .error st => s.collFail i d st
    | .ok s1 => s1.modColl i fun c => { c with outstanding := c.outstanding + 1 }

/-- Credits given or returned to a source (R416). -/
def giveCredits (s : State) (i d n : Nat) : State :=
  match s.coll? i with
  | none => s
  | some c => if d = c.rank ∨ n = 0 then s else s.sendShip i c d ⟨4, 0, n, 0, .bytes [], false⟩ []

/-- Pieces for a rank leave while there are credits for them. -/
def pumpTo (i d : Nat) : Nat → State → State
  | 0, s => s
  | f + 1, s =>
    match s.coll? i with
    | none => s
    | some c =>
      let at_ := c.sentTo.getD d 0
      match (c.ships (s.streams c) (s.routeOf c) d)[at_]? with
      | none => s
      | some x =>
        if c.failed d ∨ (c.anyFailed ∧ x.credit) ∨ (x.credit ∧ c.credits.getD d 0 = 0) then s
        else
          let s1 := s.modColl i fun c => { c with
            sentTo := c.sentTo.set d (at_ + 1), credits := if x.credit then c.credits.set d (c.credits.getD d 0 - 1) else c.credits }
          match s.shipBytes c x.what with
          | .error st => s1.collFail i d st
          | .ok bs => pumpTo i d f (s1.sendShip i c d x bs)

/-- Everything that can be sent is sent, rank by rank. -/
def pumpColl (s : State) (i : Nat) : State :=
  match s.coll? i with
  | none => s
  | some c =>
    if !c.active ∨ c.done then s
    else (List.range c.n).foldl (fun (s : State) d =>
      if d = c.rank then s else pumpTo i d ((c.ships (s.streams c) (s.routeOf c) d).length + 1) s) s

/-! ### The own share -/

/-- Rows of an own ROUTED or INDEXED list, or a block, written into the own output; counted as landed (R406, R419). -/
def landOwn (s : State) (i : Nat) (off : Nat) (bs : Except Status (List Nat)) (count : Nat) : State :=
  match s.coll? i with
  | none => s
  | some c =>
    match bs with
    | .error st => s.collFail i c.rank st
    | .ok b => match s.putOut c off b with
      | .error st => s.collFail i c.rank st
      | .ok s1 => s1.modColl i fun c => c.modEntry c.rank fun e => { e with landed := e.landed + count }

/-- One word of the provenance (R414). -/
def putProv (s : State) (i at_ v : Nat) : State :=
  match s.coll? i with
  | none => s
  | some c => match s.memWrite c.tenant (c.prov + 4 * at_) (toBytes v 4) with
    | .ok s1 => s1
    | .error st => s.collFail i c.rank st

/-- Rows landed by a ROUTED piece: bytes and provenance, from a source with its entry indices (R414). -/
def landRows (s : State) (i src off : Nat) (bs : Except Status (List Nat)) (es : List Nat) : State :=
  match s.coll? i with
  | none => s
  | some c =>
    match bs with
    | .error st => s.collFail i src st
    | .ok b => match s.putOut c off b with
      | .error st => s.collFail i src st
      | .ok s1 =>
        let first := off / max 1 c.block
        (es.zipIdx.foldl (fun (s : State) (e, k) => s.putProv i (first + k) (src + 2 ^ 16 * (e % 2 ^ 16))) s1).modColl i
          fun c => c.modEntry src fun e => { e with landed := e.landed + es.length }

/-- The blocks that this rank moves to itself. -/
def ownCopies (s : State) (i : Nat) : State :=
  match s.coll? i with
  | none => s
  | some c =>
    let copy (s : State) (src dst : Nat) : State :=
      (Coll.cut c.block).foldl (fun (s : State) (o, l) => s.landOwn i (dst + o) (s.readPart c 0 (src + o) l) 1) s
    match c.op with
    | 0 => if c.rank = c.root then copy s 0 0 else s
    | 1 => if s.streams c then s else copy s 0 (c.rank * c.block)
    | 4 => match c.a2a with
      | 0 => copy s (c.rank * c.block) (c.rank * c.block)
      | 2 => ((s.routeOf c).zipIdx.filter fun (e, _) => e != 0xFFFFFFFF && e % 1024 == c.rank).foldl (fun (s : State) (e, k) =>
          let dst := e / 1024 * c.block
          match s.coll? i with
          | none => s
          | some c1 =>
            if c1.rows.has dst then s.collFail i c.rank .badCommand
            else (s.landOwn i dst (s.readPart c 0 (k * c.block) c.block) ((c.block + 4095) / 4096)).modColl i
              fun c => { c with rows := Ranges.add dst dst c.rows }) s
      | _ => s
    | _ => s

/-! ### Reductions (R410, R416, R418) -/

/-- The own parts of a piece of this rank's block: part index, offset and bytes. -/
def ownParts (s : State) (c : Coll) (piece : Nat) : Except Status (List (Nat × List Nat)) :=
  if s.streams c then
    match c.emitted.find? fun (k, e, _) => k == piece && decide (c.elems * c.rank ≤ e ∧ e < c.elems * (c.rank + 1)) with
    | some (_, _, bs) => .ok [(c.part0, bs)]
    | none => .ok []
  else
    let from_ := match c.op with | 2 => c.rank * c.block | 3 => c.inBytes (c.seg c.rank).1 | _ => 0
    let n := min 4096 (c.ownBytes - 4096 * piece)
    (List.range c.parts).foldl (fun acc j => match acc with
      | .error x => .error x
      | .ok l => match s.readPart c j (from_ + 4096 * piece) n with
        | .error x => .error x
        | .ok b => .ok (l ++ [(c.part0 + j, b)])) (.ok [])

/-- Every part of a piece has been consumed or is at hand: its bytes are combined and written, in the order of R410. -/
def combinePiece (s : State) (i piece : Nat) : State :=
  match s.coll? i with
  | none => s
  | some c =>
    let got := c.consumed.getD piece []
    match s.ownParts c piece with
    | .error st => s.collFail i c.rank st
    | .ok mine =>
      if c.finished.contains piece ∨ got.length ≠ (c.n - 1) * c.parts ∨ mine.length ≠ c.parts then s
      else
        let all := sortBy (fun (a b : Nat × List Nat) => decide (a.1 < b.1)) (got.map (fun (p, _, b) => (p, b)) ++ mine)
        let off := match got with | (_, o, _) :: _ => o | [] => c.ownAt + c.outAt (4096 * piece)
        if !decide (all.map (·.1)).Nodup then s.collFail i c.rank .badCommand
        else
          let s1 := s.modColl i fun c => { c.modEntry c.rank (fun e => { e with landed := e.landed + c.parts }) with
            finished := piece :: c.finished }
          if c.op = 6 then
            s1.modColl i fun c => { c with consumed := c.consumed.set piece (all.map fun (p, b) => (p, 0, b)) }
          else
            let out := reduceBytes c.tree c.red c.inFmt c.outFmt c.outSat all
            match s1.putOut c off out with
            | .error st => s1.collFail i c.rank st
            | .ok s2 => s2.modColl i fun c => { c with
                reduced := c.reduced + out.length * 8 / c.outFmt.width, consumed := c.consumed.del piece }

/-- The rows of an SMERGE, once every piece of every part is at hand (R412). -/
def mergeAll (s : State) (i : Nat) : State :=
  match s.coll? i with
  | none => s
  | some c =>
    let pieces := (List.range ((c.ownBytes + 4095) / 4096))
    if c.op ≠ 6 ∨ c.rank ≠ c.root ∨ c.reduced = c.elems ∨ !(pieces.all c.finished.contains) then s
    else
      let ids := (c.consumed.getD 0 []).map (·.1)
      let parts := ids.map fun id => (id, pieces.flatMap fun k =>
        (((c.consumed.getD k []).find? fun (p, _, _) => p == id).map fun (_, _, b) => b).getD [])
      ((List.range c.elems).foldl (fun (s : State) r =>
        let row := mergeOut c.tree c.row r c.outFmt c.outSat parts
        match s.putOut c (r * mergeRowOut c.row c.outFmt) row with
        | .ok s1 => s1
        | .error st => s.collFail i c.rank st) s).modColl i fun c => { c with reduced := c.elems, consumed := [] }

/-- Pieces whose parts are all local, as with one rank. -/
def combineLocal (s : State) (i : Nat) : State :=
  match s.coll? i with
  | none => s
  | some c =>
    if !c.reduces ∨ !c.collects then s
    else
      let ks := if s.streams c then c.emitted.map (·.1) else List.range ((c.ownBytes + 4095) / 4096)
      ((ks.filter fun k => !c.finished.contains k).foldl (fun (s : State) k => s.combinePiece i k) s).mergeAll i

/-! ### ROUTED (R414) -/

/-- Counts of every rank are in: grants, in ascending source rank, then the provenance of slots that no row fills. -/
def grantRows (s : State) (i : Nat) : State :=
  match s.coll? i with
  | none => s
  | some c =>
    if !c.routed ∨ c.granted ∨ !((List.range c.n).all fun d => (c.counts.get? d).isSome) then s
    else
      let step (acc : List Nat × List (List (Nat × Nat))) (d : Nat) : List Nat × List (List (Nat × Nat)) :=
        let cs := c.counts.getD d []
        let row := (List.range 64).map fun b => let u := acc.1.getD b 0; (u, min (cs.getD b 0) (c.cap - u))
        ((List.range 64).map fun b => acc.1.getD b 0 + (row.getD b (0, 0)).2, acc.2 ++ [row])
      let (used, gs) := (List.range c.n).foldl step (List.replicate 64 0, [])
      let s1 := s.modColl i fun c => { c with granted := true }
      let s2 := (List.range 64).foldl (fun (s : State) b =>
        (List.range (c.cap - used.getD b 0)).foldl (fun (s : State) k => s.putProv i (b * c.cap + used.getD b 0 + k) 0xFFFFFFFF) s) s1
      gs.zipIdx.foldl (fun (s : State) (g, d) =>
        if d = c.rank then s.modColl i fun c => { c with grants := c.grants.set d g }
        else s.sendShip i c d ⟨3, 0, 0, 0, .bytes [], false⟩ (g.flatMap fun (f, a) => toBytes f 2 ++ toBytes a 2)) s2

/-- A source has its grant from a rank: the rows beyond it are dropped (R414). -/
def takeGrant (s : State) (i d : Nat) (g : List (Nat × Nat)) : State :=
  match s.coll? i with
  | none => s
  | some c =>
    let mine := (s.routeOf c).filter fun e => e != 0xFFFFFFFF && e % 1024 == d
    let drop := mine.length - (g.map (·.2)).sum
    s.modColl i fun c => { c.modEntry d (fun e => { e with dropped := min (e.dropped + drop) (2 ^ 24 - 1) }) with
      grants := c.grants.set d g, dropped := c.dropped + drop }

/-- The own rows of a ROUTED list, once the own grant is known. -/
def ownRows (s : State) (i : Nat) : State :=
  match s.coll? i with
  | none => s
  | some c =>
    match c.grants.get? c.rank with
    | none => s
    | some g =>
      if !c.routed ∨ c.sentTo.getD c.rank 0 ≠ 0 then s
      else ((c.grantedRows (s.routeOf c) c.rank g).foldl (fun (s : State) (es, off) =>
        s.landRows i c.rank off (s.shipBytes c (.rows es)) es) ((s.takeGrant i c.rank g))).modColl i
          fun c => { c with sentTo := c.sentTo.set c.rank 1 }

/-! ### Activation and completion (R402, R416, R419, R420) -/

/-- Bytes of the source of a collective, per part (R406). -/
def collSrcBytes (c : Coll) : Nat :=
  match c.op with
  | 0 => if c.rank = c.root then c.block else 0
  | 2 => c.n * c.block
  | 4 => if c.a2a = 0 then c.n * c.block else c.elems * c.block
  | _ => c.block

/-- The route list obeys R413. -/
def routeOk (s : State) (c : Coll) : Bool :=
  (s.routeOf c).all fun e => e == 0xFFFFFFFF || (decide (e % 1024 < c.n) && (!c.routed || e / 2 ^ 16 == 0))

/-- A collective becomes active on this rank: credits are granted, own shares move, and pieces leave. -/
def activateColl (s : State) (i : Nat) : State :=
  match s.coll? i with
  | none => s
  | some c =>
    if c.active then s
    else
      let s0 := if c.srcSpad then s else s.touch c.work c.tenant ((List.range c.parts).map fun j => (c.src + j * c.srcStride, collSrcBytes c))
      let s1 := s0.modColl i fun c => { c with active := true, entries := List.replicate c.n ⟨.done, 0, 0⟩ }
      if !s.routeOk c then s1.collFail i c.rank .badCommand
      else
        let s2 := if c.collects then (List.range c.n).foldl (fun (s : State) d => s.giveCredits i d c.slots) s1 else s1
        let mine := (List.range 64).map fun b =>
          ((s.routeOf c).filter fun e => e != 0xFFFFFFFF && e % 1024 == c.rank && e / 1024 % 64 == b).length
        let s3 := if c.routed then (s2.modColl i fun c => { c with counts := c.counts.set c.rank mine }).grantRows i else s2
        ((((s3.ownCopies i).ownRows i).combineLocal i).pumpColl i)

/-- The exchange with a rank is through on this side. -/
def rankThrough (s : State) (c : Coll) (d : Nat) : Bool :=
  c.failed d || c.failed c.rank ||
    (let sent := d == c.rank || (c.sentTo.getD d 0 == (c.ships (s.streams c) (s.routeOf c) d).length && c.shipsWhole (s.streams c) d)
     let got := match c.op with
       | 3 => d == c.rank || c.gathered.getD d 0 == (c.outBytes (c.seg d).2 + 4095) / 4096
       | 4 => if c.a2a = 1 then c.granted && (c.entry d).landed == (((c.counts.getD d []).zipIdx).foldl (fun (acc : Nat) (k, b) =>
             let before := ((List.range d).map fun e => (c.counts.getD e []).getD b 0).sum
             acc + min k (c.cap - before)) 0)
           else c.a2a == 2 || (c.entry d).landed == c.expects d
       | 1 => s.streams c || (c.entry d).landed == c.expects d
       | 0 => (c.entry d).landed == c.expects d
       | 5 => (c.entry d).landed == c.expects d
       | _ => true
     (c.anyFailed && (c.reduces || c.routed)) || (sent && got))

/-- Everything of the collective has ended on this rank: its part of a streamed block included. -/
def collThrough (s : State) (c : Coll) : Bool :=
  c.active && !c.done && c.outstanding == 0 && (List.range c.n).all (s.rankThrough c)
    && (c.anyFailed || !c.reduces || c.reduced == c.ownElems)
    && (c.anyFailed || !(s.streams c && c.op == 1)
        || (List.range c.n).all fun d => decide ((c.emitted.length : Nat) ≤ (c.entry d).landed))

/-- COL_ST_STATUS (R420). -/
def collStatus (c : Coll) : Status :=
  match c.entries.find? fun e => !e.status.isDone with
  | some e => e.status
  | none =>
    if c.dropped ≠ 0 then .overflowDropped
    else if c.entries.any fun e => e.status == .doneDegraded then .doneDegraded else .done

/-- The bytes of the status record (R419). -/
def collRecord (c : Coll) (tidal : Bool) : List Nat :=
  let bad := c.entries.countP fun e => !e.status.isDone
  let first := if bad = 0 then 0 else c.entries.findIdx fun e => !e.status.isDone
  toBytes (c.id + 2 ^ 32 * (collStatus c).code + 2 ^ 40 * first + 2 ^ 50 * (if bad = 0 then 0 else 1) + 2 ^ 64 * (c.dropped % 2 ^ 32)
    + 2 ^ 96 * bad + (if tidal then 2 ^ 128 * (c.tide % 2 ^ 64) else 0)) 64
    ++ c.entries.flatMap fun e => toBytes (e.status.code + 2 ^ 8 * (e.dropped % 2 ^ 24) + 2 ^ 32 * (e.landed % 2 ^ 24)) 8

/-- Bytes of the own output become undefined (R11, R421). -/
def spoilOut (s : State) (i off n : Nat) : State :=
  match s.coll? i with
  | none => s
  | some c =>
    let (tag, s1) := s.takeFree 1
    (Coll.cut n).foldl (fun (s : State) (o, l) =>
      match s.outTarget c (off + o) l with
      | .ok t => match s.land t ((List.range l).map fun k => Config.freeNat .undefByte tag (o + k) % 256) with
        | .ok s2 => s2
        | .error _ => s
      | .error _ => s) s1

/-- What a failure leaves undefined in this rank's output (R421). -/
def spoilFailed (s : State) (i : Nat) : State :=
  match s.coll? i with
  | none => s
  | some c =>
    if !c.anyFailed then s
    else if c.reduces then s.spoilOut i 0 c.outSize
    else if c.routed then
      let s1 := s.spoilOut i 0 c.outSize
      let (tag, s2) := s1.takeFree 1
      match s2.memWrite c.tenant c.prov ((List.range (256 * c.cap)).map fun k => Config.freeNat .undefByte tag k % 256) with
      | .ok s3 => s3
      | .error _ => s2
    else (List.range c.n).foldl (fun (s : State) d =>
      if c.failed d then match c.blockOf d with | some (o, l) => s.spoilOut i o l | none => s else s) s

/-- The collective completes: ranges left undefined, the status record, and its part in the status of its work (R419, R420). -/
def completeColl (s : State) (i : Nat) : State :=
  match s.coll? i with
  | none => s
  | some c =>
    let s1 := s.spoilFailed i
    let tidal := ((s.work? c.work).map fun w => w.kind == .plan).getD false
    let s2 := match s1.memWrite c.tenant c.statusAt (collRecord c tidal) with
      | .ok x => x
      | .error _ => s1
    let st := collStatus c
    let s3 := s2.modWork c.work fun w =>
      if st = .doneDegraded then { w with degraded := true }
      else if st = .done ∨ (st = .overflowDropped ∧ !c.dropFail) then w
      else if w.status.isDone then { w with status := st } else w
    s3.modColl i fun c => { c with done := true, held := [], consumed := [] }

end State

end Sys2Proof.Machine
end

