-- ==== Sys2Proof/Machine/Post.lean ====
section
/-! DEFINITION. Queues, the posting of completions and TIDE completions, and the error state of a queue (R424 to R429, R435,
R436, R576). -/

namespace Sys2Proof.Machine

/-- The lateness field of a TIDE completion (R435). -/
def lateBits (ns : Nat) : Nat := if ns < 32768 then ns else 2 ^ 15 + min (ns / 1000) 32767

/-- A completion entry before its phase bit (R435). -/
structure Cpl where
  status : Status
  tide : Bool
  fault : Bool
  mid : Nat
  tag : Nat
  result : Nat
  energy : Nat
  deriving DecidableEq, Repr

def Cpl.bits (c : Cpl) (phase : Bool) : Nat :=
  c.status.code + 2 ^ 8 * phase.toNat + 2 ^ 9 * c.tide.toNat + 2 ^ 11 * c.fault.toNat + 2 ^ 16 * (c.mid % 2 ^ 16)
    + 2 ^ 32 * (c.tag % 2 ^ 32) + 2 ^ 64 * (c.result % 2 ^ 128) + 2 ^ 192 * (c.energy % 2 ^ 64)

/-- Queue q of function fn. -/
def queKey (fn q : Nat) : Nat := 8 * fn + q

namespace Que

/-- Completion entries the host has released. -/
def free (q : Que) : Nat := q.size - (q.cplTail - q.cplHead)

/-- Entries kept for TIDE completions (R426). -/
def reserve (q : Que) : Nat := if 256 ≤ q.size then 64 else q.size / 4

end Que

namespace State

def que? (s : State) (fn q : Nat) : Option Que := s.isth.queues.get? (queKey fn q)

def setQue (s : State) (fn q : Nat) (x : Que) : State :=
  { s with isth := { s.isth with queues := s.isth.queues.set (queKey fn q) x } }

/-- Commands of a queue in progress: accepted, and their completion not yet posted. -/
def inProgress (s : State) (fn q : Nat) : Nat := (s.isth.cmds.filter fun c => c.fn == fn && c.q == q).length

/-- The queue enters ERROR; queue 0 records the status, the source and the value (R425, R563, R566). -/
def queueError (s : State) (fn q : Nat) (st : Status) (src value : Nat) : State :=
  match s.que? fn q with
  | none => s
  | some x =>
    let s1 := s.setQue fn q { x with err := true }
    let r := s1.isth.regs.getD fn .reset
    let s2 := if q ≠ 0 then s1 else
      { s1 with isth := { s1.isth with regs := s1.isth.regs.set fn { r with errStatus := st.code, errSrc := src, errValue := value } } }
    s2.notice fn 0x12 (q % 256 + 2 ^ 32 * (value % 2 ^ 32))

/-- A completion is written at the ring's tail and counted for interrupts; false where no entry is free or the host refuses
the write, which puts the queue into ERROR (R424, R425, R429). -/
def postCpl (s : State) (fn q : Nat) (c : Cpl) (counted : Bool) : State × Bool :=
  match s.que? fn q with
  | none => (s, false)
  | some x =>
    if x.free = 0 then (s, false)
    else
      match s.hostWrite (x.cplBase + 32 * (x.cplTail % x.size)) (toBytes (c.bits (phaseBit x.cplTail x.size)) 32) with
      | none => (s.queueError fn q .badAddress 2 (x.cplTail % x.size), false)
      | some s1 =>
        let n := if counted then x.unsignalled + 1 else x.unsignalled
        let fire := counted && (decide (x.c ≤ n) || x.t == 0)
        let s2 := s1.setQue fn q { x with cplTail := x.cplTail + 1, unsignalled := if fire then 0 else n }
        (if fire then s2.signal fn x.vector else s2, true)

/-! ### TIDE completions (R428) -/

def tideEntry (c : TideCpl) (tag : Nat) : Cpl :=
  { status := c.status, tide := true, fault := c.fault.isSome, mid := lateBits c.late, tag := tag
    result := match c.fault with | some f => f | none => c.tide % 2 ^ 64 + 2 ^ 64 * (c.merged % 2 ^ 16)
    energy := c.energy }

/-- A free entry that no command in progress needs, on a queue that is not in ERROR (R426, R428). -/
def tideRoom (s : State) (fn q : Nat) : Bool :=
  match s.que? fn q with
  | some x => !x.err && decide (s.inProgress fn q < x.free)
  | none => false

-- DEDUCED, unsafe: log 116.
/-- A completion joins the held ones: it merges with the last where both are done, else takes a new entry (R428). -/
def mergeHeld (held : List TideCpl) (c : TideCpl) : List TideCpl :=
  match held.getLast? with
  | some o =>
    if o.status.isDone ∧ c.status.isDone ∧ o.fault.isNone ∧ c.fault.isNone then
      held.dropLast ++ [{ o with
        status := if o.status = .doneDegraded ∨ c.status = .doneDegraded then .doneDegraded else .done
        energy := o.energy + c.energy, late := max o.late c.late, tide := c.tide, merged := min (o.merged + 1) 65535 }]
    else held ++ [c]
  | none => [c]

/-- A tide's completion is posted, merged or held; one that would need a 65th held entry stops the plan (R428). -/
def tideComplete (s : State) (w : Nat) (c : TideCpl) : State :=
  match s.work? w with
  | none => s
  | some x =>
    let hold (s : State) : State :=
      let l := mergeHeld x.held c
      let s1 := s.modWork w fun y => { y with held := l }
      if l.length ≤ 64 ∨ 64 < x.held.length then s1
      else (s1.modWork w fun y => { y with stopping := true }).noticeTenant x.tenant 0x13 (x.handle % 2 ^ 32 + 2 ^ 64 * (c.tide % 2 ^ 64))
    if x.held.isEmpty ∧ s.tideRoom x.fn x.q then
      match s.postCpl x.fn x.q (tideEntry c x.tag) true with
      | (s1, true) => s1
      | (s1, false) => hold s1
    else hold s

end State

/-- Space frees: the oldest held TIDE completion of a plan is posted (R428). -/
def execHeldCompletionPost (work : Nat) (s : State) : Out :=
  .next (match s.work? work with
    | none => s
    | some x =>
      match x.held with
      | [] => s
      | c :: rest =>
        if s.tideRoom x.fn x.q then
          match s.postCpl x.fn x.q (State.tideEntry c x.tag) true with
          | (s1, true) => s1.modWork work fun y => { y with held := rest }
          | (s1, false) => s1
        else s)

/-- The oldest unsignalled completion has waited t µs: the vector's message is sent (R429). -/
def execInterruptCoalesceTimer (fn q : Nat) (s : State) : Out :=
  .next (match s.que? fn q with
    | none => s
    | some x => if x.unsignalled = 0 then s else (s.setQue fn q { x with unsignalled := 0 }).signal fn x.vector)

end Sys2Proof.Machine
end

