-- ==== Sys2Proof/Machine/Control.lean ====
section
/-! DEFINITION. Instructions of the issue unit and messages: NOP, HALT, TIDE, BR, LOOP, BAR, RNG, MSG (R225 to R228, R300,
R319 to R323), and the events that retire entries and make arrivals take effect (R44, R226, R320). -/

namespace Sys2Proof.Machine

def anyForm (_ : Nat) : Bool := true

/-- NOP (R300). -/
def execNop (p : Nat) (s : State) : Out := issueRow p 0x00 anyForm s fun h _ s => s.setHolm p h.step1

/-- TIDE or HALT has issued: no later instruction issues; the end waits for R232. -/
def Holm.finish (h : Holm) (tidal : Bool) (opc : Nat) : Holm :=
  if (h.inv.map (·.tidal)).getD false = tidal then { h with inv := h.inv.map fun i => { i with ending := true } }
  else h.precise h.pc opc .badCommand 0

/-- HALT (R323). -/
def execHalt (p : Nat) (s : State) : Out := issueRow p 0x01 anyForm s fun h _ s => s.setHolm p (h.finish false 0x01)

/-- TIDE (R323). -/
def execTide (p : Nat) (s : State) : Out := issueRow p 0x02 anyForm s fun h _ s => s.setHolm p (h.finish true 0x02)

/-- The condition of a BR (R322). -/
def brTaken (cond v imm : Nat) : Bool :=
  match cond with
  | 0 => true
  | 1 => v == imm
  | 2 => v != imm
  | 3 => (BitVec.ofNat 32 v).slt (BitVec.ofNat 32 imm)
  | _ => !(BitVec.ofNat 32 v).slt (BitVec.ofNat 32 imm)

/-- BR (R322). -/
def execBr (p : Nat) (s : State) : Out :=
  issueRow p 0x03 anyForm s fun h w s =>
    checked p 0x03 h s (lookBr (s.lookCtx h) w) fun b =>
      s.setHolm p (if brTaken b.cond (h.selVal b.sel) b.imm then h.goTo b.target else h.step1)

def loopForm (f w : Nat) : Bool := fld w 8 2 == f

/-- One LOOP (R322). -/
def loopStep (h : Holm) (l : LoopReq) : Holm :=
  let g := (h.g.getD l.dst 0).toNat
  match l.form with
  | 0 => (h.setG l.dst (eff l.imm (h.selVal l.sel))).step1
  | 1 => (h.setG l.dst (g + h.selVal l.sel + l.imm)).step1
  | 2 => (h.setG l.dst (h.selVal l.sel * l.imm)).step1
  | _ => if 1 < g then (h.setG l.dst (g - 1)).goTo l.target else (h.setG l.dst 0).step1

/-- LOOP SET (R322). -/
def execLoopSet (p : Nat) (s : State) : Out :=
  issueRow p 0x04 (loopForm 0) s fun h w s => checked p 0x04 h s (lookLoop w h.pc) fun l => s.setHolm p (loopStep h l)

/-- LOOP ADD (R322). -/
def execLoopAdd (p : Nat) (s : State) : Out :=
  issueRow p 0x04 (loopForm 1) s fun h w s => checked p 0x04 h s (lookLoop w h.pc) fun l => s.setHolm p (loopStep h l)

/-- LOOP MUL (R322). -/
def execLoopMul (p : Nat) (s : State) : Out :=
  issueRow p 0x04 (loopForm 2) s fun h w s => checked p 0x04 h s (lookLoop w h.pc) fun l => s.setHolm p (loopStep h l)

/-- LOOP BACK (R322). -/
def execLoopBack (p : Nat) (s : State) : Out :=
  issueRow p 0x04 (loopForm 3) s fun h w s => checked p 0x04 h s (lookLoop w h.pc) fun l => s.setHolm p (loopStep h l)

/-! ### Barriers -/

namespace Holm

/-- An ARRIVE is issued: it waits for the WRITE entries created before it and for the tiles posted before it (R226). -/
def arrive (h : Holm) (b omask : Nat) : Holm :=
  { h with arrivals := h.arrivals ++ [
      { bar := b
        writes := (h.scoreboard.filter fun e => e.kind == .write).map (·.id)
        drains := ((List.range 4).filter fun i => bitAt omask i).map fun i => (4 + i, (h.chan (4 + i)).posted) }] }

/-- A barrier the holm holds that forbids a WAIT on b (R227). -/
def rankBlock (h : Holm) (rank : Nat → Nat) (b : Nat) : Option Nat :=
  if h.program.noRank then none else h.held.find? fun x => x != b && decide (rank b ≤ rank x)

/-- The barrier's phase, as the holm has learnt it, exceeds its wait phase (R226, R229). -/
def waitDone (h : Holm) (b : Nat) : Bool := h.waitPhase.getD b 0 < h.seenPhase.getD b 0

def pastWait (h : Holm) (b : Nat) : Holm :=
  { h.step1 with waitPhase := h.waitPhase.set b (h.waitPhase.getD b 0 + 1), headArrived := false }

end Holm

namespace State

/-- The rank of a barrier of a holm's unit of work. -/
def rankOf (s : State) (h : Holm) (b : Nat) : Nat :=
  match h.inv with
  | none => 0
  | some i => (((s.work? i.work).bind fun w => w.barriers.get? (barKey i.part b)).map (·.rank)).getD 0

/-- A free or ready barrier of a ring, on which no holm program may WAIT (R278). -/
def ringBar (s : State) (h : Holm) (b : Nat) : Bool :=
  match h.inv with
  | none => false
  | some i => s.net.rings.any fun ((_, r) : Nat × Ring) => r.work == i.work && r.part == i.part &&
      ((r.freeBar ≤ b && b < r.freeBar + r.slots) || (r.orig && r.readyBar == b))

/-- The WAIT part of a BAR at the head: the rank check, then the wait (R226, R227). -/
def barWait (s : State) (p : Nat) (h : Holm) (b : Nat) : State :=
  if s.ringBar h b then s.setHolm p (h.precise h.pc 0x08 .badCommand 0)
  else match h.rankBlock (s.rankOf h) b with
    | some x => s.setHolm p (h.precise h.pc 0x08 .badCommand (b + 2 ^ 8 * x))
    | none => s.setHolm p (if h.waitDone b then h.pastWait b else h)

end State

/-- BAR ARRIVE (R226, R319). -/
def execBarArrive (p : Nat) (s : State) : Out :=
  issueRow p 0x08 (loopForm 0) s fun h w s =>
    checked p 0x08 h s (lookBar (s.lookCtx h) h.look w) fun r => s.setHolm p (h.arrive r.bar r.omask).step1

/-- BAR WAIT (R226, R227, R319). -/
def execBarWait (p : Nat) (s : State) : Out :=
  issueRow p 0x08 (loopForm 1) s fun h w s =>
    checked p 0x08 h s (lookBar (s.lookCtx h) h.look w) fun r => s.barWait p h r.bar

/-- BAR ARRIVE_WAIT: an ARRIVE, then a WAIT on the same barrier (R226, R319). -/
def execBarArriveWait (p : Nat) (s : State) : Out :=
  issueRow p 0x08 (loopForm 2) s fun h w s =>
    checked p 0x08 h s (lookBar (s.lookCtx h) h.look w) fun r =>
      if h.headArrived then s.barWait p h r.bar
      else s.barWait p { h.arrive r.bar r.omask with headArrived := true } r.bar

/-- The first issued arrival at a barrier whose conditions hold (R226, R486). -/
def State.readyArrival (s : State) (p bar : Nat) (h : Holm) : Option Arrival :=
  h.arrivals.find? fun a => a.bar == bar
    && a.writes.all (fun i => h.scoreboard.all fun e => e.id != i)
    && a.drains.all (fun (c, n) => n ≤ (h.chan c).settled)
    && (match h.inv with
        | none => true
        | some i =>
          match s.work? i.work with
          | none => true
          | some w => (ckptStages w i.part bar).isEmpty || s.flt.complete.getD p 0 < s.flt.spilled.getD p 0)

/-- An issued arrival takes effect (R226, R486). -/
def execBarrierArrivalEffect (p bar : Nat) (s : State) : Out :=
  onHolm p s fun h s =>
    match h.inv, s.readyArrival p bar h with
    | some i, some a =>
      let h1 := { h with arrivals := h.arrivals.erase a, arrCount := h.arrCount.set bar (h.arrCount.getD bar 0 + 1) }
      (s.setHolm p h1).barArrive i.work i.part bar (some i.lg)
    | _, _ => s

/-! ### RNG and the retiring of entries -/

/-- The event of a DECLARED entry has occurred (R320). -/
def State.eventHolds (s : State) (h : Holm) : RetireEv → Bool
  | .tiles c n => n ≤ (h.chan c).count
  | .arrivals n => n ≤ h.arrivalCount
  | .phase b n =>
    match h.inv with
    | none => false
    | some i => (((s.work? i.work).bind fun w => w.barriers.get? (barKey i.part b)).map fun x => decide (n ≤ x.phase)).getD false
  | _ => false

/-- RNG (R45, R320). -/
def execRng (p : Nat) (s : State) : Out :=
  issueRow p 0x09 anyForm s fun h w s =>
    checked p 0x09 h s (lookRng (s.lookCtx h) h.look w) fun r =>
      let ev := match r.event with
        | 0 => RetireEv.tiles r.ch r.count
        | 1 => .arrivals r.count
        | _ => .phase r.bar r.count
      if !h.canIssue [] [] [(r.first, r.last)] then s
      else if s.eventHolds h ev then s.setHolm p h.step1
      else s.setHolm p (h.enter .declared [] ev [(r.first, r.last)]).2.step1

/-- The engine that owns an entry has come to it: no earlier instruction is left in any of its queues (R35). -/
def Holm.engineAt (h : Holm) (id : Nat) : Bool :=
  match h.inFlight.findIdx? fun f => f.entries.contains id with
  | none => false
  | some i =>
    match h.inFlight[i]? with
    | none => false
    | some f => (h.inFlight.take i).all fun g => g.queues.all fun q => !f.queues.contains q

/-- The WRITE entry of an emitting MMA waits for its last chunk to be read (R307). -/
def Holm.emitDone (h : Holm) (e : SbEntry) : Bool :=
  e.kind != .write || h.inFlight.all fun f => !f.entries.contains e.id || f.emits.isEmpty

/-- A scoreboard entry of an engine retires (R40, R44). -/
def execScoreboardRetire (p id : Nat) (s : State) : Out :=
  onHolm p s fun h s =>
    match h.scoreboard.find? fun e => e.id == id with
    | some e => if e.ev == .engine ∧ h.engineAt id ∧ h.emitDone e then s.setHolm p (h.retire [id]) else s
    | none => s

/-- A DECLARED entry retires when its count has reached the target (R44, R320). -/
def execDeclaredEntryRetire (p id : Nat) (s : State) : Out :=
  onHolm p s fun h s =>
    match h.scoreboard.find? fun e => e.id == id with
    | some e => if e.kind == .declared ∧ s.eventHolds h e.ev then s.setHolm p (h.retire [id]) else s
    | none => s

/-! ### Messages (R55, R321) -/

namespace State

/-- A request put on the network: the target's physical holm and epoch are taken from the current remap copy (R62); a
reference to a logical holm that nothing serves ends with STALE_ROLE (R60). -/
def request (s : State) (r : NetReq) : State :=
  let m := s.remap.get? r.tgtLg
  let live := (m.map (·.valid)).getD false
  let r1 := { r with tgtPhys := 68 * (r.tgtLg / 64) + (m.map (·.phys)).getD 0, epoch := (m.map (·.epoch)).getD 0
                     resp := if live then none else some .staleRole }
  { s with reqs := s.reqs.set s.nextReq r1, nextReq := s.nextReq + 1 }

/-- The logical holm at an index of the partition of a holm's invocation. -/
def peerLg? (s : State) (h : Holm) (idx : Nat) : Option Nat :=
  match h.inv with
  | none => none
  | some i => (s.ten.parts.get? i.part).bind fun q => q.holms[idx]?

end State

def msgForm (recv : Bool) (w : Nat) : Bool := bitAt w 8 == recv

/-- MSG SEND (R321). -/
def execMsgSend (p : Nat) (s : State) : Out :=
  issueRow p 0x0A (msgForm false) s fun h w s =>
    checked p 0x0A h s (lookMsg h.look w) fun r =>
      let size := (h.inv.map (·.size)).getD 0
      let hull := (r.buf / 8, r.buf / 8 + 1)
      if size ≤ r.tgt then s.setHolm p (h.precise h.pc 0x0A .noPermission 0)
      else if !h.canIssue [.msg] [hull] [] then s
      else if h.poisonedIn hull.1 hull.2 then
        s.setHolm p ((h.launch 0x0A [.msg] [hull] []).deferred h.pc 0x0A 0 .memoryError 0)
      else match s.peerLg? h r.tgt with
        | none => s.setHolm p (h.precise h.pc 0x0A .noPermission 0)
        | some lg =>
          (s.setHolm p { h.launch 0x0A [.msg] [hull] [] with msgSeq := h.msgSeq.set lg (h.msgSeq.getD lg 0 + 1) }).request
            { kind := .msg, src := p, ch := 0, pc := h.pc, tile := 0, tgtLg := lg, tgtPhys := 0, epoch := 0, addr := 0
              lines := 2, local_ := 0, data := h.bytes (4 * r.buf) 64, accepted := false, arrived := 0
              srcLg := (h.inv.map (·.lg)).getD 0, seq := h.msgSeq.getD lg 0, resp := none, held := false }

/-- MSG RECV: it issues only when the inbox holds an unclaimed message, and frees its entry (R321). -/
def execMsgRecv (p : Nat) (s : State) : Out :=
  issueRow p 0x0A (msgForm true) s fun h w s =>
    checked p 0x0A h s (lookMsg h.look w) fun r =>
      let hull := (r.buf / 8, r.buf / 8 + 1)
      match h.inbox with
      | [] => s
      | m :: rest =>
        if !h.canIssue [.msg] [] [hull] then s
        else s.setHolm p { (h.launch 0x0A [.msg] [] [hull]).putBytes (4 * r.buf) m with inbox := rest }

end Sys2Proof.Machine
end

