-- ==== Sys2Proof/Machine/Bobbin.lean ====
section
/-! DEFINITION. Bobbins: BOB and KVA, pricking instructions, tiles and credits, bobbin faults (R211 to R224, R317, R318). -/

namespace Sys2Proof.Machine

/-! ### Channels -/

namespace Chan

def ar_ (c : Chan) (i : Nat) : Nat := (c.ar.getD i 0).toNat
def setAr (c : Chan) (i v : Nat) : Chan := { c with ar := setAt c.ar i (BitVec.ofNat 48 v) }
def loop (c : Chan) (i : Nat) : Nat := (c.loops.getD i 0).toNat
def setLoop (c : Chan) (i v : Nat) : Chan := { c with loops := setAt c.loops i (BitVec.ofNat 32 v) }
def param (c : Chan) (i : Nat) : Nat := (c.params.getD (i % 4) 0).toNat

/-- Tiles that have begun and are not yet freed (R219). -/
def unfreed (c : Chan) : Nat := (c.tiles.filter fun t => !t.freed).length

/-- Every tile is freed. -/
def allFreed (c : Chan) : Bool := c.tiles.all (·.freed)

/-- The channel is free to be taken by a START or a KVA (R221, R318). -/
def idle (c : Chan) : Bool := !c.active && c.kva.isNone && c.allFreed

/-- A tile begins (R219): it takes the credits consumed since the last one. -/
def begin_ (c : Chan) : Chan :=
  { c with tiles := c.tiles ++ [⟨c.begun, false, 0, false, false, false, false, c.taken, c.takenDue⟩], begun := c.begun + 1
           tileOpen := true, taken := 0, takenDue := [] }

def modLast (c : Chan) (f : Tile → Tile) : Chan := { c with tiles := modAt c.tiles (c.tiles.length - 1) f }

def modTile (c : Chan) (n : Nat) (f : Tile → Tile) : Chan :=
  { c with tiles := c.tiles.map fun t => if t.num == n then f t else t }

/-- The open tile closes. -/
def close (c : Chan) : Chan := if c.tileOpen then { c.modLast fun t => { t with closed := true } with tileOpen := false } else c

/-- Freed tiles at the front are forgotten. -/
def trim (c : Chan) : Chan := { c with tiles := c.tiles.dropWhile (·.freed) }

end Chan

namespace Holm

def modChan (h : Holm) (c : Nat) (f : Chan → Chan) : Holm := { h with chans := modAt h.chans c f }

/-- Entries owed when an out-channel has read its closed tiles (R222). -/
def readTiles (h : Holm) (c : Nat) : Holm :=
  let x := h.chan c
  let due := (x.tiles.filter (·.closed)).flatMap (·.due)
  (h.modChan c fun x => { x with tiles := x.tiles.map fun t => if t.closed then { t with due := [] } else t }).retire due

/-- The operation at the front of the bobbin control queue is done, where it can be (R221 to R223). -/
def bobStep (h : Holm) : Option Holm :=
  match h.bobq with
  | [] => none
  | op :: rest =>
    let h0 := { h with bobq := rest }
    match op with
    | .start ch slot depth param entry pc =>
      let c := h.chan ch
      if !c.idle then none
      else some (h0.setChan ch { Chan.reset with
        active := true, slot := slot, depth := depth, startPc := pc, paramAddr := param, paramEntry := some entry
        posted := c.posted, settled := c.settled, exported := c.exported })
    | .stop ch =>
      some (if !(h.chan ch).active then h0 else h0.modChan ch fun c =>
        let c1 := if c.tileOpen then { c.modLast fun t => { t with closed := true, dropped := true } with tileOpen := false } else c
        { c1 with stopping := true })
    | .post ch n entry pc =>
      let c := h.chan ch
      if !c.active ∨ c.stopping ∨ c.ended then
        some ((h0.modChan ch fun c => { c with settled := c.settled + n }).retire entry.toList)
      else if 255 < c.credits + n then some (h0.deferred pc 0x30 ch .limit 0)
      else some (h0.modChan ch fun c => { c with credits := c.credits + n, posts := c.posts ++ [⟨n, entry⟩] })
    | .release ch n pc =>
      let ready := ((h.chan ch).tiles.filter fun t => t.counted && !t.freed).length
      if ready < n then some (h0.deferred pc 0x30 ch .limit 0)
      else some (h0.modChan ch fun c => (freeFirst n c).trim)
    | .kva ch job => if (h.chan ch).idle then some (h0.modChan ch fun c => { c with kva := some job }) else none
where
  freeFirst (n : Nat) (c : Chan) : Chan :=
    let ids := ((c.tiles.filter fun t => t.counted && !t.freed).take n).map (·.num)
    { c with tiles := c.tiles.map fun t => if ids.contains t.num then { t with freed := true } else t }

/-- The bobbin control queue runs in order until its front must wait (R34, R35). -/
def bobPump : Nat → Holm → Holm
  | 0, h => h
  | f + 1, h =>
    if h.fault.isSome then h
    else match h.bobStep with
      | none => h
      | some h1 => bobPump f h1

def pump (h : Holm) : Holm := bobPump (h.bobq.length + 1) h

end Holm

/-! ### BOB and KVA at issue -/

def bobForm (f w : Nat) : Bool := fld w 8 3 == f

/-- BOB START: one READ entry over the parameter block (R221, R317). -/
def execBobStart (p : Nat) (s : State) : Out :=
  issueRow p 0x30 (bobForm 0) s fun h w s =>
    checked p 0x30 h s (lookBob (s.lookCtx h) h.look w) fun r =>
      match r with
      | .start ch slot depth param =>
        let hull := (param / 8, param / 8 + 1)
        if !h.canIssue [.bob] [hull] [] then s
        else
          let (ids, h1) := h.enter .read [.bob] (.params ch) [hull]
          s.setHolm p { h1.step1 with bobq := h1.bobq ++ [BobOp.start ch slot depth param (ids.headD 0) h.pc] }.pump
      | _ => s

/-- BOB STOP (R221, R317). -/
def execBobStop (p : Nat) (s : State) : Out :=
  issueRow p 0x30 (bobForm 1) s fun h w s =>
    checked p 0x30 h s (lookBob (s.lookCtx h) h.look w) fun r =>
      match r with
      | .stop ch => if !h.canIssue [.bob] [] [] then s else s.setHolm p { h.step1 with bobq := h.bobq ++ [BobOp.stop ch] }.pump
      | _ => s

/-- BOB POST: credits, and for an out-channel one READ entry over the range (R221, R222, R317). -/
def execBobPost (p : Nat) (s : State) : Out :=
  issueRow p 0x30 (bobForm 2) s fun h w s =>
    checked p 0x30 h s (lookBob (s.lookCtx h) h.look w) fun r =>
      match r with
      | .post ch n range =>
        if !h.canIssue [.bob] (hulls [range]) [] then s
        else
          let (ids, h1) := h.enter .read [.bob] (.post ch) (hulls [range])
          let h2 := h1.modChan ch fun c => { c with posted := c.posted + n }
          s.setHolm p { h2.step1 with bobq := h2.bobq ++ [BobOp.post ch n ids.head? h.pc] }.pump
      | _ => s

/-- BOB RELEASE: it issues only when no entry overlaps its range, and creates none (R221, R317). -/
def execBobRelease (p : Nat) (s : State) : Out :=
  issueRow p 0x30 (bobForm 3) s fun h w s =>
    checked p 0x30 h s (lookBob (s.lookCtx h) h.look w) fun r =>
      match r with
      | .release ch n range =>
        if h.conflicts [] [] [range] ∨ !h.roomIn [.bob] then s
        else s.setHolm p { h.step1 with bobq := h.bobq ++ [BobOp.release ch n h.pc] }.pump
      | _ => s

/-- The pool of a sequence handle, for the tenant of the holm's work. -/
def State.poolOfHandle (s : State) (t handle : Nat) : Option Pool :=
  match s.kv.validDesc t handle with
  | some (_, d) => s.kv.pools.get? d.pool
  | none => none

/-- KVA: one READ entry over its sources (R255, R318). -/
def execKva (p : Nat) (s : State) : Out :=
  issueRow p 0x31 (fun _ => true) s fun h w s =>
    checked p 0x31 h s (lookKva h.look w) fun r =>
      let handle := h.selVal r.hsel
      match s.poolOfHandle (s.tenantOfHolm p) handle with
      | none => s.setHolm p (h.precise h.pc 0x31 .badAddress 0)
      | some q =>
        let hull := rowsHull r.src 0 1 (32 * r.hcnt * r.tokens * (q.rk + q.rv))
        if !hullOk hull then s.setHolm p (h.precise h.pc 0x31 .badAddress 0)
        else if !h.canIssue [.bob] (hulls [hull]) [] then s
        else
          let (ids, h1) := h.enter .read [.bob] (.kva r.ch) (hulls [hull])
          s.setHolm p { h1.step1 with bobq := h1.bobq ++
            [BobOp.kva r.ch ⟨ids.headD 0, handle, r.src, r.tokens, r.layer, r.h0, r.hcnt, r.off, h.pc⟩] }.pump

/-! ### Running a pricking (R216 to R220) -/

/-- A channel that reads the parameter block its START names (R215, R221). -/
def execBobbinParamBlockRead (p ch : Nat) (s : State) : Out :=
  onHolm p s fun h s =>
    let c := h.chan ch
    match c.paramEntry with
    | none => s
    | some e =>
      if h.st ≠ .running ∨ h.fault.isSome ∨ !c.active ∨ c.loaded then s
      else
        let b := rdLE h.rd (4 * c.paramAddr) 64
        let h1 := (h.modChan ch fun c => { c with paramEntry := none }).retire [e]
        if h.poisonedIn (c.paramAddr / 8) (c.paramAddr / 8 + 1) then
          s.setHolm p { h1.deferred c.startPc 0x30 ch .memoryError 0 with badRow := h.badLine p (c.paramAddr / 8) (c.paramAddr / 8 + 1) }
        else if (List.range 4).any fun i => fld b (64 * i + 48) 16 ≠ 0 then
          s.setHolm p ((h1.modChan ch fun c => { c with active := false }).deferred c.startPc 0x30 ch .badCommand 0)
        else s.setHolm p (h1.modChan ch fun c => { c with
          loaded := true, ar := (List.range 4).map fun i => BitVec.ofNat 48 (fld b (64 * i) 48)
          loops := (List.range 4).map fun i => BitVec.ofNat 32 (fld b (256 + 32 * i) 32)
          params := (List.range 4).map fun i => BitVec.ofNat 32 (fld b (384 + 32 * i) 32) })

/-- A channel that can execute a pricking instruction, and the word at its pc. -/
def Holm.prickWord (h : Holm) (ch : Nat) : Option Nat :=
  let c := h.chan ch
  if h.st = .running ∧ h.fault.isNone ∧ c.active ∧ c.loaded ∧ !c.stopping ∧ !c.ended ∧ c.failed.isNone then
    match h.prickings.get? c.slot with
    | some k => (k.code[c.pc]?).map (·.toNat)
    | none => none
  else none

/-- One pricking instruction of an operation. -/
def prickRow (p ch op : Nat) (s : State) (f : Holm → Chan → Nat → State → State) : Out :=
  onHolm p s fun h s =>
    match h.prickWord ch with
    | some w => if fld w 60 4 = op then f h (h.chan ch) w s else s
    | none => s

def Chan.next (c : Chan) : Chan := { c with pc := c.pc + 1 }

/-- A failing emit stops its channel at the failing instruction (R224). -/
def Chan.fail (c : Chan) (st : Status) : Chan := { c with failed := some (st, c.pc, c.begun - 1) }

/-- The 128 lines at most that an EMIT moves, and where. -/
structure Emit where
  freg : Nat
  sreg : Nat
  lines : Nat
  tileEnd : Bool
  kind : Nat
  incF : Bool
  incS : Bool
  deriving DecidableEq, Repr

def emitOf (w : Nat) : Emit :=
  ⟨fld w 58 2, fld w 56 2, fld w 49 7 + 1, bitAt w 48, fld w 46 2, bitAt w 45, bitAt w 44⟩

/-- An EMIT moves the address registers, closes its tile where it must and goes on (R217). -/
def Chan.emitted (c : Chan) (e : Emit) : Chan :=
  let c1 := if e.incF then c.setAr e.freg (c.ar_ e.freg + e.lines * (if e.kind = 0 then 32 else 8)) else c
  let c2 := if e.incS then c1.setAr e.sreg (c1.ar_ e.sreg + e.lines * 8) else c1
  (if e.tileEnd then c2.close else c2).next

/-- Far lines of a channel in flight (R212). -/
def State.inFlightLines (s : State) (p ch : Nat) : Nat :=
  (s.reqs.map fun ((_, r) : Nat × NetReq) => if r.src == p && r.kind != .msg && r.ch == ch then r.lines else 0).sum

namespace State

/-- The channel of an emit after its tile has begun, or none while the run-ahead depth makes it wait (R219). -/
def openTile (c : Chan) : Option Chan :=
  if c.tileOpen then some c else if c.unfreed < c.depth then some c.begin_ else none

/-- An EMIT of kind 0: tenant memory (R211, R217, R461). -/
def emitMem (s : State) (p ch : Nat) (h : Holm) (c : Chan) (e : Emit) : State :=
  let a := c.ar_ e.freg
  let w := c.ar_ e.sreg
  let t := s.tenantOfHolm p
  let fail (st : Status) : State := s.setHolm p (h.setChan ch (c.fail st))
  if a % 32 ≠ 0 ∨ !lineAligned w ∨ lastWord + 1 < w + 8 * e.lines then fail .badAddress
  else if ch < 4 then
    match s.memRead t a (32 * e.lines) with
    | .error st => fail st
    | .ok bs => (s.setHolm p ((h.putBytes (4 * w) bs).setChan ch (c.emitted e))).touch (s.workOfHolm p) t [(a, 32 * e.lines)]
  else if h.poisonedIn (w / 8) (w / 8 + e.lines - 1) then
    s.setHolm p { h.setChan ch (c.fail .memoryError) with badRow := h.badLine p (w / 8) (w / 8 + e.lines - 1) }
  else
    match s.memWrite t a (h.bytes (4 * w) (32 * e.lines)) with
    | .error st => fail st
    | .ok s1 => (s1.setHolm p ((h.setChan ch (c.emitted e)).readTiles ch)).touch (s.workOfHolm p) t [(a, 32 * e.lines)]

/-- An EMIT of kind 1: the scratchpad of a holm of the same partition, by a remote access (R53, R211, R217). -/
def emitNet (s : State) (p ch : Nat) (h : Holm) (c : Chan) (e : Emit) : State :=
  let a := c.ar_ e.freg
  let w := c.ar_ e.sreg
  let far := a % 2 ^ 20
  let fail (st : Status) : State := s.setHolm p (h.setChan ch (c.fail st))
  if 2 ^ 28 ≤ a ∨ !lineAligned far ∨ lastWord + 1 < far + 8 * e.lines ∨ !lineAligned w ∨ lastWord + 1 < w + 8 * e.lines then
    fail .badAddress
  else match s.peerLg? h (a / 2 ^ 20) with
    | none => fail .badAddress
    | some lg =>
      if 1024 < s.inFlightLines p ch + e.lines then s
      else if 4 ≤ ch ∧ h.poisonedIn (w / 8) (w / 8 + e.lines - 1) then
        s.setHolm p { h.setChan ch (c.fail .memoryError) with badRow := h.badLine p (w / 8) (w / 8 + e.lines - 1) }
      else
        let tile := c.begun - 1
        let c1 := (c.modLast fun t => { t with outstanding := t.outstanding + 1 }).emitted e
        let h1 := h.setChan ch c1
        (s.setHolm p (if ch < 4 then h1 else h1.readTiles ch)).request
          { kind := if ch < 4 then .read else .write, src := p, ch := ch, pc := c.pc, tile := tile, tgtLg := lg, tgtPhys := 0
            epoch := 0, addr := far / 8, lines := e.lines, local_ := w, data := if ch < 4 then [] else h.bytes (4 * w) (32 * e.lines)
            accepted := false, arrived := 0, srcLg := 0, seq := 0, resp := none, held := false }

end State

/-- EMIT (R217). -/
def execPrickingEmit (p ch : Nat) (s : State) : Out :=
  prickRow p ch 0x1 s fun h c w s =>
    match State.openTile c with
    | none => s
    | some c1 => if (emitOf w).kind = 0 then s.emitMem p ch h c1 (emitOf w) else s.emitNet p ch h c1 (emitOf w)

/-- ADD: the immediate is sign-extended (R217). -/
def execPrickingAdd (p ch : Nat) (s : State) : Out :=
  prickRow p ch 0x2 s fun h c w s =>
    let imm := fld w 0 40
    let ext := if bitAt imm 39 then imm + (2 ^ 48 - 2 ^ 40) else imm
    s.setHolm p (h.setChan ch (c.setAr (fld w 58 2) (c.ar_ (fld w 58 2) + ext)).next)

/-- SETA (R217). -/
def execPrickingSeta (p ch : Nat) (s : State) : Out :=
  prickRow p ch 0x3 s fun h c w s => s.setHolm p (h.setChan ch (c.setAr (fld w 58 2) (fld w 0 48)).next)

/-- SETL (R217). -/
def execPrickingSetl (p ch : Nat) (s : State) : Out :=
  prickRow p ch 0x4 s fun h c w s =>
    s.setHolm p (h.setChan ch (c.setLoop (fld w 58 2) (if bitAt w 57 then c.param (fld w 32 2) else fld w 0 32)).next)

/-- LOOP (R217). -/
def execPrickingLoop (p ch : Nat) (s : State) : Out :=
  prickRow p ch 0x5 s fun h c w s =>
    let i := fld w 58 2
    s.setHolm p (h.setChan ch (if 1 < c.loop i then { c.setLoop i (c.loop i - 1) with pc := fld w 48 5 } else (c.setLoop i 0).next))

/-- CWAIT consumes one go credit (R217, R222). -/
def execCwait (p ch : Nat) (s : State) : Out :=
  prickRow p ch 0x6 s fun h c _ s =>
    if c.credits = 0 then s
    else
      let c1 := { c.next with credits := c.credits - 1, taken := c.taken + 1 }
      let c2 := match c.posts with
        | [] => c1
        | q :: rest =>
          if q.left ≤ 1 then { c1 with posts := rest, takenDue := c1.takenDue ++ q.entry.toList }
          else { c1 with posts := ⟨q.left - 1, q.entry⟩ :: rest }
      s.setHolm p (h.setChan ch c2)

/-- PEMIT asks a walker for one whole tile (R217, R249). -/
def execPemit (p ch : Nat) (s : State) : Out :=
  prickRow p ch 0x7 s fun h c0 w s =>
    let c := c0.close
    if c.depth ≤ c.unfreed then s.setHolm p (h.setChan ch c)
    else
      let sr := fld w 56 2
      let tr := fld w 54 2
      let toks := fld w 45 9
      let walk : Walk :=
        { id := s.kv.nextWalk, phys := p, ch := ch, tile := c.begun, walker := fld w 58 2, handle := c.param (fld w 36 2)
          sel := c.param (fld w 36 2 + 1), sreg := c.ar_ sr, treg := c.ar_ tr, tokens := toks, layer := fld w 38 7
          incT := (bitAt w 35).toNat, pc := c.pc, landed := false, header := [], failed := none }
      let srn := match walk.sounding h.rd with | some (_, _, x, y, z) => x + y + z | none => 0
      let area := ((s.poolOfHandle (s.tenantOfHolm p) walk.handle).map fun q => walk.areaWords q srn).getD 0
      let c1 := ({ c.begin_ with tileOpen := false }).modLast fun t => { t with closed := true, walker := true }
      let c2 := if bitAt w 35 then c1.setAr tr (c1.ar_ tr + toks) else c1
      let c3 := if bitAt w 34 then c2.setAr sr (c2.ar_ sr + area) else c2
      { s.setHolm p (h.setChan ch c3.next) with kv := { s.kv with walks := s.kv.walks ++ [walk], nextWalk := s.kv.nextWalk + 1 } }

/-- END closes any open tile; the run then waits for its tiles (R217). -/
def execPrickingEnd (p ch : Nat) (s : State) : Out :=
  prickRow p ch 0x0 s fun h c _ s => s.setHolm p ((h.setChan ch { c.close with ended := true }).readTiles ch)

/-! ### Tiles (R219, R220) -/

/-- The next tile to be counted, where every line of it has landed or drained. -/
def Chan.nextDone (c : Chan) : Option Tile :=
  match c.tiles.find? fun t => !t.counted && !t.dropped with
  | some t => if t.closed && t.outstanding == 0 && !t.walker then some t else none
  | none => none

/-- The last line of an in-channel tile has landed: the tile is counted, in tile order (R219, R220). -/
def execTileLanded (p ch : Nat) (s : State) : Out :=
  onHolm p s fun h s =>
    let c := h.chan ch
    match c.nextDone with
    | some t =>
      if 4 ≤ ch ∨ h.st ≠ .running ∨ c.failed.isSome then s
      else s.setHolm p (h.setChan ch { c.modTile t.num (fun t => { t with counted := true }) with count := c.count + 1 })
    | none => s

/-- Every write of an out-channel tile has been acknowledged: the tile is counted and freed (R219, R220). -/
def execTileDrained (p ch : Nat) (s : State) : Out :=
  onHolm p s fun h s =>
    let c := h.chan ch
    match c.nextDone with
    | some t =>
      if ch < 4 ∨ h.st ≠ .running ∨ c.failed.isSome then s
      else s.setHolm p (h.setChan ch ({ c.modTile t.num (fun t => { t with counted := true, freed := true }) with
        count := c.count + 1, settled := c.settled + t.credits } : Chan).trim)
    | none => s

/-- A channel can end: after END every tile is freed; after a STOP its issued requests are complete (R217, R221). -/
def Chan.canEnd (c : Chan) : Bool :=
  c.active && c.failed.isNone &&
    (if c.stopping then c.tiles.all fun t => t.outstanding == 0 && !t.walker else c.ended && c.allFreed)

/-- The channel ends: credits left are discarded, entries left retire, a dropped tile is freed (R217, R221, R222). -/
def execChannelEnded (p ch : Nat) (s : State) : Out :=
  onHolm p s fun h s =>
    let c := h.chan ch
    if h.st = .running ∧ c.canEnd then
      let due := (c.posts.filterMap (·.entry)) ++ c.takenDue ++ c.tiles.flatMap (·.due)
      let gone := (c.tiles.filter (·.dropped)).map (·.credits)
      let c1 := ({ c with
        active := false, posts := [], taken := 0, takenDue := [], credits := 0
        settled := c.settled + c.credits + c.taken + gone.sum
        tiles := c.tiles.map fun t => { t with due := [], freed := t.freed || t.dropped } } : Chan).trim
      s.setHolm p ((h.setChan ch c1).retire due).pump
    else s

/-- A failing far request or emit: the holm faults with the cause's status (R224). -/
def execBobbinFault (p ch : Nat) (s : State) : Out :=
  onHolm p s fun h s =>
    let c := h.chan ch
    match c.failed with
    | some (st, pc, tile) => s.setHolm p (h.deferred c.startPc 0x30 ch st (tile % 2 ^ 27 + 2 ^ 27 * (pc % 32)))
    | none => s

end Sys2Proof.Machine
end

