-- ==== Sys2Proof/Machine/Remote.lean ====
section
/-! DEFINITION. Remote accesses and messages on the on-die network: arrival, response, holding and reissue (R53 to R56, R60
to R64, R83, R89, R90, R98, R490, R496). -/

namespace Sys2Proof.Machine

namespace State

def modReq (s : State) (i : Nat) (f : NetReq → NetReq) : State := { s with reqs := s.reqs.modify i f }

def answerReq (s : State) (i : Nat) (st : Status) : State := s.modReq i fun r => { r with resp := some st }

/-- The target physical holm serves the named logical holm, and the stamp is its current epoch (R62). -/
def roleOk (s : State) (r : NetReq) : Bool :=
  (s.holm r.tgtPhys).st != .fusedOut && s.lgOf? r.tgtPhys == some r.tgtLg && s.epochOf r.tgtLg == r.epoch

-- DEDUCED, unsafe: log 124.
/-- A stale role that comes from a remap that firmware made, with a physical holm to send the request to (R64, R496). -/
def reissuable (s : State) (r : NetReq) : Bool :=
  s.roleCause.getD r.tgtLg .none == .firmware && (s.physOf? r.tgtLg).isSome

/-- A request dropped for its role: STALE_ROLE returns, and a drop that is not to be reissued is counted at a holm that is in
service (R62, R496). -/
def staleDrop (s : State) (i : Nat) (r : NetReq) : State :=
  let s1 := s.answerReq i .staleRole
  if (s.holm r.tgtPhys).st == .fusedOut || s.reissuable r then s1
  else s1.modHolm r.tgtPhys fun h => { h with staleCount := (h.staleCount + 1) % 2 ^ 32 }

/-- Source and target lie in one partition (R53). -/
def samePart (s : State) (r : NetReq) : Bool :=
  match (s.holm r.src).inv with
  | some i => s.partOf? r.tgtLg == some i.part
  | none => false

-- DEDUCED, unsafe: log 124.
/-- A remote access at its target (R53, R62, R83, R90, R98). -/
def serve (s0 : State) (i : Nat) (r : NetReq) : State :=
  let s := s0.wakeHolm r.tgtPhys
  let h := s.holm r.tgtPhys
  let last := r.addr + r.lines - 1
  if !s.roleOk r then s.staleDrop i r
  else if !s.samePart r ∨ !h.exposed r.addr last 1 then s.answerReq i .noPermission
  else if r.kind = .read then
    if h.inv.isNone ∧ 8 * r.addr < h.lagoonAt then s.answerReq i .noPermission
    else if h.poisonedIn r.addr last then s.answerReq i .memoryError
    else s.modReq i fun r => { r with accepted := true, data := h.bytes (32 * r.addr) (32 * r.lines), resp := some .done }
  else (s.setHolm r.tgtPhys (h.putBytes (32 * r.addr) r.data)).modReq i fun r => { r with accepted := true, resp := some .done }

/-- A response at the issuing holm: a read's data land, the tile has one request less outstanding, a failure stops the
channel or raises the fault of a MSG (R62, R64, R224, R325). A holm that has stopped discards it. -/
def takeResponse (s : State) (r : NetReq) (st : Status) : State :=
  let h := s.holm r.src
  if h.st ≠ .running then s
  else if r.kind = .msg then
    if st = .done then s else s.setHolm r.src (h.deferred r.pc 0x0A 0 st 0)
  else
    let h1 := h.modChan r.ch fun c => c.modTile r.tile fun t => { t with outstanding := t.outstanding - 1 }
    if st = .done then s.setHolm r.src (if r.kind = .read then h1.putBytes (4 * r.local_) r.data else h1)
    else
      let h2 := h1.modChan r.ch fun c => { c with failed := c.failed.or (some (st, r.pc, r.tile)) }
      let bad := if st = .memoryError then (s.holm r.tgtPhys).badLine r.tgtPhys r.addr (r.addr + r.lines - 1) else none
      s.setHolm r.src { h2 with badRow := h2.badRow.or bad }

end State

/-- A remote access reaches the target holm's router (R53, R62, R63, R90). -/
def execRemoteAccessArrival (i : Nat) (s : State) : Out :=
  .next (match s.reqs.get? i with
    | some r => if r.kind = .msg ∨ r.resp.isSome then s else s.serve i r
    | none => s)

/-- A response returns to the issuing holm; one that firmware is to reissue waits for that (R56, R64). -/
def execRemoteResponseArrival (i : Nat) (s : State) : Out :=
  .next (match s.reqs.get? i with
    | some r =>
      match r.resp with
      | some st =>
        if st = .staleRole ∧ s.reissuable r then s
        else ({ s with reqs := s.reqs.del i } : State).takeResponse r st
      | none => s
    | none => s)

/-- No response after 1.5 µs: the request is held and the target holm is reported to firmware (R56). -/
def execRemoteRequestHeld (i : Nat) (s : State) : Out :=
  .next (match s.reqs.get? i with
    | some r =>
      if r.resp.isSome then s
      else (s.modReq i fun r => { r with held := true }).modHolm r.tgtPhys fun h => { h with reported := true }
    | none => s)

/-- A message reaches the target's router and is checked once; one delivered before is dropped and acknowledged (R55, R62,
R490). -/
def execMsgArrival (i : Nat) (s : State) : Out :=
  .next (match s.reqs.get? i with
    | some r =>
      if r.kind ≠ .msg ∨ r.resp.isSome ∨ r.arrived ≠ 0 then s
      else if !s.roleOk r then s.staleDrop i r
      else if (((s.holm r.tgtPhys).gotSeq.getD r.srcLg []) : Ranges).has r.seq then s.answerReq i .done
      else
        let s1 := s.modReq i fun r => { r with accepted := true, arrived := s.nextReq + 1 }
        { s1 with nextReq := s.nextReq + 1 }
    | none => s)

/-- The message waits behind one that arrived before it at the same holm (R55). -/
def State.behind (s : State) (r : NetReq) : Bool :=
  s.reqs.any fun ((_, q) : Nat × NetReq) =>
    q.kind == .msg && q.tgtPhys == r.tgtPhys && q.resp.isNone && q.arrived != 0 && decide (q.arrived < r.arrived)

/-- A message that has passed its check enters the inbox when an entry is free, in order of arrival; then the response is
sent (R55). -/
def execMsgInboxEnter (i : Nat) (s : State) : Out :=
  .next (match s.reqs.get? i with
    | some r =>
      let h := s.holm r.tgtPhys
      if r.kind ≠ .msg ∨ r.resp.isSome ∨ r.arrived = 0 ∨ s.behind r ∨ 16 ≤ h.inbox.length then s
      else (s.setHolm r.tgtPhys { h with
        inbox := h.inbox ++ [r.data], gotSeq := h.gotSeq.set r.srcLg ((h.gotSeq.getD r.srcLg [] : Ranges).add r.seq r.seq) }).answerReq i .done
    | none => s)

/-- Firmware reissues a request that ended with STALE_ROLE to the new physical holm, once the sender's stage is not itself in
recovery; the sender's work is degraded (R64, R496). -/
def execStaleRoleReissue (i : Nat) (s : State) : Out :=
  .next (match s.reqs.get? i with
    | some r =>
      if r.resp ≠ some .staleRole ∨ !s.reissuable r then s
      else
        match (s.holm r.src).inv with
        | none => s
        | some v =>
          if s.flt.recovery.any fun c => c.work == v.work && c.stage == v.stage then s
          else
            let m := s.remap.getD r.tgtLg ⟨0, false, 0⟩
            (s.modReq i fun r => { r with tgtPhys := 68 * (r.tgtLg / 64) + m.phys, epoch := m.epoch, accepted := false
                                          arrived := 0, resp := none, held := false }).modWork v.work
              fun w => { w with degraded := true }
    | none => s)

end Sys2Proof.Machine
end

