-- ==== Sys2Proof/Machine/Units.lean ====
section
/-! DEFINITION. Units of work: the settings of a holm, substitutions, the start and the end of invocations, checkpoint records,
and the end of one-shot work (R59 to R61, R66, R79 to R92, R96, R99, R225, R228, R229, R232 to R237, R259, R260, R485). -/

namespace Sys2Proof.Machine

/-! ### Settings (R79, R85, R87, R92, R237) -/

namespace Holm

/-- The staged settings of a holm become current (R234). -/
def takeStaged (h : Holm) : Holm :=
  let g := h.staged
  let h1 := { h with
    wheel := g.wheel.getD h.wheel, exposure := g.exposure.getD h.exposure, sfuMode := g.sfuMode.getD h.sfuMode
    program := g.program.getD h.program, picots := g.picots.getD h.picots, prickings := g.prickings.getD h.prickings
    staged := Staged.none }
  match g.lagoon with
  | none => h1
  | some (l, img) => { h1.setLagoon l with image := img, loadDue := img != 0 }

/-- The settings of a stage, for the holm whose lagoon image lies at `img` (R237, R444, R445). -/
def takeStage (h : Holm) (st : Stage) (img : Nat) : Holm :=
  let h1 := { h with
    wheel := st.wheel, exposure := st.exposure, sfuMode := if st.tamio then .tamio else .native
    program := st.program.getD .empty, picots := st.picots.foldl (fun m (k, v) => m.set k v) h.picots
    prickings := st.prickings.foldl (fun m (k, v) => m.set k v) h.prickings }
  let h2 := h1.setLagoon st.lagoon
  if st.lagoon = 0 then { h2 with image := 0, loadDue := false }
  else { h2 with image := img + 1, loadDue := h.loadDue || h.image != img + 1 || h.lagoon != st.lagoon }

-- DEDUCED, unsafe: log 18.
/-- The settings of a stage that NATIVE_LOAD or the start of a plan brings: its lagoon image is to be loaded, whatever the lagoon
holds (R85, R597). -/
def takeNewStage (h : Holm) (st : Stage) (img : Nat) : Holm := { h.takeStage st img with loadDue := st.lagoon != 0 }

end Holm

namespace State

/-- The tenant that owns the partition of a logical holm. -/
def tenantOfLg (s : State) (lg : Nat) : Option Nat := (s.partOf? lg).bind fun n => (s.ten.parts.get? n).map (·.tenant)

/-- A lagoon is loaded from its image, where that is due: every line written; words that the memory has lost are undefined
(R85, R358). -/
def loadLagoon (s : State) (p : Nat) : State :=
  let h := s.holm p
  if !h.loadDue then s
  else if h.lagoon = 0 ∨ h.image = 0 then s.setHolm p { h with loadDue := false }
  else
    let a := h.lagoonAt
    match ((s.lgOf? p).bind s.tenantOfLg).map fun t => s.memRead t (h.image - 1) (h.lagoon * 262144) with
    | some (.ok bs) => s.setHolm p { h.putBytes (4 * a) bs with loadDue := false }
    | _ =>
      let (tag, s1) := s.takeFree 1
      s1.setHolm p { h.spoil a lastWord tag with loadDue := false }

/-- One line of the lagoon is restored from its image (R99, R493). -/
def refillLine (s : State) (p line : Nat) : State :=
  let h := s.holm p
  if 8 * line < h.lagoonAt ∨ h.image = 0 then s.setHolm p { h with poison := h.poison.filter fun w => w / 8 != line }
  else match ((s.lgOf? p).bind s.tenantOfLg).map fun t => s.memRead t (h.image - 1 + 4 * (8 * line - h.lagoonAt)) 32 with
    | some (.ok bs) => s.setHolm p (h.putBytes (32 * line) bs)
    | _ =>
      let (tag, s1) := s.takeFree 1
      s1.setHolm p { h.spoil (8 * line) (8 * line + 7) tag with poison := h.poison.filter fun w => w / 8 != line }

/-- Repair maps swap: rows whose copy is complete go to their spares, poisoned rows are refilled or cleared, and the repairs
are to be written to flash (R96, R99). -/
def swapRepairs (s : State) (p : Nat) : State :=
  let h := s.holm p
  let ready := h.repairing.filter (·.copied)
  if ready.isEmpty then s
  else
    let new := ready.map fun r => (r.bank, r.row, r.spare)
    let h1 := { h with
      repairing := h.repairing.filter fun r => !r.copied
      repairs := h.repairs.filter (fun (b, r, _) => !new.any fun (x, y, _) => x == b && y == r) ++ new
      repairRecord := h.repairRecord ++ new }
    ready.foldl (fun (s : State) r =>
      let line := 64 * r.row + r.bank
      let s1 := if (s.holm p).poisonedIn line line then s.refillLine p line else s
      s1.log 8 0 none (p % 2 ^ 9 + 2 ^ 9 * r.bank + 2 ^ 15 * r.row) 0) (s.setHolm p h1)

/-- Everything pending for a holm becomes current (R234, R235). -/
def swapSettings (s : State) (p : Nat) : State := (s.modHolm p Holm.takeStaged).swapRepairs p

/-! ### Substitution (R51, R58 to R61, R66, R86, R97) -/

/-- The lowest-numbered working spare of a quadrant. -/
def spareOf? (s : State) (q : Nat) : Option Nat := ((List.range 68).map (68 * q + ·)).find? fun p => (s.holm p).st == .spare

def sparesOf (s : State) (q : Nat) : Nat := (((List.range 68).map (68 * q + ·)).filter fun p => (s.holm p).st == .spare).length

/-- A physical holm leaves service; the repair table is to record it (R66, R542). -/
def fuseOut (s : State) (p : Nat) : State :=
  let h := s.holm p
  { s.setHolm p { Holm.reset .fusedOut with fmax := h.fmax, ceCount := h.ceCount, staleCount := h.staleCount, record := h.record } with
    boot := { s.boot with repairsDue := s.boot.repairsDue ++ [.retired p] } }

/-- The remap entry of a logical holm, with its role epoch one higher (R57, R61). -/
def remapTo (s : State) (lg phys : Nat) (valid : Bool) : State :=
  let e := s.remap.getD lg ⟨0, false, 0⟩
  { s with remap := s.remap.set lg ⟨phys, valid, (e.epoch + 1) % 2 ^ 24⟩
           roleCause := s.roleCause.set lg .firmware
           net := { s.net with windows := s.net.windows.map fun ((i, w) : Nat × Window) =>
             (i, { w with holms := w.holms.map fun h =>
               if s.windowLg h == some lg then (h.1, h.2.1, (e.epoch + 1) % 2 ^ 24) else h }) } }

/-- A role moves to a spare: with its lagoon copied line for line when planned, with its lagoon to be refilled from the image
after a fault (R59, R86). The bound epochs of windows follow (R375). -/
def substitute (s : State) (lg p spare : Nat) (planned : Bool) : State :=
  let h := s.holm p
  let sp := s.holm spare
  let base := { sp with
    st := .idle, program := h.program, picots := h.picots, prickings := h.prickings, sfuMode := h.sfuMode, wheel := h.wheel
    lagoon := h.lagoon, image := h.image, exposure := h.exposure, staged := h.staged, inbox := h.inbox, msgSeq := h.msgSeq
    gotSeq := h.gotSeq, seenPhase := h.seenPhase }
  let lag := h.lagoonAt
  let new := if planned then { base with
      mem := h.mem.filter fun ((a, _) : Host.Cell) => decide (4 * lag ≤ a)
      written := h.written.del 0 (lag / 8 - 1), undef := h.undef.del 0 (lag - 1)
      poison := h.poison.filter fun w => decide (lag ≤ w), loadDue := h.loadDue }
    else { base with mem := [], written := [], undef := [], poison := [], loadDue := h.image != 0 }
  ((s.setHolm spare new).fuseOut p).remapTo lg (spare % 68) true

/-- The holms whose retirement is planned move at this moment, where a spare is left; else the role loses its holm (R51, R60,
R97). -/
def retireHolms (s : State) (ps : List Nat) : State :=
  ps.foldl (fun (s : State) p =>
    if !(s.holm p).retirePlanned then s
    else match s.lgOf? p with
      | none => s.fuseOut p
      | some lg =>
        match s.spareOf? (p / 68) with
        | some q => s.substitute lg p q true
        | none => (s.fuseOut p).remapTo lg 0 false) s

/-! ### Checkpoint records (R485) -/

/-- What a checkpoint keeps of a holm; an arrival at one of the barriers `bars` is kept as made (R485, R490). -/
def ckptOf (s : State) (w lg : Nat) (h : Holm) (bars : List Nat) (carried : List (Nat × Nat)) : Ckpt :=
  let pendingBars := h.arrivals.filter fun a => bars.contains a.bar
  { pc := h.pc, g := h.g, waitPhase := h.waitPhase
    arrCount := pendingBars.foldl (fun m a => m.set a.bar (m.getD a.bar 0 + 1)) h.arrCount
    headArrived := h.headArrived, arrivals := h.arrivals.filter (fun a => !bars.contains a.bar), held := h.held
    arrivalCount := h.arrivalCount, chans := h.chans, inbox := h.inbox, msgSeq := h.msgSeq, gotSeq := h.gotSeq
    carried := carried.map fun (a, b) => (a, b, h.bytes (32 * a) (32 * (b + 1 - a)))
    landPos := ((s.work? w).map fun x => x.landPos.getD lg 0).getD 0 }

/-! ### The start of an invocation (R66, R82, R229, R230, R233, R235) -/

/-- The stage of a unit of work that a logical holm runs. -/
def stageOf? (s : State) (wk : Work) (lg : Nat) : Option (Stage × Nat) :=
  wk.stages.zipIdx.find? fun (st, _) => (s.stageHolms st).contains lg

/-- The lagoon image of a holm of a stage (R444). -/
def imageOf (s : State) (st : Stage) (lg : Nat) : Nat := st.lagImg + ((s.stageHolms st).idxOf lg) * st.lagStride

/-- What a holm of a stage runs, for the program to read (R39, R301). -/
def invOf (s : State) (w lg : Nat) (wk : Work) (st : Stage) (i : Nat) (part : Partition) : Invocation :=
  { work := w, tidal := decide (wk.kind = .plan), exportPerm := wk.exportPerm, lg := lg
    index := part.holms.idxOf lg, size := part.holms.length, epoch := s.epochOf lg, tide := wk.tide
    stage := i, part := st.part, ending := false }

/-- A holm in IDLE starts its invocation: settings first where the work is one-shot, then its lagoon load, then open water
cleared and every count of the invocation at its start; the slack is its first checkpoint (R82, R225, R235, R471). -/
def startHolm (s00 : State) (w lg : Nat) (many : Bool) : State :=
  let oneShot := ((s00.work? w).map fun x => decide (x.kind ≠ .plan)).getD false
  let s := if oneShot then s00.retireHolms (s00.physOf? lg).toList else s00
  match s.work? w, s.physOf? lg with
  | some wk, some p =>
    match s.stageOf? wk lg, s.ten.parts.get? ((s.partOf? lg).getD 256) with
    | some (st, i), some part =>
      let s0 := s.wakeHolm p
      if (s0.holm p).st ≠ .idle then s
      else
        let s1 := if wk.kind = .plan then s0
          else (s0.swapSettings p).modHolm p fun h => h.takeStage st (s0.imageOf st lg)
        let s2 := s1.loadLagoon p
        let h := { (s2.holm p).clearOpen with
          st := .running, pc := 0, g := List.replicate 16 0, scoreboard := [], inFlight := [], bobq := [], arrivals := []
          headArrived := false, held := [], waitPhase := [], seenPhase := [], arrCount := [], arrivalCount := 0
          chans := List.replicate 8 Chan.reset, fault := none, badRow := none, stretchTime := 0, ramp := many || decide (wk.kind = .plan)
          inv := some (s2.invOf w lg wk st i part) }
        let s3 := (s2.setHolm p h).modWork w fun x => { x with landPos := x.landPos.set lg 0 }
        { s3 with flt := { s3.flt with
          harbour := s3.flt.harbour.set (2 * p) (s3.ckptOf w lg h [] []), spilled := s3.flt.spilled.set p 0
          complete := s3.flt.complete.set p 0 } }
    | _, _ => s
  | _, _ => s

/-- The ordinals of collectives that an operation list or a COLLECTIVE command makes start here; those of a stage's sections lie
below. -/
def opOrd : Nat := 4096

/-- The barriers of a unit of work at the start of a tide or invocation (R225, R228). -/
def freshBarriers (stages : List Stage) : AMap Barrier :=
  (stages.flatMap fun st => st.barriers.map fun (b, rank, n) => (barKey st.part b, (⟨rank, n, 0, 0, [], []⟩ : Barrier))).foldl
    (fun m (k, b) => m.set k b) []

/-- The number under which the module holds a ring or collective of a unit of work: by its stage and ordinal there. -/
def unitKey (w stage ord : Nat) : Nat := 2 ^ 20 * w + 2 ^ 14 * stage + ord

-- DEDUCED, unsafe: log 82.
/-- The shuttle a ring lives in: that of its first destination's quadrant (R276, R278). -/
def ringQuad (s : State) (part raw : Nat) : Nat :=
  (((s.ten.parts.get? part).bind fun p => p.holms[fld raw 448 8]?).map (· / 64)).getD 0

/-- The rings and collectives of a unit of work at the start of a tide or invocation (R286, R402). -/
def freshRings (s : State) (w : Nat) (stages : List Stage) : AMap Ring :=
  stages.zipIdx.foldl (fun (m : AMap Ring) (st, i) => st.rings.zipIdx.foldl (fun (m : AMap Ring) (raw, k) =>
    m.set (unitKey w i k) (Ring.fresh w i st.part (s.ringQuad st.part raw) raw)) m)
    (s.net.rings.filter fun ((_, r) : Nat × Ring) => r.work != w)

def freshColls (s : State) (w : Nat) (wk : Work) : AMap Coll :=
  wk.stages.zipIdx.foldl (fun (m : AMap Coll) (st, i) => st.colls.zipIdx.foldl (fun (m : AMap Coll) (raw, k) =>
    m.set (unitKey w i k) (Coll.fresh w i k wk.tenant st.part wk.arch raw wk.tide)) m)
    (s.net.colls.filter fun ((_, c) : Nat × Coll) => c.work != w)

/-- A tide or one-shot invocation begins: counts at their start, rings and collectives fresh, and its holms about to start in
waves (R225, R229, R233, R284). -/
def beginWork (s : State) (w : Nat) : State :=
  match s.work? w with
  | none => s
  | some wk =>
    let all := sortBy (fun a b => decide (a < b)) (s.workHolms wk)
    let s1 := s.modWork w fun x => { x with
      running := true, closeAt := none, status := .done, degraded := false, faults := [], landPos := [], keep := []
      barriers := freshBarriers x.stages, waves := [⟨.start, all, 0, s.now⟩]
      ckptAt := (List.range x.stages.length).map fun i => (i, s.now), ckptCounts := [], opAt := [] }
    { s1 with net := { s1.net with rings := s1.freshRings w wk.stages, colls := s1.freshColls w wk } }

/-! ### The end of an invocation (R83, R232, R325, R495) -/

/-- A holm stops: operands of abandoned instructions are undefined, and what its invocation had under way is gone (R325). -/
def stopHolm (s : State) (p : Nat) (hs : HState) : State :=
  let (tag, s1) := s.takeFree 1
  let h := s1.holm p
  let h1 := (h.inFlight.flatMap (·.writes)).foldl (fun h (a, b) => h.spoil (8 * a) (8 * b + 7) tag) h
  let s2 := s1.setHolm p { h1 with
    st := hs, scoreboard := [], inFlight := [], bobq := [], arrivals := [], headArrived := false, held := []
    chans := List.replicate 8 Chan.reset, fault := none, badRow := none, ramp := false }
  { s2 with reqs := s2.reqs.filter fun ((_, r) : Nat × NetReq) => r.src != p
            kv := { s2.kv with walks := s2.kv.walks.filter fun x => x.phys != p } }

/-- A holm leaves its invocation, after which its open water is undefined (R83). -/
def leaveHolm (s : State) (p : Nat) (hs : HState) : State :=
  let (tag, s1) := s.takeFree 1
  (s1.stopHolm p hs).modHolm p fun h => { h.spoil 0 (h.lagoonAt - 1) tag with inv := none }

/-- Physical holms that run an invocation of a unit of work, by ascending number. -/
def runnersOf (s : State) (w : Nat) : List Nat :=
  (s.holms.filter fun ((_, h) : Nat × Holm) => (h.inv.map fun i => i.work == w).getD false).map (·.1)

/-- A barrier is part-way through a phase (R228, R235). -/
def partWay (wk : Work) : Bool := wk.barriers.any fun ((_, b) : Nat × Barrier) => b.count != 0

/-- The appends of a unit of work commit, or none of them does (R259, R260); and whether counts differed. -/
def commitAppends (s : State) (w t : Nat) (ok : Bool) : State × Bool :=
  match s.kvCtx t with
  | none => (s, false)
  | some c => (s.putKv (c.commitUnit w ok), c.unitUneven w)

/-- The status a unit of work ends with, and whether its appends may commit (R228, R235, R260, R420). -/
def endStatus (s : State) (w : Nat) (wk : Work) : Status :=
  let uneven := ((s.kvCtx wk.tenant).map fun c => c.unitUneven w).getD false
  if !wk.status.isDone then wk.status
  else if partWay wk ∨ uneven then .badCommand
  else if wk.degraded ∨ wk.status = .doneDegraded then .doneDegraded else .done

/-- OVERFLOW_DROPPED does not fail the unit where its collective says so; a failing one has been given as its status. -/
def commits (st : Status) : Bool := st.isDone

/-- The fault record a completion carries: that of the faulting holm with the lowest logical index (R436). -/
def faultOf (wk : Work) : Option Nat :=
  match sortBy (fun (a b : Nat × FaultRec) => decide (a.1 < b.1)) wk.faults with
  | (_, r) :: _ => some r.bits
  | [] => none

/-- One-shot work ends: appends commit or not, its command ends, its rings and collectives are forgotten (R235, R259, R260,
R436). -/
def finishOneShot (s : State) (w : Nat) : State :=
  match s.work? w with
  | none => s
  | some wk =>
    let st := s.endStatus w wk
    let (s1, _) := s.commitAppends w wk.tenant (commits st)
    let s2 := match wk.cmd with
      | some id => s1.endCmd id st ((faultOf wk).getD 0) (faultOf wk).isSome
      | none => s1
    { s2 with isth := { s2.isth with works := s2.isth.works.del w }
              net := { s2.net with rings := s2.net.rings.filter fun ((_, r) : Nat × Ring) => r.work != w
                                   colls := s2.net.colls.filter fun ((_, c) : Nat × Coll) => c.work != w } }

/-! ### The close (R232, R286, R420) -/

/-- A ring has landed and counted every block of the tide and received every credit it is owed (R286). -/
def ringDone (s : State) (r : Ring) : Bool :=
  let total := r.rounds * r.n * r.blocks
  let back := if r.bwd then r.rounds * r.blocks else 0
  r.stopped.isSome || (r.landed.length == total + back && r.credits.length == r.slots + total && r.outstanding == 0
    && match s.ten.parts.get? r.part, s.work? r.work with
      | some p, some wk => r.dests.all fun d => match p.holms[d]? with
        | some lg => (countAt (s.ringsAt r.work lg) (wk.landPos.getD lg 0)).isNone
        | none => true
      | _, _ => true)

/-- Every holm of a unit of work has ended, and its rings and collectives are through (R232, R286, R420). -/
def allEnded (s : State) (w : Nat) (wk : Work) : Bool :=
  wk.running && wk.closeAt.isNone && (s.runnersOf w).isEmpty && !(wk.waves.any fun x => x.kind == .start)
    && (s.net.rings.all fun ((_, r) : Nat × Ring) => r.work != w || s.ringDone r)
    && (s.net.colls.all fun ((_, c) : Nat × Coll) => c.work != w || c.done || !c.active)

/-- The tide closes, or one-shot work completes, once everything of it has ended. -/
def settle (s : State) (w : Nat) : State :=
  match s.work? w with
  | none => s
  | some wk =>
    if !s.allEnded w wk then s
    else if wk.kind = .plan then s.modWork w fun x => { x with closeAt := some s.now }
    else s.finishOneShot w

end State

end Sys2Proof.Machine
end

