-- ==== Sys2Proof/Machine/Rings.lean ====
section
/-! DEFINITION. The shuttle: rings, their blocks, slots and credits; the failure of a ring and of a unit of work (R276 to R286,
R292, R295, R296, R421, R488, R495). -/

namespace Sys2Proof.Machine

namespace Ring

/-- Blocks per round that leave this rank: its own and those it forwards. -/
def sentPerRound (r : Ring) : Nat := (r.n - 1) * r.blocks

/-- The i-th block to leave this rank: round, step and number (R280, R283). -/
def outBlock (r : Ring) (i : Nat) : Nat × Nat × Nat :=
  let x := i % max 1 r.sentPerRound
  (i / max 1 r.sentPerRound, x / max 1 r.blocks, x % max 1 r.blocks)

/-- The sequence number of a block (R280). -/
def seq (r : Ring) (b : Nat × Nat × Nat) : Nat := (b.1 * r.n + b.2.1) * r.blocks + b.2.2

def total (r : Ring) : Nat := r.rounds * r.n * r.blocks

/-- The slot of a block. -/
def slotOf (r : Ring) (b : Nat × Nat × Nat) : Nat := r.seq b % max 1 r.slots

/-- Bytes from slot 0 to a slot. -/
def slotOff (r : Ring) (k : Nat) : Nat := k * r.slotStride * 32

/-- Bytes of a block that travel: header lines 2 to 4 and everything past the header (R279). -/
def blockBytes (r : Ring) : Nat := 96 + 32 * (r.blockLines - 8)

/-- The next rank has granted the slot for a block (R284): every earlier block of the slot has been freed there. -/
def mayUse (r : Ring) (credits : List Nat) (b : Nat × Nat × Nat) : Bool :=
  decide (r.seq b / max 1 r.slots < credits.count (r.slotOf b))

/-- Credits this rank has given for its own slots, those held back among them. -/
def given (r : Ring) : List Nat := r.returned ++ r.heldBack

end Ring

namespace State

def ring? (s : State) (i : Nat) : Option Ring := s.net.rings.get? i
def modRing (s : State) (i : Nat) (f : Ring → Ring) : State := { s with net := { s.net with rings := s.net.rings.modify i f } }

/-- Destination holms of a ring, by l_global. -/
def ringDests (s : State) (r : Ring) : List Nat :=
  match s.ten.parts.get? r.part with
  | some p => r.dests.filterMap fun d => p.holms[d]?
  | none => []

/-- Every destination holm runs its invocation of the ring's work. -/
def ringUp (s : State) (r : Ring) : Bool :=
  (s.ringDests r).all fun lg => match s.physOf? lg with
    | some p => (s.holm p).st == .running && ((s.holm p).inv.map (·.work)) == some r.work
    | none => false

/-- The archipelago a ring runs in. -/
def ringArch (s : State) (r : Ring) : Nat := ((s.work? r.work).map (·.arch)).getD 0
def ringTenant (s : State) (r : Ring) : Nat := ((s.work? r.work).map (·.tenant)).getD 0

/-! ### Failure (R295, R296, R421, R495) -/

/-- A ring-abort toward one neighbour. -/
def ringAbort (s : State) (r : Ring) (idx : Nat) (st : Status) (failed : Nat) : State :=
  let arch := s.ringArch r
  match s.net.archs.get? arch with
  | none => s
  | some a =>
    let ports := if idx = r.nextIx then r.ports else s.directPorts a idx
    s.sendAbort arch idx 4 ports (abortBody 1 st.code failed r.num (((s.work? r.work).map (·.tide)).getD 0))

/-- A ring stops, and ring-aborts leave for the neighbours but the one the abort came from. -/
def stopRing (s : State) (i : Nat) (st : Status) (failed : Nat) (from_ : Option Nat) : State :=
  match s.ring? i with
  | none => s
  | some r =>
    if r.stopped.isSome then s
    else
      ([r.nextIx, r.prevIx].eraseDups.filter fun k => some k != from_).foldl (fun (s : State) k => s.ringAbort r k st failed)
        (s.modRing i fun r => { r with stopped := some st })

/-- This module's index in a ring's archipelago. -/
def ownIx (s : State) (arch : Nat) : Nat := ((s.net.archs.get? arch).map (·.own)).getD 0

/-- A physical holm has itself failed, and its role has still to move (R492). -/
def broken (s : State) (p : Nat) : Bool := s.flt.recovery.any fun c => c.row == 0 && c.phys == p && !c.swapped

/-- A unit of work fails: its first failure is its status, its invocations end, its rings stop and its collectives abort
(R296, R421, R495). -/
def failWork (s : State) (w : Nat) (st : Status) : State :=
  match s.work? w with
  | none => s
  | some wk =>
    if !wk.running ∨ wk.closeAt.isSome then s
    else
      let s1 := s.modWork w fun x => { x with status := if x.status.isDone then st else x.status, waves := [] }
      let s2 := (s1.runnersOf w).foldl (fun (s : State) p => s.leaveHolm p (if s.broken p then .faulted else .idle)) s1
      let s3 := s2.net.rings.foldl (fun (s : State) (e : Nat × Ring) =>
        if e.2.work = w then s.stopRing e.1 st (s.ownIx wk.arch) none else s) s2
      let s4 := s3.net.colls.foldl (fun (s : State) (e : Nat × Coll) =>
        if e.2.work = w then s.collFail e.1 e.2.rank st else s) s3
      s4.settle w

/-- A rank meets a failure that is not masked: the ring stops, aborts go both ways, and its work fails (R296). -/
def failRing (s : State) (i : Nat) (st : Status) : State :=
  match s.ring? i with
  | none => s
  | some r =>
    if r.stopped.isSome then s
    else (s.stopRing i st (s.ownIx (s.ringArch r)) none).failWork r.work st

/-! ### Blocks in slots (R279, R280) -/

/-- The slot of a block in the scratchpad of the first destination, or in memory: its bytes that travel. -/
def readSlot (s : State) (r : Ring) (slot : Nat) : Except Status (List Nat) :=
  let tail := 32 * (r.blockLines - 8)
  if r.mem then
    match s.memRead (s.ringTenant r) (r.slotBase + r.slotOff slot + 64) 96, s.memRead (s.ringTenant r) (r.slotBase + r.slotOff slot + 256) tail with
    | .ok a, .ok b => .ok (a ++ b)
    | .error e, _ => .error e
    | _, .error e => .error e
  else
    match (s.ringDests r).head?.bind s.physOf? with
    | none => .error .staleRole
    | some p =>
      let h := s.holm p
      let a := 4 * r.slotBase + r.slotOff slot
      if h.poisonedIn (a / 32 + 2) (a / 32 + 4) ∨ (tail ≠ 0 ∧ h.poisonedIn (a / 32 + 8) ((a + 256 + tail - 1) / 32)) then .error .memoryError
      else .ok (h.bytes (a + 64) 96 ++ h.bytes (a + 256) tail)

/-- A block is written into its slot: of every destination holm, or of memory (R279, R280). -/
def writeSlot (s : State) (r : Ring) (slot : Nat) (bs : List Nat) : Except Status State :=
  let head := bs.take 96
  let tail := bs.drop 96
  if r.mem then
    let a := r.slotBase + r.slotOff slot
    match s.memWrite (s.ringTenant r) (a + 64) head with
    | .error e => .error e
    | .ok s1 => s1.memWrite (s.ringTenant r) (a + 256) tail
  else
    let a := 4 * r.slotBase + r.slotOff slot
    .ok (((s.ringDests r).filterMap s.physOf?).foldl (fun (s : State) p =>
      s.modHolm p fun h => (h.putBytes (a + 64) head).putBytes (a + 256) tail) s)

/-- A landing is kept until the stage's next checkpoint, where it has any (R488). -/
def keepLanding (s : State) (r : Ring) (slot : Nat) (bs : List Nat) : State :=
  let ck := (((s.work? r.work).bind fun w => w.stages[r.stage]?).map fun (st : Stage) => !st.ckpts.isEmpty).getD false
  if !ck ∨ r.mem then s
  else
    let a := 4 * r.slotBase + r.slotOff slot
    s.modWork r.work fun w => { w with keep := w.keep ++ (s.ringDests r).flatMap fun lg =>
      [(lg, a + 64, bs.take 96, 0), (lg, a + 256, bs.drop 96, 0)] }

/-- The shuttle has finished with the block of a slot: one arrival at the slot's free barrier (R284). -/
def shuttleDone (s : State) (r : Ring) (slot : Nat) : State := s.barArrive r.work r.part (r.freeBar + slot) none

/-- In a backward ring, the destination's arrival at the slot's free barrier has taken effect (R283). -/
def backReady (s : State) (r : Ring) (b : Nat × Nat × Nat) : Bool :=
  !r.bwd ||
    match ((s.work? r.work).bind fun w => w.barriers.get? (barKey r.part (r.freeBar + r.slotOf b))) with
    | some x => x.phase == r.seq b / max 1 r.slots && (s.ringDests r).all x.arrived.contains
    | none => false

/-- The offset of a slot in the next rank's window. The sender's descriptor does not give where that window starts; its first
slot lies at an offset that the window was opened with. -/
def slotInWindow (r : Ring) (slot : Nat) : Nat := 32 * (Config.freeNat .choice r.window 5 % 1024) + r.slotOff slot

/-- A WRITE for the shuttle toward the next rank (R285). -/
def sendToNext (s : State) (i : Nat) (r : Ring) (off : Nat) (mcast : Bool) (bs : List Nat) (q : Nat) : State :=
  let arch := s.ringArch r
  match s.writeXfer arch r.nextIx r.window r.key off 1 bs with
  | none => s.failRing i .peerGone
  | some (x, s1) =>
    let y := if mcast then { x with hdr := x.hdr + 2 ^ 7 } else x
    match s1.sendXfer arch 4 r.ports q y (.ring i q) with
    | .error st => s.failRing i st
    | .ok s2 => s2.modRing i fun r => { r with outstanding := r.outstanding + 1 }

/-- The next block in order leaves, if it is at hand, a credit is held and its forwarding read may start (R283, R284). -/
def sendBlock (s : State) (i : Nat) (own : Bool) : State :=
  match s.ring? i with
  | none => s
  | some r =>
    let b := r.outBlock r.next
    let onward := (b.1, b.2.1 + 1, b.2.2)
    if r.stopped.isSome ∨ !s.ringUp r ∨ r.rounds ≤ b.1 ∨ (b.2.1 == 0) ≠ own ∨ !r.landed.contains b
        ∨ !r.mayUse r.credits onward ∨ !s.backReady r b then s
    else
      match s.readSlot r (r.slotOf b) with
      | .error st => s.failRing i st
      | .ok bs =>
        let s1 := s.modRing i fun r => { r with next := r.next + 1 }
        (s1.sendToNext i r (slotInWindow r (r.slotOf onward)) (!r.mem) bs (r.seq onward)).shuttleDone r (r.slotOf b)

/-- Accumulators of a block of the last step return to the origin rank, one hop further (R283, R292). -/
def sendBack (s : State) (i : Nat) : State :=
  match s.ring? i with
  | none => s
  | some r =>
    let b := (r.nextRet / max 1 r.blocks, r.n - 1, r.nextRet % max 1 r.blocks)
    if r.stopped.isSome ∨ !r.bwd ∨ !s.ringUp r ∨ r.rounds ≤ b.1 ∨ !r.landed.contains b ∨ !s.backReady r b then s
    else
      match s.readSlot r (r.slotOf b) with
      | .error st => s.failRing i st
      | .ok bs =>
        let s1 := s.modRing i fun r => { r with nextRet := r.nextRet + 1 }
        let acc := bs.drop (bs.length - 32 * r.accLines)
        (s1.sendToNext i r (32 * (Config.freeNat .choice r.window 6 % 1024)) false acc (r.total + r.nextRet)).shuttleDone r (r.slotOf b)

/-- Credits that have come from the next rank (R284). -/
def takeCredits (s : State) (i : Nat) (arrived : List Nat) : State :=
  s.modRing i fun r => { r with credits := (r.credits ++ arrived.filter (· < r.slots)).take (r.slots + r.total) }

/-! ### Landing (R281, R283, R285, R295) -/

/-- The ring a shuttle landing belongs to: of the tenant, from the previous rank, over the slots or, for returning
accumulators, the return area. -/
def ringFor (s : State) (arch : Nat) (x : Xfer) (t : Target) : Option (Nat × Ring × Option Nat) :=
  let mine := s.net.rings.filter fun ((_, r) : Nat × Ring) => s.ringArch r == arch && r.prevIx == x.src
  let inSlot (r : Ring) (a : Nat) (base : Nat) : Option Nat :=
    (List.range r.slots).find? fun k => a == base + r.slotOff k
  mine.findSome? fun (i, r) =>
    match t with
    | .scratch _ a => if r.mem ∨ x.len ≠ r.blockBytes then none else (inSlot r a (4 * r.slotBase)).map fun k => (i, r, some k)
    | .memory tn a =>
      if tn ≠ s.ringTenant r then none
      else if r.mem ∧ x.len = r.blockBytes ∧ (inSlot r a r.slotBase).isSome then (inSlot r a r.slotBase).map fun k => (i, r, some k)
      else if r.bwd ∧ x.len = 32 * r.accLines then some (i, r, none) else none
    | .transit => none

/-- What follows from the check of a transfer: its status and whether it is redirected, or its target. -/
def byTarget {α : Type} (r : Except (Status × Bool) Target) (bad : Status → Bool → α) (good : Target → α) : α :=
  match r with
  | .error (st, rd) => bad st rd
  | .ok t => good t

/-- What follows from the ring that a transfer concerns. -/
def byRing {α : Type} (r : Option (Nat × Ring × Option Nat)) (none_ : α) (some_ : Nat → Ring → Option Nat → α) : α :=
  match r with
  | none => none_
  | some (i, x, slot) => some_ i x slot

-- DESIGN CHOICE, unsafe: log 83.
/-- The block expected next in a slot: the lowest that has not landed (R284). -/
def expectedIn (r : Ring) (slot : Nat) : Option (Nat × Nat × Nat) :=
  ((List.range (r.rounds * r.n * r.blocks / max 1 r.slots + 1)).map fun k => k * r.slots + slot).findSome? fun q =>
    let b := (q / max 1 (r.n * r.blocks), q / max 1 r.blocks % max 1 r.n, q % max 1 r.blocks)
    if q < r.total ∧ !r.landed.contains b then some b else none

/-- A forward block at its slot: it must be the one the slot expects, and is counted (R281, R283, R284, R295). -/
def landSlot (s : State) (port arch i : Nat) (r : Ring) (slot : Nat) (x : Xfer) : State :=
  match expectedIn r slot with
  | none => (s.reply port arch x .badCommand false []).failRing i .badCommand
  | some b =>
    if r.stopped.isSome then s.reply port arch x .aborted false []
    else if b.2.1 = 0 ∨ !r.mayUse r.given b then (s.reply port arch x .badCommand false []).failRing i .badCommand
    else
      match s.writeSlot r slot x.data with
      | .error st => s.reply port arch x st false []
      | .ok s1 =>
        let s2 := (s1.keepLanding r slot x.data).modRing i fun r => { r with landed := r.landed ++ [b] }
        let s3 := if b.2.1 + 1 = r.n ∧ !r.bwd then s2.shuttleDone r slot else s2
        ((s3.countLandings r.work).reply port arch x .done false []).settle r.work

/-- The accumulators of a backward ring come back to where they set out from (R283). -/
def landReturn (s : State) (port arch i : Nat) (r : Ring) (x : Xfer) : State :=
  let k := (r.landed.filter fun b => b.2.1 == r.n).length
  let b := (k / max 1 r.blocks, r.n, k % max 1 r.blocks)
  if r.stopped.isSome ∨ r.rounds ≤ b.1 then s.reply port arch x .aborted false []
  else match s.memWrite (s.ringTenant r) (r.retBase + k * 32 * r.accLines) x.data with
    | .error st => s.reply port arch x st false []
    | .ok s1 =>
      (((s1.modRing i fun r => { r with landed := r.landed ++ [b] }).countLandings r.work).reply port arch x .done false []).settle r.work

/-- A block of the shuttle lands and is counted in count order (R281); a block that no ring expects fails at the sender. -/
def landBlock (s : State) (port arch : Nat) (x : Xfer) : State :=
  byTarget (s.checkXfer port x) (fun st rd => (s.countKeyFail port x).reply port arch x st rd []) fun t =>
    byRing (s.ringFor arch x t) (s.reply port arch x .badCommand false []) fun i r slot => match slot with
      | some k => s.landSlot port arch i r k x
      | none => s.landReturn port arch i r x

/-! ### Origin blocks (R282) -/

/-- The next origin block of a ring whose blocks the walker fetches. -/
def fetchOrigin (s : State) (i : Nat) (lost : Bool) : State :=
  match s.ring? i with
  | none => s
  | some r =>
    let k := r.origin.length
    let b := (k / max 1 r.blocks, 0, k % max 1 r.blocks)
    if r.orig ∨ r.stopped.isSome ∨ !s.ringUp r ∨ r.rounds ≤ b.1 ∨ !r.granted ∨ !r.mayUse r.given b then s
    else
      match s.kvCtx (s.ringTenant r) with
      | none => s.failRing i .badAddress
      | some c =>
        let wk : Walk := { id := 0, phys := 0, ch := 0, tile := 0, walker := r.quad, handle := r.handle
                           sel := 2 ^ 2 * r.head + 2 ^ 6 * r.hcnt, sreg := 0, treg := r.token0 + b.2.2 * r.tokens, tokens := r.tokens
                           layer := r.layer + (if r.lstep then b.1 else 0), incT := 0, pc := 0, landed := false, header := [], failed := none }
        match wk.run c (fun _ => 0) lost with
        | .error st => s.failRing i st
        | .ok o =>
          let img : Mem := (o.rows ++ o.header).foldl (fun (m : Mem) (a, bs) => m.write a bs) []
          let old := match s.readSlot r (r.slotOf b) with | .ok x => x | .error _ => []
          let rows := (List.range (32 * (r.blockLines - 8))).map fun j =>
            if o.rows.any fun (a, bs) => decide (a ≤ 256 + j ∧ 256 + j < a + bs.length) then (img.get (256 + j)).toNat else old.getD (96 + j) 0
          let bs := img.read 64 96 ++ rows
          match s.writeSlot r (r.slotOf b) bs with
          | .error st => s.failRing i st
          | .ok s1 =>
            (((s1.touch r.work c.tid o.reads).keepLanding r (r.slotOf b) bs).modRing i fun r => { r with
              origin := r.origin ++ [(b.1, b.2.2)], landed := r.landed ++ [b] }).countLandings r.work

end State

end Sys2Proof.Machine
end

