-- ==== Sys2Proof/Machine/Shuttle.lean ====
section
/-! DEFINITION. The shuttle's operations and events (R281 to R286, R295, R296). -/

namespace Sys2Proof.Machine

/-- The shuttle fetches the next origin block through the walker of its quadrant; blocks that the program writes are taken at
their ready-barrier release (R282). -/
def execOriginBlockFetch (rid : Nat) (lost : Bool) (s : State) : Out := .next (s.fetchOrigin rid lost)

/-- The next own block leaves for the next rank; `arrived` lists the slots whose credits have come from there (R283, R284). -/
def execShuttleBlockSend (rid : Nat) (arrived : List Nat) (s : State) : Out := .next ((s.takeCredits rid arrived).sendBlock rid true)

/-- A shuttle transfer that concerns a ring, or none. -/
def State.landsIn (s : State) (rid : Nat) (e : Nat × Nat × Xfer) : Bool :=
  State.byTarget (s.checkXfer e.1 e.2.2) (fun _ _ => true) fun t => State.byRing (s.ringFor e.2.1 e.2.2 t) true fun i _ _ => i == rid

/-- The oldest transfer told to the shuttle that concerns the ring lands, or is refused (R281, R285). -/
def execShuttleBlockLanding (rid : Nat) (s : State) : Out :=
  .next (match s.net.shuttleIn.find? (s.landsIn rid) with
    | none => s
    | some (port, arch, x) =>
      ({ s with net := { s.net with shuttleIn := s.net.shuttleIn.erase (port, arch, x) } } : State).landBlock port arch x)

/-- A received block is read and sent on; in a backward ring the accumulators of the last step return to their origin (R283). -/
def execShuttleForward (rid : Nat) (arrived : List Nat) (s : State) : Out :=
  .next (((s.takeCredits rid arrived).sendBlock rid false).sendBack rid)

/-- Once every destination holm has started, the rank grants its slots to the previous rank (R284). -/
def execSlotCreditGrant (rid : Nat) (s : State) : Out :=
  .next (match s.ring? rid with
    | none => s
    | some r =>
      if r.granted ∨ r.stopped.isSome ∨ !s.ringUp r then s
      else s.modRing rid fun r => { r with granted := true, returned := r.returned ++ List.range r.slots })

/-- The first abort of a kind that has arrived on a port, lowest port first, and the archipelago it came by; it is checked by the
first rows of R374 only (R409). -/
def State.popAbort (s : State) (kind : Nat) : Option (Option Nat × Xfer × State) :=
  (List.range 32).findSome? fun i =>
    match s.popArrived i fun _ x => x.ty == 5 && s.forMe i x && (x.data.headD 0 % 16 == kind || (kind == 1 && x.data.headD 0 % 16 != 2)) with
    | none => none
    | some (_, x, s1) =>
      let ok := x.status == 0 && x.len == 32 && x.inc == s.net.inc % 2 ^ 32
      match s.archOfPort i with
      | some (arch, a) => some (if ok && (a.members.get? x.src).isSome then some arch else none, x, s1)
      | none => some (none, x, s1)

/-- A ring-abort arrives: the ring stops, the abort travels on, and the tide ends ABORTED (R296, R409). -/
def execRingAbortReceive (s : State) : Out :=
  .next (match s.popAbort 1 with
    | none => s
    | some (none, _, s1) => s1
    | some (some arch, x, s1) =>
      let b := ofBytes x.data
      let hit := s1.net.rings.find? fun ((_, r) : Nat × Ring) =>
        s1.ringArch r == arch && r.num == fld b 32 8 && (r.nextIx == x.src || r.prevIx == x.src) && r.stopped.isNone
          && fld b 0 4 == 1 && fld b 64 64 == ((s1.work? r.work).map (·.tide)).getD 0 % 2 ^ 64
      match hit with
      | none => s1
      | some (i, r) => (s1.stopRing i .aborted (fld b 16 10) (some x.src)).failWork r.work .aborted)

/-- A rank meets a failure that is not masked (R295, R296); only a failure of a ring that runs has an effect. -/
def execRingFailure (rid status : Nat) (s : State) : Out :=
  .next (match Status.ofCode? status, s.ring? rid with
    | some st, some r =>
      if st.isDone ∨ !(((s.work? r.work).map (·.running)).getD false) then s else s.failRing rid st
    | _, _ => s)

end Sys2Proof.Machine
end

