-- ==== Sys2Proof/Machine/Collective.lean ====
section
/-! DEFINITION. The collective engine's operations and events (R407 to R421). -/

namespace Sys2Proof.Machine

namespace State

/-- The collective that a piece names: active for the tenant of the archipelago it came by (R407). -/
def collOf (s : State) (arch : Nat) (p : Piece) : Option (Nat × Coll) :=
  s.net.colls.find? fun ((_, c) : Nat × Coll) =>
    c.id == p.id && c.arch == arch && !c.done && ((s.net.archs.get? arch).map (·.tenant)) == some c.tenant

/-- The first piece told to the engine that meets a condition and whose collective is active, and the state without it. A piece
whose collective has not become active yet waits; one that no descriptor here names is taken and dropped. -/
def popPiece (s : State) (f : Nat → Piece → Bool) : Option (Nat × Nat × Piece × State) :=
  match s.net.pieceIn.find? fun (_, arch, p) => f arch p &&
      (((s.collOf arch p).map fun (_, c) => c.active).getD true) with
  | none => none
  | some (port, arch, p) => some (port, arch, p, { s with net := { s.net with pieceIn := s.net.pieceIn.erase (port, arch, p) } })

/-- The piece has another destination: it is in transit (R408). -/
def inTransit (s : State) (arch : Nat) (p : Piece) : Bool := p.dstIdx != s.ownIx arch

/-- The checks of R407 that every piece for this rank passes. -/
def pieceOk (s : State) (c : Coll) (p : Piece) : Bool :=
  p.op == c.op && p.dst == c.rank && decide (p.src < c.n) && p.src != c.rank
    && (match s.checkWindow c.arch c.tenant ⟨Xfer.header 1 0 0 0 0 0 0 0 2 (64 + (if p.kind = 1 ∧ !c.reduces then p.bytes else 0)) p.win p.key
          (c.dstOff + (if p.kind = 1 ∧ !c.reduces then p.off else 0)) 0, []⟩ with
        | .ok _ => true
        | .error _ => false)

/-- A DATA piece at its destination: written to the output, or into a slot of the collector (R407, R415, R416). -/
def takeData (s : State) (i : Nat) (c : Coll) (p : Piece) (es : List Nat) : State :=
  if !s.pieceOk c p ∨ !c.agrees (s.streams c) p ∨ p.data.length < p.bytes then s.collFail i p.src .badCommand
  else if c.failed p.src then s
  else
    let gather := c.op = 3 ∧ p.off ≠ c.ownAt + c.outAt (4096 * p.num)
    if (c.reduces ∧ !decide gather) ∨ c.routed then
      if (c.held.filter fun q => q.src == p.src).length ≥ c.slots then s.collFail i p.src .badCommand
      else s.modColl i fun c => { c with held := c.held ++ [{ p with idx := es }] }
    else if c.indexed ∧ c.rows.has p.off then (s.spoilOut i (p.off / max 1 c.block * c.block) c.block).collFail i p.src .badCommand
    else
      match s.putOut c p.off p.body with
      | .error st => s.collFail i p.src st
      | .ok s1 => s1.modColl i fun c =>
          { c.modEntry p.src (fun e => { e with landed := e.landed + 1 }) with
            rows := if c.indexed then Ranges.add p.off p.off c.rows else c.rows
            gathered := if c.op = 3 then c.gathered.set p.src (c.gathered.getD p.src 0 + 1) else c.gathered }

end State

/-- A piece arrives: in transit it takes a transit slot, else it is checked and written or put into a collector slot; `idx` are
the route entries of a ROUTED piece's rows (R407, R408, R414). -/
def execCollectivePieceArrival (idx : List Nat) (s : State) : Out :=
  .next (match s.popPiece fun arch p => s.inTransit arch p || p.kind == 1 || p.kind == 0 || 4 < p.kind with
    | none => s
    | some (port, arch, p, s1) =>
      if s.inTransit arch p then
        let cls := ((List.range 2).find? fun c => decide ((s.net.transit.filter fun ((_, t) : Nat × Transit) => t.cls == c).length < 64)).getD 2
        if cls = 2 then s
        else
          let k := AMap.freeKey s.net.transit 128 0
          { s1 with net := { s1.net with transit := s1.net.transit.set k ⟨arch, cls, p, port⟩ } }
      else match s.collOf arch p with
        | none => s1
        | some (i, c) => if p.kind = 1 then s1.takeData i c p idx else s1.collFail i p.src .badCommand)

/-- The collector consumes the held pieces of one index, in ascending part index and then source rank, returns their credits,
and combines once every part is at hand (R410, R412, R414, R416). -/
def execCollectorCombine (cid piece : Nat) (s : State) : Out :=
  .next (match s.coll? cid with
    | none => s
    | some c =>
      if !c.active ∨ c.done then s
      else
        let mine := sortBy (fun (a b : Piece) => decide (a.part < b.part ∨ (a.part = b.part ∧ a.src < b.src))) (c.held.filter fun p => p.num == piece)
        let s1 := s.modColl cid fun c => { c with held := c.held.filter fun p => p.num != piece }
        let take (s : State) (p : Piece) : State :=
          match s.coll? cid with
          | none => s
          | some c1 =>
            if c1.routed then (s.landRows cid p.src p.off (.ok p.body) p.idx).giveCredits cid p.src 1
            else
              let got := c1.consumed.getD piece []
              if got.any fun (k, _, _) => k == p.part then (s.collFail cid p.src .badCommand).giveCredits cid p.src 1
              else (s.modColl cid fun c => { c.modEntry p.src (fun e => { e with landed := e.landed + 1 }) with
                consumed := c.consumed.set piece (got ++ [(p.part, p.off, p.body)]) }).giveCredits cid p.src 1
        let s2 := mine.foldl take s1
        if c.routed then s2.pumpColl cid else ((s2.combinePiece cid piece).mergeAll cid).pumpColl cid)

/-- A CREDIT piece arrives (R416). -/
def execCollectiveCreditReceive (s : State) : Out :=
  .next (match s.popPiece fun arch p => !s.inTransit arch p && p.kind == 4 with
    | none => s
    | some (_, arch, p, s1) =>
      match s.collOf arch p with
      | none => s1
      | some (i, c) =>
        if !s.pieceOk c p ∨ p.bytes ≠ 0 then s1.collFail i p.src .badCommand
        else (s1.modColl i fun c => { c with credits := c.credits.set p.src (c.credits.getD p.src 0 + p.num) }).pumpColl i)

/-- A COUNT piece arrives; with all n counts the destination grants (R414). -/
def execAlltoallCountReceive (s : State) : Out :=
  .next (match s.popPiece fun arch p => !s.inTransit arch p && p.kind == 2 with
    | none => s
    | some (_, arch, p, s1) =>
      match s.collOf arch p with
      | none => s1
      | some (i, c) =>
        if !s.pieceOk c p ∨ !c.routed ∨ p.bytes ≠ 256 ∨ (c.counts.get? p.src).isSome then s1.collFail i p.src .badCommand
        else
          let s2 := s1.modColl i fun c => { c with counts := c.counts.set p.src ((chunks 4 p.body).map ofBytes) }
          (((s2.giveCredits i p.src 1).grantRows i).ownRows i).pumpColl i)

/-- A GRANT piece arrives: the granted rows are sent, the rest are dropped (R414). -/
def execAlltoallGrantReceive (s : State) : Out :=
  .next (match s.popPiece fun arch p => !s.inTransit arch p && p.kind == 3 with
    | none => s
    | some (_, arch, p, s1) =>
      match s.collOf arch p with
      | none => s1
      | some (i, c) =>
        if !s.pieceOk c p ∨ !c.routed ∨ p.bytes ≠ 256 ∨ (c.grants.get? p.src).isSome then s1.collFail i p.src .badCommand
        else
          let g := (chunks 4 p.body).map fun b => (ofBytes (b.take 2), ofBytes (b.drop 2))
          (s1.takeGrant i p.src g).pumpColl i)

/-- A piece in a transit slot is sent on unchanged (R408). -/
def execTransitForward (slot : Nat) (s : State) : Out :=
  .next (match s.net.transit.get? slot with
    | none => s
    | some t =>
      let s1 : State := { s with net := { s.net with transit := s.net.transit.del slot } }
      match s1.sendPieceOn t.arch t.piece (.transit slot) with
      | .ok s2 => s2
      | .error _ => s1)

/-- The holm whose MMA feeds a collective (R418). -/
def State.emitter (s : State) (c : Coll) : Option Nat :=
  ((s.ten.parts.get? c.part).bind fun p => p.holms[c.srcHolm]?).bind s.physOf?

/-- After a chunk's last write the engine reads it and hands it to the bound collective (R307, R418). -/
def execMmaEmitChunk (cid row chunk : Nat) (s : State) : Out :=
  .next (match s.coll? cid with
    | none => s
    | some c =>
      match s.emitter c with
      | none => s
      | some p =>
        let h := s.holm p
        match h.inFlight.find? fun f => f.emits.contains (row, chunk) && (s.boundColl h f.cslot).map (·.ord) == some c.ord with
        | none => s
        | some f =>
          let (base, stride, w, n) := f.emitAt
          let e := row * n + 64 * chunk
          let len := min 64 (n - 64 * chunk)
          let bs := h.bytes (4 * (base + stride * row) + 64 * chunk * w / 8) (len * w / 8)
          let k := row * ((n + 63) / 64) + chunk
          let s1 := s.setHolm p { h with inFlight := h.inFlight.map fun g => if g = f then { g with emits := g.emits.erase (row, chunk) } else g }
          if !c.active ∨ c.done ∨ (c.emitted.any fun (x, y, _) => x == k && y == e) then s1
          else
            let s2 := s1.modColl cid fun c => { c with emitted := c.emitted ++ [(k, e, bs)] }
            let s3 := if c.op = 1 then s2.landOwn cid (c.rank * c.block + c.inBytes e) (.ok bs) 1
              else (s2.combinePiece cid k)
            s3.pumpColl cid)

/-- A collective ABORT arrives (R409, R421): the status is recorded for the failed rank, pieces that depended on it are given up
and their credits returned. -/
def execCollectiveAbortReceive (s : State) : Out :=
  .next (match s.popAbort 2 with
    | none => s
    | some (none, _, s1) => s1
    | some (some arch, x, s1) =>
      let b := ofBytes x.data
      match s1.net.colls.find? fun ((_, c) : Nat × Coll) => c.id == fld b 32 32 && c.arch == arch && c.active && !c.done
          && c.tide % 2 ^ 64 == fld b 64 64, Status.ofCode? (fld b 8 8) with
      | some (i, c), some st =>
        if st.isDone ∨ c.n ≤ fld b 16 10 then s1
        else
          let s2 := s1.recordFail i (fld b 16 10) st
          if c.reduces ∨ c.routed then
            (c.held.foldl (fun (s : State) p => s.giveCredits i p.src 1) s2).modColl i fun c => { c with held := [] }
          else s2
      | _, _ => s1)

/-- The collective completes on this rank and writes its status record; the end of its work may follow (R419, R420). The
destination of an INDEXED exchange is not told how many rows will come: that command says that they have. -/
def execCollectiveComplete (cid : Nat) (s : State) : Out :=
  .next (match s.coll? cid with
    | none => s
    | some c => if s.collThrough c then (s.completeColl cid).settle c.work else s)

end Sys2Proof.Machine
end

