-- ==== Sys2Proof/Machine/Abstract.lean ====
section
/-! DEFINITION. Abstract operations, alone, in a BATCH or in an operation list: COPY, GEMM and ATTEND, and the addresses that
commands name (R20, R359, R433, R439, R441). -/

namespace Sys2Proof.Machine

/-! ### Address arguments (R433) -/

/-- The form of an address: host, with its bits 62 to 0, or tenant; none where bits 62 to 48 of a tenant address are set. -/
def addrForm (a : Nat) : Option (Bool × Nat) :=
  if bitAt a 63 then some (true, a % 2 ^ 63) else if a < 2 ^ 48 then some (false, a) else none

namespace State

/-- Bytes at an address argument of a function's tenant; PF0 has no tenant space. -/
def argRead (s : State) (t : Option Nat) (a n : Nat) : Except Status (List Nat) :=
  match addrForm a, t with
  | some (true, h), _ => match s.hostRead h n with | some bs => .ok bs | none => .error .badAddress
  | some (false, v), some t => s.memRead t v n
  | _, _ => .error .badAddress

def argWrite (s : State) (t : Option Nat) (a : Nat) (bs : List Nat) : Except Status State :=
  match addrForm a, t with
  | some (true, h), _ => match s.hostWrite h bs with | some s1 => .ok s1 | none => .error .badAddress
  | some (false, v), some t => s.memWrite t v bs
  | _, _ => .error .badAddress

/-- The first byte of an address argument is readable or mapped (R434 row 5). -/
def argMapped (s : State) (t : Option Nat) (a : Nat) : Bool :=
  match addrForm a, t with
  | some (true, h), _ => s.hostOk h 1
  | some (false, v), some t => match s.tenant? t with
    | some x => (x.table.get? (v / regionSize)).isSome
    | none => false
  | _, _ => false

-- DEDUCED, unsafe: log 24.
/-- A range of which a write has failed part-way is undefined where it can still be written (R359). -/
def spoilRange (s : State) (t : Option Nat) (a n : Nat) : State :=
  let (tag, s1) := s.takeFree 1
  (MemState.pieces regionSize (n + 1) a n).foldl (fun (s : State) (b, k) =>
    match s.argWrite t b ((List.range k).map fun i => Config.freeNat .undefByte tag (b - a + i) % 256) with
    | .ok s2 => s2
    | .error _ => s) s1

/-- The end of work that has touched ranges at address arguments: degraded where one lies on a failed memory element (R359). -/
def doneOr (s : State) (t : Nat) (rs : List (Nat × Nat)) : Status :=
  if rs.any fun r => !bitAt r.1 63 && s.meets t r.1 r.2 then .doneDegraded else .done

/-! ### COPY (R359, R439) -/

-- DEDUCED, unsafe: log 25.
/-- A copy: the source is read whole; a destination that cannot be written whole is undefined where it is mapped. -/
def copyOp (s : State) (t src dst n : Nat) : State × Status :=
  match s.argRead (some t) src n with
  | .error e => (s, e)
  | .ok bs =>
    match s.argWrite (some t) dst bs with
    | .ok s1 => (s1, s.doneOr t [(src, n), (dst, n)])
    | .error e => (if e = .badAddress ∨ e = .noPermission then s.spoilRange (some t) dst n else s, e)

end State

/-! ### GEMM (R104 to R116, R441) -/

/-- The fields of a GEMM entry (R439). -/
structure Gemm where
  a : Nat
  b : Nat
  c : Nat
  init : Nat
  m : Nat
  n : Nat
  k : Nat
  aFmt : EFmt
  bFmt : EFmt
  cFmt : EFmt
  sat : Bool
  scaleEn : Bool
  sigma : Nat
  deriving DecidableEq, Repr

/-- Byte o of an entry, n bytes long (R432). -/
def argOf (raw o n : Nat) : Nat := fld raw (8 * o) (8 * n)

def fmtAt (raw o : Nat) : Option EFmt := if argOf raw o 1 ≤ 6 then EFmt.ofCode? (argOf raw o 1) else none

def Gemm.mk? (raw : Nat) : Option Gemm :=
  match fmtAt raw 76, fmtAt raw 77, fmtAt raw 78 with
  | some fa, some fb, some fc =>
    let g : Gemm := ⟨argOf raw 32 8, argOf raw 40 8, argOf raw 48 8, argOf raw 56 8, argOf raw 64 4, argOf raw 68 4, argOf raw 72 4,
      fa, fb, fc, bitAt raw 632, bitAt raw 633, argOf raw 80 4⟩
    match mclass fa fb with
    | none => none
    | some cl =>
      let ok := match fc with | .int8 => false | .int32 => cl == .integer && !g.scaleEn | _ => true
      if ok && fld raw 634 6 == 0 && (g.scaleEn || g.sigma == 0) then some g else none
  | _, _, _ => none

namespace Gemm

/-- The value of element i of packed bytes. -/
def elem (f : EFmt) (bs : List Nat) (i : Nat) : Num := f.value (ofBytes ((bs.drop (i * f.width / 8)).take (f.width / 8)))

/-- An output element: one chain over ascending K (R108, R109, R114, R118, R441). -/
def val (g : Gemm) (as bs is : List Nat) (r c : Nat) : Num :=
  let ps := (List.range g.k).map fun k => (elem g.aFmt as (r * g.k + k)).mul (elem g.bFmt bs (c * g.k + k))
  let start := ofBytes ((is.drop (4 * (r * g.n + c))).take 4)
  match mclass g.aFmt g.bFmt with
  | some .integer =>
    let x := accumulateInt start ps
    if g.cFmt == .int32 then EFmt.int32.value x
    else
      let f := rneFp32 (EFmt.int32.value x)
      Flt.fp32.decode (if g.scaleEn then fp32Mul f g.sigma else f)
  | some cl =>
    let x := accumulate cl start (ps.map some)
    Flt.fp32.decode (if g.scaleEn then fp32Mul x g.sigma else x)
  | none => .nan

end Gemm

namespace State

-- DESIGN CHOICE, unsafe: log 26.
/-- One GEMM: operands are read, C is written packed (R441). -/
def gemmOp (s : State) (t : Nat) (g : Gemm) : State × Status :=
  let size (f : EFmt) (k : Nat) : Nat := k * f.width / 8
  match s.argRead (some t) g.a (size g.aFmt (g.m * g.k)), s.argRead (some t) g.b (size g.bFmt (g.n * g.k)),
      (if g.init = 0 then .ok [] else s.argRead (some t) g.init (4 * g.m * g.n)) with
  | .error e, _, _ => (s, e)
  | _, .error e, _ => (s, e)
  | _, _, .error e => (s, e)
  | .ok as, .ok bs, .ok is =>
    let out := (List.range g.m).flatMap fun r => (List.range g.n).flatMap fun c =>
      toBytes (toCode g.cFmt g.sat (g.val as bs is r c)) (g.cFmt.width / 8)
    match s.argWrite (some t) g.c out with
    | .ok s1 => (s1, s.doneOr t [(g.a, size g.aFmt (g.m * g.k)), (g.b, size g.bFmt (g.n * g.k)), (g.c, out.length), (g.init, if g.init = 0 then 0 else 4 * g.m * g.n)])
    | .error e => (s.spoilRange (some t) g.c out.length, e)

end State

/-! ### ATTEND (R182 to R188, R249 to R251, R441) -/

/-- The fields of an ATTEND entry (R439). -/
structure Attend where
  handle : Nat
  layer : Nat
  head : Nat
  rows : Nat
  causal : Bool
  bf16 : Bool
  scale : Nat
  window : Nat
  q : Nat
  table : Nat
  y : Nat
  stat : Nat
  deriving DecidableEq, Repr

def Attend.mk? (raw : Nat) : Option Attend :=
  let a : Attend := ⟨argOf raw 32 4, argOf raw 36 1, argOf raw 37 1, argOf raw 38 1, bitAt raw 312, bitAt raw 313, argOf raw 40 4,
    argOf raw 44 4, argOf raw 48 8, argOf raw 56 8, argOf raw 64 8, argOf raw 72 8⟩
  if 1 ≤ a.rows ∧ a.rows ≤ 128 ∧ fld raw 314 6 = 0 ∧ a.window < 2 ^ 26 then some a else none

namespace Attend

/-- Where the operands lie in the holm that runs the chain, by word address: the landing area at 0, then Q, the row table, O, the
statistics, the S-buffer, Y and the control block. -/
def qAt : Nat := 0x20000
def tabAt : Nat := 0x28000
def oAt : Nat := 0x30000
def statAt : Nat := 0x40000
def sAt : Nat := 0x48000
def yAt : Nat := 0x60000

/-- The control block of one step over n tokens (R172, R173). -/
def block (a : Attend) (d : Nat) (kf vf : EFmt) (n : Nat) (first : Bool) (img : Mem) : Acb :=
  let code (f : EFmt) : Nat := match f with | .e4m3 => 0 | .e5m2 => 1 | .bf16 => 2 | _ => 3
  let rk := (d * (kf.width / 8) + 31) / 32
  let rv := (d * (vf.width / 8) + 31) / 32
  ⟨qAt + 2 ^ 20 * 64 + 2 ^ 40 * (64 + 8 * 256 * rk) + 2 ^ 60 * oAt + 2 ^ 80 * statAt + 2 ^ 100 * tabAt + 2 ^ 120 * sAt
    + 2 ^ 144 * (d * 2 / 32 + (if d % 16 = 0 then 0 else 1)) + 2 ^ 161 * rk + 2 ^ 178 * rv + 2 ^ 195 * ((d + 7) / 8)
    + 2 ^ 216 * a.rows + 2 ^ 224 * n + 2 ^ 233 * d + 2 ^ 242 * 2 + 2 ^ 244 * code kf + 2 ^ 246 * code vf + 2 ^ 248 * 2
    + 2 ^ 256 * a.scale + 2 ^ 336 * a.causal.toNat + 2 ^ 337 * (if a.window = 0 then 0 else 1) + 2 ^ 339 + 2 ^ 341 * first.toNat
    + 2 ^ 352 * a.window + 2 ^ 512 * img.readLE 64 64 + 2 ^ 1024 * img.readLE 128 32⟩

/-- Bytes written at a byte address, and words by word address. -/
def putW (m : Mem) (ws : List (Nat × Nat)) : Mem := ws.foldl (fun (m : Mem) (w, v) => m.writeLE (4 * w) v 4) m

end Attend

namespace State

/-- The block of tokens from b * 256, as the walker of the holm's quadrant lands it, and the ranges fetched (R250, R251, R441). -/
def attendTile (c : KvCtx) (a : Attend) (b : Nat) (m : Mem) : Except Status (Mem × List (Nat × Nat)) :=
  let wk : Walk := { id := 0, phys := 0, ch := 0, tile := 0, walker := 0, handle := a.handle, sel := 2 ^ 2 * a.head, sreg := 0
                     treg := 256 * b, tokens := 256, layer := a.layer, incT := 0, pc := 0, landed := false, header := [], failed := none }
  match wk.run c (fun _ => 0) false with
  | .error e => .error e
  | .ok o => .ok ((o.rows ++ o.header).foldl (fun (m : Mem) (at_, bs) => m.write at_ bs) m, o.reads)

/-- The chain of steps over the blocks from number b (R441). -/
def attendSteps (c : KvCtx) (a : Attend) (d len : Nat) (kf vf : EFmt) : Nat → Nat → Mem → List (Nat × Nat) → Except Status (Mem × List (Nat × Nat))
  | 0, _, m, rs => .ok (m, rs)
  | f + 1, b, m, rs =>
    if b ≠ 0 ∧ len ≤ 256 * b then .ok (m, rs)
    else
      match (if len ≤ 256 * b then .ok (m, []) else attendTile c a b m) with
      | .error e => .error e
      | .ok (m1, new) =>
        let cb := a.block d kf vf (min 256 (len - 256 * b)) (b == 0) m1
        match cb.ats (fun x => (m1.get x).toNat) (fun _ => ⟨[], []⟩) [] with
        | .error e => .error e
        | .ok o => attendSteps c a d len kf vf f (b + 1) (Attend.putW m1 o.writes) (rs ++ new)

/-- One ATTEND: a chain of ATS over the committed tokens, then ATF (R441). -/
def attendOp (s : State) (t : Nat) (a : Attend) : State × Status :=
  match s.kvCtx t with
  | none => (s, .badAddress)
  | some c =>
    match c.kv.validDesc t a.handle with
    | none => (s, .badAddress)
    | some (_, dsc) =>
      match c.kv.pools.get? dsc.pool with
      | none => (s, .badAddress)
      | some q =>
        let cb0 := a.block q.d q.kf q.vf 0 true []
        if q.layers ≤ a.layer ∨ q.h ≤ a.head ∨ !cb0.fieldsOk ∨ !cb0.extentsOk ∨ !cb0.comboOk then (s, .badCommand)
        else match s.argRead (some t) a.q (2 * q.d * a.rows), s.argRead (some t) a.table (4 * a.rows) with
          | .error e, _ => (s, e)
          | _, .error e => (s, e)
          | .ok qs, .ok tab =>
            let rowB := 2 * q.d
            let m0 := (List.range a.rows).foldl (fun (m : Mem) r =>
              m.write (4 * Attend.qAt + 32 * (q.d * 2 / 32 + (if q.d % 16 = 0 then 0 else 1)) * r) ((qs.drop (rowB * r)).take rowB))
              (Mem.write [] (4 * Attend.tabAt) tab)
            match attendSteps c a q.d dsc.len q.kf q.vf (dsc.len / 256 + 2) 0 m0 [] with
            | .error e => (s, e)
            | .ok (m1, rs) =>
              let cb := a.block q.d q.kf q.vf 0 false []
              let yf : EFmt := if a.bf16 then .bf16 else .fp32
              match cb.atf (fun x => (m1.get x).toNat) ⟨Attend.yAt, 256, yf, false⟩ [] s.free with
              | .error e => (s, e)
              | .ok o =>
                let m2 := Attend.putW m1 o.writes
                let ys := (List.range a.rows).flatMap fun r => m2.read (4 * (Attend.yAt + 256 * r)) (yf.width / 8 * q.d)
                let st := m2.read (4 * Attend.statAt) (16 * a.rows)
                match ({ s with free := s.free + 65536 } : State).argWrite (some t) a.y ys with
                | .error e => (s.spoilRange (some t) a.y ys.length, e)
                | .ok s1 => match s1.argWrite (some t) a.stat st with
                  | .error e => (s1.spoilRange (some t) a.stat st.length, e)
                  | .ok s2 => (s2, s.doneOr t (rs ++ [(a.q, 2 * q.d * a.rows), (a.table, 4 * a.rows), (a.y, ys.length), (a.stat, st.length)]))

/-- The lowest holm, by l_global, of a tenant's partitions that is IDLE and that no started plan uses (R20). -/
def idleHolm? (s : State) (t : Nat) : Option Nat :=
  ((List.range 256).filter fun lg => s.tenantOfLg lg == some t && !s.holmPlanned lg).find? fun lg =>
    match s.physOf? lg with
    | some p => ((s.holm p).st == .idle || (s.holm p).st == .gated) && (s.holm p).inv.isNone
    | none => false

end State

end Sys2Proof.Machine
end

