-- ==== Sys2Proof/Machine/Tiers.lean ====
section
/-! DEFINITION. The memory tiers as units of their own: reads and writes, failed elements, patrol scrub, the balance monitor,
migration, compaction and zeroing, and changes of translation (R330 to R358, R454, R460, R461). -/

namespace Sys2Proof.Machine

namespace MemState

/-- Regions of the HBM data range (R334). -/
def regions (m : MemState) : Nat := hbmEnd m.hbmParity / regionSize

/-- A DPA region that is not issued and has been zeroed (R331). -/
def regionFree (m : MemState) (r : Nat) : Bool :=
  decide (r < m.regions) && (m.issued.get? r).isNone && m.zeroing.all fun z => z.tier != 1 || z.target != r

/-- The lowest free DPA region from a number up, in at most `fuel` tries. -/
def freeFrom (m : MemState) : Nat → Nat → Option Nat
  | 0, _ => none
  | f + 1, r => if m.regions ≤ r then none else if m.regionFree r then some r else freeFrom m f (r + 1)

-- DESIGN CHOICE, safe: log 23.
def freeRegion? (m : MemState) : Option Nat := m.freeFrom (m.issued.length + m.zeroing.length + 1) 0

/-- A DPA region is issued to a tenant, with a fresh key (R335, R336). -/
def issue (m : MemState) (r tenant free : Nat) : MemState :=
  let k := BitVec.ofNat 32 (Config.freeNat .random free 0 % 2 ^ 26)
  { m with issued := m.issued.set r tenant, keys := m.keys.set r k, keysShadow := m.keysShadow.set r k }

/-- A page's place of a tier: a DPA region with a fresh key, or an extent of all-zero units (R330, R331, R345). -/
def takePlace (m : MemState) (tier tenant free : Nat) : Option (Nat × MemState) :=
  if tier = 1 then m.freeRegion?.map fun r => (r, m.issue r tenant free)
  else if 2 ^ 28 ≤ m.nextExtent then none
  else some (m.nextExtent, { m with extents := m.extents.set m.nextExtent ⟨tier, tenant, [], []⟩, nextExtent := m.nextExtent + 1 })

/-- A place goes back: to be zeroed or released before it is issued again (R331). -/
def dropPlace (m : MemState) (tier target : Nat) : MemState :=
  { m with issued := if tier = 1 then m.issued.del target else m.issued, zeroing := m.zeroing ++ [⟨tier, target⟩] }

/-- A read of a 4 KiB unit of a place. -/
def readUnit (m : MemState) (tier target k : Nat) : Except Status (List Nat) :=
  if tier = 1 then match m.hbmRead (target * regionSize + 4096 * k) 4096 with | some bs => .ok bs | none => .error .memoryError
  else m.codecRead target (4096 * k) 4096

def writeUnit (p : Part) (m : MemState) (tier target k : Nat) (bs : List Nat) (free : Nat) : Except Status MemState :=
  if tier = 1 then .ok (m.hbmStore (target * regionSize + 4096 * k) bs) else codecWrite p m target (4096 * k) bs free

/-- Stored bytes of a place of tier 2 or 3 (R351). -/
def storedBytes (m : MemState) (tier target : Nat) : Nat :=
  if tier = 1 then 0 else ((m.extents.get? target).map fun x => (x.units.map fun (_, u) => 256 * u.size).sum).getD 0

end MemState

namespace State

def memDo (s : State) (r : MemState × Status × List Nat) : State := { s with mem := { r.1 with reply := r.2 }, free := s.free + 65536 }

/-! ### Requests at the tiers (R334, R337, R344, R347) -/

/-- Every byte of a range is HBM data (R26, R27). -/
def hbmRange (s : State) (a n : Nat) : Bool := decide (a + n ≤ hbmEnd s.mem.hbmParity)

def hbmReadReq (s : State) (a n : Nat) : State :=
  s.memDo (if !s.hbmRange a n then (s.mem, .badAddress, [])
    else
      let m := (MemState.blocksOf a n).foldl (fun (m : MemState) b => m.settleBlock b) s.mem
      match s.mem.hbmRead a n with
      | some bs => (m.countServed a n, .done, bs)
      | none => (m, .memoryError, []))

def hbmWriteReq (s : State) (a : Nat) (bs : List Nat) : State :=
  s.memDo (if !s.hbmRange a bs.length then (s.mem, .badAddress, []) else (s.mem.hbmStore a bs, .done, []))

-- DEDUCED, unsafe: log 105.
/-- The tier codec and migration engine wake (R504, R505). -/
def wakeCodec (s : State) : State := { s with pow := { s.pow with gated := s.pow.gated.filter (· != 92) } }

def codecReadReq (s0 : State) (e off n : Nat) : State :=
  let s := s0.wakeCodec
  s.memDo (if regionSize < off + n then (s.mem, .badAddress, [])
    else match s.mem.codecRead e off n with
      | .ok bs => (s.mem, .done, bs)
      | .error st => (s.mem, st, []))

def codecWriteReq (s0 : State) (e off : Nat) (bs : List Nat) : State :=
  let s := s0.wakeCodec
  s.memDo (if regionSize < off + bs.length then (s.mem, .badAddress, [])
    else match MemState.codecWrite s.part s.mem e off bs s.free with
      | .ok m => ({ m with rewrites := m.rewrites + 1 }, .done, [])
      | .error st => (s.mem, st, []))

/-! ### Failed elements (R340, R343, R483) -/

-- DESIGN CHOICE, safe: log 29.
/-- The interruption of a masked memory fault: measured, at most 5 µs (R483). -/
def memDelay (s : State) : Nat := Config.freeNat .measure s.free 0 % 5001

/-- An element is declared failed; with parity and no other member missing the fault is masked (R332, R340, R343, R483). -/
def failElement (s : State) (e : Element) : State :=
  let m := s.mem
  let clear := m.failedStacks.isEmpty && m.failedPcs.isEmpty
  let tell (m1 : MemState) (mask : Bool) (kind unit_ : Nat) : State :=
    let s1 : State := { s with mem := { m1 with degraded := true } }
    if mask then ({ s1 with free := s1.free + 1 } : State).masked kind unit_ s1.memDelay 0 else s1
  match e with
  | .stack k => if 8 ≤ k ∨ m.failedStacks.contains k then s
      else tell { m with failedStacks := m.failedStacks ++ [k] } (m.hbmParity && clear) 2 (k + 2 ^ 9 * 2)
  | .channel k c => if 8 ≤ k ∨ 32 ≤ c then s
      else tell { m with failedPcs := m.failedPcs ++ [64 * k + 2 * c, 64 * k + 2 * c + 1] } (m.hbmParity && clear) 2 (k + 2 ^ 3 * (2 * c) + 2 ^ 9)
  | .pseudo k c => if 8 ≤ k ∨ 64 ≤ c ∨ m.failedPcs.contains (64 * k + c) then s
      else tell { m with failedPcs := m.failedPcs ++ [64 * k + c] } (m.hbmParity && clear) 2 (k + 2 ^ 3 * c)
  | .package k => if 12 ≤ k ∨ m.failedPkgs.contains k then s
      else tell { m with failedPkgs := m.failedPkgs ++ [k] } (m.lpdParity && m.failedPkgs.isEmpty) 3 k

/-! ### Patrol scrub (R357, R358) -/

/-- A row in which correctable errors were found once more: at the second pass it is recorded for post-package repair. The spec gives
no size of a row: it is one block here. -/
def scrubRow (s : State) (blk unit_ : Nat) : State :=
  let n := s.mem.scrubRows.getD blk 0 + 1
  let s1 := { s with mem := { s.mem with scrubRows := s.mem.scrubRows.set blk n } }
  if n ≠ 2 then s1
  else ({ s1 with mem := { s1.mem with pprRows := s1.mem.pprRows ++ [blk] }
                  boot := { s1.boot with repairsDue := s1.boot.repairsDue ++ [Repair.ppr blk] } } : State).log 8 0 none unit_ 1

/-- Units whose stored sectors hold a sector are poisoned as a whole (R358). -/
def poisonSector (m : MemState) (z : Nat) : MemState :=
  { m with extents := m.extents.map fun ((i, x) : Nat × Extent) =>
      if x.tier ≠ 2 then (i, x)
      else (i, { x with units := x.units.map fun ((k, u) : Nat × UnitEntry) =>
        (k, if u.sector ≤ z ∧ z < u.sector + u.size then { u with poisoned := true } else u) }) }

-- DESIGN CHOICE, unsafe: log 22.
/-- Patrol scrub visits a block or sector and finds it good (0), corrected (1), or uncorrectable (2). -/
def patrol (s : State) (dpa found : Nat) : State :=
  match dpaKind s.part s.mem dpa with
  | .hbm =>
    let p := s.mem.place dpa
    let u := p.stack + 2 ^ 3 * p.pc
    if found = 1 then
      ({ s with mem := { s.mem with ceHbm := s.mem.ceHbm.set p.stack ((s.mem.ceHbm.getD p.stack 0 + 1) % 2 ^ 32) } } : State).scrubRow (dpa / 64) u
    else if found = 2 then
      { s with mem := ({ s.mem with badBlocks := s.mem.badBlocks ++ [placeAddr p.stack p.pc p.slot p.byte / 64] } : MemState).settleBlock (dpa / 64) }
    else s
  | .lpddr =>
    let z := (dpa - 0x10000000000) / 256
    let k := (MemState.lpdPlace s.mem.lpdParity z).1
    if found = 1 then
      ({ s with mem := { s.mem with ceLpd := s.mem.ceLpd.set k ((s.mem.ceLpd.getD k 0 + 1) % 2 ^ 32) } } : State).scrubRow (dpa / 64) k
    else if found = 2 ∧ !(s.mem.lpdParity && s.mem.failedPkgs.isEmpty) then { s with mem := poisonSector s.mem z }
    else s
  | _ => s

/-! ### The balance monitor and re-keying (R352) -/

/-- BALANCE (R448). -/
def balanceNotice (s : State) (pc load done : Nat) (pattern none_ : Bool) : State :=
  s.notice 0 0x20 (pc / 128 + 2 ^ 8 * (pc % 128) + 2 ^ 16 * (min load 65535) + 2 ^ 32 * done + 2 ^ 48 * pattern.toNat + 2 ^ 49 * none_.toNat)

/-- The busiest pseudo-channel of a window, what it served, and its load over the mean in 256ths. -/
def busiest (m : MemState) : Nat × Nat × Nat :=
  let (pc, n) := m.pcBytes.foldl (fun (acc : Nat × Nat) (x : Nat × Nat) => if acc.2 < x.2 then x else acc) (0, 0)
  let total := (m.pcBytes.map (·.2)).sum
  (pc, n, if total = 0 then 0 else n * 512 * 256 / total)

-- DESIGN CHOICE, unsafe: log 126.
/-- The end of a 1 ms window: more than 1.5 times the mean and more than half of 31.0 GB/s counts as skewed; 100 in a row are
sustained skew, which is reported once until it ends. -/
def balanceWindow (s : State) : State :=
  let (pc, n, load) := busiest s.mem
  let skew := decide (384 < load ∧ 15500000 < n)
  let run := if skew then s.mem.skewRun + 1 else 0
  let s1 := { s with mem := { s.mem with pcBytes := [], skewRun := run, skewReported := s.mem.skewReported && skew } }
  if run < 100 ∨ s.mem.skewReported then s1
  else ({ s1 with mem := { s1.mem with skewReported := true } } : State).balanceNotice pc load 0 false false

/-- The tenant and page that a DPA region serves. -/
def pageOfRegion (s : State) (r : Nat) : Option (Nat × Nat) :=
  s.ten.tenants.findSome? fun ((t, x) : Nat × Tenant) =>
    (x.table.find? fun ((_, e) : Nat × Trn) => e.tier == 1 && e.target == r && e.aliasOf.isNone).map fun (i, _) => (t, i)

/-- Entries of a page and of all its aliases are changed together (R460). -/
def modPage (s : State) (t page : Nat) (f : Trn → Trn) : State :=
  { s with ten := { s.ten with tenants := s.ten.tenants.modify t fun x => { x with
      table := x.table.map fun ((i, e) : Nat × Trn) => (i, if i = page ∨ e.aliasOf = some page then f e else e) } } }

/-- Firmware moves a hot region to a newly issued region with a new key: at most 8 in a second, and not a region moved 10 times
within one (R352). -/
def rekey (s : State) (r : Nat) : State :=
  match s.pageOfRegion r with
  | none => s
  | some (t, page) =>
    let key := 2 ^ 27 * t + page
    let recent (l : List Nat) : List Nat := l.filter fun x => decide (s.now < x + 1000000000)
    let mine := recent (s.mem.rekeys.getD key [])
    let (pc, _, load) := busiest s.mem
    if !s.mem.skewReported ∨ 8 ≤ (recent s.mem.rekeysInSecond).length ∨ (s.mem.moves.any fun v => v.srcTier == 1 && v.src == r) then s
    else if 10 ≤ mine.length then s.balanceNotice pc load 0 true false
    else match s.mem.takePlace 1 t s.free with
      | none => s.balanceNotice pc load 0 false true
      | some (dst, m) =>
        let m1 := { m with
          moves := m.moves ++ [⟨t, page, 1, r, 1, dst, 0, none, none, s.now⟩]
          rekeys := m.rekeys.set key (s.now :: mine), rekeysInSecond := s.now :: recent m.rekeysInSecond }
        (({ s with mem := m1, free := s.free + 1 } : State).modPage t page fun e => { e with mig := true }).balanceNotice pc load 1 false false

/-! ### Migration (R350, R351) -/

/-- A started tidal plan of a tenant: its commit points are slacks (R261). -/
def hasPlan (s : State) (t : Nat) : Bool :=
  s.isth.works.any fun ((_, w) : Nat × Work) => w.kind == .plan && w.started && w.tenant == t

/-- The moves of a command, or the one move of a re-key. -/
def movesOf (s : State) (v : Move) : List Move :=
  s.mem.moves.filter fun x => if v.cmd.isSome then x.cmd == v.cmd else x == v

/-- A page's translation swaps; its source is released (R350). -/
def swapMove (s : State) (v : Move) : State :=
  let s1 := s.modPage v.tenant v.page fun e => { e with tier := v.dstTier, target := v.dst, mig := false }
  { s1 with mem := ({ s1.mem with moves := s1.mem.moves.erase v } : MemState).dropPlace v.srcTier v.src }

/-- Moves that end without a swap: destinations are released and the pages stay (R351). -/
def dropMove (s : State) (v : Move) : State :=
  let s1 := s.modPage v.tenant v.page fun e => { e with mig := false }
  { s1 with mem := ({ s1.mem with moves := s1.mem.moves.erase v } : MemState).dropPlace v.dstTier v.dst }

/-- A MIGRATE ends with a failure, or a re-key is given up (R351). -/
def failMoves (s : State) (v : Move) (st : Status) : State :=
  let s1 := (s.movesOf v).foldl (fun (s : State) x => s.dropMove x) s
  match v.cmd with
  | some id => s1.endCmd id st 0 false
  | none => s1

/-- Copied moves of a tenant swap at a commit point; the command reports the tide and the stored bytes (R350, R351). -/
def swapMoves (s : State) (t tide now : Nat) : State :=
  let ready := s.mem.moves.filter fun v => v.tenant == t && decide (v.accepted + 2000 ≤ now) && (s.movesOf v).all fun x => x.next == 512
  let s1 := ready.foldl (fun (s : State) v => s.swapMove v) s
  (ready.filterMap (·.cmd)).eraseDups.foldl (fun (s : State) id =>
    let n := match s.cmd? id, s.tenant? t with
      | some c, some x => (((List.range (argOf c.raw 36 4)).filterMap fun i => x.table.get? (argOf c.raw 40 8 / regionSize + i)).map
          fun e => s.mem.storedBytes e.tier e.target).sum
      | _, _ => 0
    s.endCmd id .done (tide % 2 ^ 64 + 2 ^ 64 * n) false) s1

/-- The migration engine copies the next unit of a page; a tenant without a started plan swaps at once (R350, R351). -/
def copyUnit (s : State) (i : Nat) : State :=
  match s.mem.moves[i]? with
  | none => s
  | some v =>
    if 512 ≤ v.next then s
    else match s.mem.readUnit v.srcTier v.src v.next with
      | .error st => s.failMoves v st
      | .ok bs =>
        match MemState.writeUnit s.part s.mem v.dstTier v.dst v.next bs s.free with
        | .error st => s.failMoves v st
        | .ok m =>
          let s1 : State := { s with mem := { m with moves := modAt m.moves i fun x => { x with next := x.next + 1 } }, free := s.free + 512 }
          if v.next + 1 = 512 ∧ !s.hasPlan v.tenant then s1.swapMoves v.tenant 0 (v.accepted + 2000) else s1

/-! ### Compaction and zeroing (R331, R346) -/

/-- The live units of a sparse segment move into the open segment (R346). -/
def compact (s : State) (seg : Nat) : State :=
  match s.mem.segments.get? seg with
  | none => s
  | some g =>
    if s.mem.openSeg.get? g.tier = some seg ∨ s.mem.segSectors ≤ 2 * g.live then s
    else
      let units := s.mem.extents.flatMap fun ((e, x) : Nat × Extent) => (x.units.filter fun (_, u) => u.size != 0 && u.seg == seg && x.tier == g.tier).map
        fun (k, u) => (e, k, u)
      { s with mem := units.foldl (fun (m : MemState) (e, k, u) =>
          match MemState.takeStored s.part m g.tier u.size 0 with
          | none => m
          | some (sg, sec, m1) => MemState.dropStored { m1 with
              extents := m1.extents.modify e fun x => { x with units := x.units.set k ⟨sg, sec, u.size, u.poisoned⟩ } } u) s.mem }

/-- A freed DPA region is zeroed, or a codec extent released; it can be issued again (R331, R337). -/
def zeroNext (s : State) (i : Nat) : State :=
  match s.mem.zeroing[i]? with
  | none => s
  | some z =>
    let m := { s.mem with zeroing := s.mem.zeroing.erase z }
    if z.tier = 1 then
      let a := z.target * regionSize
      let m1 := m.hbmWriteBytes a (List.replicate regionSize 0)
      { s with mem := { m1 with
          fresh := m1.fresh.filter fun (k, _) => decide (k < a / 4096) || decide (a / 4096 + 512 ≤ k)
          poisoned := m1.poisoned.filter fun b => decide (b < a / 64) || decide ((a + regionSize) / 64 ≤ b) } }
    else match m.extents.get? z.target with
      | none => { s with mem := m }
      | some x =>
        let m1 := x.units.foldl (fun (m : MemState) (_, u) => m.dropStored u) m
        { s with mem := { m1 with extents := m1.extents.del z.target } }

/-! ### Changes of translation (R454, R460, R461) -/

/-- Pages that count against a tenant's quota of a tier: aliases excluded, and pages on their way into it (R454). -/
def pagesIn (s : State) (t tier : Nat) : Nat :=
  (((s.tenant? t).map fun x => (x.table.filter fun ((_, e) : Nat × Trn) => e.tier == tier && e.aliasOf.isNone).length).getD 0)
    + (s.mem.moves.filter fun v => v.tenant == t && v.dstTier == tier && v.srcTier != tier).length

def quotaOf (q : Quotas) (tier : Nat) : Nat := match tier with | 1 => q.tier1 | 2 => q.tier2 | _ => q.tier3

/-- The pages from an address, where they lie in the address space. -/
def pageRange (a n : Nat) : Option (List Nat) :=
  if a % regionSize = 0 ∧ a / regionSize + n ≤ 2 ^ 27 then some ((List.range n).map (a / regionSize + ·)) else none

def setEntry (s : State) (t page : Nat) (e : Trn) : State :=
  { s with ten := { s.ten with tenants := s.ten.tenants.modify t fun x => { x with table := x.table.set page e } } }

/-- REGION_ALLOC (R330, R331, R460). -/
def regionAlloc (s : State) (t tier pages a : Nat) : Except Status State :=
  match s.tenant? t, pageRange a pages with
  | none, _ => .error .noPermission
  | _, none => .error .badAddress
  | some x, some ps =>
    if ps.any fun i => (x.table.get? i).isSome then .error .limit
    else if quotaOf x.quotas tier < s.pagesIn t tier + pages then .error .limit
    else ps.foldl (fun acc i => match acc with
      | .error e => .error e
      | .ok (s : State) => match s.mem.takePlace tier t s.free with
        | none => .error .limit
        | some (k, m) => .ok (({ s with mem := m, free := s.free + 1 } : State).setEntry t i ⟨tier, true, false, none, false, k⟩)) (.ok (if tier = 1 then s else s.wakeCodec))

/-- A page lies under an open window, holds a lagoon image, or belongs to a pool (R86, R373, R460). -/
def pageHeld (s : State) (t page : Nat) : Bool :=
  let lo := page * regionSize
  let hits (a n : Nat) : Bool := decide (a < lo + regionSize) && decide (lo < a + n)
  (s.net.windows.any fun ((_, w) : Nat × Window) => w.memory && w.tenant == t && hits w.base w.len)
    || (s.holms.any fun ((p, h) : Nat × Holm) => ((s.lgOf? p).bind s.tenantOfLg) == some t
        && ((h.image != 0 && hits (h.image - 1) (262144 * h.lagoon))
          || (match h.staged.lagoon with | some (l, img) => img != 0 && hits (img - 1) (262144 * l) | none => false)))
    || s.kv.pools.any fun ((_, q) : Nat × Pool) => q.tenant == t && (hits q.region (q.cap * q.stride) || hits q.arena (q.blocks * 4096))

-- DEDUCED, unsafe: log 67.
/-- One page freed, with all its aliases; an alias alone where the page is one (R460). -/
def freePage (s : State) (t page : Nat) : Except Status State :=
  match (s.tenant? t).bind fun x => x.table.get? page with
  | none => .error .badAddress
  | some e =>
    let del (s : State) (f : Nat → Trn → Bool) : State := { s with ten := { s.ten with tenants := s.ten.tenants.modify t fun x => { x with
      table := x.table.filter fun ((i, e) : Nat × Trn) => !f i e } } }
    let over_ := ((s.tenant? t).map fun x => x.table.any fun ((i, e) : Nat × Trn) => e.aliasOf == some page && s.pageHeld t i).getD false
    if s.pageHeld t page ∨ over_ then .error .limit
    else if e.aliasOf.isSome then .ok (del s fun i _ => i == page)
    else if e.locked then .error .limit
    else
      let s1 := (s.mem.moves.filter fun v => v.tenant == t && v.page == page).foldl (fun (s : State) v => s.failMoves v .limit) s
      let s2 := del s1 fun i e => i == page || e.aliasOf == some page
      .ok { s2 with mem := s2.mem.dropPlace e.tier e.target }

/-- REGION_FREE (R460): every page can be freed, or none is. -/
def regionFree (s : State) (t pages a : Nat) : Except Status State :=
  match pageRange a pages with
  | none => .error .badAddress
  | some ps =>
    let bad := ps.filterMap fun i => match s.freePage t i with | .error e => some e | .ok _ => none
    if bad.contains .badAddress then .error .badAddress
    else if !bad.isEmpty then .error .limit
    else .ok (ps.foldl (fun (s : State) i => match s.freePage t i with | .ok s1 => s1 | .error _ => s) s)

/-- REGION_MAP mode 0: second mappings of own pages (R460). -/
def mapPages (s : State) (t : Nat) (write : Bool) (pages src tgt : Nat) : Except Status State :=
  match s.tenant? t, pageRange src pages, pageRange tgt pages with
  | some x, some from_, some ps =>
    if from_.any fun i => (x.table.get? i).isNone then .error .badAddress
    else if ps.any fun i => (x.table.get? i).isSome then .error .limit
    else .ok ((from_.zip ps).foldl (fun (s : State) (i, j) => match x.table.get? i with
      | some e => s.setEntry t j { e with write := write && e.write, aliasOf := some (e.aliasOf.getD i) }
      | none => s) s)
  | _, _, _ => .error .badAddress

/-- REGION_MAP mode 1: free DPA regions become pages of a tenant (R460). -/
def mapDpa (s : State) (t pages dpa tgt : Nat) : Except Status State :=
  match s.tenant? t with
  | none => .error .badCommand
  | some x =>
    match pageRange tgt pages with
    | none => .error .badAddress
    | some ps =>
      let rs := (List.range pages).map (dpa / regionSize + ·)
      if dpa % regionSize ≠ 0 ∨ rs.any fun r => decide (s.mem.regions ≤ r) then .error .badAddress
      else if rs.any (fun r => !s.mem.regionFree r) ∨ ps.any (fun i => (x.table.get? i).isSome) then .error .limit
      else if x.quotas.tier1 < s.pagesIn t 1 + pages then .error .limit
      else .ok ((rs.zip ps).foldl (fun (s : State) (r, i) =>
        ({ s with mem := s.mem.issue r t s.free, free := s.free + 1 } : State).setEntry t i ⟨1, true, false, none, false, r⟩) s)

/-- Pages of a range of bytes. -/
def pagesOf (a n : Nat) : List Nat := (MemState.pieces regionSize (n + 1) a n).map fun (b, _) => b / regionSize

/-- Every page of a range is mapped to tier 1 (R439). -/
def inTier1 (s : State) (t a n : Nat) : Bool :=
  match s.tenant? t with
  | some x => (pagesOf a n).all fun i => match x.table.get? i with | some e => e.tier == 1 | none => false
  | none => false

/-- MODEL_LOAD and MODEL_FREE lock and unlock the pages together with all their aliases (R460). -/
def setLock (s : State) (t a n : Nat) (on : Bool) : State :=
  (pagesOf a n).foldl (fun (s : State) i =>
    let root := (((s.tenant? t).bind fun x => x.table.get? i).bind (·.aliasOf)).getD i
    s.modPage t root fun e => { e with locked := on }) s

end State

/-! ### The rows -/

/-- HBM_READ (R334, R340, R358). -/
def execHbmRead (dpa n : Nat) (s : State) : Out := onLive s fun s => s.hbmReadReq dpa n

/-- HBM_WRITE (R337, R338, R340). -/
def execHbmWrite (dpa : Nat) (data : List Nat) (s : State) : Out := onLive s fun s => s.hbmWriteReq dpa data

/-- CODEC_READ (R344). -/
def execCodecRead (extent off n : Nat) (s : State) : Out := onLive s fun s => s.codecReadReq extent off n

/-- CODEC_REWRITE (R347). -/
def execCodecRewrite (extent off : Nat) (data : List Nat) (s : State) : Out := onLive s fun s => s.codecWriteReq extent off data

/-- ELEMENT_FAILURE_DECLARE (R340). -/
def execElementFailureDeclare (e : Element) (s : State) : Out := onLive s fun s => s.failElement e

/-- PATROL_SCRUB (R357). -/
def execPatrolScrub (dpa found : Nat) (s : State) : Out := onLive s fun s => s.patrol dpa found

/-- BALANCE_WINDOW (R352). -/
def execBalanceWindow (s : State) : Out := onLive s State.balanceWindow

/-- REGION_REKEY (R352). -/
def execRegionRekey (region : Nat) (s : State) : Out := onLive s fun s => s.rekey region

/-- MIGRATION_UNIT_COPY (R350). -/
def execMigrationUnitCopy (i : Nat) (s : State) : Out := onLive s fun s => s.copyUnit i

/-- SEGMENT_COMPACTION (R346). -/
def execSegmentCompaction (seg : Nat) (s : State) : Out := onLive s fun s => s.compact seg

/-- REGION_ZEROING (R331). -/
def execRegionZeroing (i : Nat) (s : State) : Out := onLive s fun s => s.zeroNext i

/-- SLOT_TABLE_SWAP: the table written into the shadow becomes current, and the old one is the shadow (R353, R354, R356). -/
def execSlotTableSwap (ch : Nat) (table : BitVec 1024) (s : State) : Out :=
  onLive s fun s => (if ch < 540 ∧ slotTableOk ch table then
    { s with mem := { s.mem with slots := s.mem.slots.set ch table, slotsShadow := s.mem.slotsShadow.set ch (s.mem.slotTable ch) } }
  else s)

end Sys2Proof.Machine
end

