-- ==== Sys2Proof/Machine/Commit.lean ====
section
/-! DEFINITION. Commit points: partition changes, sequence commands, changes of translation and migration swaps (R261, R350, R455 to
R457, R460, R461). -/

namespace Sys2Proof.Machine

/-- The stores, exposure and lagoon of a holm that joins or leaves (R87, R457). -/
def Holm.repartition (h : Holm) (leaves : Bool) (joins : Option Nat) : Holm :=
  let h1 := { h with exposure := [], program := .empty, staged := .none }
  let h2 := if leaves then h1.dropLagoon else h1
  match joins with
  | none => h2
  | some t => if h.owner = some t then h2 else { h2 with owner := some t, picots := [], prickings := [] }

namespace State

/-! ### Partition changes (R455 to R457) -/

def bitmapHolms (b : Nat) : List Nat := (List.range 256).filter fun i => bitAt b i

/-- Holms that join and that leave; all of them when the tenant changes (R457). -/
def partDelta (s : State) (c : PartChange) : List Nat × List Nat :=
  let new := bitmapHolms c.bitmap
  match s.ten.parts.get? c.part with
  | none => (new, [])
  | some p =>
    if p.tenant ≠ c.tenant then (new, p.holms)
    else (new.filter fun i => !p.holms.contains i, p.holms.filter fun i => !new.contains i)

/-- Holms whose role a change touches. -/
def partTouched (s : State) (c : PartChange) : List Nat := ((s.partDelta c).1 ++ (s.partDelta c).2).eraseDups

/-- None of them runs an invocation, and no earlier change of the partition waits. -/
def partReady (s : State) (c : PartChange) : Bool :=
  ((s.partTouched c).all fun lg => match s.physOf? lg with | some p => (s.holm p).inv.isNone | none => true)
    && (s.ten.changes.takeWhile (· != c)).all fun x => x.part != c.part

-- DEDUCED, unsafe: log 37.
/-- A started plan, or one that is about to start, uses a holm that the change would remove or give another logical index (R456). -/
def partBreaks (s : State) (c : PartChange) : Bool :=
  match s.ten.parts.get? c.part with
  | none => false
  | some p =>
    let new := bitmapHolms c.bitmap
    s.isth.works.any fun ((_, w) : Nat × Work) => w.kind == .plan && (w.started || w.startCmd.isSome) && w.stages.any fun st =>
      st.part == c.part && st.holms.any fun lg => p.tenant != c.tenant || !new.contains lg || new.idxOf lg != p.holms.idxOf lg

/-- A partition change takes effect; its command reports the tide (R457). One that a plan started since has overtaken does not (R456). -/
def applyPart (s : State) (c : PartChange) (tide : Nat) : State :=
  if s.partBreaks c then
    ({ s with ten := { s.ten with changes := s.ten.changes.filter fun x => x != c } } : State).endCmd c.cmd .limit 0 false
  else
  let (joins, leaves) := s.partDelta c
  let s1 := (s.partTouched c).foldl (fun (s : State) lg => match s.physOf? lg with
    | some p => s.modHolm p fun h => h.repartition (leaves.contains lg) (if joins.contains lg then some c.tenant else none)
    | none => s) s
  let parts := if c.bitmap = 0 then s1.ten.parts.del c.part else s1.ten.parts.set c.part ⟨c.tenant, BitVec.ofNat 256 c.bitmap⟩
  let fresh := (s1.ten.parts.get? c.part).isNone || c.bitmap == 0
  let s2 := { s1 with
    ten := { s1.ten with parts := parts, changes := s1.ten.changes.filter fun x => x != c }
    pow := if fresh then { s1.pow with ePart := s1.pow.ePart.del c.part } else s1.pow }
  ((s2.bumpEpochs (s.partTouched c)).setCause (s.partTouched c) .ordered).endCmd c.cmd .done (tide % 2 ^ 64) false

/-- Tenants a change concerns: the old one and the new one. -/
def partTenants (s : State) (c : PartChange) : List Nat := c.tenant :: ((s.ten.parts.get? c.part).map (·.tenant)).toList

/-- At a slack of a plan of one of their tenants, changes that can take effect do (R457). -/
def slackParts (s : State) (t tide now : Nat) : State :=
  (s.ten.changes.filter fun c => (s.partTenants c).contains t && decide (c.accepted + 2000 ≤ now)).foldl (fun (s : State) c =>
    if s.partReady c then s.applyPart c tide else s) s

/-- Changes of tenants without a started plan take effect as soon as their holms are idle (R457). -/
def idleParts (s : State) : State :=
  s.ten.changes.foldl (fun (s : State) c =>
    if s.partReady c && !(s.partTenants c).any s.hasPlan then s.applyPart c 0 else s) s

/-- A pending change concerns a logical holm: one-shot work waits for it (R457). -/
def partPending (s : State) (lg : Nat) : Bool := s.ten.changes.any fun c => (s.partTouched c).contains lg

/-! ### Sequence commands and changes of translation (R261 to R264, R460, R461) -/

/-- The descriptor image goes to the result buffer (R241, R439). -/
def putImage (s : State) (t idx result : Nat) : Except Status State :=
  match s.kv.descs.get? idx with
  | some d => s.argWrite (some t) result (d.image idx)
  | none => .ok s

/-- A sequence command: its result and the state, or its status (R261 to R264). -/
def seqEffect (s : State) (t : Nat) (op : SeqOp) (tide : Nat) : Except Status (Nat × State) :=
  match s.kvCtx t with
  | none => .error .noPermission
  | some c =>
    match c.seqRun op with
    | .error e => .error e
    | .ok (idx, c1) =>
      let s1 := s.putKv c1
      let handle := ((s1.kv.descs.get? idx).map fun d => d.handle idx).getD 0
      let (head, buf) : Nat × Option Nat := match op with
        | .create _ _ _ _ _ _ r => (handle, some r)
        | .fork _ _ r => (handle, some r)
        | .truncate _ _ r => (0, some r)
        | .free _ => (0, none)
      match (match buf with | some r => s1.putImage t idx r | none => .ok s1) with
      | .error e => .error e
      | .ok s2 => .ok (head % 2 ^ 32 + 2 ^ 64 * (tide % 2 ^ 64), s2)

-- DEDUCED, unsafe: log 66.
/-- One command at its commit point. -/
def commitEffect (s : State) (t : Nat) (op : CommitOp) (tide : Nat) : Except Status (Nat × State) :=
  let plain (r : Except Status State) : Except Status (Nat × State) := match r with | .ok s1 => .ok (0, s1) | .error e => .error e
  match op with
  | .seq o => s.seqEffect t o tide
  | .alloc tier pages a => plain (s.regionAlloc t tier pages a)
  | .free pages a => plain (s.regionFree t pages a)
  | .mapPages w pages src tgt => plain (s.mapPages t w pages src tgt)
  | .mapDpa pages dpa tgt => plain (s.mapDpa t pages dpa tgt)
  | .lock a n =>
    if !s.inTier1 t a n then .error .badAddress
    else
      let (h, s1) := s.newHandle s.isth.models.keys
      .ok (h, { s1.setLock t a n true with isth := { s1.isth with models := s1.isth.models.set h ⟨t, a, n⟩ } })
  | .unlock h =>
    match s.isth.models.get? h with
    | some m => if m.tenant ≠ t then .error .badAddress
      else .ok (0, { s.setLock t m.addr m.bytes false with isth := { s.isth with models := s.isth.models.del h } })
    | none => .error .badAddress

/-- A command takes effect and ends. -/
def commitCmd (s : State) (c : CommitCmd) (tide : Nat) : State :=
  match s.commitEffect c.tenant c.op tide with
  | .ok (r, s1) => s1.endCmd c.cmd .done r false
  | .error e => s.endCmd c.cmd e 0 false

/-- A slack of a tenant's plan: commands accepted at least 2 µs before take effect in the order of acceptance, then copied pages
swap (R261, R350, R461). -/
def commitPoint (s : State) (t tide now : Nat) : State :=
  let due (c : CommitCmd) : Bool := c.tenant == t && decide (c.accepted + 2000 ≤ now)
  let ready := s.kv.commits.filter due
  let s1 : State := { s with kv := { s.kv with commits := s.kv.commits.filter fun c => !due c } }
  (ready.foldl (fun (s : State) c => s.commitCmd c tide) s1).swapMoves t tide now

/-- What waits for a slack of a tenant that no longer has a started plan takes effect without one (R261, R350, R461). -/
def idleCommits (s : State) : State :=
  (((s.kv.commits.map (·.tenant)) ++ s.mem.moves.map (·.tenant)).eraseDups.filter fun t => !s.hasPlan t).foldl
    (fun (s : State) t => s.commitPoint t 0 (s.now + 2000)) s

-- DEDUCED, unsafe: log 36.
/-- Changes that no plan holds back (R261, R350, R457, R461). -/
def idleChanges (s : State) : State :=
  let s1 := if s.ten.changes.isEmpty then s else s.idleParts
  if s1.kv.commits.isEmpty ∧ s1.mem.moves.isEmpty then s1 else s1.idleCommits

end State

end Sys2Proof.Machine
end

