-- ==== Sys2Proof/Machine/Recover.lean ====
section
/-! DEFINITION. Faults of holms and of scratchpad rows, checkpoints, replay and the segment watchdog (R66, R485 to R499). -/

namespace Sys2Proof.Machine

namespace State

/-! ### Recovery begins (R492 to R495) -/

/-- A free spare row of a bank (R95): spares are numbered 0 to 15. -/
def spareRow? (h : Holm) (bank : Nat) : Option Nat :=
  (List.range 16).find? fun k => (h.repairs.all fun (b, _, x) => b != bank || x != k)
    && h.repairing.all fun r => r.bank != bank || r.spare != k

def spareRows (h : Holm) (bank : Nat) : Nat :=
  ((List.range 16).filter fun k => (h.repairs.all fun (b, _, x) => b != bank || x != k)
    && h.repairing.all fun r => r.bank != bank || r.spare != k).length

/-- Every running holm of a stage stops without a fault record of its own (R489). -/
def stopStage (s : State) (w stage : Nat) : State :=
  let ps := (s.runnersOf w).filter fun p => ((s.holm p).inv.map (·.stage)) == some stage
  (ps.foldl (fun (s : State) p => if (s.holm p).st == .running then s.stopHolm p .faulted else s) s).modWork w
    fun x => { x with stopped := true }

-- DEDUCED, unsafe: log 31.
/-- Plans that use a logical holm stop at their next slack (R495). -/
def stopPlansOn (s : State) (lg : Nat) : State :=
  { s with isth := { s.isth with works := s.isth.works.map fun ((i, w) : Nat × Work) =>
      (i, if w.kind == .plan && w.started && (s.workHolms w).contains lg then { w with stopping := true } else w) } }

/-- A logical holm loses its physical holm for good: there is no working spare (R60, R495). -/
def loseRole (s : State) (lg p : Nat) : State := ((s.fuseOut p).remapTo lg 0 false).stopPlansOn lg

/-- The poisoned line behind a MEMORY_ERROR, where the fault stems from a scratchpad: of the holm that a bobbin's request met, or
the engine's own (R98, R494). -/
def poisonAt (h : Holm) (p : Nat) (r : FaultRec) : Option (Nat × Nat) :=
  if r.status ≠ .memoryError ∨ r.hw then none
  else if r.opc = 0x30 ∨ r.opc = 0x31 then h.badRow
  else h.poison.head?.map fun w => (p, w / 8)

/-- One faulting holm is reported: HOLM_FAULT to the tenant, and its record with the work (R436, R448). -/
def reportFault (s : State) (w : Nat) (wk : Work) (lg p : Nat) (r : FaultRec) : State :=
  (s.noticeTenant wk.tenant 0x10 (wk.handle % 2 ^ 32 + 2 ^ 32 * (lg % 2 ^ 16) + 2 ^ 48 * (p % 2 ^ 16) + 2 ^ 128 * r.bits)).modWork w
    fun x => { x with faults := x.faults ++ [(lg, r)] }

/-- Other holms of a unit of work that have detected a fault of their own that is not masked: p, l_global and record (R436). -/
def alsoFaulted (s : State) (w p : Nat) : List (Nat × Nat × FaultRec) :=
  (s.runnersOf w).filterMap fun q =>
    let h := s.holm q
    match h.inv, h.fault with
    | some i, some r => if q ≠ p ∧ h.st = .running ∧ !r.hw ∧ (poisonAt h q r).isNone then some (q, i.lg, r) else none
    | _, _ => none

-- DEDUCED, unsafe: log 20.
/-- Work ends with a fault that is not masked: every faulting holm is reported, and the status is that of the lowest logical index
(R436, R448, R495). -/
def endUnmasked (s : State) (w lg p : Nat) (r : FaultRec) (st : Status) : State :=
  match s.work? w with
  | none => s
  | some wk =>
    let more := s.alsoFaulted w p
    let s1 := more.foldl (fun (s : State) (q, l, x) =>
      (((s.stopHolm q .faulted).modHolm q fun h => { h with record := some x }).log 2 x.status.code (some wk.tenant) (l % 2 ^ 16 + 2 ^ 16 * q)
        x.bits).reportFault w wk l q x) (s.reportFault w wk lg p r)
    let low := more.foldl (fun (acc : Nat × Status) (_, l, x) => if l < acc.1 then (l, x.status) else acc) (lg, st)
    s1.failWork w low.2

/-- A recovery of a stage is under way from now on (R492, R493). -/
def beginRecovery (s : State) (c : Recovery) : State :=
  let s1 := s.stopStage c.work c.stage
  { s1 with flt := { s1.flt with recovery := s1.flt.recovery ++ [c] } }

-- DEDUCED, unsafe: log 32.
/-- A holm of an invocation has itself failed (R492, R494, R495). -/
def holmFailed (s : State) (p : Nat) (i : Invocation) (r : FaultRec) : State :=
  match s.spareOf? (p / 68) with
  | some q =>
    if i.tidal then s.beginRecovery ⟨0, i.work, i.stage, i.lg, p, 0, 0, false, s.now⟩
    else (s.endUnmasked i.work i.lg p r .aborted).substitute i.lg p q false
  | none => (s.endUnmasked i.work i.lg p r .aborted).loseRole i.lg p

/-- Row and bank of a line (R94): banks rotate from line to line. -/
def bankOf (line : Nat) : Nat × Nat := (line % 64, line / 64)

/-- A poisoned word has been read by an engine of a holm or by its bobbins, of the row of some holm's line (R98, R493, R494). -/
def rowFailed (s : State) (p : Nat) (i : Invocation) (r : FaultRec) (at_ : Nat × Nat) : State :=
  let (bank, row) := bankOf at_.2
  match spareRow? (s.holm at_.1) bank with
  | some k =>
    if i.tidal then s.beginRecovery ⟨1, i.work, i.stage, i.lg, at_.1, bank, row, false, s.now⟩
    else
      let s1 := s.modHolm at_.1 fun h => { h with repairs := h.repairs ++ [(bank, row, k)], repairRecord := h.repairRecord ++ [(bank, row, k)] }
      (s1.refillLine at_.1 at_.2).endUnmasked i.work i.lg p r .memoryError
  | none => s.holmFailed p i r

/-- A running holm with a detected fault, or that has failed itself, stops: its record is kept and logged, and firmware decides
(R325 to R327, R494, R574). -/
def holmFault (s : State) (p : Nat) (hw : Bool) : State :=
  let h0 := s.holm p
  let opc := (h0.program.words[h0.pc]?.map fun w => fld w.toNat 0 8).getD 0
  let h := if hw then h0.noteFault ⟨.memoryError, h0.pc, opc, 0, false, 0, true, 0, h0.tideNo⟩ else h0
  match h.st, h.inv, h.fault with
  | .running, some i, some r =>
    let bad := poisonAt h p r
    let s1 := (s.stopHolm p .faulted).modHolm p fun x => { x with record := some r }
    let t := if r.hw ∨ bad.isSome then none else (s1.work? i.work).map (·.tenant)
    let s2 := s1.log 2 r.status.code t (i.lg % 2 ^ 16 + 2 ^ 16 * p) r.bits
    if r.hw then s2.holmFailed p i r
    else match bad with
      | some at_ => s2.rowFailed p i r at_
      | none => s2.endUnmasked i.work i.lg p r r.status
  | _, _, _ => s

/-! ### The recovery slack (R492, R493) -/

/-- Requests in the network toward a fused-out holm end with STALE_ROLE (R62, R496). -/
def staleRequests (s : State) (p : Nat) : State :=
  { s with reqs := s.reqs.map fun ((i, r) : Nat × NetReq) =>
      (i, if r.tgtPhys == p && r.resp.isNone then { r with resp := some .staleRole, held := false } else r) }

/-- A fault substitution of a stage: the spare takes the role, the failed holm's checkpoint copies and its place in the unit of
work (R59, R492). -/
def swapHolm (s : State) (c : Recovery) : State :=
  match s.spareOf? (c.phys / 68) with
  | none => { (s.failWork c.work .aborted).loseRole c.lg c.phys with
      flt := { s.flt with recovery := s.flt.recovery.filter fun x => x != c } }
  | some q =>
    let inv := (s.holm c.phys).inv
    let s1 := (s.substitute c.lg c.phys q false).modHolm q fun h =>
      match inv with
      | some i => { h with st := .faulted, inv := some i }
      | none => h
    let s2 := (s1.modHolm q fun h => { h with inv := h.inv.map fun i => { i with epoch := s1.epochOf c.lg } }).staleRequests c.phys
    let f := s2.flt
    let move (m : AMap Ckpt) (k : Nat) : AMap Ckpt := match m.get? (2 * c.phys + k) with | some x => m.set (2 * q + k) x | none => m
    { s2 with flt := { f with
        harbour := move (move f.harbour 0) 1, spilled := f.spilled.set q (f.spilled.getD c.phys 0)
        complete := f.complete.set q (f.complete.getD c.phys 0)
        recovery := f.recovery.map fun x => if x == c then { x with swapped := true } else x } }

def recoverySlack (s : State) : State :=
  (s.flt.recovery.filter fun c => c.row == 0 && !c.swapped).foldl (fun (s : State) c => s.swapHolm c) s

/-! ### Replay (R489, R490) -/

/-- A stage's pending-record counts return to their values at the checkpoint (R260, R489). -/
def rollback (s : State) (w stage : Nat) : State :=
  let snap := ((s.work? w).map fun x => x.ckptCounts.getD stage []).getD []
  { s with kv := { s.kv with records := s.kv.records.map fun ((i, r) : Nat × PendRec) =>
      if r.unit ≠ w then (i, r)
      else
        let old : AMap Nat := AMap.getD snap i []
        (i, { r with counts := r.counts.filterMap fun ((k, n) : Nat × Nat) =>
          if r.owner.get? k = some stage then (old.get? k).map fun m => (k, m) else some (k, n) }) } }

/-- A holm of a stopped stage returns to its latest complete checkpoint (R489). -/
def restoreHolm (s0 : State) (w lg p : Nat) : State :=
  let s := s0.loadLagoon p
  match s.flt.harbour.get? (2 * p + s.flt.complete.getD p 0 % 2), s.work? w with
  | some c, some wk =>
    let h0 := c.carried.foldl (fun (h : Holm) (a, _, bs) => h.putBytes (32 * a) bs) (s.holm p).clearOpen
    let kept := wk.keep.filter fun (l, _) => l == lg
    let h1 := kept.foldl (fun (h : Holm) (_, a, bs, _) => h.putBytes a bs) h0
    let part := (h1.inv.map (·.part)).getD 0
    let h2 := { h1 with
      pc := c.pc, g := c.g, waitPhase := c.waitPhase, arrCount := c.arrCount, headArrived := c.headArrived, arrivals := c.arrivals
      held := c.held.filter fun b => ((wk.barriers.get? (barKey part b)).map fun x => x.arrived.contains lg).getD false
      arrivalCount := c.arrivalCount + (kept.map fun (_, _, _, n) => n).sum
      chans := c.chans, inbox := c.inbox, msgSeq := c.msgSeq, gotSeq := c.gotSeq, scoreboard := [], inFlight := [], bobq := []
      inv := h1.inv.map fun i => { i with ending := false } }
    let s1 := (s.setHolm p h2).modWork w fun x => { x with landPos := x.landPos.set lg c.landPos }
    { s1 with flt := { s1.flt with spilled := s1.flt.spilled.set p (s1.flt.complete.getD p 0) } }
  | _, _ => s

/-- The stopped holms of a stage, by logical number. -/
def stoppedOf (s : State) (w stage : Nat) : List (Nat × Nat) :=
  sortBy (fun (a b : Nat × Nat) => decide (a.1 < b.1)) ((s.runnersOf w).filterMap fun p =>
    match (s.holm p).inv with
    | some i => if (s.holm p).st == .faulted && i.stage == stage then some (i.lg, p) else none
    | none => none)

/-- A stage is restored and resumes in the waves of the release it repeats; the fault is reported as masked (R483, R489, R494). -/
def replayStage (s : State) (c : Recovery) (kind unit_ spares : Nat) : State :=
  let rest (s : State) : State := { s with flt := { s.flt with recovery := s.flt.recovery.filter fun x => x != c } }
  let hs := s.stoppedOf c.work c.stage
  let delay := s.now - (((s.work? c.work).map fun x => x.ckptAt.getD c.stage c.since).getD c.since)
  let s1 := (hs.foldl (fun (s : State) (lg, p) => s.restoreHolm c.work lg p) (rest s)).rollback c.work c.stage
  let again := s1.flt.recovery.any fun x => x.work == c.work && x.stage == c.stage
  let s2 := s1.modWork c.work fun x => { x with
    degraded := true, stopped := s1.flt.recovery.any fun y => y.work == c.work
    waves := if hs.isEmpty ∨ again then x.waves else x.waves ++ [⟨.resume, hs.map (·.1), 0, s.now⟩] }
  (s2.masked kind unit_ delay spares).countLandings c.work

def stageReplay (s : State) : State :=
  (s.flt.recovery.filter fun c => c.row == 0 && c.swapped).foldl (fun (s : State) c =>
    s.replayStage c 0 (c.lg % 2 ^ 16 + 2 ^ 16 * c.phys) (s.sparesOf (c.phys / 68))) s

/-- A failing row goes to a spare row, is restored where the lagoon or a carried range holds it, and its stage replays
(R493). -/
def rowRecovery (s : State) : State :=
  match s.flt.recovery.find? fun c => c.row == 1 with
  | none => s
  | some c =>
    match spareRow? (s.holm c.phys) c.bank with
    | none => s.replayStage c 1 (c.phys + 2 ^ 9 * c.bank + 2 ^ 15 * c.line) 0
    | some k =>
      let s1 := s.modHolm c.phys fun h => { h with
        repairs := h.repairs ++ [(c.bank, c.line, k)], repairRecord := h.repairRecord ++ [(c.bank, c.line, k)] }
      let s3 := s1.refillLine c.phys (64 * c.line + c.bank)
      s3.replayStage c 1 (c.phys + 2 ^ 9 * c.bank + 2 ^ 15 * c.line) (spareRows (s3.holm c.phys) c.bank)

/-! ### The pulse (R483, R492) -/

-- DESIGN CHOICE, unsafe: log 30.
/-- A holm's pulse is lost: an invocation's holm has failed; an idle holm's role moves, and a spare leaves service. -/
def pulseLoss (s : State) (p : Nat) : State :=
  let h := s.holm p
  match h.st with
  | .fusedOut => s
  | .faulted =>
    -- a second failure of a holm whose stage is stopped for another recovery (R491)
    match h.inv with
    | some i => if s.broken p then s else { s with flt := { s.flt with recovery := s.flt.recovery ++ [⟨0, i.work, i.stage, i.lg, p, 0, 0, false, s.now⟩] } }
    | none => s
  | .spare => s.fuseOut p
  | .running => s.holmFault p true
  | _ =>
    match s.lgOf? p with
    | none => s.fuseOut p
    | some lg =>
      match s.spareOf? (p / 68) with
      | some q =>
        let s1 := ((s.substitute lg p q false).loadLagoon q).staleRequests p
        s1.masked 0 (lg % 2 ^ 16 + 2 ^ 16 * p) 0 (s1.sparesOf (p / 68))
      | none => s.loseRole lg p

/-! ### Checkpoints (R485, R486) -/

/-- Carried ranges a holm record can hold (R485). -/
def carriedOk (h : Holm) (rs : List (Nat × Nat)) : Bool :=
  decide (rs.length ≤ 8) && (rs.all fun (a, b) => decide (a ≤ b) && decide (8 * b + 7 < h.lagoonAt))
    && decide ((rs.map fun (a, b) => 32 * (b + 1 - a)).sum ≤ min 524288 (4194304 - 262144 * h.lagoon))

/-- Barriers of a holm's stage whose release is a checkpoint. -/
def ckptBars (s : State) (i : Invocation) : List Nat :=
  (((s.work? i.work).bind fun w => w.stages[i.stage]?).map fun (st : Stage) => st.ckpts).getD []

-- DEDUCED, unsafe: log 122.
/-- A holm with an arrival pending at a checkpoint barrier writes its checkpoint state into the harbour copy that is not the
latest complete one (R485 to R487). -/
def spill (s : State) (p : Nat) (carried : List (Nat × Nat)) : State :=
  let h := s.holm p
  match h.inv with
  | none => s
  | some i =>
    let bars := s.ckptBars i
    let k := s.flt.complete.getD p 0
    if h.st ≠ .running ∨ h.fault.isSome ∨ !(h.arrivals.any fun a => bars.contains a.bar) ∨ s.flt.spilled.getD p 0 ≠ k
        ∨ (h.scoreboard.any fun e => e.kind != .declared) ∨ !carriedOk h carried then s
    else { s with flt := { s.flt with
      harbour := s.flt.harbour.set (2 * p + (k + 1) % 2) (s.ckptOf i.work i.lg h bars carried)
      spilled := s.flt.spilled.set p (k + 1) } }

/-! ### The segment watchdog (R498, R499) -/

/-- What a holm at a waiting instruction waits for: logical holms whose action would end the wait, and whether something that is
no invocation can still end it. -/
structure Waits where
  who : List Nat
  other : Bool
  deriving DecidableEq, Repr

/-- Participants of a barrier that have not arrived in its phase. -/
def absent (s : State) (i : Invocation) (b : Nat) : List Nat :=
  match s.work? i.work with
  | none => []
  | some w => match w.barriers.get? (barKey i.part b) with
    | some x => (s.waitersOf w i.part b).filter fun l => !x.arrived.contains l
    | none => []

/-- Landings of rings or collectives are still to come to a logical holm (R499). -/
def landingsDue (s : State) (w lg : Nat) : Bool :=
  (s.net.rings.any fun ((_, r) : Nat × Ring) => r.work == w && r.stopped.isNone && (s.ringDests r).contains lg && !s.ringDone r)
    || s.net.colls.any fun ((_, c) : Nat × Coll) => c.work == w && c.active && !c.done

-- DEDUCED, unsafe: log 19.
/-- A channel can act without its holm: requests or landings are under way, or its next pricking instruction waits neither for a
credit nor for a tile that the holm would have to free (R219, R222, R499). -/
def channelActs (h : Holm) (ch : Nat) : Bool :=
  let c := h.chan ch
  c.kva.isSome || c.failed.isSome || (c.active && (!c.loaded || c.canEnd || c.tiles.any (fun t => t.outstanding != 0 || t.walker)
    || c.nextDone.isSome ||
    match h.prickWord ch with
    | none => false
    | some w => match fld w 60 4 with
      | 0x1 => c.tileOpen || decide (c.unfreed < c.depth)
      | 0x6 => c.credits != 0
      | 0x7 => decide (c.unfreed < c.depth)
      | _ => true))

/-- A channel of the holm can act. -/
def channelsAct (_ : State) (h : Holm) : Bool := (List.range 8).any fun ch => channelActs h ch

/-- Producers of a DECLARED event (R499). -/
def producers (s : State) (i : Invocation) (h : Holm) : RetireEv → Waits
  | .phase b _ => ⟨s.absent i b, false⟩
  | .tiles _ _ => ⟨[], s.channelsAct h⟩
  | .arrivals _ => ⟨[], s.landingsDue i.work i.lg⟩
  | _ => ⟨[], true⟩

/-- The waits of a holm's head instruction; a TIDE or HALT waits there for R232 (R47, R499). -/
def headWaits (s : State) (h : Holm) : Waits :=
  match h.inv with
  | none => ⟨[], false⟩
  | some i =>
    let w := (h.program.words[h.pc]?.map BitVec.toNat).getD 0
    let decl := h.scoreboard.filter fun e => e.kind == .declared && !s.eventHolds h e.ev
    let p := (s.physOf? i.lg).getD 272
    let busy := !h.inFlight.isEmpty || s.channelsAct h || (s.reqs.any fun ((_, r) : Nat × NetReq) => r.src == p)
      || h.arrivals.any fun a => (s.readyArrival p a.bar h).isSome || (s.ckptBars i).contains a.bar
    if i.ending ∧ decl.isEmpty then ⟨[], busy⟩
    else if i.ending then decl.foldl (fun (acc : Waits) e => let x := s.producers i h e.ev; ⟨acc.who ++ x.who, acc.other || x.other⟩) ⟨[], false⟩
    else if fld w 0 8 = 0x08 then ⟨s.absent i (eff (fld w 10 6) (h.selVal (fld w 16 5))), false⟩
    else if fld w 0 8 = 0x0A ∧ bitAt w 8 ∧ h.inbox.isEmpty then
      ⟨(s.runnersOf i.work).filterMap fun p => (s.holm p).inv.bind fun j => if j.lg = i.lg ∨ j.part ≠ i.part then none else some j.lg, false⟩
    else if decl.isEmpty then ⟨[], busy || (h.scoreboard.isEmpty && h.bobq.isEmpty)⟩
    else decl.foldl (fun (acc : Waits) e => let x := s.producers i h e.ev; ⟨acc.who ++ x.who, acc.other || x.other⟩) ⟨[], false⟩

/-- Running holms that wait at their head, by logical number, with what they wait for. -/
def waitGraph (s : State) : List (Nat × Waits) :=
  s.holms.filterMap fun ((_, h) : Nat × Holm) =>
    match h.inv with
    | some i => if h.st == .running && h.fault.isNone then some (i.lg, s.headWaits h) else none
    | none => none

/-- Everything reached along edges from some holms, in at most that many rounds. -/
def reach (g : List (Nat × Waits)) : Nat → List Nat → List Nat
  | 0, l => l
  | f + 1, l =>
    let more := ((g.filter fun (x, _) => l.contains x).flatMap fun (_, ws) => ws.who).filter fun x => !l.contains x
    if more.isEmpty then l else reach g f (l ++ more.eraseDups)

/-- The unit of work a logical holm runs. -/
def workOfLg (s : State) (lg : Nat) : Option Nat := (s.physOf? lg).bind fun p => (s.holm p).inv.map (·.work)

/-- A unit of work ended by the watchdog: the record of its lowest logical holm, and the end (R499). -/
def breakWork (s : State) (w lg n : Nat) : State :=
  let h := ((s.physOf? lg).map s.holm).getD (Holm.reset .fusedOut)
  let opc := (h.program.words[h.pc]?.map fun x => fld x.toNat 0 8).getD 0
  (s.modWork w fun x => { x with faults := x.faults ++ [(lg, ⟨.deadlockBroken, h.pc, opc, 0, false, n, false, 0, h.tideNo⟩)] }).failWork
    w .deadlockBroken

/-- The wait graph from a holm, in the log: one entry per edge (R499, R574). -/
def logGraph (s : State) (edges : List (Nat × Nat)) (cyc ended : List Nat) : State :=
  let handle (lg : Nat) : Nat := (((s.workOfLg lg).bind s.work?).map (·.handle)).getD 0
  let tenant (lg : Nat) : Option Nat := ((s.workOfLg lg).bind s.work?).map (·.tenant)
  let s1 := edges.foldl (fun (s : State) (a, b) =>
    s.log 4 Status.deadlockBroken.code (if tenant a = tenant b then tenant a else none) (a % 2 ^ 16 + 2 ^ 16 * (handle a % 2 ^ 32))
      (handle b % 2 ^ 32 + 2 ^ 32 * (s.flt.graphs % 2 ^ 32) + 2 ^ 64 * (cyc.contains a && cyc.contains b).toNat + 2 ^ 65 * (ended.contains a).toNat)) s
  { s1 with flt := { s1.flt with waitGraph := edges, graphs := s1.flt.graphs + 1 } }

-- DEDUCED, unsafe: log 19.
/-- The segment watchdog fires for a holm (R498, R499). -/
def watchdog (s : State) (p : Nat) : State :=
  match (s.holm p).inv with
  | none => s
  | some i =>
    let g := s.waitGraph
    if !(g.any fun (x, _) => x == i.lg) then s
    else
      let seen := reach g (g.length + 1) [i.lg]
      let nodes := g.filter fun (x, _) => seen.contains x
      let cyc := (nodes.filter fun (x, ws) => (reach g (g.length + 1) ws.who).contains x).map (·.1)
      let edges := nodes.flatMap fun (x, ws) => ws.who.map fun y => (x, y)
      let youngest := (cyc.filterMap fun x => (s.workOfLg x).bind fun w => (s.work? w).map fun k => (k.order, w)).foldl
        (fun (acc : Nat × Nat) (o, w) => if acc.1 ≤ o then (o, w) else acc) (0, 0)
      if !cyc.isEmpty then
        let ended := (s.runnersOf youngest.2).filterMap fun q => (s.holm q).inv.map (·.lg)
        (s.logGraph edges cyc ended).breakWork youngest.2 (ended.foldl min 256) cyc.length
      else
        let live (x : Nat) : Bool := ((s.physOf? x).map fun q => (s.holm q).st == .running && (s.holm q).inv.isSome).getD false
        let dead := (nodes.filter fun (_, ws) => !ws.other && !ws.who.any live).map (·.1)
        dead.foldl (fun (s : State) x => match s.workOfLg x with | some w => s.breakWork w x 0 | none => s) (s.logGraph edges [] dead)

end State

end Sys2Proof.Machine
end

