-- ==== Sys2Proof/Machine/Invoc.lean ====
section
/-! DEFINITION. Invocations of holms, waves and slacks (R61, R82, R228 to R236, R259, R400, R402, R435, R442, R468, R518, R526). -/

namespace Sys2Proof.Machine

/-- The instant of a release's next wave (R229). -/
def Wave.due (v : Wave) : Nat := v.at_ + 125 * v.next / 2

namespace State

/-! ### Operation lists (R20, R445) -/

/-- A collective that an operation list or a command starts here becomes active at once (R402). -/
def startColl (s : State) (w stage ord part raw : Nat) : State :=
  match s.work? w with
  | none => s
  | some wk =>
    let k := unitKey w stage ord
    (({ s with net := { s.net with
        colls := s.net.colls.set k (Coll.fresh w stage ord wk.tenant part wk.arch raw wk.tide) } } : State).activateColl k)

-- DESIGN CHOICE, unsafe: log 28.
/-- The next operation of a stage: COPY, GEMM and ATTEND run whole; a COLLECTIVE must end before the next one. The answer says
whether the list may go on. -/
def nextOp (s : State) (w stage : Nat) (wk : Work) (st : Stage) : State × Bool :=
  let k := wk.opAt.getD stage 0
  let go (r : State × Status) : State × Bool :=
    if r.2.isDone then (r.1.modWork w fun x => { x with opAt := x.opAt.set stage (k + 1), degraded := x.degraded || r.2 == .doneDegraded }, true) else (r.1.failWork w r.2, false)
  match st.oplist[k]? with
  | none => (s, false)
  | some raw =>
    match fld raw 0 16 with
    | 0x0204 => go (s.copyOp wk.tenant (argOf raw 40 8) (argOf raw 48 8) (argOf raw 56 8))
    | 0x0602 => match Gemm.mk? (fld raw 0 1024) with | some g => go (s.gemmOp wk.tenant g) | none => go (s, .badCommand)
    | 0x0601 => match Attend.mk? (fld raw 0 1024) with | some a => go (s.attendOp wk.tenant a) | none => go (s, .badCommand)
    | _ =>
      match s.coll? (unitKey w stage (opOrd + k)) with
      | none => (s.startColl w stage (opOrd + k) st.part (raw / 2 ^ 1024), false)
      | some c => if c.done then go (s, .done) else (s, false)

/-- Operations run as far as they can. -/
def runOps (w stage : Nat) : Nat → State → State
  | 0, s => s
  | f + 1, s =>
    match s.work? w with
    | none => s
    | some wk => match wk.stages[stage]? with
      | none => s
      | some st => match s.nextOp w stage wk st with
        | (s1, true) => runOps w stage f s1
        | (s1, false) => s1

/-! ### The end of an invocation (R83, R232, R235, R488) -/

/-- Nothing the holm has begun is left: entries, channels and tiles, arrivals, and its requests (R47, R232). -/
def quiet (s : State) (p : Nat) (h : Holm) : Bool :=
  h.fault.isNone && h.scoreboard.isEmpty && h.inFlight.isEmpty && h.bobq.isEmpty && h.arrivals.isEmpty
    && (h.chans.all fun c => c.idle && c.failed.isNone) && s.reqs.all fun ((_, r) : Nat × NetReq) => r.src != p

-- DEDUCED, unsafe: log 123.
/-- Credits held back for a stage return when its last holm has ended: the slack is its next checkpoint (R471, R488). -/
def returnHeld (s : State) (w stage : Nat) : State :=
  if (s.runnersOf w).any fun p => ((s.holm p).inv.map (·.stage)) == some stage then s
  else { s with net := { s.net with rings := s.net.rings.map fun ((i, r) : Nat × Ring) =>
      (i, if r.work == w && r.stage == stage then { r with returned := r.returned ++ r.heldBack, heldBack := [] } else r) } }

/-- A holm's TIDE or HALT completes, or its operation list is through. -/
def endInvocation (s : State) (p : Nat) : State :=
  let h := s.holm p
  match h.st, h.inv with
  | .running, some i =>
    match s.work? i.work with
    | none => s
    | some wk =>
      match wk.stages[i.stage]? with
      | none => s
      | some st =>
        let s1 := if st.oplist.isEmpty then s else runOps i.work i.stage (st.oplist.length + 1) s
        let listed := !st.oplist.isEmpty && ((s1.work? i.work).map fun x => x.opAt.getD i.stage 0) == some st.oplist.length
        if (s1.holm p).inv ≠ some i ∨ !((i.ending && st.oplist.isEmpty) || listed) ∨ !s1.quiet p (s1.holm p) then s1
        else ((s1.leaveHolm p .idle).returnHeld i.work i.stage).settle i.work
  | _, _ => s

/-! ### Waves (R229, R230, R233, R235, R489) -/

/-- What one waiter of a wave does. -/
def wakeOne (s : State) (w : Nat) (v : Wave) (lg : Nat) : State :=
  let many := decide (16 < v.waiters.length)
  match v.kind with
  | .start => s.startHolm w lg many
  | .release key phase =>
    match s.physOf? lg with
    | none => s
    | some p =>
      let h := s.holm p
      if (h.inv.map (·.work)) = some w then
        s.setHolm p { h with seenPhase := h.seenPhase.set (key % 64) phase, ramp := h.ramp || many }
      else s
  | .resume =>
    match s.physOf? lg with
    | none => s
    | some p =>
      let h := s.holm p
      if h.st = .faulted ∧ (h.inv.map (·.work)) = some w then s.setHolm p { h with st := .running, ramp := h.ramp || many } else s

/-- Collectives of stages whose first holm has started become active (R402). -/
def activateStarted (s : State) (w : Nat) (lgs : List Nat) : State :=
  let stages := lgs.filterMap fun lg => (s.physOf? lg).bind fun p => (s.holm p).inv.bind fun i => if i.work = w then some i.stage else none
  s.net.colls.foldl (fun (s : State) (e : Nat × Coll) =>
    if e.2.work = w ∧ !e.2.active ∧ e.2.ord < opOrd ∧ stages.contains e.2.stage then s.activateColl e.1 else s) s

/-- The next wave of a unit of work, of the release that is due first. -/
def releaseWave (s : State) (w : Nat) : State :=
  match s.work? w with
  | none => s
  | some wk =>
    match sortBy (fun (a b : Wave) => decide (a.due < b.due)) wk.waves with
    | [] => s
    | v :: _ =>
      let group := (v.waiters.drop (16 * v.next)).take 16
      let last := decide (v.waiters.length ≤ 16 * (v.next + 1))
      let s1 := s.modWork w fun x => { x with
        waves := if last then x.waves.erase v else x.waves.map fun y => if y = v then { y with next := y.next + 1 } else y }
      let s2 := group.foldl (fun (s : State) lg => s.wakeOne w v lg) s1
      if v.kind = .start then (s2.activateStarted w group).settle w else s2

/-! ### Suspended guarantees (R398, R400, R468, R518, R526) -/

/-- The cause for which tides of a plan run without their guarantee at this moment. -/
def suspendCause (s : State) (wk : Work) : Option Nat :=
  let multi := ((s.net.archs.get? wk.arch).map fun a => decide (1 < a.members.length)).getD false && wk.arch != 0
  let spans := ((s.net.archs.get? wk.arch).map (·.spansRacks)).getD false && wk.arch != 0
  if s.pow.lowest then some (match s.pow.lowCause with | .vrAlert => 2 | .pwrBrake => 3)
  else if s.pow.affected.contains wk.handle then some 0
  else if (s.net.time.wasFree && multi) || ((s.pathOf wk.arch).lost && spans) || s.net.time.sync == .unsync then some 1
  else none

-- DEDUCED, unsafe: log 33.
/-- A tide in progress, or one that starts, is suspended; the first such tide is reported (R448, R518, R526). -/
def suspendTide (s : State) (w : Nat) : State :=
  match s.work? w with
  | none => s
  | some wk =>
    match s.suspendCause wk with
    | none => s
    | some c =>
      if wk.kind ≠ .plan ∨ !wk.running ∨ wk.suspended.isSome then s
      else
        let s1 := s.modWork w fun x => { x with suspended := some c, restoreDue := true }
        if wk.restoreDue then s1
        else
          let body := wk.handle % 2 ^ 32 + 2 ^ 64 * (wk.tide % 2 ^ 64) + 2 ^ 128 * c
          ((s1.log 0x0A Status.guaranteeSuspended.code (some wk.tenant) 0 c).notice 0 0x3 body).noticeTenant wk.tenant 0x3 body

def suspendTides (s : State) : State := s.isth.works.foldl (fun (s : State) (e : Nat × Work) => s.suspendTide e.1) s

/-- At the first slack after the state has ended, the guarantee is restored (R448, R518, R526). -/
def restoreTide (s : State) (w : Nat) : State :=
  match s.work? w with
  | none => s
  | some wk =>
    if !wk.restoreDue ∨ (s.suspendCause wk).isSome then s
    else
      let body := wk.handle % 2 ^ 32 + 2 ^ 64 * (wk.tide % 2 ^ 64)
      ((s.modWork w fun x => { x with restoreDue := false }).notice 0 0x4 body).noticeTenant wk.tenant 0x4 body

/-! ### The slack (R231 to R236, R400) -/

-- DEDUCED, unsafe: log 94.
/-- The scheduled instant of slack k, in this module's rack time. -/
def slackAt (s : State) (wk : Work) (k : Nat) : Nat :=
  let t := wk.s0 + k * wk.period
  if wk.arch ≠ 0 ∧ ((s.net.archs.get? wk.arch).map (·.spansRacks)).getD false then
    (((t : Int) - (s.pathOf wk.arch).offset).toNat + 999) / 1000 * 1000
  else t

/-- The slack has come: the rack-time counter has reached its instant. -/
def setClock (s : State) (t : Nat) : State := { s with net := { s.net with time := { s.net.time with now := max s.net.time.now t } } }

/-- The settings of every holm of a plan's stages, as its start or an update brings them (R85, R237, R445). -/
def settleStages (s : State) (stages : List Stage) (start : Bool) : State :=
  stages.foldl (fun (s : State) st => (s.stageHolms st).foldl (fun (s : State) lg => match s.physOf? lg with
    | some p => s.modHolm p fun h => if start then h.takeNewStage st (s.imageOf st lg) else h.takeStage st (s.imageOf st lg)
    | none => s) s) s

/-- Windows that the collectives of replaced stages name are bound to the current epochs of their holms (R375). -/
def rebind (s : State) (t arch : Nat) (stages : List Stage) : State :=
  let wins := stages.flatMap fun st => st.colls.filterMap fun raw => s.ownWindow (collView t st.part arch raw)
  { s with net := { s.net with windows := s.net.windows.map fun ((i, w) : Nat × Window) =>
    (i, if wins.contains w then { w with holms := w.holms.map fun h => match s.windowLg h with
        | some lg => (h.1, h.2.1, s.epochOf lg)
        | none => h } else w) } }

/-- What becomes current for the holms of a plan at its slack, and what a slack is the commit point of (R233, R234, R261). -/
def slackSwaps (s : State) (lgs : List Nat) (tenant tide now : Nat) : State :=
  let ps := lgs.filterMap s.physOf?
  let s1 := (ps.foldl (fun (s : State) p => s.swapSettings p) s).retireHolms ps
  (s1.slackParts tenant tide now).commitPoint tenant tide now

/-- A plan stops at this slack: its holms are idle, and the commands that ordered it report the last tide (R236, R439). -/
def stopPlan (s : State) (w : Nat) (wk : Work) (last : Nat) : State :=
  let lgs := s.workHolms wk
  let s1 := ((s.bumpEpochs lgs).setCause lgs .ordered).modWork w fun x => { x with
    started := false, running := false, closeAt := none, stopping := false, stopCmds := [], update := none, updateCmds := []
    barriers := [], waves := [], keep := [], suspended := none }
  ({ s1 with net := { s1.net with
      rings := s1.net.rings.filter fun ((_, r) : Nat × Ring) => r.work != w
      colls := s1.net.colls.filter fun ((_, c) : Nat × Coll) => c.work != w } } : State)
    |>.endCmds wk.stopCmds .done (last % 2 ^ 64) |>.endCmds wk.updateCmds .aborted 0

-- DEDUCED, unsafe: log 34.
/-- The first slack of a plan, where tide 0 begins; a plan stopped before it does not start (R236, R442). -/
def firstSlack (s : State) (w : Nat) (wk : Work) : State :=
  let now := s.slackAt wk 0
  let s1 := s.setClock now
  if wk.stopping then
    ((s1.modWork w fun x => { x with startCmd := none, stopping := false, stopCmds := [] }).endCmds wk.startCmd.toList .aborted 0).endCmds
      wk.stopCmds .done 0
  else
    let lgs := s1.workHolms wk
    let s2 := (s1.slackSwaps lgs wk.tenant 0 now).settleStages wk.stages true
    let s3 := ((s2.bumpEpochs lgs).setCause lgs .ordered).modWork w fun x => { x with
      started := true, startCmd := none, tide := 0, lastSlack := now, suspended := none, restoreDue := false }
    ((s3.endCmds wk.startCmd.toList .done (2 ^ 64 * (wk.s0 % 2 ^ 64))).beginWork w).suspendTide w

/-- A later slack: the finished tide's appends commit or not and its completion is posted; settings swap; the plan stops, or the
next tide begins, with replaced stages where an update takes effect (R228, R232 to R234, R259, R260, R442). -/
def laterSlack (s : State) (w : Nat) (wk : Work) (close : Nat) : State :=
  let sched := s.slackAt wk (wk.tide + 1)
  let now := max sched (close + 250)
  let s0 := s.setClock now
  let st := s0.endStatus w wk
  let (s1, _) := s0.commitAppends w wk.tenant (commits st)
  let told := if st.isDone ∧ wk.suspended.isSome then Status.guaranteeSuspended else st
  let s1 := { s1 with pow := { s1.pow with minSlack := s1.pow.minSlack.set wk.arch (match s1.pow.minSlack.get? wk.arch with
    | some m => min m ((sched : Int) - close)
    | none => (sched : Int) - close) } }
  let s2 := s1.tideComplete w ⟨told, wk.tide, now - sched, 0, wk.energy, faultOf wk⟩
  let next := wk.tide + 1
  let lgs := s2.workHolms wk
  let s3 := (s2.slackSwaps lgs wk.tenant next now).modWork w fun x => { x.learn with tide := next, lastSlack := now, energy := 0, suspended := none }
  match s3.work? w with
  | none => s3
  | some wk3 =>
    if wk3.stopping then s3.stopPlan w wk3 wk.tide
    else
      let due := wk3.updateCmds.all fun id => decide (((s3.cmd? id).map (·.since)).getD 0 + 2000 ≤ now)
      let s4 := match wk3.update.filter fun _ => due with
        | none => s3
        | some stages =>
          let moved := (wk3.stages ++ stages).flatMap s3.stageHolms
          (((((s3.settleStages stages false).bumpEpochs moved.eraseDups).setCause moved .ordered).rebind wk3.tenant wk3.arch stages).modWork w fun x => { x with
            stages := stages, update := none, updateCmds := [] }).endCmds wk3.updateCmds .done (next % 2 ^ 64)
      (((s4.restoreTide w).beginWork w).suspendTide w).dividePower

def slack (s : State) (w : Nat) : State :=
  match s.work? w with
  | none => s
  | some wk =>
    if wk.kind ≠ .plan ∨ s.net.time.sync = .unsync ∨ (s.flt.recovery.any fun c => c.work == w && !c.swapped) then s
    else if !wk.started then (if wk.startCmd.isSome then s.firstSlack w wk else s)
    else match wk.closeAt with
      | some c => s.laterSlack w wk c
      | none => s

end State

/-! ### The rows -/

/-- INVOCATION_COMPLETE (R232). -/
def execInvocationComplete (p : Nat) (s : State) : Out := onHolm p s fun _ s => s.endInvocation p

/-- HOLM_FAULT (R325, R494). -/
def execHolmFault (p : Nat) (hw : Bool) (s : State) : Out := onHolm p s fun _ s => s.holmFault p hw

/-- SEGMENT_WATCHDOG (R498, R499). -/
def execSegmentWatchdog (p : Nat) (s : State) : Out := onHolm p s fun _ s => s.watchdog p

/-- WAVE_RELEASE (R229, R230). -/
def execWaveRelease (work : Nat) (s : State) : Out := .next (s.releaseWave work)

/-- SLACK (R233). -/
def execSlack (work : Nat) (s : State) : Out := .next (s.slack work)

/-- CHECKPOINT_SPILL (R485, R486). -/
def execCheckpointSpill (p : Nat) (carried : List (Nat × Nat)) (s : State) : Out := onHolm p s fun _ s => s.spill p carried

/-- RECOVERY_SLACK (R492). -/
def execRecoverySlack (s : State) : Out := .next s.recoverySlack

/-- STAGE_REPLAY (R489). -/
def execStageReplay (s : State) : Out := .next s.stageReplay

/-- ROW_FAULT_RECOVERY (R493). -/
def execRowFaultRecovery (s : State) : Out := .next s.rowRecovery

/-- HOLM_PULSE_LOSS (R483). -/
def execHolmPulseLoss (p : Nat) (s : State) : Out := onHolm p s fun _ s => s.pulseLoss p

end Sys2Proof.Machine
end

