-- ==== Sys2Proof/Machine/Ports.lean ====
section
/-! DEFINITION. Strait ports as units of their own: the link's training, charting, failures and recovery, and what becomes of the
transfers on them (R360, R364 to R370, R372, R375 to R384, R388 to R394, R399, R400, R483). -/

namespace Sys2Proof.Machine

namespace Port

-- DEDUCED, unsafe: log 86.
/-- A link comes up anew: indices, retry, credits and everything half received start again (R361, R370). -/
def linkUp (q : Port) : Port :=
  { q with
    st := .train, txIndex := 0, rxIndex := 0, unacked := [], replay := [], replayFrom := none, badAt := none, nakDue := false
    lastGood := 65535, credits := [], announced := [], toReturn := [], rotate := 0, initSent := false, initRcvd := false
    leaving := [], mgtOut := [], mgtIn := [], partialIn := [], wire := none, charted := false, conflict := false, peerEn := none
    offer := none, retries := 0, swapAt := none }

/-- Lane maps of a link-up: logical lane k is physical lane k, and lane 4 is the spare, which carries a receive lane that the
repair table names (R360, R542). -/
def freshMaps (q : Port) (bad : List Nat) : Port :=
  { q with txMap := [0, 1, 2, 3], rxMap := [0, 1, 2, 3].map fun k => if bad.contains k then 4 else k, rxLaneLost := !bad.isEmpty
           txLaneLost := false, lanesGone := false }

/-- The first management flit of some kind that has arrived, and the port without it. -/
def popMgt (q : Port) (f : Nat → Bool) : Option (Nat × Port) :=
  match q.mgtIn.find? fun x => f (ofBytes x) with
  | some x => some (ofBytes x, { q with mgtIn := q.mgtIn.erase x })
  | none => none

end Port

/-! ### CHART flits (R388) -/

def chtKind (v : Nat) : Nat := fld v 8 4
def isChart (v : Nat) : Bool := fld v 0 8 == 0x03

/-- Reserved fields are zero, and so are the fields of other kinds. -/
def chartOk (v : Nat) : Bool :=
  fld v 12 4 == 0 && fld v 21 11 == 0 && fld v 398 2 == 0 && fld v 475 5 == 0 && v / 2 ^ 707 == 0
    && match chtKind v with
      | 1 => fld v 400 75 == 0 && fld v 480 227 == 0
      | 2 => fld v 192 206 == 0 && fld v 480 227 == 0
      | 3 => fld v 192 206 == 0 && fld v 400 75 == 0
      | _ => false

/-- A 32-bit field read as a signed number. -/
def signed32 (v : Nat) : Int := if v < 2 ^ 31 then v else (v : Int) - 2 ^ 32

namespace State

/-! ### The end of a transfer (R372, R375, R383, R384) -/

/-- The unit of work that a transfer serves. -/
def ownerWork (s : State) (o : XOwner) : Option Nat :=
  match o with
  | .ring rid _ => (s.ring? rid).map (·.work)
  | .piece cid _ => (s.coll? cid).map (·.work)
  | _ => none

/-- A transfer ends at its sender: the ring or collective that sent it goes on, or fails. -/
def endSent (s : State) (t : Sent) (st : Status) : State :=
  let s0 : State := { s with net := { s.net with
    sent := s.net.sent.erase t
    ports := s.net.ports.map fun q => { q with leaving := q.leaving.filter fun l => l.x != t.x } } }
  let s1 := if t.degraded then (match s0.ownerWork t.owner with
    | some w => s0.modWork w fun x => { x with degraded := true }
    | none => s0) else s0
  match t.owner with
  | .ring rid _ =>
    let s2 := s1.modRing rid fun r => { r with outstanding := r.outstanding - 1 }
    if !st.isDone then s2.failRing rid st
    else match s2.ownerWork t.owner with | some w => s2.settle w | none => s2
  | .piece cid rank =>
    let s2 := s1.modColl cid fun c =>
      let c1 := { c with outstanding := c.outstanding - 1 }
      if t.degraded then c1.modEntry rank fun e => if e.status = .done then { e with status := .doneDegraded } else e else c1
    if st.isDone then s2 else s2.collFail cid rank st
  | _ => s1

def endAll (s : State) (ts : List Sent) (st : Status) : State := ts.foldl (fun (s : State) t => s.endSent t st) s

/-- A change of a transfer that is not answered. -/
def modSent (s : State) (t u : Sent) : State := { s with net := { s.net with sent := s.net.sent.map fun x => if x = t then u else x } }

/-- A transfer is put on a port anew, of its own set or where R379 and R381 move it; it waits where there is none. -/
def placeSent (s : State) (t : Sent) (turn : Nat) : State :=
  match s.portFor t.arch t.ports turn with
  | some (i, v) =>
    let y := withRelay t.x v
    ({ s.modSent t { t with x := y, port := i } with free := s.free + 1 } : State).leave i t.chan y
  | none => s.modSent t { t with port := 32 }

/-- Transfers that wait for a port leave where one is UP now. -/
def placeWaiting (s : State) : State :=
  (s.net.sent.filter fun t => t.port == 32).zipIdx.foldl (fun (s : State) (t, k) => s.placeSent t k) s

/-- Transfers that no port can ever serve now: every port to their peer is in HOLD or DOWN (R383). -/
def dropWaiting (s : State) : State :=
  s.endAll (s.net.sent.filter fun t => t.port == 32 && s.allLost t.ports && (s.portFor t.arch t.ports 0).isNone) .linkLost

/-! ### Rack time between racks (R399, R400) -/

/-- The neighbour with the lowest depth among ports enabled for an archipelago, ties to the lower port: depth and offset. -/
def bestOffer (s : State) (arch : Nat) : Option (Nat × Int) :=
  s.net.ports.zipIdx.foldl (fun (acc : Option (Nat × Int)) (q, i) =>
    match q.offer with
    | none => acc
    | some (off, d) =>
      let own := if 30 ≤ i then d + 1 else d
      if q.enabled ≠ some arch then acc
      else match acc with
        | some (e, _) => if own < e then some (own, off) else acc
        | none => some (own, off)) none

/-- A signal wakes the strait group of its port (R504). -/
def wakeStrait (s : State) (i : Nat) : State :=
  { s with pow := { s.pow with gated := s.pow.gated.filter (· != straitDomain (i / 4)) } }

/-- A loan is dropped where no port to the lender is UP (R523). -/
def dropLoans (s : State) : State :=
  { s with pow := { s.pow with loans := s.pow.loans.map fun ((g, l) : Nat × Loan) =>
      (g, if (List.range 5).any fun k => (s.port (5 * g + k)).st == .up then l else { l with owed := 0 }) } }

/-- The paths to the reference racks follow the neighbours' offers. -/
def followOffers (s : State) : State :=
  let paths := (s.net.archs.filter fun ((_, a) : Nat × Arch) => a.spansRacks).map fun ((a, _) : Nat × Arch) =>
    let old := s.net.time.paths.getD a ⟨0, 7, false⟩
    (a, match s.bestOffer a with
      | some (d, o) => if d < 7 then (⟨o, d, false⟩ : TimePath) else ⟨o, 7, old.lost⟩
      | none => ⟨old.offset, 7, old.lost⟩)
  ({ s with net := { s.net with time := { s.net.time with paths := paths } } } : State).dropLoans

/-! ### Failure of a port (R376, R379, R383) -/

/-- WRITEs of which the last flit has not come are cut off. -/
def cutPartials (s : State) (i : Nat) : State :=
  ((s.port i).partialIn.foldl (fun (s : State) (e : Nat × List Nat) => s.cutOff i e.2) s).modPort i fun q => { q with partialIn := [] }

def linkLog (s : State) (i event lane : Nat) : State := s.log 9 0 none (i % 32) (event + 2 ^ 8 * lane)

-- DESIGN CHOICE, safe: log 29.
/-- The interruption of a reroute: measured, at most 3 µs (R379, R483). -/
def rerouteDelay (s : State) : Nat := Config.freeNat .measure s.free 1 % 3001

-- DEDUCED, unsafe: log 90.
/-- Everything a failed port carried goes elsewhere: unanswered transfers whole, in the order in which they left; replies and
relayed transfers on another port of the group. -/
def reroute (s : State) (i : Nat) : State :=
  let q := s.port i
  let mine := s.net.sent.filter fun t => t.port == i
  let others := q.leaving.filter fun l => !mine.any fun t => t.x == l.x
  let s1 := s.modPort i fun q => { q with leaving := [] }
  let s2 := match q.enabled.bind fun a => (s1.upPorts a (groupOf i)).head? with
    | some j => others.foldl (fun (s : State) l => s.leave j l.chan l.x) s1
    | none => s1
  (mine.zipIdx.foldl (fun (s : State) (t, k) =>
    let u := { t with degraded := true }
    (s.modSent t u).placeSent u k) s2).dropWaiting

-- DEDUCED, unsafe: log 89.
/-- A port goes out of service: FAILED, and its traffic is moved. A fault that another path masks is reported. -/
def failPort (s : State) (i kind lane : Nat) (tell : List (List Nat)) : State :=
  let wasUp := (s.port i).st == .up
  let s1 := (s.cutPartials i).modPort i fun q => { q with
    st := .failed, mgtOut := q.mgtOut ++ tell, offer := none, peerEn := none, charted := false }
  let s2 := (s1.reroute i).followOffers
  let path : Bool := match (s.port i).enabled with | some a => (s2.portFor a [i] 0).isSome | none => false
  if wasUp ∧ path then
    ({ s2 with free := s2.free + 1 } : State).masked kind (i + (if kind = 4 then 32 * lane else 0)) s2.rerouteDelay 0
  else s2

-- DEDUCED, unsafe: log 88.
/-- A protocol error, and every other cause with a reason code (R379, R383). -/
def portError (s : State) (i reason : Nat) : State := (s.failPort i 5 0 [portDownFlit reason]).linkLog i 2 0

/-! ### Charting (R389 to R391, R394) -/

/-- The cabling of R377 and the rack identities of R389. -/
def cabled (s : State) (i : Nat) (p : Peer) : Bool :=
  if i < 30 then p.port == 5 * (Nat.xor (i / 5) 1) + i % 5 && p.rack == s.net.rackId && p.rack != 0
  else decide (30 ≤ p.port ∧ p.port ≤ 31) && p.rack != s.net.rackId && p.rack != 0 && s.net.rackId != 0

/-- A claim is better than another (R390). -/
def betterClaim (a b : Claim) : Bool := (a.fixed && !b.fixed) || (a.fixed == b.fixed && decide (a.anchor < b.anchor))

/-- What a neighbour's claim says of this module's place. -/
def candidate (i v : Nat) : Claim :=
  let d (axis c : Nat) : Nat := if i / 10 ≠ axis then c else if i / 5 % 2 = 0 then (c + 3) % 4 else (c + 1) % 4
  ⟨d 0 (fld v 192 2), d 1 (fld v 194 2), d 2 (fld v 196 2), fld v 200 64, bitAt v 199⟩

-- DEDUCED, unsafe: log 92.
/-- The claim after a HELLO, and whether the two conflict: a fixed claim never changes. -/
def mergeClaim (mine cand : Claim) : Claim × Bool :=
  if mine.fixed then
    (mine, (cand.fixed && cand.anchor != mine.anchor)
      || (cand.anchor == mine.anchor && (cand.x != mine.x || cand.y != mine.y || cand.z != mine.z)))
  else if betterClaim cand mine then (cand, false)
  else (mine, cand.anchor == mine.anchor && (cand.x != mine.x || cand.y != mine.y || cand.z != mine.z))

/-- Archipelagos and indices under which a serial is a member, with the incarnation held there. -/
def membersOf (s : State) (serial : Nat) : List (Nat × Nat × Nat × Nat) :=
  s.net.archs.flatMap fun ((a, x) : Nat × Arch) =>
    (x.members.filter fun (_, ser, _, _) => ser == serial).map fun (k, _, inc, _) => (a, x.tenant, k, inc)

/-- Tenants of archipelagos that hold a serial (R448). -/
def tenantsWith (s : State) (serial : Nat) : List Nat := ((s.membersOf serial).map fun e => e.2.1).eraseDups

/-- A notice of MISCABLED or CHART_CONFLICT, once per incarnation pair. -/
def chartNotice (s : State) (i code : Nat) (p : Peer) : State :=
  if (s.port i).noticed = some (s.net.inc, p.inc) then s
  else (s.modPort i fun q => { q with noticed := some (s.net.inc, p.inc) }).notice 0 code
    (i + 2 ^ 8 * p.port + 2 ^ 64 * (s.net.serial % 2 ^ 64) + 2 ^ 128 * (p.serial % 2 ^ 64))

/-- A peer that is a new node: PEER_NEW, and the end of every transfer addressed to it (R394). -/
def peerNew (s : State) (i : Nat) (p : Peer) : State :=
  let old := (s.membersOf p.serial).filter fun (_, _, _, inc) => inc != p.inc
  match old with
  | [] => s
  | (_, _, _, inc) :: _ =>
    let body := i + 2 ^ 64 * (p.serial % 2 ^ 64) + 2 ^ 128 * (inc % 2 ^ 64) + 2 ^ 192 * (p.inc % 2 ^ 64)
    let s1 := (s.notice 0 0x32 body).noticeTenants (s.tenantsWith p.serial) 0x32 body
    old.foldl (fun (s : State) (a, _, k, _) =>
      s.endAll (s.net.sent.filter fun t => t.arch == a && t.x.dst == k) .peerGone) s1

/-- Enable at both ends for one archipelago whose member the peer is: UP (R382, R393). -/
def tryUp (s : State) (i : Nat) : State :=
  let q := s.port i
  match q.st, q.enabled, q.peerEn, q.peer with
  | .charted, some a, some (b, k), some p =>
    if a = b ∧ ((s.net.archs.get? a).bind fun x => x.members.get? k) = some (p.serial, p.inc, p.rack) then
      ((s.modPort i fun q => { q with st := .up }).linkLog i 3 0).placeWaiting
    else s
  | _, _, _, _ => s

/-- A HELLO that a port has taken in (R389 to R391, R394). -/
def takeHello (s : State) (i v : Nat) : State :=
  let q := s.port i
  let p : Peer := ⟨fld v 32 64, fld v 96 64, fld v 16 5, fld v 160 32⟩
  if q.peerFixed ∧ (q.peer.any fun o => o.serial != p.serial || o.inc != p.inc) then s.portError i 0
  else
    let (claim, bad) := if i < 30 ∧ bitAt v 198 then mergeClaim s.net.claim (candidate i v) else (s.net.claim, false)
    let s1 := ({ s with net := { s.net with claim := claim } } : State).modPort i fun q => { q with
      peer := some p, peerFixed := true, conflict := bad }
    if q.st ≠ .chart then s1
    else if !s1.cabled i p then s1.chartNotice i 0x30 p
    else if bad then s1.chartNotice i 0x31 p
    else if bitAt v 397 ∧ fld v 264 64 = s.net.serial % 2 ^ 64 ∧ fld v 328 64 = s.net.inc % 2 ^ 64 ∧ fld v 392 5 = i then
      ((s1.modPort i fun q => { q with st := .charted, charted := true }).peerNew i p).tryUp i
    else s1

/-- An ENABLE or a withdrawal (R393). -/
def takeEnable (s : State) (i v : Nat) : State :=
  let q := s.port i
  if bitAt v 474 then
    (if q.st = .up then s else (s.modPort i fun q => { q with peerEn := some (fld v 400 64, fld v 464 10) }).tryUp i)
  else if q.st = .up then
    (((s.cutPartials i).modPort i fun q => { q with st := .charted, peerEn := none, offer := none }).reroute i).followOffers
  else s.modPort i fun q => { q with peerEn := none }

-- DEDUCED, unsafe: log 92.
/-- A TIME flit (R399): the peer's offset, and what it offers. -/
def takeTime (s : State) (i v : Nat) : State :=
  let q := s.port i
  let t1 : Int := fld v 544 64
  let t2 : Int := fld v 608 64
  let t3 : Int := fld v 480 64
  let theta : Int := if i < 30 then 0 else ((t2 - t1) + (t3 - (s.now : Int))) / 2
  let known := decide (i < 30) || fld v 544 64 != 0
  let depth := fld v 704 3
  let offer : Option (Int × Nat) := if q.st = .up ∧ known ∧ depth < 7 then some (signed32 (fld v 672 32) + theta, depth) else none
  (s.modPort i fun q => { q with lastTx := fld v 480 64, lastRx := s.now, offer := offer }).followOffers

/-- The next CHART flit of a kind is taken in; one that is not well formed, or of a reserved kind, is a protocol error. -/
def takeChart (s : State) (i kind : Nat) (f : State → Nat → State) : State :=
  match (s.port i).popMgt fun v => isChart v && (chtKind v == kind || chtKind v == 0 || 3 < chtKind v) with
  | none => s
  | some (v, q1) =>
    let s1 := s.setPort i q1
    if !chartOk v then s1.portError i 0
    else match q1.st with
      | .chart | .charted | .up => f s1 v
      | _ => s1

/-! ### LINK_INIT (R370) -/

/-- The buffers a LINK_INIT announces, by channel and relay level. -/
def announcedBy (v : Nat) : AMap Nat :=
  credOrder.foldl (fun (m : AMap Nat) (c, l) =>
    m.set (credKey c l) (fld v ((match l with | 0 => 16 | 1 => 96 | _ => 160) + 16 * (c - 1)) 16)) []

/-- The least buffers of R367 and R381. -/
def leastBuffers : AMap Nat :=
  credOrder.foldl (fun (m : AMap Nat) (c, l) => m.set (credKey c l) (if c ≤ 2 then 256 else 1024)) []

-- DEDUCED, unsafe: log 86.
def takeInit (s : State) (i v : Nat) : State :=
  let big := leastBuffers.all fun (k, n) => decide (n ≤ (announcedBy v).getD k 0)
  if fld v 8 8 ≠ 1 ∨ !big then s.modPort i fun q => { q with mgtOut := q.mgtOut ++ [portDownFlit 0] }
  else s.modPort i fun q => { q with
    credits := announcedBy v, announced := announcedBy v, initRcvd := true, st := if q.initSent then .chart else q.st }

/-! ### Lanes (R378) -/

-- DEDUCED, unsafe: log 91.
/-- A receive lane fails: with the spare still free, LANE_FAIL names it and a block at which both ends remap; else the port has lost
two lanes of one direction. A spare that fails carries nothing. -/
def laneLost (s : State) (i lane : Nat) : State :=
  let q := s.port i
  if 5 ≤ lane ∨ q.st = .down ∨ q.st = .hold then s
  else if q.rxLaneLost then
    (if q.rxMap.contains lane then
      (((s.modPort i fun q => { q with lanesGone := true }).failPort i 5 0 [portDownFlit 1]).linkLog i 0 lane).linkLog i 2 lane
    else s)
  else if !q.rxMap.contains lane then s.modPort i fun q => { q with rxLaneLost := true }
  else
    let b0 := (q.rxIndex + 64) % 65536
    let s1 := s.modPort i fun q => { q with rxLaneLost := true, swapAt := some (lane, b0, false) }
    ((s1.failPort i 4 lane [laneFail lane b0]).linkLog i 0 lane)

/-- LANE_FAIL: a transmit lane of this end has failed at the peer. -/
def takeLaneFail (s : State) (i v : Nat) : State :=
  let lane := fld v 16 8
  let b0 := fld v 32 16
  let q := s.port i
  if 5 ≤ lane ∨ q.st = .down ∨ q.st = .hold then s
  else
    let swap := q.txMap.contains lane && !q.txLaneLost
    let s1 := s.modPort i fun q => { q with txLaneLost := true, swapAt := if swap then some (lane, b0, true) else q.swapAt }
    s1.failPort i 4 lane (if swap then [laneSwap lane b0] else [])

/-- LANE_SWAP: the peer confirms the lane and the block. -/
def takeLaneSwap (s : State) (i v : Nat) : State :=
  s.modPort i fun q => match q.swapAt with
    | some (lane, _, false) => if lane = fld v 16 8 then { q with swapAt := some (lane, fld v 32 16, false) } else q
    | _ => q

/-- At block b0 the spare carries the failed lane's logical lane; the port trains again on the new map. -/
def remapLane (s : State) (i : Nat) : State :=
  match (s.port i).swapAt with
  | none => s
  | some (lane, _, tx) =>
    let onSpare (m : List Nat) : List Nat := m.map fun k => if k = lane then 4 else k
    let s1 := s.modPort i fun q =>
      let q1 := if tx then { q with txMap := onSpare q.txMap } else { q with rxMap := onSpare q.rxMap }
      if q.st = .failed then q1.linkUp else { q1 with swapAt := none }
    if tx then s1
    else ({ s1 with boot := { s1.boot with repairsDue := s1.boot.repairsDue ++ [Repair.straitLane i lane] } } : State).linkLog i 1 lane

/-! ### Loss of signal and hold (R382 to R384, R394) -/

/-- The link's own parts of the module are in operation: after stage DIE_LINKS, and while the boundary cells do not drive the
lanes (R533, R548, R592). -/
def linksLive (s : State) : Bool :=
  !s.boot.extest && match s.boot.phase with
    | .ready => true
    | .entryDue => true
    | .booting => s.boot.stages.contains 5
    | _ => false

/-- Receive lanes of a port that the repair table names. -/
def badLanes (s : State) (i : Nat) : List Nat := s.boot.repairs.filterMap fun r => match r with
  | .straitLane q k => if q = i then some k else none
  | _ => none

-- DEDUCED, unsafe: log 89.
/-- Signal is lost: HOLD, and unanswered transfers end with LINK_LOST. -/
def loseSignal (s : State) (i : Nat) : State :=
  let mine := s.net.sent.filter fun t => t.port == i
  let s1 := (s.cutPartials i).modPort i fun q => { q.linkUp with st := .hold, peerFixed := false }
  ((s1.endAll mine .linkLost).dropWaiting).followOffers

/-- The hold time has passed: DOWN, and the peer is reported absent. -/
def holdExpired (s : State) (i : Nat) : State :=
  let s1 := (s.modPort i fun q => { q with st := .down, peerFixed := false }).linkLog i 4 0
  (match (s1.port i).peer with
  | none => s1
  | some p =>
    let body := i + 2 ^ 64 * (p.serial % 2 ^ 64) + 2 ^ 128 * (p.inc % 2 ^ 64)
    (s1.notice 0 0x33 body).noticeTenants (s1.tenantsWith p.serial) 0x33 body).dropWaiting

/-! ### Replies at the sender (R372, R375) -/

/-- A RESPONSE or READ_DATA: it ends its transfer, or asks for it to be sent again later. -/
def takeReply (s : State) (i : Nat) (x : Xfer) : State :=
  let arch := (s.archOfPort i).map (·.1)
  match s.net.sent.find? fun t => t.x.xid == x.xid && t.x.dst == x.src && t.x.src == x.dst && some t.arch == arch with
  | none => s
  | some t =>
    if x.ty = 3 then s.endSent t .done
    else match Status.ofCode? x.status with
      | none => s
      | some st =>
        if st = .staleRole ∧ x.redirect ∧ t.redirects + 1 < 16 then
          s.modSent t { t with redirects := t.redirects + 1, degraded := true }
        else s.endSent t st

-- DEDUCED, unsafe: log 90.
/-- A redirected transfer is sent again whole, with the same identifier. -/
def resendRedirected (s : State) (xid : Nat) : State :=
  match s.net.sent.find? fun t => t.x.xid == xid && t.redirects != 0 with
  | none => s
  | some t => if s.net.ports.any fun q => q.leaving.any fun l => l.x == t.x then s else s.placeSent t 0

end State

/-- A flit-slot table may hold the five channel codes and OPEN only (R368). -/
def fstOk (t : BitVec 1024) : Bool := (List.range 256).all fun k => let c := fld t.toNat (4 * k) 4; decide (c ≤ 4) || c == 15

/-! ### The rows: blocks and management flits -/

/-- FLIT_SLOT_TABLE_SWAP (R368): the table becomes current at the next slot 0. -/
def execFlitSlotTableSwap (port : Nat) (table : BitVec 1024) (s : State) : Out :=
  onPort port s fun _ s => if fstOk table then s.modPort port fun q => { q with fstShadow := some table } else s

/-- LINK_BLOCK_RECEIVE (R363, R364, R383). -/
def execLinkBlockReceive (port : Nat) (decoded : Bool) (flits : List (List Nat)) (ctl : BitVec 40) (s : State) : Out :=
  onPort port s fun q s =>
    if !q.sends then s
    else match q.receive decoded flits ctl.toNat with
      | (q1, false) => s.setPort port q1
      | (q1, true) => (s.setPort port q1).portError port 0

/-- REPLAY_TIMEOUT (R365). -/
def execReplayTimeout (port : Nat) (s : State) : Out :=
  onPort port s fun (q : Port) (s : State) => match q.unacked with
    | (x, _) :: _ => if q.sends then s.setPort port (q.replayAt x) else s
    | [] => s

/-- NAK_REPEAT_TIMER (R364). -/
def execNakRepeatTimer (port : Nat) (s : State) : Out :=
  onPort port s fun q s => if q.badAt.isSome then s.setPort port { q with nakDue := true } else s

/-- LINK_INIT (R369, R370). -/
def execLinkInit (port : Nat) (s : State) : Out :=
  onPort port s fun q s => match q.popMgt fun v => fld v 0 8 == 0x01 with
    | some (v, q1) => if q1.st = .train then (s.setPort port q1).takeInit port v else s.setPort port q1
    | none => s

/-- HELLO (R388 to R391, R394). -/
def execHello (port : Nat) (s : State) : Out := onPort port s fun _ s => s.takeChart port 1 fun s v => s.takeHello port v

/-- CHART_ENABLE (R393). -/
def execChartEnable (port : Nat) (s : State) : Out := onPort port s fun _ s => s.takeChart port 2 fun s v => s.takeEnable port v

/-- CHART_TIME (R399). -/
def execChartTime (port : Nat) (s : State) : Out := onPort port s fun _ s => s.takeChart port 3 fun s v => s.takeTime port v

/-- LANE_FAIL (R378). -/
def execLaneFail (port : Nat) (s : State) : Out :=
  onPort port s fun q s => match q.popMgt fun v => fld v 0 8 == 0x04 with
    | some (v, q1) => (s.setPort port q1).takeLaneFail port v
    | none => s

/-- LANE_SWAP (R378). -/
def execLaneSwap (port : Nat) (s : State) : Out :=
  onPort port s fun q s => match q.popMgt fun v => fld v 0 8 == 0x05 with
    | some (v, q1) => (s.setPort port q1).takeLaneSwap port v
    | none => s

/-- PORT_DOWN (R379). -/
def execPortDown (port : Nat) (s : State) : Out :=
  onPort port s fun q s => match q.popMgt fun v => fld v 0 8 == 0x06 with
    | some (_, q1) => if q1.sends then ((s.setPort port q1).failPort port 5 0 []).linkLog port 2 0 else s.setPort port q1
    | none => s

/-! ### The rows: timers and detected events -/

/-- HELLO_TIMER (R389): after charting; in CHART a HELLO goes in every MGT slot without it. -/
def execHelloTimer (port : Nat) (s : State) : Out :=
  onPort port s fun q s => if q.charted then s.setPort port { q with mgtOut := q.mgtOut ++ [helloFlit s port] } else s

/-- TIME_FLIT_TIMER (R399). -/
def execTimeFlitTimer (port : Nat) (s : State) : Out :=
  onPort port s fun q s =>
    if q.st = .up ∧ (((s.archOfPort port).map fun (_, a) => a.spansRacks).getD false) then
      s.setPort port { q with mgtOut := q.mgtOut ++ [timeFlit s port] }
    else s

/-- CLAIM_FIX_TIMER (R390). -/
def execClaimFixTimer (s : State) : Out := .next { s with net := { s.net with claim := { s.net.claim with fixed := true } } }

/-- LANE_FAILURE_DETECT (R378, R379). -/
def execLaneFailureDetect (port lane : Nat) (s : State) : Out := onPort port s fun _ s => s.laneLost port lane

/-- LANE_REMAP (R378). -/
def execLaneRemap (port : Nat) (s : State) : Out := onPort port s fun _ s => s.remapLane port

/-- PORT_FAILURE (R379): 64 replays, which the peer is told of, or training lost. -/
def execPortFailure (port : Nat) (s : State) : Out :=
  onPort port s fun q s => match q.st with
    | .up | .chart | .charted => (s.failPort port 5 0 (if 64 ≤ q.retries then [portDownFlit 2] else [])).linkLog port 2 0
    | _ => s

/-- LOSS_OF_SIGNAL (R382, R383). -/
def execLossOfSignal (port : Nat) (s : State) : Out :=
  onPort port s fun q s => match q.st with
    | .up | .failed | .chart | .charted => s.loseSignal port
    | _ => s

/-- SIGNAL_DETECT (R382, R384): signal on at least four lanes, and the retraining of a failed port. -/
def execSignalDetect (port : Nat) (s : State) : Out :=
  onPort port s fun q s =>
    if !s.linksLive then s
    else match q.st with
      | .down | .hold => (s.wakeStrait port).setPort port (q.linkUp.freshMaps (s.badLanes port))
      | .failed => if q.swapAt.isSome ∨ q.lanesGone then s else s.setPort port q.linkUp
      | _ => s

/-- TRAIN_TIMEOUT (R382). -/
def execTrainTimeout (port : Nat) (s : State) : Out :=
  onPort port s fun q s => if q.st = .train then (s.setPort port { q.linkUp with st := .down, peerFixed := false }).dropWaiting else s

/-- HOLD_TIMER_EXPIRY (R383, R394). -/
def execHoldTimerExpiry (port : Nat) (s : State) : Out :=
  onPort port s fun q s => if q.st = .hold then s.holdExpired port else s

/-- STRAIT_RESPONSE_ARRIVAL (R372, R375). -/
def execStraitResponseArrival (port : Nat) (s : State) : Out :=
  onPort port s fun _ s =>
    match s.popArrived port fun _ x => s.forMe port x && (x.ty == 3 || x.ty == 4) with
    | some (_, x, s1) => s1.takeReply port x
    | none => s

/-- REDIRECT_RESEND (R375). -/
def execRedirectResend (xid : Nat) (s : State) : Out := .next (s.resendRedirected xid)

end Sys2Proof.Machine
end

