-- ==== Sys2Proof/Machine/Time.lean ====
section
/-! DEFINITION. Reference clocks, the rack time pulse, and the synchronisation states of the rack-time counter (R395 to R400, R448,
R483, R574). -/

namespace Sys2Proof.Machine

/-- What a pulse of the rack time carries (R396). -/
inductive Pulse where
  | invalid | bit (b : Nat) | marker
  deriving DecidableEq, Repr

/-- The width of a pulse, in ns, decoded (R396). -/
def pulseOf (w : Nat) : Pulse :=
  if w < 60 then .invalid else if w < 200 then .bit 0 else if w < 450 then .bit 1 else if w ≤ 900 then .marker else .invalid

namespace RackTime

/-- The count nearest to a multiple of 1,000. -/
def nearest (t : RackTime) : Nat := (t.now + 500) / 1000 * 1000

/-- How far the counter is from a multiple of 1,000, ns: positive when it is behind. -/
def edgeError (t : RackTime) : Int := (t.nearest : Int) - t.now

/-- A new count: loaded forward at once, or held until the rack catches up (R397). -/
def load (t : RackTime) (v : Nat) : RackTime :=
  if t.now ≤ v then { t with now := v, hold := 0, slew := 0 } else { t with hold := t.now - v, slew := 0 }

/-- An edge starts a slew of 1 to 8 ns; a loss is kept in halves (R397). -/
def slewTo (t : RackTime) (e : Int) : RackTime := { t with slew := if e < 0 then 2 * e else e }

end RackTime

namespace State

def modTime (s : State) (f : RackTime → RackTime) : State := { s with net := { s.net with time := f s.net.time } }

/-- Archipelagos that span racks, of a tenant that has joined them, or all that are defined: the lowest identity first (R562). -/
def spanning (s : State) (tenant : Option Nat) : List Nat :=
  (s.net.archs.filter fun ((_, a) : Nat × Arch) => a.spansRacks && match tenant with | some t => a.joined && a.tenant == t | none => true).map (·.1)

/-- Offset and depth as a function sees them (R562). -/
def shownPath (s : State) (tenant : Option Nat) : TimePath :=
  match s.spanning tenant with
  | a :: _ => s.pathOf a
  | [] => ⟨0, 0, false⟩

/-- The body of TIME_STATE (R448). -/
def timeBody (s : State) (tenant : Option Nat) (new old : SyncSt) : Nat :=
  let p := s.shownPath tenant
  new.code + 2 ^ 8 * old.code + 2 ^ 16 * p.depth + 2 ^ 32 * neg32 p.offset

/-- TIME_STATE to PF0 and to the tenants of archipelagos that span racks, and its log entry (R397, R448, R574). -/
def timeNotice (s : State) (new old : SyncSt) : State :=
  let body := s.timeBody none new old
  let ts := ((s.net.archs.filter fun ((_, a) : Nat × Arch) => a.spansRacks).map fun (_, a) => a.tenant).eraseDups
  ts.foldl (fun (s : State) t => s.noticeTenant t 0x34 (s.timeBody (some t) new old)) ((s.log 0x0B 0 none 0 body).notice 0 0x34 body)

/-- The counter changes its synchronisation state (R397, R398). -/
def setSync (s : State) (new : SyncSt) : State :=
  let old := s.net.time.sync
  if new = old then s
  else
    let s1 := s.modTime fun t => { t with
      sync := new, wasFree := if new = .locked then false else t.wasFree || new == .free }
    (s1.timeNotice new old).suspendTides

-- DEDUCED, unsafe: log 93.
/-- A frame that has decoded: the rack time, in µs, of this marker (R396, R397). -/
def takeFrame (s : State) (us : Nat) : State :=
  let t := s.net.time
  let n := if t.nextMark = some us then t.agreed + 1 else 1
  let s1 := s.modTime fun t => { t with agreed := n, nextMark := some (us + 65) }
  let same := t.nearest == 1000 * us
  match t.sync with
  | .unsync => if 2 ≤ n then (s1.modTime fun t => t.load (1000 * us)).setSync .locked else s1
  | .locked => if same then s1 else s1.setSync .holdover
  | .holdover => if same then (s1.modTime fun t => t.load (1000 * us)).setSync .locked else s1
  | .free => s1

/-- An edge with a valid width (R397): alignment in LOCKED, then its data. -/
def takePulse (s : State) (p : Pulse) : State :=
  let e := s.net.time.edgeError
  let s1 := if s.net.time.sync ≠ .locked ∨ e = 0 then s
    else if e.natAbs ≤ 8 then s.modTime fun t => t.slewTo e else s.setSync .holdover
  match p with
  | .invalid => s
  | .bit b => s1.modTime fun t => { t with frame := t.frame.bind fun (v, n) => if n < 64 then some (2 * v + b, n + 1) else none }
  | .marker =>
    let s2 := match s1.net.time.frame with
      | some (v, 64) => s1.takeFrame v
      | _ => s1.modTime fun t => { t with agreed := 0, nextMark := none }
    s2.modTime fun t => { t with frame := some (0, 0) }

-- DEDUCED, unsafe: log 93.
/-- A reference clock goes bad (R395, R397): the module moves to the other where that is good, and the counter errs by at most
1 ns; with both bad the counter is FREE. -/
def clockBad (s : State) (b : Bool) : State :=
  let t := s.net.time
  let other := if b then t.goodA else t.goodB
  let s1 := s.modTime fun t => if b then { t with goodB := false } else { t with goodA := false }
  if (if b then t.goodB else t.goodA) = false then s
  else if other ∧ t.clockB = b then
    let e := Config.freeNat .measure s.free 0 % 3
    let s2 := s1.modTime fun t => { t with
      clockB := !b, now := if e = 1 then t.now + 1 else t.now, hold := if e = 2 then t.hold + 1 else t.hold }
    ({ s2 with free := s2.free + 1 } : State).masked 9 b.toNat 0 0
  else if other then s1
  else s1.setSync .free

/-- A reference clock is good again (R395): the module does not move back to it; a counter that was FREE counts from it. -/
def clockGood (s : State) (b : Bool) : State :=
  let s1 := s.modTime fun t => if b then { t with goodB := true } else { t with goodA := true }
  if s.net.time.sync = .free then (s1.modTime fun t => { t with clockB := b }).setSync .holdover else s1

/-- No offset path for 10 ms: tides of plans of such an archipelago lose their guarantee (R400). -/
def depthGone (s : State) : State :=
  let gone := (s.spanning none).filter fun a => (s.pathOf a).depth == 7 && !(s.pathOf a).lost
  if gone.isEmpty then s
  else
    let s1 := s.modTime fun t => { t with paths := gone.foldl (fun (m : AMap TimePath) a => m.set a { s.pathOf a with lost := true }) t.paths }
    (s1.timeNotice s.net.time.sync s.net.time.sync).suspendTides

/-- The always-on island has power (R536). -/
def powered (s : State) : Bool := s.boot.phase != .off

end State

/-! ### The rows -/

/-- RTP_EDGE (R396, R397). -/
def execRtpEdge (width : Nat) (s : State) : Out :=
  .next (if !s.powered then s
    else match pulseOf width with
      | .invalid => s.modTime fun t => { t with frame := none, agreed := 0, nextMark := none }
      | p => s.takePulse p)

/-- RTP_LOSS (R397). -/
def execRtpLoss (s : State) : Out :=
  .next (let s1 := s.modTime fun t => { t with frame := none, agreed := 0, nextMark := none }
    if !s.powered then s else if s.net.time.sync = .locked then s1.setSync .holdover else s1)

/-- REFCLK_BAD (R395, R397). -/
def execRefclkBad (b : Bool) (s : State) : Out := .next (if s.powered then s.clockBad b else s)

/-- REFCLK_GOOD (R395, R397). -/
def execRefclkGood (b : Bool) (s : State) : Out := .next (if s.powered then s.clockGood b else s)

/-- TIME_DEPTH_LOST (R400). -/
def execTimeDepthLost (s : State) : Out := .next (if s.powered then s.depthGone else s)

end Sys2Proof.Machine
end

