-- ==== Sys2Proof/Machine/Power.lean ====
section
/-! DEFINITION. The power controller: operating points, the estimate and energy attribution, caps, loans, droop, the lowest
operating state, regulator phases and power domains (R502 to R530). -/

namespace Sys2Proof.Machine

/-! ### Operating points (R507 to R510) -/

-- DEDUCED, unsafe: log 96.
/-- Of a voltage in mV: the table of R507 in ten-thousandths, linear between its points. -/
def kappa (mv : Nat) : Nat :=
  let n (from_ : Nat) : Nat := (mv - from_) / 5
  if mv < 700 then 5200 + 85 * n 600 else if mv < 800 then 6900 + 80 * n 700 else if mv < 900 then 8500 + 75 * n 800 else 10000

/-- The frequency limit of a holm, MHz, at a voltage less what the quadrant's nominal point has been raised (R507). -/
def fLim (fmax mv : Nat) : Nat := max 1000 (fmax * kappa mv / 10000 / 25 * 25)

-- DEDUCED, unsafe: log 96.
/-- The voltage steps of a core rail (R502). -/
def voltSteps : List Nat := (List.range 71).map (600 + 5 * ·)

/-- Signed 16-bit and 32-bit values of a report (R522). -/
def signed (bits v : Nat) : Int := if v < 2 ^ (bits - 1) then v else (v : Int) - 2 ^ bits
def twos (bits : Nat) (v : Int) : Nat := (v % 2 ^ bits).toNat

/-- A report from its 512 bits (R522). -/
def Report.ofBits (v : Nat) : Report :=
  ⟨fld v 0 16, fld v 16 16, fld v 32 16, signed 16 (fld v 48 16), signed 32 (fld v 64 32), fld v 96 32⟩

def Report.bits (r : Report) : Nat :=
  r.cap % 2 ^ 16 + 2 ^ 16 * (r.eff % 2 ^ 16) + 2 ^ 32 * (r.head % 2 ^ 16) + 2 ^ 48 * twos 16 r.loan + 2 ^ 64 * twos 32 r.slack
    + 2 ^ 96 * (r.seq % 2 ^ 32)

namespace State

def modPow (s : State) (f : PowerState → PowerState) : State := { s with pow := f s.pow }

/-- The tidal plans whose guarantee holds now. -/
def sureWorks (s : State) : List Work :=
  (s.isth.works.filter fun ((_, w) : Nat × Work) => w.kind == .plan && w.started && (s.suspendCause w).isNone).map (·.2)

/-- Physical holms of a quadrant that belong to a plan whose guarantee holds. -/
def sureHolms (s : State) (q : Nat) : List Nat :=
  ((s.sureWorks.flatMap s.workHolms).filterMap s.physOf?).filter fun p => p / 68 == q

/-- The frequency that the segment controller gives a best-effort holm: its demand and share are measured (R513). -/
def askOf (s : State) (p : Nat) : Nat :=
  if s.pow.bestEffort = 0 then 1000
  else min (fLim (s.holm p).fmax (950 - s.pow.ageing.getD (p / 68) 0)) (1000 + 25 * (Config.freeNat .measure s.free (1 + p) % 55))

/-- The throttle level of a best-effort holm: used once its frequency is the least (R513, R518). -/
def levelOf (s : State) (p ask : Nat) : Nat :=
  if s.pow.bestEffort = 0 then 1 else if ask = 1000 then 1 + Config.freeNat .measure s.free (501 + p) % 16 else 16

-- DESIGN CHOICE, safe: log 97.
/-- A quadrant's voltage is the lowest step for its holms, and each holm gets its frequency and throttle level (R508, R513). -/
def setQuad (s : State) (q : Nat) : State :=
  let rise := s.pow.ageing.getD q 0
  let lim (p v : Nat) : Nat := fLim (s.holm p).fmax (v - rise)
  let sure := s.sureHolms q
  let others := ((List.range 68).map (68 * q + ·)).filter fun p => !sure.contains p
  let busy := others.filter fun p => (s.holm p).st == .running
  let v := (voltSteps.find? fun v =>
    (sure.all fun p => decide (2000 ≤ lim p (v - s.pow.guard_.getD q 0))) && busy.all fun p => decide (s.askOf p ≤ lim p v)).getD 950
  let s1 := s.modPow fun x => { x with volts := setAt x.volts q v }
  let s2 := sure.foldl (fun (s : State) p => s.modHolm p fun h => { h with freq := lim p v, throttle := 16 }) s1
  others.foldl (fun (s : State) p =>
    let a := s.askOf p
    s.modHolm p fun h =>
      if busy.contains p then { h with freq := a, throttle := s.levelOf p a } else { h with freq := min h.freq (lim p v), throttle := 16 }) s2

/-- Every holm and service at the lowest operating state, and then the core rails (R525). -/
def setLowest (s : State) : State :=
  { s with
    holms := s.holms.map fun ((p, h) : Nat × Holm) => (p, { h with freq := 1000, throttle := 1 })
    pow := { s.pow with service := [1, 1, 1, 1, 1], volts := [600, 600, 600, 600] } }

/-- The controller's settings (R508, R513, R525). -/
def setPoints (s : State) : State :=
  if s.pow.lowest then s.setLowest
  else
    let s1 := (List.range 4).foldl (fun (s : State) q => s.setQuad q) (s.modPow fun x => { x with service := [16, 16, 16, 16, 16] })
    { s1 with free := s1.free + 1 }

/-! ### Estimate and energy (R512, R513, R530) -/

-- DESIGN CHOICE, unsafe: log 100.
/-- The largest share of a plan in a segment and quadrant (R513). -/
def observe (s : State) (w q watts : Nat) : State :=
  s.modWork w fun x => { x with observed := x.observed.set (4 * x.seg + q) (max watts (x.observed.getD (4 * x.seg + q) 0)) }

/-- A share goes to its tenant, partition, queue, unit of work and command (R435, R530). -/
def attribute_ (s : State) (e : Share) : State :=
  let add (m : AMap Nat) (k : Nat) (ok : Bool) : AMap Nat := if ok then m.set k ((m.getD k 0 + e.nj) % 2 ^ 64) else m
  let s1 := s.modPow fun x => { x with
    eTenant := add x.eTenant e.tenant (s.tenant? e.tenant).isSome
    ePart := add x.ePart e.partition (s.ten.parts.get? e.partition).isSome
    eQueue := add x.eQueue (queKey e.fn e.queue) (s.que? e.fn e.queue).isSome }
  let s2 := s1.modWork e.work fun w => { w with energy := (w.energy + e.nj) % 2 ^ 64 }
  { s2 with isth := { s2.isth with cmds := s2.isth.cmds.map fun c =>
      if c.fn == e.fn && c.q == e.queue && c.id == e.cmd then { c with energy := (c.energy + e.nj) % 2 ^ 64 } else c } }

/-- One interval of 4 µs: the estimate in mW, the monitor's energy in nJ, its shares, and the plans' power by quadrant, W. The shares
of tenants that exist never sum to more than the energy measured (R512, R513, R530). -/
def estimateTick (s : State) (estimate measured : Nat) (shares : List Share) (plans : List (Nat × Nat × Nat)) : State :=
  let own := (shares.filter fun e => (s.tenant? e.tenant).isSome).map (·.nj)
  if measured < own.sum then s
  else
    let s1 := s.modPow fun x => { x with
      estimate := estimate, measured := measured / 4, energy := (x.energy + measured) % 2 ^ 64
      unattr := (x.unattr + (measured - own.sum)) % 2 ^ 64 }
    let s2 := shares.foldl (fun (s : State) e => s.attribute_ e) s1
    (plans.foldl (fun (s : State) (w, q, v) => if q < 4 then s.observe w q v else s) s2).setPoints

/-- An event of class 0x0A whose record the spec does not state. -/
def powerLog (s : State) : State :=
  ({ s with free := s.free + 1 } : State).log 0x0A 0 none 0 (Config.freeNat .choice s.free 0)

-- DEDUCED, unsafe: log 98.
/-- The energies of one millisecond, nJ: its mean power, and the common correction factor in thousandths (R503, R512). -/
def correct (s : State) (estimated measured : Nat) : State :=
  let s0 := s.modPow fun x => { x with msMean := measured / 1000000 }
  if estimated = 0 then s0
  else
    let f := s.pow.factor * measured / estimated
    let s1 := s0.modPow fun x => { x with factor := max 900 (min 1100 f) }
    if f < 900 ∨ 1100 < f then s1.powerLog else s1

/-! ### Caps (R515 to R521) -/

-- DESIGN CHOICE, unsafe: log 100.
/-- The module's need, W (R515). -/
def need (s : State) : Nat :=
  s.pow.base + (s.isth.works.map fun ((_, w) : Nat × Work) => if w.kind == .plan then w.power else 0).sum

/-- An excess period ends (R518). -/
def endExcess (s : State) : State := s.modPow fun x => { x with excess := none, enforcing := false, affected := [] }

/-- An excess period ends as soon as the need no longer exceeds the cap (R518). -/
def checkExcess (s : State) : State := if s.pow.excess.isSome ∧ s.need ≤ s.pow.cap then s.endExcess else s

/-- The cap is enforced now (R516 to R518). -/
def enforced (s : State) : Bool :=
  s.pow.enforcing || (s.pow.excess.isNone && decide (s.pow.enforceFrom ≤ s.now))

/-- The steering target for an average in W (R517). -/
def steer (s : State) (avg : Nat) : Nat :=
  let eff := s.pow.effCap
  max s.pow.floor (if s.enforced then eff - (avg - eff) else eff)

/-- CAP_SET's effect: the cap in W, the window in ms, the instant of its acceptance; and whether the need exceeds the new cap (R516 to
R521). -/
def capSet (s : State) (cap window at_ : Nat) : State × Bool :=
  let old := s.pow.cap
  let over_ := decide (cap < s.need)
  let s1 := s.modPow fun x => { x with cap := cap, window := window }
  let s2 := if over_ then
      (if s.pow.excess.isSome then s1
       else
        let e := at_ + 1000000 * window
        let body := cap + 2 ^ 16 * (s.need % 2 ^ 16) + 2 ^ 64 * (e % 2 ^ 64)
        let ts := ((s.isth.works.filter fun ((_, w) : Nat × Work) => w.kind == .plan).map fun (_, w) => w.tenant).eraseDups
        ((s1.modPow fun x => { x with excess := some e }).notice 0 0x1 body).noticeTenants ts 0x1 body)
    else s1.endExcess.modPow fun x => { x with enforceFrom := if cap < old then at_ + 1000000 * window else at_ }
  let s3 := if cap < s.pow.floor then s2.notice 0 0x2 (cap + 2 ^ 16 * s.pow.floor) else s2
  ((s3.modPow fun x => { x with target := s3.steer x.enforced }).dividePower, over_)

/-- Plans that enforcement may lower, the most recently submitted first (R518). -/
def lowerable (s : State) : List Nat :=
  (sortBy (fun (a b : Work) => decide (b.order < a.order)) ((s.isth.works.map (·.2)).filter fun w => w.kind == .plan && w.started)).map (·.handle)

-- DESIGN CHOICE, safe: log 97.
/-- Plans are lowered in order until the target is met; how many that takes is measured (R518). -/
def lowerPlans (s : State) : State :=
  let all := s.lowerable
  let k := max s.pow.affected.length (Config.freeNat .measure s.free 0 % (all.length + 1))
  (({ s with free := s.free + 1 } : State).modPow fun x => { x with
    affected := x.affected ++ ((all.take k).filter fun h => !x.affected.contains h) }).suspendTides

/-- The check of each millisecond (R516 to R518). -/
def capCheck (s : State) (avg : Nat) : State :=
  let s1 := (s.modPow fun x => { x with enforced := avg, target := s.steer avg }).dividePower
  if s1.pow.enforcing ∧ s1.pow.effCap < avg then s1.lowerPlans else s1

/-- The enforcement instant, with the excess period still running (R518). -/
def enforce (s : State) : State :=
  match s.pow.excess with
  | none => s
  | some _ => if s.pow.enforcing then s else ((s.modPow fun x => { x with enforcing := true }).lowerPlans).setPoints

/-! ### The lowest operating state (R525, R526) -/

def enterLowest (s : State) (c : LowCause) : State :=
  let s1 := s.modPow fun x => { x with
    lowCauses := if x.lowCauses.contains c then x.lowCauses else x.lowCauses ++ [c]
    lowCause := if x.lowest then x.lowCause else c, lowest := true }
  s1.setLowest.suspendTides

/-- VR_ALERT asserts, and ALERT_N with it (R525, R584). -/
def vrAlert (s : State) : State :=
  ({ s with boot := { s.boot with pins := { s.boot.pins with alertN := false } } } : State).enterLowest .vrAlert

-- DESIGN CHOICE, unsafe: log 103.
/-- 100 µs after the last active signal has cleared (R525). -/
def exitLowest (s : State) : State :=
  if !s.pow.lowest ∨ s.pow.lowCauses.contains .pwrBrake then s
  else
    ({ s.modPow (fun x => { x with lowest := false, lowCauses := [] }) with
        boot := { s.boot with pins := { s.boot.pins with alertN := true } } } : State).setPoints

/-! ### Regulator phases (R502, R514, R527, R528) -/

def modRail (s : State) (r : Nat) (f : Rail → Rail) : State := s.modPow fun x => { x with rails := modAt x.rails r f }

def rail (s : State) (r : Nat) : Rail := s.pow.rails.getD r (fixedRail 6)

/-- POWER_DERATED and its log entry (R448, R574). -/
def derated (s : State) (kind rail phase limit : Nat) : State :=
  let body := kind + 2 ^ 8 * rail + 2 ^ 16 * phase + 2 ^ 32 * limit
  (s.log 0x0A 0 none 0 body).notice 0 0x5 body

/-- A record for the repair table that is to be written (R542). -/
def recordRepair (s : State) (r : Repair) : State := { s with boot := { s.boot with repairsDue := s.boot.repairsDue ++ [r] } }

/-- Work in progress with a holm in a quadrant has been touched by a masked fault (R527). -/
def touchQuad (s : State) (q : Nat) : State :=
  { s with isth := { s.isth with works := s.isth.works.map fun ((i, w) : Nat × Work) =>
      (i, if w.running && (s.workHolms w).any fun lg => lg / 64 == q then { w with degraded := true } else w) } }

-- DEDUCED, unsafe: log 102.
/-- A phase in service is lost: it is disabled, and the limit follows. The fault is masked where the limit was whole: a core rail
had every active phase, another rail its spare capacity. -/
def losePhase (s : State) (r k : Nat) : State :=
  let x := s.rail r
  if !x.active.contains k then s
  else
    let whole := if r < 4 then decide (x.rated ≤ x.active.length) else decide (x.rated < x.active.length)
    let y0 : Rail := { x with active := x.active.filter (· != k), failed := x.failed ++ [k], unsensed := x.unsensed.filter (· != k) }
    let y : Rail := { y0 with limit := y0.limitNow }
    let s1 := (s.modRail r fun _ => y).recordRepair (Repair.phase r k)
    let s2 := if y.limit < x.limit then s1.derated 0 r k y.limit else s1
    if whole then
      (if r < 4 then s2.touchQuad r else s2).masked 7 (r + 2 ^ 4 * k) 0 (if r < 4 then x.spare.length - 1 else 0)
    else s2

/-- A spare phase is in service: the limit is restored (R527). -/
def takePhase (s : State) (r : Nat) : State :=
  let x := s.rail r
  match x.spare with
  | [] => s
  | k :: rest =>
    if x.rated ≤ x.active.length then s
    else
      let y0 : Rail := { x with active := x.active ++ [k], spare := rest }
      let y : Rail := { y0 with limit := y0.limitNow }
      (s.modRail r fun _ => y).derated 0 r (x.failed.getLast?.getD k) y.limit

-- DEDUCED, unsafe: log 102.
/-- The check of a phase's current sense (R528). -/
def senseCheck (s : State) (r k : Nat) (c : Sense) : State :=
  let x := s.rail r
  if !x.active.contains k then s
  else match c with
    | .good => s
    | .outOfRange =>
      if x.unsensed.contains k then s
      else
        let y0 : Rail := { x with unsensed := x.unsensed ++ [k] }
        let y : Rail := { y0 with limit := y0.limitNow }
        ((s.modRail r fun _ => y).recordRepair (Repair.phase r k)).derated 1 r k y.limit
    | .disagrees => s.vrAlert.losePhase r k

-- DESIGN CHOICE, unsafe: log 103.
/-- A core rail at 98 % of its limit: best-effort holms of its quadrant go to throttle level 1 (R514). -/
def railLimit (s : State) (r : Nat) (sustained : Bool) : State :=
  let sure := s.sureHolms r
  let s1 := ((List.range 68).map (68 * r + ·)).foldl (fun (s : State) p =>
    if (s.holm p).st == .running && !sure.contains p then s.modHolm p fun h => { h with throttle := 1 } else s) s
  if sustained then s1.vrAlert else s1

/-! ### Droop (R524) -/

def stretch (s : State) (p : Nat) : State :=
  let h := s.holm p
  if h.stretched ∨ h.st = .gated ∨ h.st = .fusedOut then s
  else s.setHolm p { h with stretched := true, stretchFrom := s.net.time.ticks, stretchCount := h.stretchCount + 1 }

-- DEDUCED, unsafe: log 99.
/-- A stretch ends; where the stretched time of a tide has now passed 1 % of T, the quadrant's droop guard rises (R508, R524). -/
def unstretch (s : State) (p : Nat) : State :=
  let h := s.holm p
  if !h.stretched then s
  else
    let t := h.stretchTime + (s.net.time.ticks - h.stretchFrom)
    let s1 := s.setHolm p { h with stretched := false, stretchTime := t }
    match h.inv with
    | none => s1
    | some i =>
      let period := ((s.work? i.work).map (·.period)).getD 0
      let g := s.pow.guard_.getD (p / 68) 50
      if i.tidal ∧ period < 100 * t ∧ 100 * h.stretchTime ≤ period ∧ g < 50 then
        (s1.modPow fun x => { x with guard_ := setAt x.guard_ (p / 68) (g + 5) }).powerLog
      else s1

/-! ### Loans (R522, R523) -/

/-- The archipelago and the neighbour's index over a torus group: ports UP, a started plan, one rack identity (R522). -/
def loanPeer (s : State) (g : Nat) : Option (Nat × Nat) :=
  ((List.range 5).map (5 * g + ·)).findSome? fun i =>
    let q := s.port i
    match q.st, q.enabled with
    | .up, some a =>
      match s.net.archs.get? a with
      | none => none
      | some ar =>
        if (s.isth.works.any fun ((_, w) : Nat × Work) => w.kind == .plan && w.started && w.arch == a)
            && (q.peer.map (·.rack)) == some s.net.rackId then (s.memberAt ar i).map fun k => (a, k) else none
    | _, _ => none

/-- Slack reported for an archipelago (R522). -/
def slackOf (s : State) (a : Nat) : Int := s.pow.minSlack.getD a 0x7FFFFFFF

-- DEDUCED, unsafe: log 101.
/-- What the module lends more, or repays, before it reports (R523). -/
def adjustLoan (p : PowerState) (slack : Int) (avg : Nat) (l : Loan) : Loan :=
  match l.report with
  | none => l
  | some r =>
    let eff := p.effCap
    if r.slack + 10000 < slack ∧ avg < eff then
      { l with lent := l.lent + min (min (eff - avg) (p.cap * 5 / 100)) (eff - max 400 (p.cap / 2)) }
    else if 0 < l.owed ∧ r.slack ≤ slack + 10000 then { l with owed := l.owed - min l.owed (r.cap * 5 / 100) }
    else l

/-- One report to the neighbour of a group (R522, R523). -/
def sendReport (s : State) (avg g : Nat) : State :=
  match s.loanPeer g with
  | none => s
  | some (a, k) =>
    let l := adjustLoan s.pow (s.slackOf a) avg (s.pow.loans.getD g ⟨0, 0, none⟩)
    let s1 := s.modPow fun x => { x with loans := x.loans.set g l, reportSeq := (x.reportSeq + 1) % 2 ^ 32 }
    let eff := s1.pow.effCap
    let r : Report := ⟨s1.pow.cap, eff, eff - avg, (l.lent : Int) - l.owed, s.slackOf a, s.pow.reportSeq⟩
    let (w, key) := transitOf a k
    match s1.writeXfer a k w key 0 0 (toBytes r.bits 64) with
    | none => s1
    | some (x, s2) => match s2.sendXfer a 1 ((List.range 5).map (5 * g + ·)) g x .none with
      | .ok s3 => s3
      | .error _ => s2

/-- The reports of one millisecond. -/
def sendReports (s : State) (avg : Nat) : State :=
  ((List.range 6).foldl (fun (s : State) g => s.sendReport avg g) s).modPow fun x => { x with minSlack := [] }

-- DEDUCED, unsafe: log 101.
/-- A report arrives: a loan that has grown is taken up, and one that the borrower has repaid is taken back (R523). -/
def takeReport (s : State) (g : Nat) (r : Report) : State :=
  let l := s.pow.loans.getD g ⟨0, 0, none⟩
  let old : Int := (l.report.map (·.loan)).getD 0
  let stale : Bool := match l.report with
    | some o => (r.seq + 2 ^ 32 - o.seq) % 2 ^ 32 == 0 || decide (2 ^ 31 ≤ (r.seq + 2 ^ 32 - o.seq) % 2 ^ 32)
    | none => false
  if stale ∨ !(List.range 5).any fun k => (s.port (5 * g + k)).st == .up then s
  else
    let most := min 2500 (s.pow.cap * 3 / 2)
    let more := min (r.loan.toNat - old.toNat) (most - s.pow.effCap)
    let back := min ((-old).toNat - (-r.loan).toNat) l.lent
    s.modPow fun x => { x with loans := x.loans.set g ⟨l.lent - back, l.owed + more, some r⟩ }

def loanTimeout (s : State) (g : Nat) (lender : Bool) : State :=
  s.modPow fun x => { x with loans := x.loans.modify g fun l => if lender then { l with lent := 0 } else { l with owed := 0 } }

/-! ### Power domains (R504, R506) -/

/-- A holm-quad may be gated (R506). -/
def mayGate (s : State) (q c : Nat) : Bool :=
  let plans := (s.isth.works.filter fun ((_, w) : Nat × Work) => w.kind == .plan && w.started).map (·.2)
  ((quadHolms q c).all fun p =>
    (s.holm p).st != .running && (s.holm p).st != .faulted
      && match s.lgOf? p with
        | none => true
        | some lg => plans.all fun w => !(s.workHolms w).contains lg || decide (s.now + 24000 ≤ s.slackAt w (w.tide + 1)))
    && (c != 16 || !plans.any fun w => (s.workHolms w).any fun lg => lg / 64 == q)
    && match s.pow.wokeAt.get? (quadDomain q c) with
      | some t => decide (t + 24000 ≤ s.net.time.ticks)
      | none => true

/-- A holm-quad is gated: its idle holms are GATED; lagoons are retained (R66, R84, R506). -/
def gateQuad (s : State) (q c : Nat) : State :=
  let d := quadDomain q c
  if 4 ≤ q ∨ 17 ≤ c ∨ s.pow.gated.contains d ∨ !s.mayGate q c then s
  else
    let s1 := s.modPow fun x => { x with gated := x.gated ++ [d] }
    (quadHolms q c).foldl (fun (s : State) p => if (s.holm p).st = .idle then s.modHolm p fun h => { h with st := .gated } else s) s1

def wakeQuad (s : State) (q c : Nat) : State :=
  if q < 4 ∧ c < 17 ∧ s.pow.gated.contains (quadDomain q c) then s.wakeDomain q c else s

def gateStrait (s : State) (g : Nat) : State :=
  if 8 ≤ g ∨ s.pow.gated.contains (straitDomain g) ∨ !(List.range 4).all fun k => (s.port (4 * g + k)).st == .down then s
  else s.modPow fun x => { x with gated := x.gated ++ [straitDomain g] }

/-- No page lies in tier 2 or 3, and none moves (R504). -/
def codecIdle (s : State) : Bool :=
  s.mem.moves.isEmpty && s.ten.tenants.all fun ((_, t) : Nat × Tenant) => t.table.all fun ((_, e) : Nat × Trn) => e.tier == 1

def gateCodec (s : State) : State :=
  if s.pow.gated.contains 92 ∨ !s.codecIdle then s else s.modPow fun x => { x with gated := x.gated ++ [92] }

/-- Deep idle gates the memory controllers, the services, and the base of every quadrant whose strait groups are gated (R504). -/
def deepIdle (s : State) : State :=
  if !s.ten.tenants.isEmpty ∨ s.pow.deepIdle then s
  else
    let ctl := (List.range 4).flatMap fun q => [22 * q + 17, 22 * q + 18, 22 * q + 21]
    let bases := ((List.range 4).filter fun q => s.pow.gated.contains (22 * q + 19) && s.pow.gated.contains (22 * q + 20)).map (93 + ·)
    s.modPow fun x => { x with deepIdle := true, gated := (x.gated ++ ctl ++ [88, 89, 90] ++ bases).eraseDups }

/-- Every domain wakes: deep idle ends (R504). -/
def wakeAll (s : State) : State :=
  let s1 := (List.range 68).foldl (fun (s : State) k => s.wakeQuad (k / 17) (k % 17)) s
  s1.modPow fun x => { x with gated := [], deepIdle := false }

/-- The power controller runs: the module has input power and has not tripped (R536, R585). -/
def controlled (s : State) : Bool := s.powered && !s.pow.trip

end State

-- DESIGN CHOICE, safe: log 2.
/-- A command that the power controller takes. -/
def onPower (s : State) (f : State → State) : Out := .next (if s.controlled then f s else s)

/-! ### The rows -/

/-- POWER_ESTIMATE_TICK (R508, R512, R513, R530). -/
def execPowerEstimateTick (estimate measured : Nat) (shares : List Share) (plans : List (Nat × Nat × Nat)) (s : State) : Out :=
  onPower s fun s => s.estimateTick estimate measured shares plans

/-- ENERGY_CORRECTION (R512). -/
def execEnergyCorrection (estimated measured : Nat) (s : State) : Out := onPower s fun s => s.correct estimated measured

/-- CAP_CHECK (R516 to R518). -/
def execCapCheck (avg : Nat) (s : State) : Out := onPower s fun s => s.capCheck avg

/-- CAP_ENFORCEMENT_INSTANT (R518, R520). -/
def execCapEnforcementInstant (s : State) : Out := onPower s State.enforce

/-- RAIL_CURRENT_LIMIT (R514): of a core rail. -/
def execRailCurrentLimit (rail : Nat) (sustained : Bool) (s : State) : Out :=
  if 8 ≤ rail then .fault .noSuchRail else onPower s fun s => if rail < 4 then s.railLimit rail sustained else s

/-- VR_ALERT, for one of the five causes of R525. -/
def execVrAlert (cause : Nat) (s : State) : Out := onPower s fun s => if cause < 5 then s.vrAlert else s

/-- PWR_BRAKE_N (R525, R584). -/
def execPwrBrakeN (s : State) : Out :=
  onPower { s with boot := { s.boot with pins := { s.boot.pins with pwrBrakeN := false } } } fun s => s.enterLowest .pwrBrake

/-- PWR_BRAKE_N_DEASSERT (R525). -/
def execPwrBrakeNDeassert (s : State) : Out :=
  onPower { s with boot := { s.boot with pins := { s.boot.pins with pwrBrakeN := true } } } fun s =>
    s.modPow fun x => { x with lowCauses := x.lowCauses.filter (· != .pwrBrake) }

/-- LOWEST_STATE_EXIT (R525, R526). -/
def execLowestStateExit (s : State) : Out := onPower s State.exitLowest

/-- PHASE_FAIL_OPEN (R502, R527). -/
def execPhaseFailOpen (rail phase : Nat) (s : State) : Out := if 8 ≤ rail then .fault .noSuchRail else onPower s fun s => s.losePhase rail phase

/-- SPARE_PHASE_IN_SERVICE (R527). -/
def execSparePhaseInService (rail : Nat) (s : State) : Out := if 8 ≤ rail then .fault .noSuchRail else onPower s fun s => s.takePhase rail

/-- CURRENT_SENSE_CHECK (R528). -/
def execCurrentSenseCheck (rail phase : Nat) (reading : Sense) (s : State) : Out :=
  if 8 ≤ rail then .fault .noSuchRail else onPower s fun s => s.senseCheck rail phase reading

/-- DROOP_STRETCH (R524). -/
def execDroopStretch (p : Nat) (s : State) : Out := onHolm p s fun _ s => if s.controlled then s.stretch p else s

/-- DROOP_STRETCH_END (R524). -/
def execDroopStretchEnd (p : Nat) (s : State) : Out := onHolm p s fun _ s => if s.controlled then s.unstretch p else s

/-- POWER_REPORT_SEND (R522, R523). -/
def execPowerReportSend (avg : Nat) (s : State) : Out := onPower s fun s => s.sendReports avg

/-- POWER_REPORT_RECEIVE (R523). -/
def execPowerReportReceive (group report : Nat) (s : State) : Out :=
  onPower s fun s => if group < 6 then s.takeReport group (Report.ofBits report) else s

/-- LOAN_TIMEOUT (R523). -/
def execLoanTimeout (group : Nat) (lender : Bool) (s : State) : Out := onPower s fun s => s.loanTimeout group lender

/-- HOLM_QUAD_GATE (R84, R506). -/
def execHolmQuadGate (q c : Nat) (s : State) : Out := onPower s fun s => s.gateQuad q c

/-- HOLM_QUAD_WAKE (R84, R506). -/
def execHolmQuadWake (q c : Nat) (s : State) : Out := onPower s fun s => s.wakeQuad q c

/-- DEEP_IDLE_ENTER (R504). -/
def execDeepIdleEnter (s : State) : Out := onPower s State.deepIdle

/-- STRAIT_GROUP_GATE (R504). -/
def execStraitGroupGate (g : Nat) (s : State) : Out := onPower s fun s => s.gateStrait g

/-- CODEC_DOMAIN_GATE (R504). -/
def execCodecDomainGate (s : State) : Out := onPower s State.gateCodec

end Sys2Proof.Machine
end

