-- ==== Sys2Proof/Machine/Boot.lean ====
section
/-! DEFINITION. Power-up, boot stages, resets, removal, the host link, management cores, die-to-die lanes, and the SMBus and JTAG
interfaces (R21, R349, R386, R387, R482, R483, R500, R529, R532 to R554, R584 to R592). -/

namespace Sys2Proof.Machine

namespace State

def modBoot (s : State) (f : BootState → BootState) : State := { s with boot := f s.boot }

/-! ### What a start or reset keeps (R532, R536, R549, R572, R575) -/

/-- A view cut to its newest 256 entries (R535, R553, R572). -/
def newest (v : LogView) : LogView := ⟨v.next, v.entries.take 256⟩

-- DEDUCED, unsafe: log 107.
/-- The state of every unit once a start or reset of a kind has cleared what it clears; the boot has yet to run. -/
def cleared (s : State) (k : StartKind) : State :=
  let up := decide (k = .powerUp)
  let hot := decide (k = .warm ∨ k = .soft)
  let soft := decide (k = .soft)
  let ports := s.net.ports.map fun q =>
    if up then Port.reset else { Port.reset with replays := q.replays, discarded := q.discarded }
  let net := NetState.reset s.net.serial s.net.inc
  let time : RackTime := if up then { RackTime.reset with goodA := s.net.time.goodA, goodB := s.net.time.goodB }
    else { s.net.time with paths := [], sync := if hot then s.net.time.sync else .unsync }
  let p0 := { PowerState.reset with
    ageing := s.pow.ageing, base := s.pow.base, floor := s.pow.floor, dvfs := s.pow.dvfs, temps := s.pow.temps, trip := s.pow.trip }
  let low := if up then (if s.boot.pins.pwrBrakeN then [] else [LowCause.pwrBrake]) else s.pow.lowCauses
  let p1 := { p0 with
    lowCauses := low, lowest := !low.isEmpty, lowCause := if low.contains .pwrBrake then .pwrBrake else .vrAlert
    cap := if hot then s.pow.cap else 2500, window := if hot then s.pow.window else 4000
    target := max s.pow.floor (if hot then s.pow.cap else 2500)
    energy := if hot then s.pow.energy else 0, unattr := if hot then s.pow.energy else 0
    gated := if s.boot.pins.perstN then [] else [91] }
  { s with
    holms := s.holms.map fun ((p, h) : Nat × Holm) =>
      let n := Holm.reset (match h.st with | .fusedOut => .fusedOut | .spare => .spare | _ => .idle)
      (p, { n with fmax := h.fmax, ceCount := if up then 0 else h.ceCount, staleCount := if up then 0 else h.staleCount })
    remap := if up then State.reset.remap else s.remap.map fun ((lg, r) : Nat × Remap) => (lg, { r with epoch := 0 })
    roleCause := [], reqs := [], nextReq := 0
    mem := { MemState.reset with
      hbmParity := s.mem.hbmParity, lpdParity := s.mem.lpdParity, hbmParityNext := s.mem.hbmParityNext
      lpdParityNext := s.mem.lpdParityNext, hostLinkUp := soft && s.mem.hostLinkUp
      ceHbm := if up then [] else s.mem.ceHbm, ceLpd := if up then [] else s.mem.ceLpd }
    ten := .reset, kv := .reset
    net := { net with ports := ports, prevInc := s.net.prevInc, rackId := if up then 0 else s.net.rackId, time := time }
    isth := { IsthState.reset with
      host := s.isth.host, refused := s.isth.refused, slots := s.isth.slots, active := s.isth.active
      msix := if soft then s.isth.msix else [] }
    flt := .reset
    pow := p1
    boot := { s.boot with
      kind := k, stages := [], repairsDue := [], moduleLog := newest (if up then s.boot.flashLog else s.boot.moduleLog)
      fnLogs := if up then [] else s.boot.fnLogs, busErrors := if up then 0 else s.boot.busErrors
      demotions := if up then 0 else s.boot.demotions, keyFailPort := if up then [] else s.boot.keyFailPort
      vfEnable := soft && s.boot.vfEnable, numVfs := if soft then s.boot.numVfs else 0
      aoCycles := if up then 0 else s.boot.aoCycles, extest := false, rackNext := if up then none else s.boot.rackNext } }

/-- The newest entries of the module log go to flash (R535, R553). -/
def saveLog (s : State) : State := s.modBoot fun b => { b with flashLog := newest b.moduleLog }

-- DESIGN CHOICE, unsafe: log 7.
/-- The new incarnation: from the random source, not 0, and with other low bits than the last; a rack identity that waits for the boot
takes effect (R386, R591). -/
def drawInc (s : State) : State :=
  let r := Config.freeNat .random s.free 0 % 2 ^ 64
  let old := s.net.inc
  let hi := r / 2 ^ 32 * 2 ^ 32
  let lo := (old + 1) % 2 ^ 32
  let v := if r ≠ 0 ∧ r % 2 ^ 32 ≠ old % 2 ^ 32 then r else if hi + lo ≠ 0 then hi + lo else 1
  let w := if v % 2 ^ 32 = old % 2 ^ 32 then (old + 2) % 2 ^ 32 else v
  { s with
    free := s.free + 1
    net := { s.net with inc := w, prevInc := old, rackId := s.boot.rackNext.getD s.net.rackId, claim := ⟨0, 0, 0, s.net.serial, false⟩ }
    boot := { s.boot with rackNext := none } }

/-! ### Resets (R532, R535, R571) -/

/-- A reset is under way. -/
def resetting (s : State) : Bool :=
  match s.boot.phase with | .entryDue => true | .railsOff => true | .booting => true | _ => false

-- DEDUCED, unsafe: log 108.
/-- A reset begins: a cold one switches the rails off; a warm or soft one has its entry phase before it. -/
def startReset (s : State) (k : StartKind) : State :=
  match k with
  | .cold => (s.cleared .cold).modBoot fun b => { b with phase := .railsOff }
  | _ => s.modBoot fun b => { b with phase := .entryDue, kind := k, stages := [] }

/-- The entry phase: invocations end, the log and waiting repair records go to flash, and transmitters fall idle; then the boot runs
from its ROM (R535). -/
def resetEntry (s : State) : State :=
  if s.boot.phase ≠ .entryDue then s
  else
    let own := s.holms.flatMap fun ((p, h) : Nat × Holm) => h.repairRecord.map fun (b, r, k) => Repair.rowMap p b r k
    let s1 := s.saveLog.modBoot fun b => { b with
      repairs := b.repairs ++ ((b.repairsDue ++ own).filter fun r => !b.repairs.contains r).eraseDups }
    (s1.cleared s.boot.kind).modBoot fun b => { b with phase := .booting }

/-- The module is as at power loss: the log is saved from the hold-up energy, and nothing else lasts (R529, R553). -/
def powerLoss (s : State) : State :=
  if s.boot.phase = .off then s else (s.saveLog.cleared .powerUp).modBoot fun b => { b with phase := .off, kind := .powerUp }

/-! ### Boot stages (R533 to R548) -/

/-- A boot's log entry (R574). -/
def bootLog (s : State) (stage cause slot : Nat) : State :=
  s.log 7 0 none (stage + 2 ^ 8 * s.boot.kind.code + 2 ^ 16 * cause) slot

def failBoot (s : State) (stage cause : Nat) : State :=
  let s1 := (s.bootLog stage cause 0).modBoot fun b => { b with phase := .failed cause, vfEnable := false, numVfs := 0 }
  { s1 with mem := { s1.mem with hostLinkUp := s1.boot.pins.perstN } }

/-- The stages that must have completed before one starts (R533). -/
def stageAfter (k : Nat) : List Nat :=
  match k with
  | 1 => [] | 2 => [1] | 3 => [2] | 4 => [3] | 5 => [4] | 6 => [5] | 7 => [5] | 8 => [5] | 9 => [3, 4]
  | _ => [1, 2, 3, 4, 5, 6, 7, 8, 9]

/-- The image of a flash slot is authentic now (R539). -/
def slotOk (s : State) (found : List Bool) (i : Nat) : Bool :=
  found.getD i false && match s.isth.slots[i]? with
    | some m => !s.boot.revoked.contains m.keyIndex && decide (s.boot.minSvn ≤ m.svn)
    | none => false

/-- AUTH: the incarnation is drawn; the first authentic image boots, or the module enters RECOVERY (R386, R540). -/
def stageAuth (s : State) (found : List Bool) : State :=
  let s1 := s.drawInc
  let a := s1.isth.active
  let boot (s : State) (i : Nat) : State :=
    { s with isth := { s.isth with active := i }
             boot := { s.boot with release := (s.isth.slots[i]?.map (·.release)).getD 0 } }
  if s1.slotOk found a then boot s1 a
  else
    let s2 := s1.bootLog 2 5 a
    if s2.slotOk found (1 - a) then boot s2 (1 - a)
    else (s2.bootLog 2 5 (1 - a)).modBoot fun b => { b with phase := .recovery }

def phaseRecord (r : Nat) (l : List Repair) : List Nat := l.filterMap fun x => match x with | .phase a k => if a = r then some k else none | _ => none

/-- RAILS: the rails without the phases that the repair table retires (R502, R542). -/
def stageRails (s : State) (again : List (Nat × Nat × Nat)) : State :=
  let recs := s.boot.repairs.filter fun r => match r with | .phase a k => !again.contains (0, a, k) | _ => true
  let build (r : Nat) (fresh : Rail) : Rail :=
    let out := phaseRecord r recs
    let all := (fresh.active ++ fresh.spare).filter fun k => !out.contains k
    let n := fresh.active.length
    let x : Rail := { fresh with active := all.take n, spare := all.drop n, failed := out }
    { x with limit := x.limitNow }
  { s with pow := { s.pow with rails := railsReset.zipIdx.map fun (x, r) => build r x }, boot := { s.boot with repairs := recs } }

/-- CORES: the repair table is loaded; records whose CRC fails are ignored and logged (R542). -/
def stageCores (s : State) (bad : List Nat) : State :=
  let hit := bad.filter fun i => decide (i < s.boot.repairs.length)
  let s1 := hit.foldl (fun (s : State) _ => s.bootLog 4 6 0) s
  s1.modBoot fun b => { b with repairs := (b.repairs.zipIdx.filter fun (_, i) => !hit.contains i).map (·.1) }

/-- The direction of a die-to-die lane number: 256 active lanes each way. -/
def laneKey (link lane : Nat) : Nat := 2 * link + lane / 256

/-- DIE_LINKS: spare lanes by the repair table (R21, R542). -/
def stageDieLinks (s : State) (again : List (Nat × Nat × Nat)) : State :=
  let recs := s.boot.repairs.filter fun r => match r with | .dieLane a k => !again.contains (2, a, k) | _ => true
  let used (k : Nat) : Nat := (recs.filter fun r => match r with | .dieLane a l => laneKey a l == k | _ => false).length
  { s with flt := { s.flt with laneSpares := (List.range 16).map fun k => (k, 8 - used k) }
           boot := { s.boot with repairs := recs } }

/-- Spare rows of a bank that the records of a holm use. -/
def rowRecords (l : List Repair) (p : Nat) : List (Nat × Nat × Nat) :=
  l.filterMap fun r => match r with | .rowMap a b x k => if a = p then some (b, x, k) else none | _ => none

/-- A failed row joins the row map of its holm; false where its bank has no spare row left (R543). -/
def mapFailed (l : List (Nat × Nat × Nat)) (bank row : Nat) : List (Nat × Nat × Nat) × Bool :=
  if l.any fun (b, r, _) => b == bank && r == row then (l, true)
  else match (List.range 16).find? fun k => !l.any fun (b, _, x) => b == bank && x == k with
    | some k => (l ++ [(bank, row, k)], true)
    | none => (l, false)

/-- Placements of a quadrant: missing logical holms from the highest downward, kept places, then ascending j (R543, R544). -/
def place (old : List (Nat × Nat)) (passing : List Nat) : List (Nat × Nat) :=
  let n := min 64 passing.length
  let kept := old.filter fun (l, j) => decide (l < n) && passing.contains j
  let free := passing.filter fun j => !kept.any fun (_, k) => k == j
  let open_ := (List.range n).filter fun l => !kept.any fun (k, _) => k == l
  kept ++ open_.zip free

/-- HOLM_TEST (R95, R543, R544). -/
def stageHolmTest (s : State) (found : BootFound) : State :=
  let recs := s.boot.repairs
  let made (p : Nat) : Bool := recs.contains (.fuseOut p)
  let tested (p : Nat) : Bool := !made p && (s.boot.kind != .soft || recs.contains (.retired p))
  let rows (p : Nat) : List (Nat × Nat × Nat) × Bool :=
    (found.failedRows.filter fun (h, _, _) => h == p && tested p).foldl (fun (acc : List (Nat × Nat × Nat) × Bool) (_, b, r) =>
      let (l, ok) := mapFailed acc.1 b r
      (l, acc.2 && ok)) (rowRecords recs p, true)
  let pass (p : Nat) : Bool :=
    if tested p then !found.failedHolms.contains p && (rows p).2 else !made p && (s.holm p).st != .fusedOut
  let all := List.range 272
  let kept := recs.filter fun r => match r with
    | .retired p => !(tested p && pass p)
    | .rowMap _ _ _ _ => false
    | _ => true
  let gone := (all.filter fun p => tested p && !pass p && !recs.contains (.retired p)).map Repair.retired
  let maps := all.flatMap fun p => (rows p).1.map fun (b, r, k) => Repair.rowMap p b r k
  let places := (List.range 4).flatMap fun q =>
    let old := (List.range 64).filterMap fun l => match s.remap.get? (64 * q + l) with
      | some r => if r.valid then some (l, r.phys) else none
      | none => none
    (place old ((List.range 68).filter fun j => pass (68 * q + j))).map fun (l, j) => (64 * q + l, j)
  { s with
    remap := (List.range 256).map fun lg => (lg, match places.find? fun (k, _) => k == lg with
      | some (_, j) => ⟨j, true, 0⟩
      | none => ⟨0, false, 0⟩)
    holms := s.holms.map fun ((p, h) : Nat × Holm) =>
      let st : HState := if !pass p then .fusedOut else if places.any fun (lg, j) => 68 * (lg / 64) + j == p then .idle else .spare
      (p, { h with st := st, repairs := (rows p).1 })
    boot := { s.boot with repairs := kept ++ gone ++ maps } }

/-- A member of a tier that failed training or the pattern test (R545). -/
def markFailed (m : MemState) (e : Element) : MemState :=
  let m1 := { m with degraded := true }
  match e with
  | .stack k => if k < 8 then { m1 with failedStacks := m1.failedStacks ++ [k] } else m
  | .channel k c => if k < 8 ∧ c < 32 then { m1 with failedPcs := m1.failedPcs ++ [64 * k + 2 * c, 64 * k + 2 * c + 1] } else m
  | .pseudo k c => if k < 8 ∧ c < 64 then { m1 with failedPcs := m1.failedPcs ++ [64 * k + c] } else m
  | .package k => if k < 12 then { m1 with failedPkgs := m1.failedPkgs ++ [k] } else m

/-- A frame or stripe misses more members than its parity makes up for (R545). -/
def tooMany (m : MemState) : Bool :=
  let lost (c : Nat) : Nat := ((List.range 8).filter fun k => m.failedStacks.contains k || m.failedPcs.contains (64 * k + c)).length
  (List.range 64).any (fun c => decide ((if m.hbmParity then 1 else 0) < lost c))
    || decide ((if m.lpdParity then 1 else 0) < m.failedPkgs.eraseDups.length)

/-- MEMORY (R332, R545). -/
def stageMemory (s : State) (found : BootFound) : State :=
  let flash := decide (s.boot.kind = .powerUp ∨ s.boot.kind = .cold)
  let m0 := if flash then { s.mem with hbmParity := s.mem.hbmParityNext, lpdParity := s.mem.lpdParityNext, pprRows := [] } else s.mem
  { s with mem := found.failedElements.foldl (fun (m : MemState) e => markFailed m e) m0 }

/-- READY: commands are accepted; an image may raise the minimum security version (R533, R538, R547). -/
def stageReady (s : State) : State :=
  let s1 := (s.modBoot fun b => { b with phase := .ready }).bootLog 0x0A 0 s.isth.active
  match s1.isth.slots[s1.isth.active]? with
  | some m => if m.advance ∧ s1.boot.minSvn < m.svn then s1.modBoot fun b => { b with minSvn := m.svn } else s1
  | none => s1

-- DESIGN CHOICE, unsafe: log 106.
/-- A stage completes: what it found decides what follows. -/
def stageDone (s0 : State) (k : Nat) (found : BootFound) : State :=
  let s := s0.modBoot fun b => { b with stages := b.stages ++ [k] }
  match k with
  | 2 => s.stageAuth found.authentic
  | 3 => if found.ok then s.stageRails found.retested else s0.failBoot 3 1
  | 4 => if found.ok then s.stageCores found.badRecords else s0.failBoot 4 2
  | 5 => if found.ok then s.stageDieLinks found.retested else s0.failBoot 5 3
  | 6 => s.stageHolmTest found
  | 7 =>
    let s1 := s.stageMemory found
    if tooMany s1.mem then s0.failBoot 7 4 else s1
  | 8 => s.modBoot fun b => { b with repairs := b.repairs.filter fun r => match r with | .straitLane i l => !found.retested.contains (1, i, l) | _ => true }
  | 9 => { s with mem := { s.mem with hostLinkUp := true } }
  | 10 => s.stageReady
  | _ => s

-- DESIGN CHOICE, unsafe: log 106.
/-- The stage may complete: it has started, and its own condition holds (R533, R537, R546). -/
def stageMay (s : State) (k : Nat) : Bool :=
  s.boot.phase == .booting && decide (1 ≤ k ∧ k ≤ 10) && !s.boot.stages.contains k && (stageAfter k).all s.boot.stages.contains
    && (k != 9 || s.boot.pins.perstN)
    && (k != 8 || s.net.ports.all fun q => match q.st with | .down => true | .charted => true | .failed => true | .chart => true | _ => false)

/-! ### The host link (R349, R537, R584) -/

-- DEDUCED, unsafe: log 127.
/-- The host link is down: what accesses tier 3 ends with LINK_LOST, a move that reads or writes it too (R349, R351). -/
def hostDown (s : State) : State :=
  let s1 : State := { s with mem := { s.mem with hostLinkUp := false } }
  (s.mem.moves.filter fun v => v.srcTier == 3 || v.dstTier == 3).foldl (fun (s : State) v =>
    if s.mem.moves.contains v then s.failMoves v .linkLost else s) s1

def perstLow (s : State) : State :=
  let s1 := (s.hostDown.modBoot fun b => { b with pins := { b.pins with perstN := false, clkreqN := true } }).modPow fun x =>
    { x with gated := if x.gated.contains 91 then x.gated else x.gated ++ [91] }
  let trigger : Bool := match s.boot.phase with
    | .ready => true
    | .failed _ => true
    | .entryDue => true
    | .booting => s.boot.stages.contains 3 && s.boot.pins.perstN
    | _ => false
  if trigger then s1.startReset .warm else s1

def perstHigh (s : State) : State :=
  (s.modBoot fun b => { b with pins := { b.pins with perstN := true, clkreqN := false } }).modPow fun x => { x with gated := x.gated.filter (· != 91) }

/-! ### Faults of the module's own parts (R22, R482, R483, R500) -/

/-- A fault that is not masked and not confined to a request: firmware triggers a warm reset (R532). -/
def unconfined (s : State) : State := if s.boot.phase = .ready then s.startReset .warm else s

/-- A management core fails (R500): the spare takes over, and the old core that passes its self-test pairs with it. -/
def coreFault (s : State) (survivor : Option Nat) : State :=
  match s.flt.spareCore with
  | none => s.unconfined
  | some c =>
    let keep := survivor.filter s.flt.pair.contains
    let bad := (s.flt.pair.find? fun x => some x != keep).getD 0
    let s1 : State := { s with free := s.free + 1, flt := { s.flt with pair := c :: keep.toList, spareCore := none } }
    s1.masked 8 bad (Config.freeNat .measure s.free 0 % 20001) 0

-- DEDUCED, unsafe: log 109.
/-- A die-to-die lane fails (R22, R483): a spare lane takes its place. Whether work was touched is measured. -/
def laneFault (s : State) (link lane : Nat) : State :=
  if 8 ≤ link ∨ 512 ≤ lane then s
  else
    let k := laneKey link lane
    let n := s.flt.laneSpares.getD k 8
    if n = 0 then s.unconfined
    else
      let hit (i : Nat) : Bool := Config.freeNat .measure s.free (1 + i) % 2 == 1
      let s1 : State := { s with
        free := s.free + 1, flt := { s.flt with laneSpares := s.flt.laneSpares.set k (n - 1) }
        isth := { s.isth with works := s.isth.works.map fun ((i, w) : Nat × Work) => (i, if w.running && hit i then { w with degraded := true } else w) } }
      (s1.recordRepair (Repair.dieLane link lane)).masked 6 (link + 2 ^ 3 * lane) (Config.freeNat .measure s.free 0 % 5001) (n - 1)

/-! ### Thermal limits (R529, R585) -/

-- DEDUCED, unsafe: log 110.
/-- A thermal trip: every rail is switched off, and THERMTRIP_N is low. -/
def thermalTrip (s : State) : State :=
  (s.powerLoss.modPow fun x => { x with trip := true }).modBoot fun b => { b with pins := { b.pins with thermtripN := false, alertN := true } }

/-- The junction sensors, the hottest of each die and of the hub, and whether one has been above 105 degrees for 1 ms. -/
def thermal (s : State) (temps : List Nat) (alarm : Bool) : State :=
  let s1 := s.modPow fun x => { x with temps := (List.range 5).map fun i => temps.getD i 0 }
  if temps.any (120 ≤ ·) then s1.thermalTrip else if alarm then s1.vrAlert else s1

/-! ### SMBus (R387, R540, R541, R590, R591) -/

/-- The SMBus endpoint is served: from the end of stage ROM, but for power loss and a thermal trip (R590). -/
def smbusUp (s : State) : Bool :=
  s.controlled && (s.boot.phase != .booting || s.boot.stages.contains 1)

-- PRESUMED, unsafe: log 111.
def smbusAnswer (s : State) (l : List Nat) : State := s.modBoot fun b => { b with smbusReply := l }

/-- Effecter 0x0101 (R591). -/
def rackWrite (s : State) (v : Nat) : State :=
  if v = 0 ∨ 2 ^ 32 ≤ v then s.smbusAnswer [2]
  else if s.net.rackId = 0 ∨ s.net.rackId = v then
    ({ s with net := { s.net with rackId := v }, boot := { s.boot with rackNext := none } } : State).smbusAnswer [0]
  else (s.modBoot fun b => { b with rackNext := some v }).smbusAnswer [0]

/-- Effecter 0x0102 (R591). -/
def resetWrite (s : State) (code : Nat) : State :=
  if code ≠ 1 ∧ code ≠ 2 then s.smbusAnswer [2]
  else if s.resetting then s.smbusAnswer [1]
  else (s.startReset (if code = 1 then .cold else .warm)).smbusAnswer [0]

-- DESIGN CHOICE, safe: log 112.
/-- The fields of an image's header (R538): none where a reserved field is not 0 or its length is out of range. The ICI minor versions that
an image supports are no part of its header. -/
def imageOf? (s : State) (h : Nat) (authentic : Bool) : Option FwImage :=
  let len := fld h 128 26
  let m : FwImage := {
    release := fld h 64 64, gen := fld h 0 16, svn := fld h 24 6, keyIndex := fld h 16 2, loMinor := 0
    hiMinor := Config.freeNat .choice s.free 0 % 256, authentic := authentic, advance := bitAt h 30 }
  if fld h 18 6 ≠ 0 ∨ fld h 31 33 ≠ 0 ∨ fld h 154 38 ≠ 0 ∨ fld h 1344 704 ≠ 0 ∨ len % 4096 ≠ 0 ∨ 33554432 < len then none
  else some m

/-- An image verifies, under a key and a security version that the module accepts (R539). -/
def imageOk (s : State) (m : FwImage) : Bool :=
  m.authentic && m.gen == 2 && !s.boot.revoked.contains m.keyIndex && decide (s.boot.minSvn ≤ m.svn)

/-- An image over PLDM (R540): only in RECOVERY; an authentic one is written and the boot goes on from RAILS. -/
def pldmImage (s : State) (header : Nat) (authentic : Bool) : State :=
  if s.boot.phase ≠ .recovery then s.smbusAnswer [5]
  else match s.imageOf? header authentic with
    | none => s.smbusAnswer [1]
    | some m =>
      if !s.imageOk m then s.smbusAnswer [1]
      else
        ({ s with
            free := s.free + 1, isth := { s.isth with slots := setAt s.isth.slots s.isth.active m }
            boot := { s.boot with phase := .booting, stages := [1, 2], release := m.release } } : State).smbusAnswer [0]

-- PRESUMED, unsafe: log 111.
/-- Signed measurements of the ROM, the booted header and the repair table: three digests and a signature (R541). -/
def measurements (s : State) : State :=
  let s1 : State := { s with free := s.free + 1 }
  s1.smbusAnswer ((List.range 240).map fun i => Config.freeNat .measure s.free i % 256)

/-! ### JTAG (R592) -/

def extestOk (s : State) : Bool :=
  match s.boot.phase with
  | .recovery => true
  | .failed _ => true
  | .off => false
  | _ => !s.boot.pins.perstN && s.ten.tenants.isEmpty

end State

/-! ### The rows -/

/-- POWER_UP (R532, R533, R553, R554, R585). -/
def execPowerUp (s : State) : Out :=
  .next (if s.boot.phase ≠ .off ∨ s.pow.trip then s else (s.cleared .powerUp).modBoot fun b => { b with phase := .booting })

/-- BOOT_STAGE_COMPLETE (R533 to R548). -/
def execBootStageComplete (stage : Nat) (found : BootFound) (s : State) : Out :=
  .next (if s.stageMay stage then s.stageDone stage found else s)

/-- POWER_FAILURE (R553, R583). -/
def execPowerFailure (s : State) : Out := .next s.powerLoss

/-- PERST_ASSERT (R504, R532, R584, R585). -/
def execPerstAssert (s : State) : Out :=
  .next (if s.controlled then s.perstLow else s.modBoot fun b => { b with pins := { b.pins with perstN := false } })

/-- PERST_DEASSERT (R504, R537). -/
def execPerstDeassert (s : State) : Out :=
  .next (if s.controlled then s.perstHigh else s.modBoot fun b => { b with pins := { b.pins with perstN := true } })

/-- WARM_RESET_ENTRY (R535). -/
def execWarmResetEntry (s : State) : Out := .next s.resetEntry

/-- COLD_RESET_OFF_END (R532): the power-up sequence runs from stage RAILS, with a new incarnation. -/
def execColdResetOffEnd (s : State) : Out :=
  .next (if s.boot.phase = .railsOff then s.drawInc.modBoot fun b => { b with phase := .booting, stages := [1, 2] } else s)

/-- UNCONFINED_FAULT (R532). -/
def execUnconfinedFault (s : State) : Out := .next s.unconfined

/-- HOST_LINK_DOWN (R349). -/
def execHostLinkDown (s : State) : Out := .next s.hostDown

/-- HOST_LINK_UP (R349): in operation, with PERST_N released. -/
def execHostLinkUp (s : State) : Out :=
  .next (if s.boot.phase = .ready ∧ s.boot.pins.perstN then { s with mem := { s.mem with hostLinkUp := true } } else s)

/-- MGMT_CORE_FAULT (R500). -/
def execMgmtCoreFault (survivor : Option Nat) (s : State) : Out := onLive s fun s => s.coreFault survivor

/-- DIE_TO_DIE_LANE_FAILURE (R22, R483). -/
def execDieToDieLaneFailure (link lane : Nat) (s : State) : Out := onLive s fun s => s.laneFault link lane

/-- THERMAL_READ (R529). -/
def execThermalRead (temps : List Nat) (alarm : Bool) (s : State) : Out := onPower s fun s => s.thermal temps alarm

/-- THERMAL_TRIP_CLEAR (R585). -/
def execThermalTripClear (s : State) : Out :=
  .next (if s.pow.trip then (s.modPow fun x => { x with trip := false }).modBoot fun b => { b with pins := { b.pins with thermtripN := true } } else s)

/-- PLDM_RACK_IDENTITY (R387, R591). -/
def execPldmRackIdentity (value : Nat) (s : State) : Out := .next (if s.smbusUp then s.rackWrite value else s)

/-- PLDM_RESET_REQUEST (R532, R591). -/
def execPldmResetRequest (code : Nat) (s : State) : Out := .next (if s.smbusUp then s.resetWrite code else s)

/-- PLDM_FIRMWARE_UPDATE (R540, R590). -/
def execPldmFirmwareUpdate (header : Nat) (authentic : Bool) (s : State) : Out := .next (if s.smbusUp then s.pldmImage header authentic else s)

/-- SPDM_GET_MEASUREMENTS (R541). -/
def execSpdmGetMeasurements (s : State) : Out := .next (if s.smbusUp then s.measurements else s)

/-- JTAG_EXTEST_SELECT (R592): BYPASS, which disturbs nothing, where it is not allowed. -/
def execJtagExtestSelect (s : State) : Out := .next (if s.extestOk then s.modBoot fun b => { b with extest := true } else s)

/-- JTAG_EXTEST_EXIT (R592). -/
def execJtagExtestExit (s : State) : Out :=
  .next (if s.boot.extest then (s.modBoot fun b => { b with extest := false }).startReset .warm else s)

end Sys2Proof.Machine
end

