-- ==== Sys2Proof/Machine/Regs.lean ====
section
/-! DEFINITION. The host-visible registers of every function: their values, writes to them, doorbells, the queue 0 setup and the reset
request (R12, R13, R424, R425, R430, R431, R556 to R577). -/

namespace Sys2Proof.Machine

/-- The registers of BAR0 (R559 to R575). -/
inductive RegName where
  | product | serial | inc | rack | coord | anchor | stage | fn | fw | fwStaged | ici
  | tmrRack | tmrSync | tmrOffset | tmrAo
  | queCmd | queCpl | queCfg | queStatus | queErr
  | dbCmd | dbCpl | dbState | ntcDb
  | nrgTenant | nrgQueue | nrgPart | elgNext | elgWord
  | msixAddr | msixData | msixCtrl | msixPba
  | cap | fmax | pwr | pwrE | pwrT | pwrRail | rstReq
  | nrgModule | nrgUnattr | nrgTenantT | nrgPartN
  | ceHolm | stale | ceHbm | ceLpd | replay | discard | busErr | demote
  deriving DecidableEq, Repr

/-- Functions that have a register (R559, R560). -/
inductive RegWho where
  | all | vf | pf
  deriving DecidableEq, Repr

/-- Registers of one kind: the first offset, how many, their spacing and their bytes. -/
structure RegRow where
  start : Nat
  count : Nat
  stride : Nat
  width : Nat
  name : RegName
  who : RegWho
  deriving DecidableEq, Repr

/-- The registers of every function (R559, R561 to R567, R576). -/
def regsAll : List RegRow :=
  [⟨0x0, 1, 8, 8, .product, .all⟩, ⟨0x8, 1, 8, 8, .serial, .all⟩, ⟨0x10, 1, 8, 8, .inc, .all⟩, ⟨0x18, 1, 4, 4, .rack, .all⟩,
   ⟨0x1C, 1, 4, 4, .coord, .all⟩, ⟨0x20, 1, 8, 8, .anchor, .all⟩, ⟨0x28, 1, 4, 4, .stage, .all⟩, ⟨0x2C, 1, 4, 4, .fn, .all⟩,
   ⟨0x30, 1, 8, 8, .fw, .all⟩, ⟨0x38, 1, 8, 8, .fwStaged, .all⟩, ⟨0x40, 1, 4, 4, .ici, .all⟩,
   ⟨0x100, 1, 8, 8, .tmrRack, .all⟩, ⟨0x108, 1, 4, 4, .tmrSync, .all⟩, ⟨0x10C, 1, 4, 4, .tmrOffset, .all⟩,
   ⟨0x110, 1, 8, 8, .tmrAo, .all⟩,
   ⟨0x200, 1, 8, 8, .queCmd, .all⟩, ⟨0x208, 1, 8, 8, .queCpl, .all⟩, ⟨0x210, 1, 8, 8, .queCfg, .all⟩,
   ⟨0x218, 1, 4, 4, .queStatus, .all⟩, ⟨0x220, 1, 4, 4, .queErr, .all⟩,
   ⟨0x1000, 8, 0x1000, 4, .dbCmd, .all⟩, ⟨0x1008, 8, 0x1000, 4, .dbCpl, .all⟩, ⟨0x1010, 8, 0x1000, 4, .dbState, .all⟩,
   ⟨0x9000, 1, 4, 4, .ntcDb, .all⟩,
   ⟨0xE000, 8, 16, 8, .msixAddr, .all⟩, ⟨0xE008, 8, 16, 4, .msixData, .all⟩, ⟨0xE00C, 8, 16, 4, .msixCtrl, .all⟩,
   ⟨0xF000, 1, 8, 8, .msixPba, .all⟩]

/-- The registers of VFs alone (R568, R572). -/
def regsVf : List RegRow :=
  [⟨0xA000, 1, 8, 8, .nrgTenant, .vf⟩, ⟨0xA008, 8, 8, 8, .nrgQueue, .vf⟩, ⟨0xA800, 256, 8, 8, .nrgPart, .vf⟩,
   ⟨0xB000, 1, 4, 4, .elgNext, .vf⟩, ⟨0xB100, 512, 8, 8, .elgWord, .vf⟩]

/-- The registers of PF0 alone (R568 to R575). -/
def regsPf : List RegRow :=
  [⟨0x10000, 4, 8, 8, .cap, .pf⟩, ⟨0x10100, 68, 4, 4, .fmax, .pf⟩, ⟨0x11000, 4, 4, 4, .pwr, .pf⟩, ⟨0x11010, 1, 8, 8, .pwrE, .pf⟩,
   ⟨0x11018, 1, 8, 8, .pwrT, .pf⟩, ⟨0x11020, 8, 4, 4, .pwrRail, .pf⟩, ⟨0x12000, 1, 4, 4, .rstReq, .pf⟩,
   ⟨0x20000, 1, 8, 8, .nrgModule, .pf⟩, ⟨0x20008, 1, 8, 8, .nrgUnattr, .pf⟩, ⟨0x21000, 1024, 8, 8, .nrgTenantT, .pf⟩,
   ⟨0x23000, 256, 8, 8, .nrgPartN, .pf⟩, ⟨0x30000, 272, 4, 4, .ceHolm, .pf⟩, ⟨0x31000, 272, 4, 4, .stale, .pf⟩,
   ⟨0x32000, 8, 4, 4, .ceHbm, .pf⟩, ⟨0x32040, 12, 4, 4, .ceLpd, .pf⟩, ⟨0x33000, 32, 8, 4, .replay, .pf⟩,
   ⟨0x33004, 32, 8, 4, .discard, .pf⟩, ⟨0x34000, 1, 4, 4, .busErr, .pf⟩, ⟨0x34004, 1, 4, 4, .demote, .pf⟩,
   ⟨0x40000, 1, 4, 4, .elgNext, .pf⟩, ⟨0x41000, 8192, 8, 8, .elgWord, .pf⟩]

namespace RegRow

/-- The row holds an offset within one of its registers. -/
def holds (r : RegRow) (fn off : Nat) : Bool :=
  (match r.who with | .all => true | .vf => fn != 0 | .pf => fn == 0)
    && decide (r.start ≤ off) && decide (off < r.start + r.count * r.stride) && decide ((off - r.start) % r.stride < r.width)

end RegRow

/-- An access that is accepted: its register, number and byte within it (R557); none for an unimplemented location. -/
def findReg (fn off size : Nat) : Option (RegName × Nat × Nat) :=
  if size = 4 ∧ off % 4 = 0 ∨ size = 8 ∧ off % 8 = 0 then
    match (regsAll ++ regsVf ++ regsPf).find? fun r => r.holds fn off with
    | some r =>
      let byte := (off - r.start) % r.stride
      if size = 8 ∧ (r.width ≠ 8 ∨ byte ≠ 0) then none else some (r.name, (off - r.start) / r.stride, byte)
    | none => none
  else none

/-- The state of a queue as registers show it (R563, R565). -/
def Que.code (q : Que) : Nat := if q.stopFetch then 3 else if q.err then 2 else 1

-- DEDUCED, unsafe: log 62.
/-- A ring set up anew: every index at 0 (R424, R425, R564). -/
def Que.armed (cmdBase cplBase log2 minor vector c t : Nat) : Que :=
  { err := false, cmdBase := cmdBase % 2 ^ 63, cplBase := cplBase % 2 ^ 63, log2 := log2, minor := minor, vector := vector, c := c, t := t
    head := 0, tail := 0, cplTail := 0, cplHead := 0, unsignalled := 0, stopFetch := false }

/-- A two's complement code of 32 bits. -/
def code32 (x : Int) : Nat := (x % 2 ^ 32).toNat

namespace State

/-! ### Values (R561 to R576) -/

def queState (s : State) (fn q : Nat) : Nat := ((s.que? fn q).map Que.code).getD 0

def queRegs (s : State) (fn : Nat) : QueRegs := s.isth.regs.getD fn .reset

/-- The boot stage code (R534). -/
def stageCode (s : State) : Nat :=
  match s.boot.phase with
  | .ready => 0x0A
  | .recovery => 0x0E
  | .failed _ => 0x0F
  | _ => ((List.range 9).map (· + 1)).find? (fun k => !s.boot.stages.contains k) |>.getD 9

/-- Least and greatest ICI minor versions of the running image (R437). -/
def minors (s : State) : Nat × Nat := ((s.isth.slots[s.isth.active]?).map fun m => (m.loMinor, m.hiMinor)).getD (0, 4)

def stagedRelease (s : State) : Nat :=
  if s.isth.staged then ((s.isth.slots[1 - s.isth.active]?).map (·.release)).getD 0 else 0

-- DEDUCED, unsafe: log 57.
/-- A word of an error-log view: entry slot k / 8, 64-bit word k % 8 of it (R572). -/
def logWord (v : LogView) (size k : Nat) : Nat :=
  match v.entries.find? fun e => e.seq % size == k / 8 with
  | some e => fld e.bits (64 * (k % 8)) 64
  | none => 0

def viewOf (s : State) (fn : Nat) : LogView := if fn = 0 then s.boot.moduleLog else s.boot.fnLogs.getD fn ⟨0, []⟩

def msixOf (s : State) (fn v : Nat) : Msix := s.isth.msix.getD (8 * fn + v) ⟨0, 0, true, false⟩

/-- Strait lanes whose spare has not been used, of 64 (R378, R569). -/
def straitSpares (s : State) : Nat :=
  (s.net.ports.map fun q => (if q.rxMap.contains 4 then 0 else 1) + (if q.txMap.contains 4 then 0 else 1)).sum

-- DESIGN CHOICE, unsafe: log 60.
/-- Word k of the capability block (R569). -/
def capWord (s : State) (k : Nat) : Nat :=
  let quads := List.range 4
  match k with
  | 0 => (quads.map fun q => 2 ^ (4 * q) * (s.sparesOf q % 8)).sum
      + (quads.map fun q => 2 ^ (16 + 8 * q) *
        ((List.range 64).filter fun l => ((s.remap.get? (64 * q + l)).map (·.valid)).getD false).length).sum
  | 1 =>
    let lpd := match s.part, s.mem.lpdParity with | .a, true => 704 | .a, false => 768 | .b, true => 352 | .b, false => 384
    (if s.mem.hbmParity then 336 else 384) + 2 ^ 16 * lpd + 2 ^ 32 * s.mem.hbmParity.toNat + 2 ^ 33 * s.mem.lpdParity.toNat
      + 2 ^ 34 * s.mem.hbmParityNext.toNat + 2 ^ 35 * s.mem.lpdParityNext.toNat
      + 2 ^ 36 * (!s.mem.failedStacks.isEmpty || !s.mem.failedPcs.isEmpty).toNat + 2 ^ 37 * (!s.mem.failedPkgs.isEmpty).toNat
  | 2 => s.pow.base % 2 ^ 16 + 2 ^ 16 * (s.pow.floor % 2 ^ 16) + 2 ^ 32 * (s.pow.dvfs % 2 ^ 16)
  | 3 => (quads.map fun i => 2 ^ (4 * i) * ((s.rail i).spare.length % 8)).sum + 2 ^ 16 * (s.straitSpares % 128)
      + 2 ^ 24 * (((List.range 16).map fun i => s.flt.laneSpares.getD i 8).sum % 256) + 2 ^ 32 * s.flt.spareCore.isSome.toNat
  | _ => 0

/-- The fused frequency code of a physical holm (R569). -/
def fmaxCode (s : State) (p : Nat) : Nat := if (s.holm p).st = .fusedOut then 0xFF else ((s.holm p).fmax - 2000) / 25

/-- The value of a register; a write-only one reads 0 (R12). -/
def regValue (s : State) (fn : Nat) (name : RegName) (i : Nat) : Nat :=
  match name with
  | .product => 0x4C4D + 2 ^ 16 * (match s.part with | .a => 1 | .b => 2) + 2 ^ 32 * 2
  | .serial => s.net.serial % 2 ^ 64
  | .inc => s.net.inc % 2 ^ 64
  | .rack => s.net.rackId % 2 ^ 32
  | .coord => s.net.claim.x % 4 + 2 ^ 2 * (s.net.claim.y % 4) + 2 ^ 4 * (s.net.claim.z % 4) + 2 ^ 7 * s.net.claim.fixed.toNat
  | .anchor => s.net.claim.anchor % 2 ^ 64
  | .stage => s.stageCode + 2 ^ 8 * s.boot.kind.code + 2 ^ 16 * (s.boot.minSvn % 64) + 2 ^ 22 * (s.isth.active % 2)
  | .fn => fn % 2 ^ 11 + 2 ^ 11 * (s.boundTo fn).isSome.toNat + 2 ^ 12 * ((s.boundTo fn).getD 0 % 2 ^ 10)
  | .fw => s.boot.release % 2 ^ 64
  | .fwStaged => s.stagedRelease % 2 ^ 64
  | .ici => s.minors.1 % 256 + 2 ^ 8 * (s.minors.2 % 256) + 2 ^ 16
  | .tmrRack => s.now % 2 ^ 64
  | .tmrSync => s.net.time.sync.code + 2 ^ 2 * s.net.time.clockB.toNat + 2 ^ 3 * s.net.time.goodA.toNat + 2 ^ 4 * s.net.time.goodB.toNat
      + 2 ^ 5 * ((s.shownPath (s.boundTo fn)).depth % 8)
  | .tmrOffset => code32 (s.shownPath (s.boundTo fn)).offset
  | .tmrAo => s.boot.aoCycles % 2 ^ 64
  | .queCmd => (s.queRegs fn).cmdBase
  | .queCpl => (s.queRegs fn).cplBase
  | .queCfg => (s.queRegs fn).cfg &&& 0x8000FF03FFFF071F
  | .queStatus => s.queState fn 0 + 2 ^ 8 * (s.queRegs fn).errStatus + 2 ^ 16 * (s.queRegs fn).errSrc
  | .queErr => (s.queRegs fn).errValue % 2 ^ 32
  | .dbState => s.queState fn i + 2 ^ 16 * (((s.que? fn i).map (·.head)).getD 0 % 2 ^ 16)
  | .nrgTenant => ((s.boundTo fn).map fun t => s.pow.eTenant.getD t 0).getD 0
  | .nrgQueue => s.pow.eQueue.getD (queKey fn i) 0
  | .nrgPart => match s.ten.parts.get? i, s.boundTo fn with
      | some p, some t => if p.tenant = t then s.pow.ePart.getD i 0 else 0
      | _, _ => 0
  | .elgNext => (s.viewOf fn).next % 2 ^ 32
  | .elgWord => logWord (s.viewOf fn) (if fn = 0 then 1024 else 64) i
  | .msixAddr => (s.msixOf fn i).addr
  | .msixData => (s.msixOf fn i).data
  | .msixCtrl => (s.msixOf fn i).masked.toNat
  | .msixPba => ((List.range 8).map fun v => 2 ^ v * (s.msixOf fn v).pending.toNat).sum
  | .cap => s.capWord i
  | .fmax => ((List.range 4).map fun k => 2 ^ (8 * k) * s.fmaxCode (4 * i + k)).sum
  | .pwr => match i with
      | 0 => s.pow.cap % 2 ^ 16 + 2 ^ 16 * (s.pow.window % 2 ^ 16)
      | 1 => s.pow.effCap % 2 ^ 16 + 2 ^ 16 * (s.need % 2 ^ 16)
      | 2 => s.pow.enforced % 2 ^ 16 + 2 ^ 16 * (s.pow.msMean % 2 ^ 16)
      | _ => s.pow.excess.isSome.toNat + 2 * s.pow.enforcing.toNat + 2 ^ 2 * (decide (s.pow.cap < s.pow.floor)).toNat
          + 2 ^ 3 * s.pow.lowest.toNat + 2 ^ 4 * (s.pow.lowCauses.contains .vrAlert).toNat + 2 ^ 5 * (!s.boot.pins.pwrBrakeN).toNat
          + 2 ^ 6 * s.pow.deepIdle.toNat
  | .pwrE => s.pow.excess.getD 0 % 2 ^ 64
  | .pwrT => ((List.range 5).map fun k => 2 ^ (8 * k) * (s.pow.temps.getD k 0 % 256)).sum
  | .pwrRail =>
      let r := s.rail i
      r.limit % 2 ^ 16 + 2 ^ 16 * (r.active.length % 32) + 2 ^ 21 * (r.spare.length % 8)
        + 2 ^ 24 * (if i < 4 then (s.pow.volts.getD i 600 - 600) / 5 % 128 else 0)
  | .nrgModule => s.pow.energy
  | .nrgUnattr => s.pow.unattr
  | .nrgTenantT => if (s.tenant? i).isSome then s.pow.eTenant.getD i 0 else 0
  | .nrgPartN => if (s.ten.parts.get? i).isSome then s.pow.ePart.getD i 0 else 0
  | .ceHolm => (s.holm i).ceCount % 2 ^ 32
  | .stale => (s.holm i).staleCount % 2 ^ 32
  | .ceHbm => s.mem.ceHbm.getD i 0 % 2 ^ 32
  | .ceLpd => s.mem.ceLpd.getD i 0 % 2 ^ 32
  | .replay => (s.port i).replays % 2 ^ 32
  | .discard => (s.port i).discarded % 2 ^ 16 + 2 ^ 16 * (s.boot.keyFailPort.getD i 0 % 2 ^ 16)
  | .busErr => s.boot.busErrors % 2 ^ 32
  | .demote => s.boot.demotions % 2 ^ 32
  | .dbCmd => 0
  | .dbCpl => 0
  | .ntcDb => 0
  | .rstReq => 0

/-! ### Functions and access (R534, R556, R577) -/

-- DEDUCED, unsafe: log 53.
/-- A function answers on the host link: a VF while VF Enable is set; after a failed boot PF0 alone. -/
def reachable (s : State) (fn : Nat) : Bool :=
  s.live && s.mem.hostLinkUp && (fn == 0 || (s.boot.vfEnable && decide (fn ≤ s.boot.numVfs)))

def bootFailed (s : State) : Bool := match s.boot.phase with | .failed _ => true | _ => false

-- DEDUCED, unsafe: log 54.
/-- What a failed boot leaves of the registers (R577). -/
def keptInFailed (name : RegName) : Bool :=
  match name with
  | .product => true | .serial => true | .inc => true | .rack => true | .coord => true | .anchor => true | .stage => true | .fn => true
  | .fw => true | .fwStaged => true | .ici => true | .tmrRack => true | .tmrSync => true | .tmrOffset => true | .tmrAo => true
  | .cap => true | .fmax => true | .elgNext => true | .elgWord => true
  | _ => false

-- DEDUCED, unsafe: log 119.
/-- A register read: its value, or a bus error (R13, R557). -/
def regRead (s : State) (fn off size : Nat) : State :=
  let answer (s : State) (v : Option Nat) : State := { s with boot := { s.boot with busReply := v } }
  match findReg fn off size with
  | none => answer (s.busError fn off size 0 false) none
  | some (name, i, byte) =>
    if s.bootFailed && !keptInFailed name then answer (s.busError fn off size 0 false) none
    else answer s (some (s.regValue fn name i / 2 ^ (8 * byte) % 2 ^ (8 * size)))

/-! ### The end of a queue (R430, R564) -/

/-- The command of a queue deletion that waits for a queue. -/
def Cmd.deletes (c : Cmd) (fn q : Nat) : Bool :=
  c.fn == fn && c.st == .running && fld c.raw 0 16 == 0x0104 && fld c.raw 256 8 == q

/-- A stopping queue is removed once every command of it has completed and been posted. -/
def queueStopped (s : State) (fn q : Nat) : State :=
  match s.que? fn q with
  | some x =>
    if x.stopFetch ∧ s.inProgress fn q = 0 then
      let s1 : State := { s with
        isth := { s.isth with queues := s.isth.queues.del (queKey fn q) }
        pow := { s.pow with eQueue := s.pow.eQueue.del (queKey fn q) } }
      s1.endCmds ((s1.isth.cmds.filter fun c => Cmd.deletes c fn q).map fun c => (c.fn, c.q, c.id)) .done 0
    else s
  | none => s

/-- A queue stops fetching (R430). -/
def stopQueue (s : State) (fn q : Nat) : State :=
  match s.que? fn q with
  | some x => (s.setQue fn q { x with stopFetch := true }).queueStopped fn q
  | none => s

/-- A plan accepted on a queue has not been freed. -/
def planOn (s : State) (fn q : Nat) : Bool :=
  s.isth.works.any fun ((_, w) : Nat × Work) => w.kind == .plan && w.fn == fn && w.q == q

/-! ### Queue 0 (R563, R564) -/

def modQueRegs (s : State) (fn : Nat) (f : QueRegs → QueRegs) : State :=
  { s with isth := { s.isth with regs := s.isth.regs.set fn (f (s.queRegs fn)) } }

/-- A commit is refused. -/
def refuseSetup (s : State) (fn : Nat) (st : Status) : State :=
  s.modQueRegs fn fun r => { r with errStatus := st.code, errSrc := 3 }

/-- A commit succeeds. -/
def clearSetup (s : State) (fn : Nat) : State := s.modQueRegs fn fun r => { r with errStatus := 0, errSrc := 0, errValue := 0 }

-- DEDUCED, unsafe: log 55.
/-- A commit of the queue 0 setup block, resolved by the first row that applies (R564). -/
def commitSetup (s : State) (fn : Nat) : State :=
  let r := s.queRegs fn
  let log2 := fld r.cfg 0 5
  let vec := fld r.cfg 8 3
  let c := fld r.cfg 16 8 + 1
  let t := fld r.cfg 24 10
  let minor := fld r.cfg 40 8
  let enable := bitAt r.cfg 63
  let new := Que.armed r.cmdBase r.cplBase log2 minor vec c t
  let old := s.que? fn 0
  if r.cfg &&& 0x8000FF03FFFF071F ≠ r.cfg ∨ log2 < 6 ∨ 16 < log2 then s.refuseSetup fn .badCommand
  else if enable ∧ (r.cmdBase % 4096 ≠ 0 ∨ r.cplBase % 4096 ≠ 0) then s.refuseSetup fn .badAddress
  else if enable ∧ (minor < s.minors.1 ∨ s.minors.2 < minor) then s.refuseSetup fn .version
  else match old with
    | none => if enable then (s.clearSetup fn).setQue fn 0 new else s.clearSetup fn
    | some x =>
      if x.stopFetch then s.refuseSetup fn .limit
      else if enable then
        if x.err then (s.clearSetup fn).setQue fn 0 new
        else if x.cmdBase = new.cmdBase ∧ x.cplBase = new.cplBase ∧ x.log2 = log2 ∧ x.minor = minor then
          (s.clearSetup fn).setQue fn 0 { x with vector := vec, c := c, t := t }
        else s.refuseSetup fn .limit
      else if s.planOn fn 0 then s.refuseSetup fn .limit
      else (s.clearSetup fn).stopQueue fn 0

/-- A write of one half of QUE_CFG; that of the high half commits. -/
def writeCfg (s : State) (fn : Nat) (high : Bool) (v : Nat) : State :=
  let s1 := s.modQueRegs fn fun r => { r with
    cfg := if high then r.cfg % 2 ^ 32 + 2 ^ 32 * (v % 2 ^ 32) else r.cfg / 2 ^ 32 * 2 ^ 32 + v % 2 ^ 32 }
  if high then s1.commitSetup fn else s1

/-! ### Doorbells (R424, R425, R566, R567) -/

def isReady (s : State) : Bool := s.boot.phase == .ready

-- DESIGN CHOICE, unsafe: log 59.
/-- A command tail or a completion head arrives at a queue. -/
def doorbell (s : State) (fn q value : Nat) (cpl : Bool) : State :=
  if !s.isReady then s
  else
    let src := if cpl then 2 else 1
    let off := 0x1000 + 0x1000 * q + (if cpl then 8 else 0)
    match s.que? fn q with
    | none => s.busError fn off 4 value true
    | some x =>
      if x.err ∨ x.stopFetch then s.busError fn off 4 value true
      else if x.size ≤ value then s.queueError fn q .badCommand src value
      else if cpl then
        let k := (value + x.size - x.cplHead % x.size) % x.size
        if x.cplTail < x.cplHead + k then s.queueError fn q .badCommand src value
        else s.setQue fn q { x with cplHead := x.cplHead + k }
      else s.setQue fn q { x with tail := value }

/-- The host writes its own memory: rings and what commands name (R424). -/
def hostStores (s : State) (ws : List (Nat × List Nat)) : State :=
  { s with isth := { s.isth with host := ws.foldl (fun (m : Mem) (a, bs) => m.write a bs) s.isth.host } }

-- DEDUCED, unsafe: log 56.
/-- The notice doorbell; the whole value written is held against the ring (R431, R567). -/
def noticeDoorbell (s : State) (fn value : Nat) : State :=
  if !s.isReady then s
  else match s.isth.rings.get? fn with
    | none => s
    | some r =>
      let size := 2 ^ r.log2
      let k := (value + size - r.head % size) % size
      if size ≤ value ∨ r.tail < r.head + k then s.notice fn 0x12 (0xFF + 2 ^ 32 * (value % 2 ^ 32))
      else { s with isth := { s.isth with rings := s.isth.rings.set fn { r with head := r.head + k } } }

/-! ### The reset request (R571) -/

/-- A write of RST_REQ starts the named reset, or is logged. -/
def resetRequest (s : State) (value : Nat) : State :=
  let kind := value % 4
  let go : Bool := value % 2 ^ 32 / 4 == 0x4C4D * 2 ^ 14 && kind != 0 && !s.resetting && (kind != 3 || s.isReady)
  if go then s.startReset (match kind with | 1 => .cold | 2 => .warm | _ => .soft) else s.busError 0 0x12000 4 value true

/-! ### Writes (R12, R13, R557) -/

def modMsix (s : State) (fn v : Nat) (f : Msix → Msix) : State :=
  { s with isth := { s.isth with msix := s.isth.msix.set (8 * fn + v) (f (s.msixOf fn v)) } }

-- PRESUMED, unsafe: log 58.
/-- A vector that is unmasked sends the message that waits (R576). -/
def unmask (s : State) (fn v : Nat) : State :=
  let m := s.msixOf fn v
  if !m.masked && m.pending then (s.modMsix fn v fun m => { m with pending := false }).signal fn v else s

/-- The low or high half of a 64-bit value replaced. -/
def half (old : Nat) (high : Bool) (v : Nat) : Nat :=
  if high then old % 2 ^ 32 + 2 ^ 32 * (v % 2 ^ 32) else old / 2 ^ 32 * 2 ^ 32 + v % 2 ^ 32

/-- A 4-byte write of a register; a read-only one does not change. -/
def regStore (s : State) (fn : Nat) (name : RegName) (i byte v : Nat) : State :=
  let high := decide (byte = 4)
  match name with
  | .queCmd => s.modQueRegs fn fun r => { r with cmdBase := half r.cmdBase high v }
  | .queCpl => s.modQueRegs fn fun r => { r with cplBase := half r.cplBase high v }
  | .queCfg => s.writeCfg fn high v
  | .dbCmd => s.doorbell fn i v false
  | .dbCpl => s.doorbell fn i v true
  | .ntcDb => s.noticeDoorbell fn v
  | .msixAddr => s.modMsix fn i fun m => { m with addr := half m.addr high v }
  | .msixData => s.modMsix fn i fun m => { m with data := v % 2 ^ 32 }
  | .msixCtrl => (s.modMsix fn i fun m => { m with masked := bitAt v 0 }).unmask fn i
  | .rstReq => s.resetRequest v
  | _ => s

/-- A write of 4 or 8 bytes; the low word first (R557). -/
def regWrite (s : State) (fn off size value : Nat) : State :=
  match findReg fn off size with
  | none => s.busError fn off size value true
  | some (name, i, byte) =>
    if s.bootFailed && !keptInFailed name && name != .rstReq then
      (if name = .dbCmd ∨ name = .dbCpl ∨ name = .ntcDb then s else s.busError fn off size value true)
    else if size = 8 then (s.regStore fn name i 0 (value % 2 ^ 32)).regStore fn name i 4 (value / 2 ^ 32 % 2 ^ 32)
    else s.regStore fn name i byte (value % 2 ^ 32)

end State

/-- An access of a function's BAR0: nothing happens where no such function answers. -/
def onBar (fn : Nat) (s : State) (f : State → State) : Out := .next (if s.reachable fn then f s else s)

/-! ### The rows -/

/-- DB_CMD_TAIL (R424, R425, R566). -/
def execDbCmdTail (fn q value : Nat) (host : List (Nat × List Nat)) (s : State) : Out :=
  onBar fn (s.hostStores host) fun s => if q < 8 then s.regWrite fn (0x1000 + 0x1000 * q) 4 value else s

/-- DB_CPL_HEAD (R424, R425, R566). -/
def execDbCplHead (fn q value : Nat) (s : State) : Out :=
  onBar fn s fun s => if q < 8 then s.regWrite fn (0x1008 + 0x1000 * q) 4 value else s

/-- NTC_DB_HEAD (R431, R567). -/
def execNtcDbHead (fn value : Nat) (s : State) : Out := onBar fn s fun s => s.regWrite fn 0x9000 4 value

/-- QUE_CFG_COMMIT (R564). -/
def execQueCfgCommit (fn value : Nat) (s : State) : Out := onBar fn s fun s => s.regWrite fn 0x214 4 value

/-- RST_REQ_COLD (R571): the value written, with the code of a cold reset. -/
def execRstReqCold (fn value : Nat) (s : State) : Out := onBar fn s fun s => s.regWrite fn 0x12000 4 (value / 4 * 4 + 1)

/-- RST_REQ_WARM (R571). -/
def execRstReqWarm (fn value : Nat) (s : State) : Out := onBar fn s fun s => s.regWrite fn 0x12000 4 (value / 4 * 4 + 2)

/-- RST_REQ_SOFT (R571). -/
def execRstReqSoft (fn value : Nat) (s : State) : Out := onBar fn s fun s => s.regWrite fn 0x12000 4 (value / 4 * 4 + 3)

/-- REGISTER_WRITE (R12, R13, R557). -/
def execRegisterWrite (fn off size value : Nat) (s : State) : Out := onBar fn s fun s => s.regWrite fn off size value

/-- REGISTER_READ (R12, R13, R557, R558). -/
def execRegisterRead (fn off size : Nat) (s : State) : Out := onBar fn s fun s => s.regRead fn off size

end Sys2Proof.Machine
end

