-- ==== Sys2Proof/Machine/Fetch.lean ====
section
/-! DEFINITION. Commands of the isthmus: the table of commands, fetch and acceptance, the objects a command names, the order in which
commands start, the checks they share, and the posting of their completions (R424 to R440, R474, R477, R479). -/

namespace Sys2Proof.Machine

/-! ### The command table (R439) -/

/-- A command: its code, whether it has an indirect buffer, whether it may be bounded, its arguments (byte offset and width in bits) and
those added in ICI 1.4 (R437, R439). -/
structure OpRow where
  code : Nat
  ind : Bool
  bounded : Bool
  args : List (Nat × Nat)
  late : List (Nat × Nat)
  deriving DecidableEq, Repr

def opsA : List OpRow :=
  [⟨0x0101, false, false, [], []⟩,
   ⟨0x0102, false, false, [(32, 64)], []⟩,
   ⟨0x0103, false, false, [(32, 8), (33, 8), (34, 8), (36, 16), (38, 8), (39, 8), (40, 64), (48, 64)], []⟩,
   ⟨0x0104, false, false, [(32, 8)], []⟩,
   ⟨0x0105, false, false, [(32, 8), (33, 8), (40, 64)], []⟩,
   ⟨0x0201, false, false, [(32, 8), (36, 32), (40, 64)], []⟩,
   ⟨0x0202, false, false, [(36, 32), (40, 64)], []⟩,
   ⟨0x0203, false, false, [(32, 1), (33, 8), (34, 16), (36, 32), (40, 64), (48, 64)], []⟩,
   ⟨0x0204, false, true, [(40, 64), (48, 64), (56, 64)], []⟩,
   ⟨0x0205, false, true, [(32, 8), (36, 32), (40, 64)], []⟩,
   ⟨0x0301, false, false, [(40, 64), (48, 64), (56, 64)], []⟩,
   ⟨0x0302, false, false, [(32, 8), (34, 16), (36, 16), (40, 64), (48, 64)], []⟩,
   ⟨0x0303, false, false, [(32, 32)], []⟩,
   ⟨0x0401, false, false, [(32, 8), (33, 8), (34, 8), (35, 8), (36, 8), (37, 8), (38, 8), (39, 1), (40, 32), (44, 32), (48, 64),
     (56, 64)], []⟩,
   ⟨0x0402, false, false, [(32, 8), (36, 32), (40, 64)], [(33, 1), (48, 32), (52, 32), (56, 32)]⟩,
   ⟨0x0403, false, false, [(32, 32), (36, 32), (40, 64)], []⟩,
   ⟨0x0404, false, true, [(32, 32), (36, 16), (38, 16), (40, 64)], []⟩,
   ⟨0x0405, false, false, [(32, 32), (36, 32), (40, 64)], []⟩,
   ⟨0x0406, false, false, [(32, 32)], []⟩,
   ⟨0x0407, false, false, [(32, 8)], []⟩]

def opsB : List OpRow :=
  [⟨0x0501, true, false, [], []⟩,
   ⟨0x0502, false, false, [(32, 32), (40, 64)], []⟩,
   ⟨0x0503, false, false, [(32, 32)], []⟩,
   ⟨0x0504, true, false, [(32, 32)], []⟩,
   ⟨0x0505, false, false, [(32, 32)], []⟩,
   ⟨0x0601, false, true, [(32, 32), (36, 8), (37, 8), (38, 8), (39, 2), (40, 32), (48, 64), (56, 64), (64, 64), (72, 64)], [(44, 32)]⟩,
   ⟨0x0602, false, true, [(32, 64), (40, 64), (48, 64), (56, 64), (64, 32), (68, 32), (72, 32), (76, 8), (77, 8), (78, 8), (79, 2),
     (80, 32)], []⟩,
   ⟨0x0603, true, true, [], []⟩,
   ⟨0x0701, false, false, [(32, 8), (33, 2), (34, 8), (40, 64), (48, 64), (56, 64), (64, 128)], []⟩,
   ⟨0x0702, false, false, [(32, 32)], []⟩,
   ⟨0x0703, false, false, [(32, 64)], []⟩,
   ⟨0x0704, true, true, [], []⟩,
   ⟨0x0705, false, false, [(32, 64)], []⟩,
   ⟨0x0801, false, false, [(32, 16), (36, 16)], []⟩,
   ⟨0x0802, false, false, [(32, 8), (34, 16)], []⟩,
   ⟨0x0901, true, false, [], []⟩,
   ⟨0x0902, false, false, [(32, 32)], []⟩,
   ⟨0x0903, false, false, [(32, 32)], []⟩,
   ⟨0x0F01, false, false, [(32, 16), (34, 16), (40, 32), (44, 32), (48, 32), (52, 32), (56, 8), (58, 16)], []⟩,
   ⟨0x0F02, false, false, [(32, 16)], []⟩,
   ⟨0x0F03, false, false, [(32, 8), (34, 16), (40, 256)], []⟩,
   ⟨0x0F04, true, false, [(32, 64), (40, 16), (42, 16)], []⟩,
   ⟨0x0F05, false, false, [(32, 32), (36, 16), (38, 1), (40, 64)], []⟩,
   ⟨0x0F06, true, false, [], []⟩,
   ⟨0x0F07, false, false, [], []⟩,
   ⟨0x0F08, false, false, [(32, 2)], []⟩,
   ⟨0x0F09, false, false, [(40, 64), (48, 64)], []⟩]

def opRow? (code : Nat) : Option OpRow := (opsA ++ opsB).find? fun r => r.code == code

namespace OpRow

/-- The bits of an entry that the command uses, header excluded, under a minor version. -/
def used (r : OpRow) (minor : Nat) : Nat :=
  ((r.args ++ if 4 ≤ minor then r.late else []).map fun (o, n) => 2 ^ (8 * o) * (2 ^ n - 1)).sum

end OpRow

/-! ### Checks before acceptance (R434 rows 1 to 4, R437, R440) -/

/-- The function may issue the command (R440). -/
def mayIssue (fn : Nat) (bound : Bool) (raw : Nat) : Bool :=
  let code := fld raw 0 16
  let fam := code / 256
  if fn = 0 then
    if code = 0x0203 then argOf raw 33 1 == 1 else fam == 1 || fam == 0x0F || code == 0x0801 || code == 0x0802
  else if !bound then fam == 1
  else if code = 0x0203 ∧ argOf raw 33 1 = 1 then false
  else if code = 0x0802 ∧ argOf raw 32 1 = 3 then false
  else decide (1 ≤ fam ∧ fam ≤ 9) && code != 0x0801

-- DEDUCED, unsafe: log 64.
/-- Rows 1 to 4 of the check table: the failure status, or none for a command that is accepted. -/
def acceptCheck (fn minor : Nat) (bound : Bool) (raw : Nat) : Option Status :=
  match opRow? (fld raw 0 16) with
  | none => some .badCommand
  | some r =>
    let cls := fld raw 18 2
    if !mayIssue fn bound raw then some .noPermission
    else if fld raw 20 12 ≠ 0 ∨ fld raw 160 96 ≠ 0 ∨ fld raw 256 768 * 2 ^ 256 ||| r.used minor ≠ r.used minor then some .badCommand
    else if 1 < cls ∨ (cls = 1 ∧ !r.bounded) then some .badCommand
    else if (!r.ind ∧ fld raw 64 96 ≠ 0) ∨ 67108864 < fld raw 128 32 then some .badCommand
    else none

namespace State

/-! ### What a command names (R426) -/

/-- The pages of a range, where it is a tenant range. -/
def pageSpan (a n : Nat) : List (Nat × Nat) :=
  if n = 0 ∨ bitAt a 63 then [] else [(a % 2 ^ 48 / regionSize, (a % 2 ^ 48 + n - 1) / regionSize)]

/-- Ranges of a GEMM or ATTEND entry. -/
def workSpans (s : State) (t raw : Nat) : List (Nat × Nat) :=
  let a (o n : Nat) : Nat := argOf raw o n
  if fld raw 0 16 = 0x0602 then
    let w (o : Nat) : Nat := ((fmtAt raw o).map fun f => f.width / 8).getD 1
    pageSpan (a 32 8) (a 64 4 * a 72 4 * w 76) ++ pageSpan (a 40 8) (a 68 4 * a 72 4 * w 77) ++ pageSpan (a 48 8) (a 64 4 * a 68 4 * w 78)
      ++ (if a 56 8 = 0 then [] else pageSpan (a 56 8) (4 * a 64 4 * a 68 4))
  else match s.kv.validDesc t (a 32 4) with
    | none => []
    | some (_, d) => match s.kv.pools.get? d.pool with
      | none => []
      | some q =>
        let m := a 38 1
        pageSpan (a 48 8) (2 * m * q.d) ++ pageSpan (a 56 8) (4 * m) ++ pageSpan (a 64 8) (m * q.d * (if bitAt raw 313 then 2 else 4))
          ++ pageSpan (a 72 8) (16 * m)

/-- Ranges of a collective descriptor (R403, R405). -/
def collSpans (s : State) (c : Coll) : List (Nat × Nat) :=
  (if c.srcSpad then [] else (List.range c.parts).flatMap fun j => pageSpan (c.src + j * c.srcStride) (collSrcBytes c))
    ++ pageSpan c.peers (16 * c.n) ++ (if c.op = 4 ∧ c.a2a ≠ 0 then pageSpan c.route (4 * c.elems) else [])
    ++ (if c.routed then pageSpan c.prov (256 * c.cap) else []) ++ pageSpan c.statusAt (64 + 8 * c.n)
    ++ (match s.ownWindow c with | some w => if w.memory then pageSpan (w.base + c.dstOff) c.outSize else [] | none => [])

/-- The indirect buffer, where it can be read. -/
def indirect (s : State) (fn raw : Nat) : Except Status (List Nat) := s.argRead (s.boundTo fn) (fld raw 64 64) (fld raw 128 32)

/-- Tenant pages that a command names. -/
def namedPages (s : State) (fn raw : Nat) : List (Nat × Nat) :=
  let a (o n : Nat) : Nat := argOf raw o n
  let t := (s.boundTo fn).getD 1024
  let two := regionSize
  pageSpan (fld raw 64 64) (fld raw 128 32) ++
    match fld raw 0 16 with
    | 0x0102 => pageSpan (a 32 8) 0x230
    | 0x0201 => pageSpan (a 40 8) (a 36 4 * two)
    | 0x0202 => pageSpan (a 40 8) (a 36 4 * two)
    | 0x0203 => pageSpan (a 48 8) (a 36 4 * two) ++ (if a 33 1 = 0 then pageSpan (a 40 8) (a 36 4 * two) else [])
    | 0x0204 => pageSpan (a 40 8) (a 56 8) ++ pageSpan (a 48 8) (a 56 8)
    | 0x0205 => pageSpan (a 40 8) (a 36 4 * two)
    | 0x0301 => pageSpan (a 40 8) (a 56 8) ++ pageSpan (a 48 8) (a 56 8)
    | 0x0302 => (List.range (a 36 2)).flatMap fun i => pageSpan (a 40 8 + i * a 48 8) (a 32 1 * 0x40000)
    | 0x0401 =>
      let w (o : Nat) : Nat := match a o 1 with | 2 => 2 | 3 => 2 | _ => 1
      let bytes := 2 ^ min (a 33 1) 16 * a 34 1 * (16 * a 35 1) * (w 36 + w 37) + (if bitAt raw 312 then 8 * a 34 1 * (16 * a 35 1) else 0)
      pageSpan (a 48 8) (a 40 4 * ((bytes + 4095) / 4096 * 4096)) ++ pageSpan (a 56 8) (4096 * a 44 4)
    | 0x0402 => pageSpan (a 40 8) 64
    | 0x0403 => pageSpan (a 40 8) 64
    | 0x0405 => pageSpan (a 40 8) 64
    | 0x0404 => match s.kv.validDesc t (a 32 4) with
      | some (_, d) => match s.kv.pools.get? d.pool with
        | some q => pageSpan (a 40 8) (32 * q.layers * q.h * a 36 2 * (q.rk + q.rv))
        | none => []
      | none => []
    | 0x0601 => s.workSpans t raw
    | 0x0602 => s.workSpans t raw
    | 0x0603 => match s.indirect fn raw with
      | .ok bs => (chunks 128 bs).flatMap fun e => s.workSpans t (ofBytes e)
      | .error _ => []
    | 0x0701 => if a 32 1 = 0 then pageSpan (a 48 8) (a 56 8) else []
    | 0x0704 => match s.indirect fn raw with
      | .ok bs => s.collSpans (collView t 256 0 (ofBytes bs))
      | .error _ => []
    | _ => []

/-- Handles, pools and queues that a command names. -/
def namedObjs (s : State) (fn raw : Nat) : List (Nat × Nat) :=
  let h := argOf raw 32 4
  let b := argOf raw 32 1
  match fld raw 0 16 with
  | 0x0103 => [(0, b)] | 0x0104 => [(0, b)]
  | 0x0401 => [(1, b)] | 0x0402 => [(1, b)] | 0x0407 => [(1, b)]
  | 0x0403 => [(2, h)] | 0x0404 => [(2, h)] | 0x0405 => [(2, h)] | 0x0406 => [(2, h)] | 0x0601 => [(2, h)]
  | 0x0502 => [(3, h)] | 0x0503 => [(3, h)] | 0x0504 => [(3, h)] | 0x0505 => [(3, h)]
  | 0x0902 => [(4, h)] | 0x0903 => [(4, h)]
  | 0x0303 => [(5, h)]
  | 0x0702 => [(6, h)]
  | 0x0603 => match s.indirect fn raw with
    | .ok bs => (chunks 128 bs).filterMap fun e => if ofBytes (e.take 2) = 0x0601 then some (2, ofBytes ((e.drop 32).take 4)) else none
    | .error _ => []
  | _ => []

end State

/-- Two commands name one object. -/
def Cmd.clash (a b : Cmd) : Bool :=
  (a.objs.any fun o => b.objs.contains o) || a.pages.any fun x => b.pages.any fun y => decide (x.1 ≤ y.2 ∧ y.1 ≤ x.2)

namespace Cmd

def opc (c : Cmd) : Nat := fld c.raw 0 16
def fence (c : Cmd) : Bool := bitAt c.raw 16
def noIntr (c : Cmd) : Bool := bitAt c.raw 17
def bounded (c : Cmd) : Bool := bitAt c.raw 18
def tag (c : Cmd) : Nat := fld c.raw 32 32
def name (c : Cmd) : CmdId := (c.fn, c.q, c.id)
/-- Byte o of the entry, n bytes long. -/
def arg (c : Cmd) (o n : Nat) : Nat := argOf c.raw o n

/-- It has not ended. -/
def live (c : Cmd) : Bool := match c.st with | .ended _ _ _ _ => false | _ => true

end Cmd

namespace State

/-! ### Fetch and acceptance (R424 to R426) -/

/-- The device may fetch an entry of a queue (R426). -/
def mayFetch (s : State) (fn q : Nat) (x : Que) : Bool :=
  s.isReady && s.mem.hostLinkUp && !x.err && !x.stopFetch && x.head != x.tail && decide (s.inProgress fn q < 256)
    && decide (s.inProgress fn q + x.reserve < x.free)

/-- The next entry of a ring is read; it is accepted, or ends with the status of the first of rows 1 to 4 that fails. -/
def fetch_ (s : State) (fn q : Nat) : State :=
  match s.que? fn q with
  | none => s
  | some x =>
    if !s.mayFetch fn q x then s
    else match s.hostRead (x.cmdBase + 128 * x.head) 128 with
      | none => s.queueError fn q .badAddress 1 x.head
      | some bs =>
        let raw := ofBytes bs
        let id := s.isth.nextCmd
        let bad := acceptCheck fn x.minor (s.boundTo fn).isSome raw
        let c : Cmd := { fn := fn, q := q, id := id, raw := raw, st := .accepted, energy := 0, since := s.now
                         objs := if bad.isSome then [] else s.namedObjs fn raw
                         pages := if bad.isSome then [] else s.namedPages fn raw }
        let s1 := s.setQue fn q { x with head := (x.head + 1) % x.size }
        let s2 : State := { s1 with isth := { s1.isth with cmds := s1.isth.cmds ++ [c], nextCmd := id + 1 } }
        match bad with
        | some st => s2.endCmd c.name st 0 false
        | none => s2

/-! ### The order in which commands start (R426) -/

def cmdsOf (s : State) (fn q : Nat) : List Cmd := s.isth.cmds.filter fun c => c.fn == fn && c.q == q

/-- The oldest accepted command of a queue that has not started. -/
def waiting? (s : State) (fn q : Nat) : Option Cmd := (s.cmdsOf fn q).find? fun c => c.st == .accepted

-- DEDUCED, unsafe: log 63.
/-- It may start: earlier commands of its queue have completed where it asks for that, or names what they name. -/
def mayStart (s : State) (c : Cmd) : Bool :=
  (s.cmdsOf c.fn c.q).all fun d => !(decide (d.id < c.id) && d.live && (c.fence || d.clash c))

/-- What a started command does at once: the state, and its status and result where it ends now. -/
abbrev CmdEff := State × Option (Status × Nat)

end State

open State in
/-- A command of a code starts, where the oldest waiting command of the queue has that code and may start. -/
def runCmd (code fn q : Nat) (s : State) (f : State → Cmd → CmdEff) : Out :=
  .next (match s.waiting? fn q with
    | none => s
    | some c =>
      if c.opc ≠ code ∨ !s.isReady ∨ !s.mayStart c then s
      else
        let s1 : State := { s with isth := { s.isth with cmds := s.isth.cmds.map fun d => if d.name = c.name then { d with st := .running } else d } }
        match f s1 c with
        | (s2, some (st, r)) => s2.endCmd c.name st r false
        | (s2, none) => s2)

open State in
/-- A command that only a VF bound to a tenant has. -/
def runVf (code fn q : Nat) (s : State) (f : State → Cmd → Nat → CmdEff) : Out :=
  runCmd code fn q s fun s c => match s.boundTo fn with | some t => f s c t | none => (s, some (.noPermission, 0))

namespace State

/-- The command ends with a failure and no effect. -/
def fails (s : State) (st : Status) : CmdEff := (s, some (st, 0))

/-- The command ends with DONE and a result. -/
def ends (s : State) (r : Nat) : CmdEff := (s, some (.done, r))

/-- The command ends as an effect says. -/
def endsAs (s : State) (r : Except Status (Nat × State)) : CmdEff :=
  match r with | .ok (v, s1) => (s1, some (.done, v)) | .error e => (s, some (e, 0))

/-! ### Address arguments (R433, R434 row 5) -/

/-- A tenant address of an alignment. -/
def tenantForm (a align : Nat) : Bool := decide (a < 2 ^ 48) && a % align == 0

/-- A host address of an alignment. -/
def hostForm (a align : Nat) : Bool := bitAt a 63 && a % align == 0

/-- A tenant address whose page is mapped. -/
def tenantMapped (s : State) (t a align : Nat) : Bool := tenantForm a align && s.argMapped (some t) a

/-! ### Bounded commands (R474, R477, R479) -/

/-- The refusal result (R477). -/
def refusal (v : Verdict) (period : Nat) : Nat :=
  v.term % 2 ^ 8 + 2 ^ 8 * (v.quad % 2 ^ 8) + 2 ^ 16 * (v.unit % 2 ^ 16) + 2 ^ 32 * (period % 2 ^ 32)

/-- A term that no unit decides. -/
def plainTerm (n : Nat) : Verdict := ⟨n, 0xFF, 0, 0⟩

/-- The cap is enforced, unattainable, or the module is in its lowest state (R468, R474, R479). -/
def powerOut (s : State) : Bool := s.pow.enforcing || s.pow.lowest || decide (s.pow.cap < s.pow.floor)

/-- Rack time gives no guarantee: FREE or UNSYNC, or every path of a tenant's archipelago to its reference rack is lost (R468). -/
def timeOut (s : State) (t : Nat) : Bool :=
  s.net.time.sync == .unsync || s.net.time.sync == .free || (s.spanning (some t)).any fun a => (s.pathOf a).lost

/-- The failing term of the lowest code. -/
def worstTerm (l : List Verdict) : Option Verdict :=
  l.foldl (fun (acc : Option Verdict) v => match acc with
    | some w => if v.term < w.term then some v else acc
    | none => some v) none

-- DESIGN CHOICE, safe: log 65.
/-- Row 8: a bounded command that is refused, with its result. -/
def boundedRefusal (s : State) (c : Cmd) (t : Nat) (adm : Option Verdict) : Option Nat :=
  if !c.bounded then none
  else (worstTerm (adm.toList ++ (if s.powerOut then [plainTerm 8] else []) ++ (if s.timeOut t then [plainTerm 9] else []))).map
    fun v => refusal v 0

/-- A bounded command goes on where it is admitted. -/
def admitted (s : State) (c : Cmd) (t : Nat) (adm : Option Verdict) (f : CmdEff) : CmdEff :=
  match s.boundedRefusal c t adm with
  | some r => (s, some (.refusedAdmission, r))
  | none => f

/-! ### Posting (R425 to R427, R435) -/

/-- The ended command of a queue that ended first. -/
def firstEnded (s : State) (fn q : Nat) : Option (Cmd × Status × Nat × Bool × Nat) :=
  (s.cmdsOf fn q).foldl (fun (acc : Option (Cmd × Status × Nat × Bool × Nat)) c => match c.st with
    | .ended st r f n => match acc with
      | some (_, _, _, _, m) => if n < m then some (c, st, r, f, n) else acc
      | none => some (c, st, r, f, n)
    | _ => acc) none

/-- The completion of a queue's command that ended first is posted; one whose write is refused is not (R425). -/
def post_ (s : State) (fn q : Nat) : State :=
  match s.que? fn q, s.firstEnded fn q with
  | some x, some (c, st, r, f, _) =>
    if x.free = 0 then s
    else
      let e : Cpl := { status := st, tide := false, fault := f, mid := x.head, tag := c.tag, result := r, energy := c.energy }
      let s1 := (s.postCpl fn q e (!c.noIntr)).1
      ({ s1 with isth := { s1.isth with cmds := s1.isth.cmds.filter fun d => d.name != c.name } } : State).queueStopped fn q
  | _, _ => s

end State

/-! ### The rows -/

/-- COMMAND_FETCH (R424, R426, R434). -/
def execCommandFetch (fn q : Nat) (s : State) : Out := .next (s.fetch_ fn q)

/-- COMMAND_COMPLETION_POST (R427, R435). -/
def execCommandCompletionPost (fn q : Nat) (s : State) : Out := .next (if s.isReady ∧ s.mem.hostLinkUp then s.post_ fn q else s)

end Sys2Proof.Machine
end

