-- ==== Sys2Proof/Machine/Queues.lean ====
section
/-! DEFINITION. Commands of family 0x01: versions, capabilities, queues and the notice ring (R423, R425, R430, R431, R437, R439, R569). -/

namespace Sys2Proof.Machine

/-- A collective descriptor uses what ICI 1.4 added (R437). -/
def collIsNew (raw : Nat) : Bool := fld raw 32 4 == 6 || bitAt raw 38 || (fld raw 32 4 == 4 && fld raw 39 2 == 1)

/-- A stage uses what ICI 1.4 added: a ring, such a collective, or the window of an ATTEND (R437). -/
def stageIsNew (st : Stage) : Bool :=
  !st.rings.isEmpty || st.colls.any collIsNew || st.oplist.any fun e =>
    (fld e 0 16 == 0x0704 && collIsNew (e / 2 ^ 1024)) || (fld e 0 16 == 0x0601 && fld e 352 32 != 0)

namespace State

/-- The result of ICI_VERSION (R437, R439). -/
def versionResult (s : State) : Nat :=
  s.minors.2 % 256 + 2 ^ 8 + 2 ^ 16 * (s.minors.1 % 256) + 2 ^ 32 * 2 + 2 ^ 64 * (s.boot.release % 2 ^ 64)

-- DEDUCED, unsafe: log 61.
/-- Bytes 0x000 to 0x22F of the result of QUERY_CAPS (R569). -/
def capBytes (s : State) (fn : Nat) : List Nat :=
  let quota := match (s.boundTo fn).bind fun t => (s.tenant? t).map fun x => (t, x) with
    | some (t, x) => toBytes t 2 ++ toBytes x.vf 2 ++ toBytes 0 4 ++ toBytes x.quotas.tier1 4 ++ toBytes x.quotas.tier2 4 ++ toBytes x.quotas.tier3 4
        ++ toBytes x.quotas.descriptors 4 ++ toBytes x.quotas.pools 1 ++ toBytes 0 1 ++ toBytes x.quotas.windows 2 ++ toBytes 0 4
    | none => List.replicate 32 0
  ((List.range 4).flatMap fun k => toBytes (s.capWord k) 8) ++ List.replicate 224 0 ++ (List.range 272).map s.fmaxCode ++ quota

/-- A result buffer is written; where that fails part-way it is undefined (R359). -/
def putResult (s : State) (t : Option Nat) (a : Nat) (bs : List Nat) (r : Nat) : CmdEff :=
  match s.argWrite t a bs with
  | .ok s1 => (s1, some (.done, r))
  | .error e => (s.spoilRange t a bs.length, some (e, 0))

/-- A plan accepted on a queue needs ICI 1.4. -/
def planNeedsNew (s : State) (fn q : Nat) : Bool :=
  s.isth.works.any fun ((_, w) : Nat × Work) => w.kind == .plan && w.fn == fn && w.q == q && w.stages.any stageIsNew

/-- QUEUE_CREATE: a new queue, or a queue in ERROR set up anew. -/
def createQueue (s : State) (fn : Nat) (c : Cmd) : CmdEff :=
  let q := c.arg 32 1
  let cmdBase := c.arg 40 8
  let cplBase := c.arg 48 8
  let log2 := c.arg 38 1
  let minor := c.arg 39 1
  let new := Que.armed cmdBase cplBase log2 minor (c.arg 33 1) (c.arg 34 1 + 1) (c.arg 36 2)
  if !hostForm cmdBase 4096 || !hostForm cplBase 4096 || !s.argMapped none cmdBase || !s.argMapped none cplBase then s.fails .badAddress
  else if q < 1 ∨ 7 < q ∨ 7 < c.arg 33 1 ∨ 1023 < c.arg 36 2 ∨ log2 < 6 ∨ 16 < log2 then s.fails .badCommand
  else if minor < s.minors.1 ∨ s.minors.2 < minor then s.fails .version
  else match s.que? fn q with
    | none => ({ s.setQue fn q new with pow := { s.pow with eQueue := s.pow.eQueue.del (queKey fn q) } }, some (.done, 0))
    | some x =>
      if !x.err || x.stopFetch then s.fails .limit
      else if minor < 4 ∧ s.planNeedsNew fn q then s.fails .version
      else (s.setQue fn q new).ends 0

/-- QUEUE_DELETE: it ends once the queue has stopped (R430). -/
def deleteQueue (s : State) (fn : Nat) (c : Cmd) : CmdEff :=
  let q := c.arg 32 1
  if q = 0 ∨ 7 < q ∨ q = c.q then s.fails .badCommand
  else match s.que? fn q with
    | none => s.fails .limit
    | some x => if x.stopFetch ∨ s.planOn fn q then s.fails .limit else (s.stopQueue fn q, none)

/-- NOTICE_RING_SET (R431). -/
def setNoticeRing (s : State) (fn : Nat) (c : Cmd) : CmdEff :=
  let a := c.arg 40 8
  let log2 := c.arg 32 1
  if !hostForm a 4096 || !s.argMapped none a then s.fails .badAddress
  else if log2 < 6 ∨ 12 < log2 ∨ 7 < c.arg 33 1 then s.fails .badCommand
  else ({ s with isth := { s.isth with rings := s.isth.rings.set fn ⟨a % 2 ^ 63, log2, c.arg 33 1, 0, 0⟩ } } : State).ends 0

end State

/-! ### The rows -/

/-- ICI_VERSION (R437). -/
def execIciVersion (fn q : Nat) (s : State) : Out := runCmd 0x0101 fn q s fun s _ => s.ends s.versionResult

/-- QUERY_CAPS (R569). -/
def execQueryCaps (fn q : Nat) (s : State) : Out :=
  runCmd 0x0102 fn q s fun s c =>
    if s.argMapped (s.boundTo fn) (c.arg 32 8) then s.putResult (s.boundTo fn) (c.arg 32 8) (s.capBytes fn) 0x230 else s.fails .badAddress

/-- QUEUE_CREATE (R423, R425, R429, R437). -/
def execQueueCreate (fn q : Nat) (s : State) : Out := runCmd 0x0103 fn q s fun s c => s.createQueue fn c

/-- QUEUE_DELETE (R430). -/
def execQueueDelete (fn q : Nat) (s : State) : Out := runCmd 0x0104 fn q s fun s c => s.deleteQueue fn c

/-- NOTICE_RING_SET (R431). -/
def execNoticeRingSet (fn q : Nat) (s : State) : Out := runCmd 0x0105 fn q s fun s c => s.setNoticeRing fn c

end Sys2Proof.Machine
end

