-- ==== Sys2Proof/Machine/Pages.lean ====
section
/-! DEFINITION. Commands of families 0x02 and 0x03: regions, copies, migration, models and lagoons (R80, R85, R330, R331, R350, R351, R359,
R434, R439, R460, R461). -/

namespace Sys2Proof.Machine

namespace State

-- DEDUCED, unsafe: log 36.
/-- A change of a tenant's translation, at once or at its commit point; a failure that no earlier change can mend ends it now (R461). -/
def atCommit (s : State) (c : Cmd) (t : Nat) (op : CommitOp) : CmdEff :=
  let wait : CmdEff := ({ s with kv := { s.kv with commits := s.kv.commits ++ [⟨t, op, c.name, c.since⟩] } }, none)
  let now := s.commitEffect t op 0
  if !s.hasPlan t then s.endsAs now
  else match now with
    | .error e => if e = .limit then wait else s.fails e
    | .ok _ => wait

/-- REGION_ALLOC (R330, R460). -/
def allocCmd (s : State) (c : Cmd) (t : Nat) : CmdEff :=
  let tier := c.arg 32 1
  if !tenantForm (c.arg 40 8) regionSize then s.fails .badAddress
  else if tier < 1 ∨ 3 < tier ∨ c.arg 36 4 = 0 then s.fails .badCommand
  else s.atCommit c t (.alloc tier (c.arg 36 4) (c.arg 40 8))

/-- REGION_FREE (R460). -/
def freeCmd (s : State) (c : Cmd) (t : Nat) : CmdEff :=
  if !s.tenantMapped t (c.arg 40 8) regionSize then s.fails .badAddress
  else if c.arg 36 4 = 0 then s.fails .badCommand
  else s.atCommit c t (.free (c.arg 36 4) (c.arg 40 8))

/-- REGION_MAP: second mappings of own pages, or DPA regions given to a tenant by PF0 (R460). -/
def mapCmd (s : State) (fn : Nat) (c : Cmd) : CmdEff :=
  let src := c.arg 40 8
  let tgt := c.arg 48 8
  let pages := c.arg 36 4
  let mode := c.arg 33 1
  if !tenantForm tgt regionSize then s.fails .badAddress
  else if mode = 1 then
    let t := c.arg 34 2
    if 2 ^ 44 ≤ src ∨ src % regionSize ≠ 0 then s.fails .badAddress
    else if c.arg 32 1 ≠ 0 ∨ (s.tenant? t).isNone ∨ pages = 0 then s.fails .badCommand
    else s.atCommit c t (.mapDpa pages src tgt)
  else match s.boundTo fn with
    | none => s.fails .noPermission
    | some t =>
      if mode ≠ 0 then s.fails .badCommand
      else if !s.tenantMapped t src regionSize then s.fails .badAddress
      else if c.arg 34 2 ≠ 0 ∨ pages = 0 then s.fails .badCommand
      else s.atCommit c t (.mapPages (bitAt c.raw 256) pages src tgt)

/-- COPY (R359, R439). -/
def copyCmd (s : State) (c : Cmd) (t : Nat) (adm : Option Verdict) : CmdEff :=
  if !s.argMapped (some t) (c.arg 40 8) || !s.argMapped (some t) (c.arg 48 8) then s.fails .badAddress
  else if c.arg 56 8 % 32 ≠ 0 then s.fails .badCommand
  else s.admitted c t adm (match s.copyOp t (c.arg 40 8) (c.arg 48 8) (c.arg 56 8) with | (s1, st) => (s1, some (st, 0)))

/-- The page that a page's contents belong to: itself, or the page it is a second mapping of. -/
def rootPage (s : State) (t page : Nat) : Nat := (((s.tenant? t).bind fun x => x.table.get? page).bind (·.aliasOf)).getD page

/-- Destinations of a move are taken, page by page (R350, R351). -/
def beginMoves (s : State) (t tier : Nat) (cmd : CmdId) (since : Nat) : List Nat → Option State
  | [] => some s
  | page :: rest =>
    match (s.tenant? t).bind fun x => x.table.get? page with
    | none => none
    | some e =>
      match s.mem.takePlace tier t s.free with
      | none => none
      | some (dst, m) =>
        beginMoves (({ s with
          free := s.free + 1, mem := { m with moves := m.moves ++ [⟨t, page, e.tier, e.target, tier, dst, 0, some cmd, none, since⟩] } } : State).modPage
            t page fun e => { e with mig := true }) t tier cmd since rest

/-- Bytes that the pages of a range store in tiers 2 and 3 (R351). -/
def storedIn (s : State) (t a pages : Nat) : Nat :=
  match s.tenant? t with
  | some x => (((List.range pages).filterMap fun i => x.table.get? (a / regionSize + i)).map fun e => s.mem.storedBytes e.tier e.target).sum
  | none => 0

-- DEDUCED, unsafe: log 67.
/-- MIGRATE: every page that is not in the tier begins to move; none does where one cannot (R350, R351, R454). -/
def migrateCmd (s : State) (c : Cmd) (t : Nat) (adm : Option Verdict) : CmdEff :=
  let tier := c.arg 32 1
  let a := c.arg 40 8
  let pages := c.arg 36 4
  if !s.tenantMapped t a regionSize then s.fails .badAddress
  else if tier < 1 ∨ 3 < tier ∨ pages = 0 then s.fails .badCommand
  else match s.tenant? t, pageRange a pages with
    | some x, some ps =>
      if ps.any fun i => (x.table.get? i).isNone then s.fails .badAddress
      else
        let roots := (ps.map fun i => s.rootPage t i).eraseDups.filter fun i => (x.table.get? i).any fun e => e.tier != tier
        if roots.any fun i => (x.table.get? i).any (·.mig) then s.fails .limit
        else if quotaOf x.quotas tier < s.pagesIn t tier + roots.length then s.fails .limit
        else s.admitted c t adm (
          if roots.isEmpty then s.ends (2 ^ 64 * s.storedIn t a pages)
          else match s.wakeCodec.beginMoves t tier c.name c.since roots with
            | some s1 => (s1, none)
            | none => s.fails .limit)
    | _, _ => s.fails .badAddress

/-! ### Models (R439, R460) -/

-- DEDUCED, unsafe: log 68.
/-- MODEL_LOAD: the bytes are copied, then the destination is locked. -/
def loadModel (s : State) (c : Cmd) (t : Nat) : CmdEff :=
  let src := c.arg 40 8
  let dst := c.arg 48 8
  let n := c.arg 56 8
  if !s.argMapped (some t) src || !s.tenantMapped t dst 1 then s.fails .badAddress
  else if n = 0 then s.fails .badCommand
  else if !s.inTier1 t dst n then s.fails .badAddress
  else match s.copyOp t src dst n with
    | (s1, st) => if st.isDone then
        (match s1.atCommit c t (.lock dst n) with
          | (s2, some (.done, r)) => (s2, some (st, r))
          | e => e)
      else (s1, some (st, 0))

/-- MODEL_FREE: the pages are unlocked. -/
def freeModel (s : State) (c : Cmd) (t : Nat) : CmdEff := s.atCommit c t (.unlock (c.arg 32 4))

/-! ### Lagoons (R80, R85, R87, R439) -/

/-- The lagoon of a holm: at once where the holm is idle, else when it next starts. -/
def stageLagoon (s : State) (lg l img : Nat) : State :=
  match s.physOf? lg with
  | none => s
  | some p => s.modHolm p fun h =>
      let g : Option (Nat × Nat) := some (l, if l = 0 then 0 else img + 1)
      if h.inv.isNone then
        { ({ h with staged := { Staged.none with lagoon := g } } : Holm).takeStaged with staged := { h.staged with lagoon := none } }
      else { h with staged := { h.staged with lagoon := g } }

-- DEDUCED, unsafe: log 69.
/-- LAGOON_SET: every holm of the range is the tenant's, and no started plan uses one. -/
def setLagoons (s : State) (c : Cmd) (t : Nat) : CmdEff :=
  let l := c.arg 32 1
  let first := c.arg 34 2
  let count := c.arg 36 2
  let img := c.arg 40 8
  let stride := c.arg 48 8
  let lgs := (List.range (min count 256)).map (first + ·)
  if l ≠ 0 ∧ !s.tenantMapped t img 1 then s.fails .badAddress
  else if 15 < l ∨ count = 0 ∨ 256 < first + count then s.fails .badCommand
  else if lgs.any fun lg => s.tenantOfLg lg != some t then s.fails .noPermission
  else if l ≠ 0 ∧ lgs.zipIdx.any fun (_, i) => !tenantForm (img + i * stride) 1 || !s.inTier1 t (img + i * stride) (262144 * l) then s.fails .badAddress
  else if lgs.any s.holmPlanned then s.fails .limit
  else (lgs.zipIdx.foldl (fun (s : State) (lg, i) => s.stageLagoon lg l (img + i * stride)) s).ends 0

end State

/-! ### The rows -/

/-- REGION_ALLOC (R330, R460). -/
def execRegionAlloc (fn q : Nat) (s : State) : Out := runVf 0x0201 fn q s fun s c t => s.allocCmd c t

/-- REGION_FREE (R460). -/
def execRegionFree (fn q : Nat) (s : State) : Out := runVf 0x0202 fn q s fun s c t => s.freeCmd c t

/-- REGION_MAP (R460). -/
def execRegionMap (fn q : Nat) (s : State) : Out := runCmd 0x0203 fn q s fun s c => s.mapCmd fn c

/-- COPY (R359). -/
def execCopy (fn q : Nat) (adm : Option Verdict) (s : State) : Out := runVf 0x0204 fn q s fun s c t => s.copyCmd c t adm

/-- MIGRATE (R350, R351). -/
def execMigrate (fn q : Nat) (adm : Option Verdict) (s : State) : Out := runVf 0x0205 fn q s fun s c t => s.migrateCmd c t adm

/-- MODEL_LOAD (R460). -/
def execModelLoad (fn q : Nat) (s : State) : Out := runVf 0x0301 fn q s fun s c t => s.loadModel c t

/-- LAGOON_SET (R85). -/
def execLagoonSet (fn q : Nat) (s : State) : Out := runVf 0x0302 fn q s fun s c t => s.setLagoons c t

/-- MODEL_FREE (R460). -/
def execModelFree (fn q : Nat) (s : State) : Out := runVf 0x0303 fn q s fun s c t => s.freeModel c t

end Sys2Proof.Machine
end

