-- ==== Sys2Proof/Machine/Seqs.lean ====
section
/-! DEFINITION. Commands of family 0x04: pools, sequences and SEQ_APPEND (R238 to R246, R255 to R264, R434, R439, R596). -/

namespace Sys2Proof.Machine

namespace State

/-- Every page of a range is mapped. -/
def rangeMapped (s : State) (t a n : Nat) : Bool :=
  decide (a + n ≤ 2 ^ 48) && match s.tenant? t with
    | some x => (List.range ((a % regionSize + n + regionSize - 1) / regionSize)).all fun i => (x.table.get? (a / regionSize + i)).isSome
    | none => false

/-- POOL_CREATE (R238, R239, R596). -/
def createPool (s : State) (c : Cmd) (t : Nat) : CmdEff :=
  let region := c.arg 48 8
  let arena := c.arg 56 8
  if !s.tenantMapped t region 4096 || !s.tenantMapped t arena 4096 then s.fails .badAddress
  else
    let cap := c.arg 40 4
    let blocks := c.arg 44 4
    match EFmt.ofCode? (c.arg 36 1), EFmt.ofCode? (c.arg 37 1), s.kvCtx t with
    | some kf, some vf, some x =>
      let q : Pool := { tenant := t, p := 2 ^ min (c.arg 33 1) 16, h := c.arg 34 1, d := 16 * c.arg 35 1, kf := kf, vf := vf
                        layers := c.arg 38 1, cap := cap, sums := bitAt c.raw 312, region := region, arena := arena, blocks := blocks
                        freePages := [(0, cap - 1)], freeBlocks := [(0, blocks - 1)], refs := [], sumOne := [], waiting := [], taint := [] }
      match x.poolCreate (c.arg 32 1) q (s.rangeMapped t) with
      | .ok y => (s.putKv y).ends 0
      | .error e => s.fails e
    | _, _, _ => s.fails .badCommand

/-- A sequence command: now, or at the commit point of the tenant's started plans (R261). -/
def seqCmd (s : State) (c : Cmd) (t : Nat) (buf : Option Nat) (op : SeqOp) : CmdEff :=
  if buf.any fun a => !s.argMapped (some t) a then s.fails .badAddress
  else s.atCommit c t (.seq op)

-- DEDUCED, unsafe: log 38.
/-- SEQ_FORK: F is measured against the committed length before a pending record commits (R262). -/
def forkCmd (s : State) (c : Cmd) (t : Nat) : CmdEff :=
  if !s.argMapped (some t) (c.arg 40 8) then s.fails .badAddress
  else match s.kv.validDesc t (c.arg 32 4) with
    | some (_, d) => if d.len < c.arg 36 4 then s.fails .limit else s.seqCmd c t (some (c.arg 40 8)) (.fork (c.arg 32 4) (c.arg 36 4) (c.arg 40 8))
    | none => s.fails .badAddress

/-- The rows of a SEQ_APPEND for one layer and head: K rows, then V rows, each padded to whole lines (R439). -/
def appendRows (q : Pool) (r : Nat) (bs : List Nat) (y h : Nat) : AppendRows :=
  let at_ := (y * q.h + h) * (r * 32 * (q.rk + q.rv))
  let row (base lines n i : Nat) : List Nat := (bs.drop (base + 32 * lines * i)).take n
  ⟨y, h, (List.range r).map (row at_ q.rk (q.d * q.wk)), (List.range r).map (row (at_ + r * 32 * q.rk) q.rv (q.d * q.wv))⟩

/-- The new committed length as the result gives it (R439). -/
def lengthWord (n : Nat) : Nat := n % 2 ^ 26 + (if n = 2 ^ 26 then 2 ^ 31 else 0)

-- DEDUCED, unsafe: log 70.
/-- SEQ_APPEND: all layers and heads of R tokens, committed at its completion (R255, R256, R259). -/
def appendCmd (s : State) (c : Cmd) (t : Nat) (adm : Option Verdict) : CmdEff :=
  let handle := c.arg 32 4
  let r := c.arg 36 2
  let a := c.arg 38 2
  let src := c.arg 40 8
  if !s.argMapped (some t) src then s.fails .badAddress
  else if r = 0 then s.fails .badCommand
  else match s.kvCtx t with
    | none => s.fails .badAddress
    | some x => match x.kv.validDesc t handle with
      | none => s.fails .badAddress
      | some (idx, d) => match x.kv.pools.get? d.pool with
        | none => s.fails .badAddress
        | some q => s.admitted c t adm (
          let n := q.layers * q.h * r * 32 * (q.rk + q.rv)
          match s.argRead (some t) src n with
          | .error e => s.fails e
          | .ok bs =>
            let pairs := (List.range q.layers).flatMap fun y => (List.range q.h).map fun h => (y, h)
            let unit := 2 ^ 40 + c.id
            match x.append unit handle a r (pairs.map fun (y, h) => appendRows q r bs y h) with
            | .error e => s.fails e
            | .ok x1 =>
              let x2 := x1.commitUnit unit true
              if (x2.unitRecs unit).isEmpty then
                (s.putKv x2, some (s.doneOr t ((src, n) :: x1.rowSpans unit handle a r pairs),
                  lengthWord ((x2.kv.descs.get? idx).elim 0 (·.len))))
              else s.fails .badAddress)

-- DEDUCED, unsafe: log 71.
/-- POOL_FREE (R439, R440). -/
def freePool (s : State) (c : Cmd) (t : Nat) : CmdEff :=
  let n := c.arg 32 1
  match (s.kv.pools.get? n).filter fun q => q.tenant == t with
  | none => s.fails .noPermission
  | some _ =>
    if s.kv.descs.any fun (_, d) => d.pool == n then s.fails .limit
    else ({ s with kv := { s.kv with pools := s.kv.pools.del n } } : State).ends 0

end State

/-! ### The rows -/

/-- POOL_CREATE (R238, R596). -/
def execPoolCreate (fn q : Nat) (s : State) : Out := runVf 0x0401 fn q s fun s c t => s.createPool c t

/-- SEQ_CREATE (R241, R242, R245, R261). -/
def execSeqCreate (fn q : Nat) (s : State) : Out :=
  runVf 0x0402 fn q s fun s c t => s.seqCmd c t (some (c.arg 40 8))
    (.create (c.arg 32 1) (c.arg 36 4) (c.arg 48 4) (c.arg 52 4) (c.arg 56 4) (bitAt c.raw 264) (c.arg 40 8))

/-- SEQ_FORK (R262). -/
def execSeqFork (fn q : Nat) (s : State) : Out := runVf 0x0403 fn q s fun s c t => s.forkCmd c t

/-- SEQ_APPEND (R255, R256, R259). -/
def execSeqAppend (fn q : Nat) (adm : Option Verdict) (s : State) : Out := runVf 0x0404 fn q s fun s c t => s.appendCmd c t adm

/-- SEQ_TRUNCATE (R263). -/
def execSeqTruncate (fn q : Nat) (s : State) : Out :=
  runVf 0x0405 fn q s fun s c t => s.seqCmd c t (some (c.arg 40 8)) (.truncate (c.arg 32 4) (c.arg 36 4) (c.arg 40 8))

/-- SEQ_FREE (R264). -/
def execSeqFree (fn q : Nat) (s : State) : Out := runVf 0x0406 fn q s fun s c t => s.seqCmd c t none (.free (c.arg 32 4))

/-- POOL_FREE (R439). -/
def execPoolFree (fn q : Nat) (s : State) : Out := runVf 0x0407 fn q s fun s c t => s.freePool c t

end Sys2Proof.Machine
end

