-- ==== Sys2Proof/Machine/Images.lean ====
section
/-! DEFINITION. What images and descriptors hold and when they are refused: programs, prickings, wheels, exposure tables, barriers,
rings, collectives and operation lists (R3, R74, R75, R88, R104, R150 to R152, R213 to R218, R223, R276 to R278, R298, R299, R304,
R403, R404, R410 to R418, R443 to R445). -/

namespace Sys2Proof.Machine

/-! ### Program images (R298, R299, R304) -/

/-- A matrix shape entry: extents, formats and the fields its formats do not use (R104, R114, R120 to R125, R305). -/
def matrixShapeOk (sh : Nat) : Bool :=
  match EFmt.ofCode? (fld sh 147 4), EFmt.ofCode? (fld sh 151 4), EFmt.ofCode? (fld sh 155 4) with
  | some fa, some fb, some fc => match mclass fa fb with
    | none => false
    | some cl =>
      let scaled := bitAt sh 192
      let okC : Bool := match fc with | .int8 => false | .int32 => cl == .integer && !scaled | _ => true
      okC && !bitAt sh 253 && decide (fld sh 116 8 ≤ 128) && decide (fld sh 124 9 ≤ 256) && decide (fld sh 133 14 ≤ 8192)
        && (fa.isMx || (fld sh 68 16 == 0 && fld sh 193 20 == 0)) && (fb.isMx || (fld sh 84 16 == 0 && fld sh 213 20 == 0))
        && (fc.isMx || (fld sh 100 16 == 0 && fld sh 233 20 == 0)) && (scaled || fld sh 160 32 == 0)
  | _, _, _ => false

/-- The destination strides of a matrix entry that no instruction names, which no instruction's own check looks at (R121). -/
def matrixStrideOk (sh : Nat) : Bool :=
  match EFmt.ofCode? (fld sh 155 4) with
  | none => false
  | some fc => decide (fld sh 116 8 ≤ 1) || (decide (fc.rowBytes (fld sh 124 9) ≤ 32 * fld sh 34 17)
      && (!fc.isMx || decide (fc.scaleBytes (fld sh 124 9) ≤ 4 * fld sh 100 16)))

/-- An element shape entry (R303, R310). -/
def elementShapeOk (sh : Nat) : Bool :=
  decide (fld sh 51 8 ≤ 128) && decide (fld sh 59 10 ≤ 512) && fld sh 85 11 == 0 && fld sh 128 126 == 0
    && [69, 73, 77].all fun o => decide (fld sh o 4 < 12)

def elementStrideOk (sh : Nat) : Bool :=
  match EFmt.ofCode? (fld sh 77 4) with
  | none => false
  | some f => strideOk (fld sh 51 8) (8 * fld sh 34 17) (f.rowBytes (fld sh 59 10))

/-- The shape entry that an instruction names, and the kind of entry. -/
def shapeUse (w : Nat) : Option (Nat × Nat) :=
  match fld w 0 8 with
  | 0x10 => some (fld w 8 6, 1)
  | 0x20 => some (fld w 8 6, 2)
  | 0x21 => some (fld w 8 6, 2)
  | 0x28 => some (fld w 8 6, 2)
  | _ => none

/-- A shape entry satisfies R304, the fields that its users do not need included. -/
def shapeOk (words : List Nat) (i sh : Nat) : Bool :=
  let users := words.filter fun w => (shapeUse w).any fun u => u.1 == i
  match fld sh 254 2 with
  | 0 => sh == 0
  | 1 => matrixShapeOk sh && (!users.isEmpty || matrixStrideOk sh)
      && (users.isEmpty || (users.any fun w => bitAt w 14) || fld sh 51 17 == 0)
  | 2 =>
    let ops := users.map fun w => fld w 0 8
    let vops := users.filter fun w => fld w 0 8 == 0x20
    elementShapeOk sh && (!users.isEmpty || elementStrideOk sh)
      && (users.isEmpty || ops.contains 0x28 || (fld sh 82 3 == 0 && fld sh 96 32 == 0))
      && (users.isEmpty || ops.contains 0x20 || (fld sh 17 17 == 0 && fld sh 73 4 == 0))
      && (users.isEmpty || vops.length != users.length || (vops.any fun w => fld w 14 6 != 1)
          || (fld sh 0 17 == 0 && fld sh 69 4 == 0))
  | _ => false

/-- A program image: header, shape entries, instructions (R298). -/
def loadProgram (native : Bool) (bs : List Nat) : Except Status Program :=
  let h := ofBytes (bs.take 64)
  let count := fld h 16 13
  let nsh := fld h 32 7
  if fld h 0 16 ≠ genCode then .error .version
  else if bs.length < 64 ∨ fld h 29 3 ≠ 0 ∨ fld h 40 472 ≠ 0 ∨ count = 0 ∨ 4096 < count ∨ 64 < nsh
      ∨ bs.length ≠ 64 + 32 * nsh + 16 * count ∨ (bitAt h 39 ∧ !native) then .error .badCommand
  else
    let shapes := (chunks 32 ((bs.drop 64).take (32 * nsh))).map ofBytes
    let words := (chunks 16 (bs.drop (64 + 32 * nsh))).map ofBytes
    if shapes.zipIdx.any fun (sh, i) => !shapeOk words i sh then .error .badCommand
    else .ok ⟨words.map (BitVec.ofNat 128), shapes.map (BitVec.ofNat 256), bitAt h 39⟩

-- DEDUCED, unsafe: log 73.
/-- The first load check that an instruction of the program fails (R124, R299). -/
def programErr (c : LookCtx) : Option Status :=
  (c.prog.words.zipIdx.map fun (w, pc) => loadWord c pc w.toNat).findSome? fun r => match r with | .error e => some e | .ok _ => none

/-- A WAIT with a constant barrier on a free or ready barrier of a ring (R278). -/
def waitsOn (p : Program) (bars : List Nat) : Bool :=
  p.words.any fun w => fld w.toNat 0 8 == 8 && fld w.toNat 8 2 != 0 && fld w.toNat 16 5 == 0 && bars.contains (fld w.toNat 10 6)

/-! ### Prickings (R213 to R218) -/

/-- One pricking instruction: its reserved bits and ranges, in a pricking of a direction, at an index. -/
def prickOk (out : Bool) (i w : Nat) : Bool :=
  let zero (keep : Nat) : Bool := w ||| keep == keep
  let m (lo n : Nat) : Nat := 2 ^ lo * (2 ^ n - 1)
  let op := m 60 4
  match fld w 60 4 with
  | 0 => w == 0
  | 1 => zero (op + m 44 16) && decide (fld w 46 2 < 2)
  | 2 => zero (op + m 58 2 + m 0 40)
  | 3 => zero (op + m 58 2 + m 0 48)
  | 4 => zero (op + m 57 3 + m 32 2 + m 0 32) && (if bitAt w 57 then fld w 0 32 == 0 else fld w 32 2 == 0 && fld w 0 32 != 0)
  | 5 => zero (op + m 58 2 + m 48 5) && decide (fld w 48 5 < i)
  | 6 => zero op
  | 7 => zero (op + m 34 26) && decide (1 ≤ fld w 45 9 ∧ fld w 45 9 ≤ 256) && !out
  | _ => false

/-- Loop bodies nest, and set or count no counter of their own loop (R218). -/
def loopsOk (ws : List Nat) : Bool :=
  let loops := (ws.zipIdx.filter fun (w, _) => fld w 60 4 == 5).map fun (w, i) => (fld w 48 5, i, fld w 58 2)
  loops.all fun (a, b, c) =>
    (loops.all fun (x, y, _) => !(decide (a < x ∧ x ≤ b ∧ b < y)))
      && ((ws.drop a).take (b - a)).all fun w => !((fld w 60 4 == 4 || fld w 60 4 == 5) && fld w 58 2 == c)

/-- A pricking image: its slot and contents, or the refusal (R213, R218). -/
def loadPricking (bs : List Nat) : Except Status (Nat × Pricking) :=
  let h := ofBytes (bs.take 64)
  let n := fld h 32 6
  let ws := (chunks 8 (bs.drop 64)).map ofBytes
  let used := ws.take n
  if fld h 0 16 ≠ genCode then .error .version
  else if bs.length ≠ 320 ∨ fld h 21 3 ≠ 0 ∨ fld h 25 7 ≠ 0 ∨ fld h 38 474 ≠ 0 ∨ n = 0 ∨ 32 < n then .error .badCommand
  else if (ws.drop n).any (· != 0) ∨ used.getLast? ≠ some 0 ∨ !loopsOk used
      ∨ used.zipIdx.any fun (w, i) => !prickOk (bitAt h 24) i w then .error .badCommand
  else .ok (fld h 16 5, ⟨bitAt h 24, used.map (BitVec.ofNat 64)⟩)

/-! ### Wheels, exposure tables, barriers (R74, R75, R88, R445) -/

/-- The class codes of a custom wheel's entries. -/
def wheelEntries (e : Nat) : List Nat := (List.range 64).map fun k => fld e (4 * k) 4

/-- R75's conditions on a custom wheel. -/
def wheelOk (e : Nat) : Bool :=
  let l := wheelEntries e
  let nr := (l.zipIdx.filter fun (c, _) => c == 0xA).map (·.2)
  (l.all fun c => decide (c < 12) || c == 15) && l.contains 0xB
    && (match nr with | [a, b] => a % 16 == b % 16 && b / 16 == a / 16 + 2 | _ => false)

def loadWheel (bs : List Nat) : Except Status Wheel :=
  let d := ofBytes bs
  let p := fld d 256 3
  let e := fld d 0 256
  if bs.length ≠ 48 ∨ fld d 259 125 ≠ 0 ∨ 4 ≤ p ∨ (p ≠ 0 ∧ e ≠ 0) ∨ (p = 0 ∧ !wheelOk e) then .error .badCommand else .ok ⟨p, e⟩

-- DEDUCED, unsafe: log 73.
/-- Classes of the engines that an instruction issues to, and of the channel that it starts (R71, R75, R300). -/
def classesOf (w : Nat) : List Nat :=
  match fld w 0 8 with
  | 0x0A => if bitAt w 8 then [5] else [3]
  | 0x10 => [0, 1, 2]
  | 0x11 => [0, 1, 2]
  | 0x18 => [0, 1, 2, 3, 4, 5, 6]
  | 0x19 => [3, 4, 5, 6]
  | 0x1A => [0, 1, 2, 3, 4, 5, 6]
  | 0x20 => [3, 4, 5]
  | 0x21 => [3, 4, 5]
  | 0x28 => [6]
  | 0x30 => if fld w 8 3 = 0 then (if 4 ≤ fld w 11 3 then [9] else if fld w 11 3 < 2 then [7] else [8]) else []
  | 0x31 => [9]
  | _ => []

-- DEDUCED, unsafe: log 74.
/-- The wheel gives every class that the program uses; every preset that a stage may name gives all of them (R75, R76). -/
def wheelServes (wh : Wheel) (p : Program) : Bool :=
  wh.preset != 0 || p.words.all fun w => (classesOf w.toNat).all fun c => (wheelEntries wh.entries).contains c

/-- An exposure table (R88). -/
def loadExposure (bs : List Nat) : Except Status (List Exposure) :=
  let es := ((chunks 8 bs).map ofBytes).filter (· != 0)
  let one (e : Nat) : Exposure := ⟨fld e 0 17, fld e 24 17, fld e 48 2⟩
  let ok (e : Nat) : Bool := bitAt e 50 && fld e 17 7 == 0 && fld e 41 7 == 0 && fld e 51 13 == 0 && fld e 48 2 != 3
    && decide (fld e 0 17 ≤ fld e 24 17)
  let apart := es.zipIdx.all fun (a, i) => es.zipIdx.all fun (b, j) =>
    i == j || decide (fld a 24 17 < fld b 0 17) || decide (fld b 24 17 < fld a 0 17)
  if bs.length ≠ 128 ∨ !es.all ok ∨ !apart then .error .badCommand else .ok (es.map one)

/-- Declared barriers: number, rank and participants (R225, R445). -/
def loadBarriers (bs : List Nat) : Except Status (List (Nat × Nat × Nat)) :=
  let es := (chunks 2 bs).map ofBytes
  if bs.length ≠ 128 ∨ es.any fun e => fld e 13 3 != 0 then .error .badCommand
  else .ok ((es.zipIdx.filter fun (e, _) => bitAt e 12).map fun (e, b) => (b, fld e 0 4, fld e 4 8 + 1))

/-! ### Sections (R445) -/

/-- A section: type, stage, reserved bits, body. -/
structure Section where
  ty : Nat
  stage : Nat
  rsv : Nat
  body : List Nat
  deriving DecidableEq, Repr

/-- Sections from an offset: a number of them, or all to the end; and whether they are whole. -/
def sectionsAt (bs : List Nat) (toEnd : Bool) : Nat → Nat → List Section × Bool
  | 0, _ => ([], true)
  | n + 1, off =>
    if toEnd ∧ bs.length ≤ off then ([], true)
    else if bs.length < off + 16 then ([], false)
    else
      let h := ofBytes ((bs.drop off).take 16)
      let len := fld h 32 32
      let body := (bs.drop (off + 16)).take len
      if body.length < len then ([⟨fld h 0 8, fld h 8 8, fld h 16 16 + fld h 64 64, body⟩], false)
      else match sectionsAt bs toEnd n ((off + 16 + len + 31) / 32 * 32) with
        | (rest, ok) => (⟨fld h 0 8, fld h 8 8, fld h 16 16 + fld h 64 64, body⟩ :: rest, ok)

/-- A native payload of another generation (R3, R298, R434 row 6). -/
def Section.foreign (x : Section) : Bool := (x.ty == 1 || x.ty == 2 || x.ty == 3) && decide (2 ≤ x.body.length) && ofBytes (x.body.take 2) != genCode

/-- How many sections of a type a stage may have: exactly-one and at-most-one rules aside from PROGRAM and OPLIST (R445). -/
def sectionMost (ty : Nat) : Nat :=
  match ty with
  | 2 => 40
  | 3 => 32
  | 7 => 64
  | 8 => 4095
  | _ => 1

/-! ### Rings (R276 to R278) -/

namespace State

/-- Ports of a mask lie in one torus direction, or are one outer port (R278). -/
def oneWay (ps : List Nat) : Bool :=
  let way (i : Nat) : Nat := if i < 30 then i / 5 else i
  !ps.isEmpty && decide (ps.length ≤ 5) && ps.all fun i => ps.all fun j => way i == way j

/-- A ring's fields by themselves (R277, R278). -/
def ringFieldsOk (r : Ring) : Bool :=
  let z (lo n : Nat) : Bool := fld r.raw lo n == 0
  z 29 3 && z 87 1 && z 94 2 && z 100 4 && z 110 2 && z 215 1 && z 235 1 && z 252 4 && z 339 13 && z 624 400
    && decide (2 ≤ r.n ∧ r.n ≤ 256 ∧ r.rank < r.n ∧ 2 ≤ r.slots ∧ r.slots ≤ 4 ∧ 1 ≤ r.blocks ∧ 1 ≤ r.blockLines ∧ 1 ≤ r.rounds)
    && decide (r.freeBar + r.slots ≤ 64)
    && (if r.mem then r.slotBase % 4096 == 0 else r.slotBase % 8 == 0 && decide (r.slotBase < 2 ^ 20))
    && (if r.orig then fld r.raw 256 66 == 0 && fld r.raw 330 9 == 0
        else z 104 6 && r.token0 % 16 == 0 && decide (1 ≤ r.tokens ∧ r.tokens ≤ 256))
    && (if r.bwd then decide (r.accLines ≤ r.blockLines) && r.retBase % 32 == 0 && r.orig && r.ndest == 1 else z 216 19 && z 576 48)
    && (List.range (16 - r.ndest)).all fun i => r.dest (r.ndest + i) == 0

/-- Two rings are a bidirectional pair (R282). -/
def ringPair (a b : Ring) : Bool :=
  a.n == b.n && a.rank == b.rank && a.dests == b.dests && a.blocks == b.blocks && a.dir != b.dir && a.quad == b.quad

-- DEDUCED, unsafe: log 82.
/-- The first check of R278 that a ring of a stage fails; `all` are the rings of the image's stages. -/
def ringErr (s : State) (t arch : Nat) (bars : List (Nat × Nat × Nat)) (all : List Ring) (r : Ring) : Option Status :=
  let bar (b n : Nat) : Bool := bars.any fun (x, rank, k) => x == b && rank == 0 && k == n
  let pool := ((s.kv.validDesc t r.handle).bind fun (_, d) => s.kv.pools.get? d.pool)
  let shares := all.filter fun x => x.part == r.part && x.dests.any r.dests.contains
  let sameReady := all.filter fun x => x.part == r.part && x.orig && r.orig && x.readyBar == r.readyBar
  let size := ((s.ten.parts.get? r.part).map fun p => p.holms.length).getD 0
  let lastLine := r.slotBase / 8 + (r.slots - 1) * r.slotStride + r.blockLines
  if !ringFieldsOk r ∨ !oneWay r.ports then some .badCommand
  else if !r.orig ∧ pool.isNone then some .badAddress
  else if !r.orig ∧ pool.any fun q => r.blockLines != 8 + (r.hcnt + 1) * r.tokens * (q.rk + q.rv) then some .badCommand
  else if !((List.range r.slots).all fun k => bar (r.freeBar + k) (r.ndest + 1)) ∨ (r.orig ∧ !bar r.readyBar r.ndest) then some .badCommand
  else if 2 < sameReady.length ∨ sameReady.any fun x => x != r && !ringPair x r then some .badCommand
  else if shares.any fun x => x.n != r.n || x.rounds != r.rounds || x.quad != r.quad then some .badCommand
  else if r.dests.any fun d => decide (size ≤ d) then some .noPermission
  else match (s.net.archs.get? arch).filter fun a => a.joined && a.tenant == t with
    | none => some .noPermission
    | some a =>
      if (a.members.get? r.nextIx).isNone ∨ (a.members.get? r.prevIx).isNone then some .noPermission
      else if (r.ports.any fun i => (s.port i).enabled != some arch)
          ∨ !((s.directPorts a r.prevIx).any fun i => (s.port i).enabled == some arch) then some .noPermission
      else if !r.mem ∧ lastWord / 8 + 1 < lastLine then some .badAddress
      else if r.mem ∧ !s.rangeMapped t r.slotBase (32 * ((r.slots - 1) * r.slotStride + r.blockLines)) then some .badAddress
      else if r.bwd ∧ !s.argMapped (some t) r.retBase then some .badAddress
      else none

/-! ### Collectives (R403, R404, R410 to R418) -/

/-- A collective's fields by themselves (R403, R406, R411 to R414). -/
def collFieldsOk (c : Coll) : Bool :=
  let z (lo n : Nat) : Bool := fld c.raw lo n == 0
  let red := c.op == 2 || c.op == 3
  let fold := red || c.op == 6
  let listed := c.routed || c.indexed
  let fmts : Bool := match EFmt.ofCode? c.inF, EFmt.ofCode? c.outF with
    | some a, some b =>
      if red then
        (if a == .int32 then b == .int32
         else [EFmt.fp32, .bf16, .fp16, .e4m3, .e5m2].contains a && [EFmt.fp32, .bf16, .fp16, .e4m3, .e5m2].contains b)
      else if c.op = 6 then a == .fp32 && (b == .fp32 || b == .bf16)
      else a == b
    | _, _ => false
  decide (c.op ≤ 6) && fmts && z 112 16 && z 249 7 && z 528 496
    && (if red then c.red != 3 else z 36 2) && (fold || z 38 1) && (if c.op = 4 then c.a2a != 3 else z 39 2)
    && (c.routed || z 41 1) && (fold || z 42 1)
    && decide (1 ≤ c.n ∧ c.n ≤ 1024 ∧ c.rank < c.n)
    && (if c.op = 0 ∨ c.op = 6 then decide (c.root < c.n) else z 74 10)
    && (if c.op = 5 then decide (1 ≤ c.shift ∧ c.shift < c.n) else z 84 10)
    && (fold || z 94 4) && decide (c.part0 + c.parts ≤ 4096) && (fold || c.routed || z 110 2)
    && (!listed || decide (1 ≤ c.elems ∧ c.elems ≤ 65536))
    && (if c.op = 6 ∨ listed then decide (1 ≤ c.row) else z 160 16) && (if c.routed then decide (1 ≤ c.cap) else z 176 16)
    && (if c.srcSpad then c.src % 8 == 0 && decide (c.src ≤ lastWord) else c.src % 32 == 0 && z 241 8)
    && c.srcStride % 32 == 0 && c.dstOff % 32 == 0 && c.peers % 32 == 0 && c.statusAt % 32 == 0
    && (if listed then c.route % 4 == 0 else z 384 48) && (if c.routed then c.prov % 4 == 0 && decide (c.block ≤ 4096) else z 432 48)
    && (listed || c.block % 32 == 0)

/-- Collector slots that an active collective reserves (R416). -/
def collSlots (c : Coll) : Nat := if c.collects then c.n * c.slots + (if c.reduces then 2 else 0) else 0

-- DEDUCED, unsafe: log 76.
/-- Slots of an engine's collector beside those for transit (R401). -/
def collectorSlots : Nat := 1920

/-- Collectives that hold reservations on an engine: those of plans and runs, and those of commands. -/
def collsOn (s : State) (quad : Nat) : List Coll :=
  ((s.isth.works.flatMap fun ((w, x) : Nat × Work) => x.stages.flatMap fun st => st.colls.map fun raw => Coll.fresh w 0 0 x.tenant st.part x.arch raw 0)
    ++ (s.net.colls.filter fun ((_, c) : Nat × Coll) => decide (opOrd ≤ c.ord)).map (·.2)).filter fun c => c.quad == quad

/-- The collector memory of an engine holds the reservations of more collectives (R416). -/
def collectorHolds (s : State) (new : List Coll) : Bool :=
  (List.range 4).all fun q =>
    decide ((((s.collsOn q) ++ new.filter fun c => c.quad == q).map collSlots).sum ≤ collectorSlots)

/-- The peer table names members of a joined archipelago that can be reached, and this module in its own entry (R404, R405, R408). -/
def peersErr (s : State) (c : Coll) : Option Status :=
  match s.memRead c.tenant c.peers (16 * c.n) with
  | .error _ => some .badAddress
  | .ok bs =>
    let es := (chunks 16 bs).map ofBytes
    match (s.net.archs.get? c.arch).filter fun a => a.joined && a.tenant == c.tenant with
    | none => some .noPermission
    | some a =>
      if es.any fun e => fld e 10 22 != 0 then some .badCommand
      else if (es[c.rank]?.map fun e => fld e 0 10) ≠ some a.own then some .badCommand
      else if es.any fun e => (a.members.get? (fld e 0 10)).isNone then some .noPermission
      else if es.any fun e => fld e 0 10 != a.own && !((s.hopPorts c.arch a (fld e 0 10)).any fun i => (s.port i).enabled == some c.arch) then
        some .noPermission
      else none

-- DEDUCED, unsafe: log 76.
/-- The first check of R404 that a descriptor fails; `mode` gives the exposure mode of a line of its source holm. -/
def collErr (s : State) (mode : Nat → Nat) (c : Coll) : Option Status :=
  let t := c.tenant
  let n := collSrcBytes c
  let listed := c.routed || c.indexed
  let srcs := (List.range c.parts).map fun j => c.src + j * c.srcStride
  let mapped (a k : Nat) : Bool := k == 0 || s.rangeMapped t a k
  let out : Bool := match s.ownWindow c with
    | none => false
    | some w => decide (c.dstOff + c.outSize ≤ w.len) && (!w.memory || mapped (w.base + c.dstOff) c.outSize)
  if !collFieldsOk c then some .badCommand
  else if s.net.colls.any fun ((_, x) : Nat × Coll) => x.active && !x.done && x.tenant == t && x.id == c.id then some .badCommand
  else match s.peersErr c with
    | some e => some e
    | none =>
      if c.srcSpad ∧ (List.range ((n + 31) / 32)).any fun i => mode (c.src / 8 + i) == 0 then some .noPermission
      else if (!c.srcSpad ∧ !srcs.all fun a => mapped a n) ∨ (listed ∧ !mapped c.route (4 * c.elems))
          ∨ (c.routed ∧ !mapped c.prov (256 * c.cap)) ∨ !mapped c.statusAt (64 + 8 * c.n) ∨ (c.outSize ≠ 0 ∧ !out) then some .badAddress
      else none

/-- The engine has 64 active descriptors, or no collector memory for one more (R401, R404). -/
def collFull (s : State) (c : Coll) : Bool :=
  decide (64 ≤ (s.net.colls.filter fun ((_, x) : Nat × Coll) => x.active && !x.done && x.quad == c.quad).length) || !s.collectorHolds [c]

/-! ### Operations (R20, R439, R441, R445) -/

/-- The checks of a GEMM entry beyond its header (R434 row 5, R439). -/
def gemmErr (s : State) (t raw : Nat) : Option Status :=
  let adr := [argOf raw 32 8, argOf raw 40 8, argOf raw 48 8] ++ (if argOf raw 56 8 = 0 then [] else [argOf raw 56 8])
  if !adr.all (s.argMapped (some t)) then some .badAddress
  else if (Gemm.mk? raw).isNone then some .badCommand else none

/-- The checks of an ATTEND entry beyond its header (R243, R434 row 5, R439). -/
def attendErr (s : State) (t raw : Nat) : Option Status :=
  if !([argOf raw 48 8, argOf raw 56 8, argOf raw 64 8, argOf raw 72 8].all (s.argMapped (some t))) then some .badAddress
  else match Attend.mk? raw with
    | none => some .badCommand
    | some a => match s.kv.validDesc t a.handle with
      | none => some .badAddress
      | some (_, d) => match s.kv.pools.get? d.pool with
        | some q => if q.layers ≤ a.layer ∨ q.h ≤ a.head then some .badCommand else none
        | none => some .badAddress

/-- One entry of an operation list as it is kept: a COLLECTIVE entry with its descriptor above it (R445). -/
def loadOp (s : State) (t raw : Nat) : Except Status Nat :=
  let keep (e : Option Status) : Except Status Nat := match e with | some x => .error x | none => .ok raw
  match opRow? (fld raw 0 16) with
  | none => .error .badCommand
  | some r =>
    if !([0x0204, 0x0601, 0x0602, 0x0704].contains r.code) ∨ fld raw 20 12 ≠ 0 ∨ 1 < fld raw 18 2 ∨ fld raw 160 96 ≠ 0
        ∨ fld raw 256 768 * 2 ^ 256 ||| r.used 4 ≠ r.used 4 ∨ (!r.ind ∧ fld raw 64 96 ≠ 0) then .error .badCommand
    else match r.code with
      | 0x0602 => keep (s.gemmErr t raw)
      | 0x0601 => keep (s.attendErr t raw)
      | 0x0204 =>
        if !s.argMapped (some t) (argOf raw 40 8) || !s.argMapped (some t) (argOf raw 48 8) then .error .badAddress
        else if argOf raw 56 8 % 32 ≠ 0 then .error .badCommand else .ok raw
      | _ => if fld raw 128 32 ≠ 128 then .error .badCommand
        else match s.argRead (some t) (fld raw 64 64) 128 with
          | .error e => .error e
          | .ok bs => .ok (raw + 2 ^ 1024 * ofBytes bs)

/-- A fold that stops at the first error. -/
def foldUntil {α β : Type} (f : β → α → Except Status β) (b : β) : List α → Except Status β
  | [] => .ok b
  | x :: l => match f b x with | .ok c => foldUntil f c l | .error e => .error e

end State

end Sys2Proof.Machine
end

