-- ==== Sys2Proof/Machine/Plans.lean ====
section
/-! DEFINITION. Commands of families 0x05 and 0x09: plans and native images (R85, R149, R236, R276 to R278, R298, R299, R398, R404,
R434 to R436, R438, R442 to R445, R456, R466 to R477, R518, R597). -/

namespace Sys2Proof.Machine

/-! ### Images (R443, R444) -/

/-- The header of a plan or native image. -/
structure ImgHdr where
  period : Nat
  exportPerm : Bool
  shapeInv : Bool
  arch : Nat
  deriving DecidableEq, Repr

/-- What a stage entry says, in the order of its fields, before its sections (R444). -/
def stageEntryOk (e : Nat) : Bool :=
  fld e 17 7 == 0 && fld e 37 27 == 0 && fld e 112 16 == 0 && fld e 176 80 == 0 && decide (1 ≤ fld e 8 9 ∧ fld e 8 9 ≤ 256)
    && (fld e 32 4 != 0 || fld e 64 48 == 0)

/-- A stage with no section yet. -/
def Stage.bare (e : Nat) (holms : List Nat) : Stage :=
  { part := fld e 24 8, holms := holms, lagoon := fld e 32 4, tamio := bitAt e 36, lagImg := fld e 64 48, lagStride := fld e 128 48
    program := none, picots := [], prickings := [], wheel := .general, exposure := [], barriers := [], rings := [], colls := []
    cslots := [], oplist := [], ckpts := [] }

namespace State

/-- A section takes its place in its stage; of one slot the last image counts (R445). -/
def addSection (s : State) (t : Nat) (native : Bool) (st : Stage) (x : Section) : Except Status Stage :=
  let b := x.body
  match x.ty with
  | 1 => (loadProgram native b).map fun p => { st with program := some p }
  | 2 => if b.length ≠ 256 then .error .badCommand
    else match loadPicot (ofBytes b) with
      | .ok (k, p) => .ok { st with picots := st.picots.set k p }
      | .error e => .error (match e with | .version => .version | .badCommand => .badCommand | .badAddress => .badAddress)
  | 3 => (loadPricking b).map fun (k, p) => { st with prickings := st.prickings.set k p }
  | 4 => (loadWheel b).map fun w => { st with wheel := w }
  | 5 => (loadExposure b).map fun e => { st with exposure := e }
  | 6 => (loadBarriers b).map fun l => { st with barriers := l }
  | 7 => if b.length ≠ 128 then .error .badCommand else .ok { st with rings := st.rings ++ [ofBytes b] }
  | 8 => if b.length ≠ 128 then .error .badCommand else .ok { st with colls := st.colls ++ [ofBytes b] }
  | 9 => if b.length ≠ 16 then .error .badCommand else .ok { st with cslots := b }
  | 10 =>
    if b.isEmpty ∨ b.length % 128 ≠ 0 ∨ 4096 * 128 < b.length then .error .badCommand
    else (foldUntil (fun (l : List Nat) e => (s.loadOp t (ofBytes e)).map fun r => l ++ [r]) [] (chunks 128 b)).map fun l => { st with oplist := l }
  | _ => .error .badCommand

-- DEDUCED, unsafe: log 75.
/-- Sections take their places; lists that a set of sections replaces are those it holds (R445). -/
def addSections (s : State) (t : Nat) (native : Bool) (stages : List Stage) (xs : List Section) : Except Status (List Stage) :=
  let most := xs.any fun x => decide (sectionMost x.ty < (xs.filter fun y => y.ty == x.ty && y.stage == x.stage).length)
  if (xs.any fun x => x.rsv != 0 || x.ty == 0 || decide (10 < x.ty) || decide (stages.length ≤ x.stage)) ∨ most then .error .badCommand
  else
    let cleared := stages.zipIdx.map fun (st, i) =>
      let has (ty : Nat) : Bool := xs.any fun x => x.ty == ty && x.stage == i
      { st with rings := if has 7 then [] else st.rings, colls := if has 8 then [] else st.colls }
    foldUntil (fun (l : List Stage) x => match l[x.stage]? with
      | none => .error .badCommand
      | some st => (s.addSection t native st x).map fun st1 => l.set x.stage st1) cleared xs

/-- The conditions of R418 on the emitting MMAs of a program that are constant. -/
def emitsOk (p : Program) (colls cslots : List Nat) : Bool :=
  p.words.all fun b =>
    let w := b.toNat
    fld w 0 8 != 0x10 || !bitAt w 15 ||
      (match colls[cslots.getD (fld w 116 4) 0 - 1]?, p.shapes[fld w 8 6]? with
       | some raw, some sh =>
         let c := collView 0 0 0 raw
         let (m, n) := (fld sh.toNat 116 8, fld sh.toNat 124 9)
         c.srcSpad && (fld w 106 5 != 0 || c.src == fld w 56 20)
           && ((c.op == 1 && c.elems == m * n) || (c.op == 2 && m % c.n == 0 && c.elems * c.n == m * n))
       | _, _ => false)

/-- The checks of one whole stage: its program, slots, wheel, barriers, rings and collectives (R75, R152, R223, R278, R299, R404,
R418, R445). -/
def stageErr (s : State) (t arch : Nat) (rings : List Ring) (st : Stage) : Option Status :=
  let mine := rings.filter fun r => r.part == st.part && st.rings.contains r.raw
  let bars := mine.flatMap fun r => (List.range r.slots).map (r.freeBar + ·) ++ (if r.orig then [r.readyBar] else [])
  let cs := st.colls ++ (st.oplist.filter fun e => fld e 0 16 == 0x0704).map fun e => e / 2 ^ 1024
  let view (raw : Nat) : Coll := collView t st.part arch raw
  let mode (raw line : Nat) : Nat :=
    if !st.exposure.isEmpty then (match st.exposure.find? fun e => e.first ≤ line && line ≤ e.last with | some e => e.mode | none => 0)
    else match ((s.ten.parts.get? st.part).bind fun p => p.holms[(view raw).srcHolm]?).bind s.physOf? with
      | some p => (s.holm p).modeOf line
      | none => 0
  if st.program.isSome == !st.oplist.isEmpty ∨ st.cslots.any fun b => decide (st.colls.length < b) then some .badCommand
  else
    let prog : Option Status := match st.program with
      | none => none
      | some p =>
        match programErr ⟨p, fun i => (st.picots.get? i).isSome, fun i => (st.prickings.get? i).map (·.outDir),
            fun b => st.barriers.any fun x => x.1 == b, fun i => st.cslots.getD i 0 != 0⟩ with
        | some e => some e
        | none => if !wheelServes st.wheel p ∨ waitsOn p bars ∨ !emitsOk p st.colls st.cslots then some .badCommand else none
    match prog with
    | some e => some e
    | none => match mine.findSome? (s.ringErr t arch st.barriers rings) with
      | some e => some e
      | none => cs.findSome? fun raw => s.collErr (mode raw) (view raw)

/-- The rings of the stages of an image. -/
def imageRings (s : State) (stages : List Stage) : List Ring :=
  stages.zipIdx.flatMap fun (st, i) => st.rings.map fun raw => Ring.fresh 0 i st.part (s.ringQuad st.part raw) raw

/-- The checks of all stages together (R276, R445). -/
def stagesErr (s : State) (t arch minor : Nat) (stages : List Stage) : Option Status :=
  let decls := stages.flatMap fun st => st.barriers.map fun d => (st.part, d)
  let rings := s.imageRings stages
  let crowded := (List.range 4).any fun q => decide (16 < (rings.filter fun r => r.quad == q).length)
  if (decls.any fun a => decls.any fun b => a.1 == b.1 && a.2.1 == b.2.1 && a.2.2 != b.2.2) ∨ crowded
      ∨ (minor < 4 ∧ stages.any stageIsNew) then some .badCommand
  else stages.findSome? (s.stageErr t arch rings)

-- DEDUCED, unsafe: log 72.
/-- An image read and checked: its header and its stages, with the holms that their ranges name (R443 to R445). -/
def readImage (s : State) (t minor : Nat) (native : Bool) (bs : List Nat) : Except Status (ImgHdr × List Stage) :=
  let h := ofBytes (bs.take 64)
  let nst := fld h 20 6 + 1
  let nsec := fld h 32 12
  let entries := (chunks 32 ((bs.drop 64).take (32 * nst))).map ofBytes
  let (secs, whole) := sectionsAt bs false nsec (64 + 32 * nst)
  let arch := fld h 64 64
  let joined : Bool := arch == 0 || match s.net.archs.get? arch with | some a => a.joined && a.tenant == t | none => false
  let part (e : Nat) : Option Partition := (s.ten.parts.get? (fld e 24 8)).filter fun p => p.tenant == t
  let range (e : Nat) : List Nat := ((part e).map fun p => (p.holms.drop (fld e 0 8)).take (fld e 8 9)).getD []
  let stages := entries.map fun e => Stage.bare e (range e)
  let lgs := stages.flatMap (·.holms)
  if bs.length < 64 + 32 * nst then .error .badCommand
  else if secs.any (·.foreign) then .error .version
  else if !whole ∨ nsec = 0 ∨ fld h 26 6 ≠ 0 ∨ fld h 46 18 ≠ 0 ∨ fld h 128 384 ≠ 0 ∨ (native != (fld h 0 20 == 0))
      ∨ 1000000 < fld h 0 20 ∨ !entries.all stageEntryOk then .error .badCommand
  else if !joined ∨ entries.any fun e => (range e).length != fld e 8 9 then .error .noPermission
  else if lgs.eraseDups.length ≠ lgs.length then .error .badCommand
  else if stages.any fun st => st.lagoon != 0 && !((List.range st.holms.length).all fun k =>
      s.inTier1 t (st.lagImg + k * st.lagStride) (262144 * st.lagoon)) then .error .badAddress
  else match s.addSections t native stages secs with
    | .error e => .error e
    | .ok l => match s.stagesErr t arch minor l with
      | some e => .error e
      | none => .ok (⟨fld h 0 20, bitAt h 44, bitAt h 45, arch⟩, l)

/-! ### Admission (R398, R416, R443, R466 to R477) -/

/-- Terms that fail by what the state shows, for a plan that adds a power and stages. -/
def stateTerms (s : State) (arch add : Nat) (exportPerm : Bool) (stages : List Stage) : List Verdict :=
  let a := s.net.archs.get? arch
  let multi := arch != 0 && (a.map fun x => decide (1 < x.members.length)).getD false
  let spans := arch != 0 && (a.map (·.spansRacks)).getD false
  (if !s.collectorHolds (stages.flatMap fun st => st.colls.map (collView 0 st.part arch)) then [plainTerm 7] else [])
    ++ (if s.pow.excess.isSome ∨ s.pow.lowest ∨ s.pow.cap < s.pow.floor ∨ s.pow.cap < s.need + add then [plainTerm 8] else [])
    ++ (if s.net.time.sync = .unsync ∨ (multi ∧ s.net.time.wasFree) ∨ (spans ∧ (s.pathOf arch).lost) then [plainTerm 9] else [])
    ++ (if exportPerm then [plainTerm 0xD] else [])

-- DESIGN CHOICE, safe: log 65.
/-- The plan is refused: the term of the lowest code, and the least period, which admission's calculation gives. -/
def planRefused (s : State) (adm : Admission) (terms : List Verdict) : Option CmdEff :=
  (worstTerm (adm.refusal.toList ++ terms)).map fun v =>
    let (tag, s1) := s.takeFree 1
    (s1, some (.refusedAdmission, refusal v (match adm.refusal with | some w => w.period | none => Config.freeNat .choice tag 0)))

/-- Stages with the checkpoints that admission has found (R471). -/
def withCkpts (stages : List Stage) (adm : Admission) : List Stage :=
  stages.zipIdx.map fun (st, i) => { st with ckpts := adm.ckpts.getD i [] }

/-! ### Plans (R236, R439, R442) -/

/-- A unit of work that has not started. -/
def newWork (s : State) (kind : WorkKind) (handle t : Nat) (c : Cmd) (h : ImgHdr) (stages : List Stage) : Work :=
  { kind := kind, handle := handle, tenant := t, fn := c.fn, q := c.q, tag := c.tag, arch := h.arch, exportPerm := h.exportPerm
    shapeInv := h.shapeInv, stages := stages, period := 1000 * h.period, s0 := 0, earliest := 0, started := false, startCmd := none
    stopCmds := [], stopping := false, update := none, updateCmds := [], cmd := none, tide := 0, running := false, closeAt := none
    lastSlack := 0, status := .done, degraded := false, faults := [], barriers := [], waves := [], landPos := [], keep := []
    ckptAt := [], ckptCounts := [], opAt := [], held := [], power := 0, suspended := none, restoreDue := false, demoted := false
    seg := 0, learned := [], observed := [], admitted := [], energy := 0, stopped := false, order := s.isth.nextWork }

/-- The plan is held under a number and a handle. -/
def addWork (s : State) (w : Work) : State :=
  { s with isth := { s.isth with works := s.isth.works.set s.isth.nextWork w, nextWork := s.isth.nextWork + 1 } }

/-- PLAN_SUBMIT (R443 to R445, R469 to R477). -/
def submitPlan (s : State) (c : Cmd) (t : Nat) (adm : Admission) : CmdEff :=
  match s.indirect c.fn c.raw with
  | .error e => s.fails e
  | .ok bs => match s.readImage t (((s.que? c.fn c.q).map (·.minor)).getD 4) false bs with
    | .error e => s.fails e
    | .ok (h, stages) => match s.planRefused adm (s.stateTerms h.arch adm.power h.exportPerm stages) with
      | some r => r
      | none =>
        let (k, s1) := s.newHandle (s.isth.works.filterMap fun ((_, w) : Nat × Work) => if w.kind = .plan then some w.handle else none)
        let w := { s1.newWork .plan k t c h (withCkpts stages adm) with
          earliest := adm.earliest, power := adm.power, admitted := adm.quads }
        (s1.addWork w).ends (k + 2 ^ 64 * (adm.earliest % 2 ^ 64))

/-- A tenant's plan, by its handle. -/
def planOf? (s : State) (t h : Nat) : Option (Nat × Work) :=
  s.isth.works.find? fun ((_, w) : Nat × Work) => w.kind == .plan && w.tenant == t && w.handle == h

/-- The holms of stages still lie in their partitions, which are still the tenant's (R445, R597). -/
def stagesStand (s : State) (t : Nat) (stages : List Stage) : Bool :=
  stages.all fun st => match (s.ten.parts.get? st.part).filter fun p => p.tenant == t with
    | some p => st.holms.all p.holms.contains
    | none => false

-- DEDUCED, unsafe: log 77.
/-- PLAN_START: it completes at S0 (R236, R442). -/
def startPlan (s : State) (c : Cmd) (t : Nat) : CmdEff :=
  let s0 := c.arg 40 8
  match s.planOf? t (c.arg 32 4) with
  | none => s.fails .badAddress
  | some (i, w) =>
    if s0 % 1000 ≠ 0 then s.fails .badCommand
    else if !s.stagesStand t w.stages then s.fails .noPermission
    else if w.started ∨ w.startCmd.isSome ∨ s0 < w.earliest ∨ s.slackAt { w with s0 := s0 } 0 < c.since + 2000
        ∨ (s.workHolms w).any s.holmPlanned then s.fails .limit
    else (s.modWork i fun x => { x with s0 := s0, startCmd := some c.name, stopping := false }, none)

-- DEDUCED, unsafe: log 78.
/-- PLAN_STOP: it completes at the slack where it takes effect (R236). -/
def stopCmd (s : State) (c : Cmd) (t : Nat) : CmdEff :=
  match s.planOf? t (c.arg 32 4) with
  | none => s.fails .badAddress
  | some (i, w) =>
    if !w.started ∧ w.startCmd.isNone then s.fails .limit
    else (s.modWork i fun x => { x with stopping := true, stopCmds := x.stopCmds ++ [c.name] }, none)

-- DEDUCED, unsafe: log 35.
/-- PLAN_STAGE_UPDATE: admitted anew, in effect at a slack, or at once where the plan has not started (R234, R445, R476). -/
def updatePlan (s : State) (c : Cmd) (t : Nat) (adm : Admission) : CmdEff :=
  match s.indirect c.fn c.raw with
  | .error e => s.fails e
  | .ok bs =>
    let (secs, whole) := sectionsAt bs true (bs.length / 16 + 1) 0
    if secs.any (·.foreign) then s.fails .version
    else match s.planOf? t (c.arg 32 4) with
      | none => s.fails .badAddress
      | some (i, w) =>
        if !whole ∨ secs.isEmpty then s.fails .badCommand
        else match s.addSections t false (w.update.getD w.stages) secs with
          | .error e => s.fails e
          | .ok l => match s.stagesErr t w.arch (((s.que? c.fn c.q).map (·.minor)).getD 4) l with
            | some e => s.fails e
            | none => match s.planRefused adm (s.stateTerms w.arch (adm.power - w.power) false
                [{ Stage.bare 0 [] with colls := (l.flatMap (·.colls)).diff (w.stages.flatMap (·.colls)) }]) with
              | some r => r
              | none =>
                let new := withCkpts l adm
                let s1 := s.modWork i fun x => { x with power := adm.power, admitted := adm.quads }
                if w.started then (s1.modWork i fun x => { x with update := some new, updateCmds := x.updateCmds ++ [c.name] }, none)
                else (s1.modWork i fun x => { x with stages := new }).ends 0

/-- PLAN_FREE: its reservations end (R439, R476, R518). -/
def freePlan (s : State) (c : Cmd) (t : Nat) : CmdEff :=
  match s.planOf? t (c.arg 32 4) with
  | none => s.fails .badAddress
  | some (i, w) =>
    if w.started ∨ w.startCmd.isSome then s.fails .limit
    else ({ s with isth := { s.isth with works := s.isth.works.del i } } : State).checkExcess.ends 0

/-! ### Native images (R85, R149, R404, R439, R445, R597) -/

/-- The stores and settings of a stage go to a holm: at once where it is idle, else when its next invocation starts; a holm of a
started plan keeps the plan's. -/
def installStage (s : State) (st : Stage) (lg : Nat) : State :=
  match s.physOf? lg with
  | none => s
  | some p =>
    if s.holmPlanned lg then s
    else s.modHolm p fun h =>
      if h.inv.isNone then h.takeNewStage st (s.imageOf st lg)
      else { h with staged :=
        { h.staged with
          wheel := some st.wheel, exposure := some st.exposure, sfuMode := some (if st.tamio then .tamio else .native)
          program := some (st.program.getD .empty)
          picots := some (st.picots.foldl (fun m (k, v) => m.set k v) (h.staged.picots.getD h.picots))
          prickings := some (st.prickings.foldl (fun m (k, v) => m.set k v) (h.staged.prickings.getD h.prickings))
          lagoon := some (st.lagoon, if st.lagoon = 0 then 0 else s.imageOf st lg + 1) } }

/-- NATIVE_LOAD. -/
def loadNative (s : State) (c : Cmd) (t : Nat) : CmdEff :=
  match s.indirect c.fn c.raw with
  | .error e => s.fails e
  | .ok bs => match s.readImage t (((s.que? c.fn c.q).map (·.minor)).getD 4) true bs with
    | .error e => s.fails e
    | .ok (h, stages) =>
      if stages.any fun st => st.colls.any fun raw => s.collFull (collView t st.part h.arch raw) then s.fails .limit
      else
        let (k, s0) := s.newHandle s.isth.natives.keys
        let s1 := stages.foldl (fun (s : State) st => st.holms.foldl (fun (s : State) lg => s.installStage st lg) s) s0
        ({ s1 with isth := { s1.isth with natives := s1.isth.natives.set k ⟨t, stages, h.exportPerm, h.arch⟩ } } : State).ends k

/-- The command waits as it has waited. -/
def waits (s : State) (c : Cmd) : CmdEff :=
  ({ s with isth := { s.isth with cmds := s.isth.cmds.map fun d => if d.name = c.name then { d with st := .accepted } else d } }, none)

/-- A holm runs an invocation, or is about to in a unit of work that has begun. -/
def holmInUse (s : State) (lg : Nat) : Bool :=
  s.holmBusy lg || match s.physOf? lg with | some p => (s.holm p).inv.isSome | none => true

-- DEDUCED, unsafe: log 79.
/-- NATIVE_RUN (R235, R457, R597). -/
def runNative (s : State) (c : Cmd) (t : Nat) : CmdEff :=
  match (s.isth.natives.get? (c.arg 32 4)).filter fun n => n.tenant == t with
  | none => s.fails .badAddress
  | some n =>
    let lgs := n.stages.flatMap (·.holms)
    if !s.stagesStand t n.stages then s.fails .noPermission
    else if lgs.any s.holmInUse then s.fails .limit
    else if lgs.any s.partPending then s.waits c
    else
      let w := { s.newWork .native (c.arg 32 4) t c ⟨0, n.exportPerm, false, n.arch⟩ n.stages with cmd := some c.name }
      ((s.addWork w).beginWork s.isth.nextWork, none)

/-- NATIVE_FREE: a NATIVE_RUN of the handle is in progress from its acceptance on (R426, R439). -/
def freeNative (s : State) (c : Cmd) (t : Nat) : CmdEff :=
  let k := c.arg 32 4
  match (s.isth.natives.get? k).filter fun n => n.tenant == t with
  | none => s.fails .badAddress
  | some _ =>
    let ran (d : Cmd) : Bool := d.opc == 0x0902 && d.live && d.arg 32 4 == k && s.boundTo d.fn == some t && decide (d.id < c.id)
    if s.isth.cmds.any ran ∨ (s.isth.works.any fun ((_, w) : Nat × Work) => w.kind == .native && w.handle == k && w.tenant == t) then
      s.fails .limit
    else ({ s with isth := { s.isth with natives := s.isth.natives.del k } } : State).ends 0

end State

/-! ### The rows -/

/-- PLAN_SUBMIT (R443 to R445, R469 to R477). -/
def execPlanSubmit (fn q : Nat) (adm : Admission) (s : State) : Out := runVf 0x0501 fn q s fun s c t => s.submitPlan c t adm

/-- PLAN_START (R236, R442). -/
def execPlanStart (fn q : Nat) (s : State) : Out := runVf 0x0502 fn q s fun s c t => s.startPlan c t

/-- PLAN_STOP (R236, R442). -/
def execPlanStop (fn q : Nat) (s : State) : Out := runVf 0x0503 fn q s fun s c t => s.stopCmd c t

/-- PLAN_STAGE_UPDATE (R234, R445, R476). -/
def execPlanStageUpdate (fn q : Nat) (adm : Admission) (s : State) : Out := runVf 0x0504 fn q s fun s c t => s.updatePlan c t adm

/-- PLAN_FREE (R476). -/
def execPlanFree (fn q : Nat) (s : State) : Out := runVf 0x0505 fn q s fun s c t => s.freePlan c t

/-- NATIVE_LOAD (R445, R597). -/
def execNativeLoad (fn q : Nat) (s : State) : Out := runVf 0x0901 fn q s fun s c t => s.loadNative c t

/-- NATIVE_RUN (R597). -/
def execNativeRun (fn q : Nat) (s : State) : Out := runVf 0x0902 fn q s fun s c t => s.runNative c t

/-- NATIVE_FREE (R597). -/
def execNativeFree (fn q : Nat) (s : State) : Out := runVf 0x0903 fn q s fun s c t => s.freeNative c t

end Sys2Proof.Machine
end

