-- ==== Sys2Proof/Machine/WorkCmds.lean ====
section
/-! DEFINITION. Commands of families 0x06 and 0x0704: ATTEND, GEMM, BATCH and COLLECTIVE (R20, R402 to R405, R416, R419, R434, R439,
R441, R477 to R479). -/

namespace Sys2Proof.Machine

namespace State

/-- One GEMM or ATTEND entry: its checks, or the refusal. -/
def entryErr (s : State) (t raw : Nat) : Option Status := if fld raw 0 16 = 0x0602 then s.gemmErr t raw else s.attendErr t raw

/-- One GEMM or ATTEND entry runs whole. -/
def runEntry (s : State) (t raw : Nat) : State × Status :=
  if fld raw 0 16 = 0x0602 then (match Gemm.mk? raw with | some g => s.gemmOp t g | none => (s, .badCommand))
  else match Attend.mk? raw with | some a => s.attendOp t a | none => (s, .badCommand)

/-- Best-effort work waits for an IDLE holm of the tenant; bounded work has one reserved (R20, R479). -/
def needsHolm (s : State) (c : Cmd) (t : Nat) : Bool := !c.bounded && ((s.idleHolm? t).filter fun lg => !s.partPending lg).isNone

-- DEDUCED, unsafe: log 27.
/-- GEMM and ATTEND. -/
def workCmd (s : State) (c : Cmd) (t : Nat) (adm : Option Verdict) : CmdEff :=
  match s.entryErr t c.raw with
  | some e => s.fails e
  | none => s.admitted c t adm (
    if s.needsHolm c t then s.waits c
    else match s.runEntry t c.raw with | (s1, st) => (s1, some (st, 0)))

/-- The first entry of a BATCH that its checks refuse: index and status (R434, R439). -/
def batchErr (s : State) (t minor cls : Nat) : List Nat → Nat → Option (Nat × Status)
  | [], _ => none
  | raw :: rest, i =>
    let bad : Bool := match opRow? (fld raw 0 16) with
      | none => true
      | some r => (r.code != 0x0601 && r.code != 0x0602) || fld raw 18 2 != cls || fld raw 20 12 != 0 || fld raw 64 192 != 0
          || fld raw 256 768 * 2 ^ 256 ||| r.used minor != r.used minor
    if bad then some (i, .badCommand)
    else match s.entryErr t raw with
      | some e => some (i, e)
      | none => batchErr s t minor cls rest (i + 1)

/-- Entries run in order up to the first that fails; the status of the whole, and the result. -/
def runBatch (t : Nat) : List Nat → Nat → Bool → State → CmdEff
  | [], _, low, s => (s, some (if low then .doneDegraded else .done, 0xFFFF))
  | raw :: rest, i, low, s =>
    match s.runEntry t raw with
    | (s1, st) => if st.isDone then runBatch t rest (i + 1) (low || st == .doneDegraded) s1 else (s1, some (st, i))

-- DEDUCED, unsafe: log 80.
/-- BATCH: nothing runs where an entry's checks fail. -/
def batchCmd (s : State) (c : Cmd) (t : Nat) (adm : Option Verdict) : CmdEff :=
  match s.indirect c.fn c.raw with
  | .error e => (s, some (e, 0xFFFF))
  | .ok bs =>
    let es := (chunks 128 bs).map ofBytes
    if bs.isEmpty ∨ bs.length % 128 ≠ 0 ∨ 32768 < bs.length then (s, some (.badCommand, 0xFFFF))
    else match s.batchErr t (((s.que? c.fn c.q).map (·.minor)).getD 4) (fld c.raw 18 2) es 0 with
      | some (i, e) => (s, some (e, i))
      | none => s.admitted c t adm (if s.needsHolm c t then s.waits c else runBatch t es 0 false s)

/-- The archipelago of a COLLECTIVE command: that of its own receive window, else the one its tenant has joined. -/
def collArch (s : State) (t raw : Nat) : Nat :=
  match s.ownWindow (collView t 256 0 raw) with
  | some w => w.arch
  | none => ((s.net.archs.find? fun ((_, a) : Nat × Arch) => a.joined && a.tenant == t).map (·.1)).getD 0

-- DESIGN CHOICE, unsafe: log 81.
/-- The partition that a COLLECTIVE command's source holm is counted in: the tenant's lowest. -/
def collPart (s : State) (t : Nat) : Nat := ((s.ten.parts.find? fun ((_, p) : Nat × Partition) => p.tenant == t).map (·.1)).getD 256

/-- COLLECTIVE: one-shot work of its engine alone (R402, R404, R419). -/
def collCmd (s : State) (c : Cmd) (t : Nat) (adm : Option Verdict) : CmdEff :=
  match s.indirect c.fn c.raw with
  | .error e => s.fails e
  | .ok bs =>
    let raw := ofBytes bs
    let minor := ((s.que? c.fn c.q).map (·.minor)).getD 4
    let arch := s.collArch t raw
    let part := s.collPart t
    let v := collView t part arch raw
    let mode (line : Nat) : Nat := match ((s.ten.parts.get? part).bind fun p => p.holms[v.srcHolm]?).bind s.physOf? with
      | some p => (s.holm p).modeOf line
      | none => 0
    if bs.length ≠ 128 ∨ (minor < 4 ∧ collIsNew raw) then s.fails .badCommand
    else match s.collErr mode v with
      | some e => s.fails e
      | none =>
        if s.collFull v then s.fails .limit
        else s.admitted c t adm (
          let k := s.isth.nextWork
          let w := { s.newWork .abstract 0 t c ⟨0, false, false, arch⟩ [] with cmd := some c.name, running := true }
          ((s.addWork w).startColl k 0 opOrd part raw, none))

end State

/-! ### The rows -/

/-- ATTEND (R441). -/
def execAttend (fn q : Nat) (adm : Option Verdict) (s : State) : Out := runVf 0x0601 fn q s fun s c t => s.workCmd c t adm

/-- GEMM (R441). -/
def execGemm (fn q : Nat) (adm : Option Verdict) (s : State) : Out := runVf 0x0602 fn q s fun s c t => s.workCmd c t adm

/-- BATCH (R439). -/
def execBatch (fn q : Nat) (adm : Option Verdict) (s : State) : Out := runVf 0x0603 fn q s fun s c t => s.batchCmd c t adm

/-- COLLECTIVE (R402, R404). -/
def execCollective (fn q : Nat) (adm : Option Verdict) (s : State) : Out := runVf 0x0704 fn q s fun s c t => s.collCmd c t adm

end Sys2Proof.Machine
end

