-- ==== Sys2Proof/Machine/Slices.lean ====
section
/-! DEFINITION. Windows, archipelagos and link enables as commands (R91, R373 to R375, R392, R393, R408, R463). -/

namespace Sys2Proof.Machine

namespace State

/-! ### Windows (R373, R463) -/

/-- The archipelago is the tenant's, and the tenant has joined it (R374, R392, R440). -/
def joinedArch (s : State) (t arch : Nat) : Bool := (s.net.archs.get? arch).any fun a => a.joined && a.tenant == t

/-- Window indices in use, those of transit windows included. -/
def windowsUsed (s : State) : List Nat :=
  s.net.windows.keys ++ s.net.archs.filterMap fun ((_, a) : Nat × Arch) => a.transit.map fun (h, _) => h % 2 ^ 14

-- DESIGN CHOICE, safe: log 40.
/-- A free window index, which of them firmware takes is left open; none when 16,384 windows are open. -/
def freeWindow (s : State) : Option Nat := pickOne s.free ((List.range 16384).filter fun i => !s.windowsUsed.contains i)

/-- The generation the next window of an index has. -/
def windowGen (s : State) (i : Nat) : Nat := s.net.winGens.getD i 0

-- DESIGN CHOICE, safe: log 39.
/-- The 64-bit key of the next window, from the random source (R373). -/
def drawKey (s : State) : Nat := Config.freeNat .random s.net.nextKey 64 % 2 ^ 64

/-- The next key is another draw, and the choices made so far are used up. -/
def keyDrawn (s : State) : State := { s with free := s.free + 1, net := { s.net with nextKey := s.net.nextKey + 1 } }

/-- The generation of an index increases when its window closes. -/
def closeWindow (s : State) (i : Nat) : State :=
  { s with net := { s.net with windows := s.net.windows.del i, winGens := s.net.winGens.set i ((s.windowGen i + 1) % 2 ^ 18) } }

/-- The handle of a window, its index below its generation, with its key above (R373). -/
def windowResult (i g key : Nat) : Nat := i + 2 ^ 14 * g + 2 ^ 64 * key

/-- A window is opened where an index is free: its handle and key are the result. -/
def putWindow (s : State) (f : Nat → Nat → Window) : CmdEff :=
  (s.freeWindow.map fun i =>
    let g := s.windowGen i
    let key := s.drawKey
    let s1 := s.keyDrawn
    ({ s1 with net := { s1.net with windows := s1.net.windows.set i (f g key) } } : State).ends (windowResult i g key)).getD (s.fails .limit)

/-- The partition in which a window's holm indices are counted: a partition of the tenant in which all of them exist. -/
def windowPart (s : State) (t : Nat) (ixs : List Nat) : Option Nat :=
  pickOne (s.free + 1) ((s.ten.parts.filter fun ((_, p) : Nat × Partition) => p.tenant == t && ixs.all fun i => i < p.holms.length).map (·.1))

/-- A line range has mode WINDOW on a logical holm (R91). -/
def windowLines (s : State) (lg first last : Nat) : Bool :=
  match s.physOf? lg with
  | some p => (s.holm p).exposed first last 2
  | none => false

/-- The tenant may open one more window (R454). -/
def windowRoom (s : State) (t : Nat) : Bool :=
  (s.tenant? t).any fun x => (s.net.windows.filter fun ((_, w) : Nat × Window) => w.tenant == t).length < x.quotas.windows

/-- WINDOW_OPEN of a memory range. -/
def openMemory (s : State) (c : Cmd) (t : Nat) : CmdEff :=
  let a := c.arg 48 8
  let n := c.arg 56 8
  if !s.tenantMapped t a 4096 then s.fails .badAddress
  else if c.arg 33 1 = 0 ∨ c.arg 34 1 ≠ 0 ∨ c.arg 64 16 ≠ 0 ∨ n = 0 ∨ n % 4096 ≠ 0 ∨ 2 ^ 40 < n then s.fails .badCommand
  else if !s.joinedArch t (c.arg 40 8) then s.fails .noPermission
  else if !s.windowRoom t then s.fails .limit
  else s.putWindow fun g key =>
    { tenant := t, memory := true, write := bitAt c.raw 264, read := bitAt c.raw 265, base := a, len := n, holms := []
      arch := c.arg 40 8, gen := g, key := key }

/-- WINDOW_OPEN of a line range on 1 to 16 holms. -/
def openScratch (s : State) (c : Cmd) (t : Nat) : CmdEff :=
  let n := c.arg 34 1
  let lines := c.arg 48 8
  let first := fld lines 0 17
  let last := fld lines 32 17
  let ixs := (List.range n).map fun i => c.arg (64 + i) 1
  if c.arg 33 1 = 0 ∨ n = 0 ∨ 16 < n ∨ lines ≠ first + 2 ^ 32 * last ∨ last < first ∨ c.arg 56 8 ≠ 0 ∨ 2 ^ (8 * n) ≤ c.arg 64 16 then
    s.fails .badCommand
  else if !s.joinedArch t (c.arg 40 8) then s.fails .noPermission
  else match s.windowPart t ixs with
    | none => s.fails .noPermission
    | some part =>
      let lgs := ixs.filterMap fun i => (s.ten.parts.get? part).bind fun p => p.holms[i]?
      if !lgs.all fun lg => s.windowLines lg first last then s.fails .noPermission
      else if !s.windowRoom t then s.fails .limit
      else s.putWindow fun g key =>
        { tenant := t, memory := false, write := bitAt c.raw 264, read := bitAt c.raw 265, base := 32 * first
          len := 32 * (last - first + 1), holms := (ixs.zip lgs).map fun (i, lg) => (part, i, s.epochOf lg), arch := c.arg 40 8
          gen := g, key := key }

-- DEDUCED, unsafe: log 41.
/-- WINDOW_OPEN (R91, R373). -/
def openCmd (s : State) (c : Cmd) (t : Nat) : CmdEff :=
  match c.arg 32 1 with
  | 0 => s.openMemory c t
  | 1 => s.openScratch c t
  | _ => s.fails .badCommand

/-- WINDOW_CLOSE: a handle that names no open window of the tenant is absent (R243, R440). -/
def closeCmd (s : State) (c : Cmd) (t : Nat) : CmdEff :=
  let h := c.arg 32 4
  match s.net.windows.get? (h % 2 ^ 14) with
  | some w => if w.gen = h / 2 ^ 14 ∧ w.tenant = t then (s.closeWindow (h % 2 ^ 14)).ends 0 else s.fails .badAddress
  | none => s.fails .badAddress

/-! ### Archipelagos (R392, R408, R439) -/

def modArch (s : State) (a : Nat) (f : Arch → Arch) : State := { s with net := { s.net with archs := s.net.archs.modify a f } }

-- DEDUCED, unsafe: log 42.
/-- SLICE_JOIN: the tenant's partitions are bound to a defined archipelago, and its transit window opens (R392, R408). -/
def joinCmd (s : State) (c : Cmd) (t : Nat) : CmdEff :=
  let id := c.arg 32 8
  match (s.net.archs.get? id).filter fun a => a.tenant == t with
  | none => s.fails .noPermission
  | some a =>
    if a.joined then s.ends a.own
    else match s.freeWindow with
      | none => s.fails .limit
      | some i =>
        let w := (i + 2 ^ 14 * s.windowGen i, s.drawKey)
        (s.keyDrawn.modArch id fun a => { a with joined := true, transit := some w }).ends a.own

/-- A plan, a window or a collective uses the archipelago. -/
def archUsed (s : State) (id : Nat) : Bool :=
  (s.isth.works.any fun ((_, w) : Nat × Work) => w.arch == id) || (s.net.windows.any fun ((_, w) : Nat × Window) => w.arch == id)
    || s.net.colls.any fun ((_, c) : Nat × Coll) => c.arch == id

/-- SLICE_LEAVE: the transit window closes (R408, R439). -/
def leaveCmd (s : State) (c : Cmd) (t : Nat) : CmdEff :=
  let id := c.arg 32 8
  if !s.joinedArch t id then s.fails .noPermission
  else if s.archUsed id then s.fails .limit
  else
    let s1 := match ((s.net.archs.get? id).bind (·.transit)) with | some (h, _) => s.closeWindow (h % 2 ^ 14) | none => s
    (s1.modArch id fun a => { a with joined := false, transit := none }).ends 0

/-- A member entry of 24 bytes: index, serial, incarnation and rack identity (R439). -/
def memberOf (e : List Nat) : Nat × Nat × Nat × Nat :=
  let v := ofBytes e
  (fld v 160 16, fld v 0 64, fld v 64 64, fld v 128 32)

/-- The member table of a definition, where it is well formed. -/
def memberTable (s : State) (own : Nat) (bs : List Nat) : Option (AMap (Nat × Nat × Nat)) :=
  let es := chunks 24 bs
  let ms := es.map memberOf
  if bs.isEmpty ∨ bs.length % 24 ≠ 0 ∨ 24576 < bs.length then none
  else if (es.any fun e => ofBytes (e.drop 22) != 0) ∨ ms.any fun m => 1023 < m.1 then none
  else if (ms.map (·.1)).eraseDups.length ≠ ms.length ∨ (ms.map (·.2.1)).eraseDups.length ≠ ms.length then none
  else if !ms.any fun m => m.1 == own && m.2.1 == s.net.serial && m.2.2.1 == s.net.inc then none
  else some (ms.foldl (fun m (k, x) => m.set k x) ([] : AMap (Nat × Nat × Nat)))

/-- A started plan of the tenant uses the archipelago (R392). -/
def archPlanned (s : State) (id : Nat) : Bool :=
  s.isth.works.any fun ((_, w) : Nat × Work) => w.kind == .plan && w.started && w.arch == id

/-- A definition becomes current in one step; ports that now find their peer in the member table come up (R392, R393). -/
def defineArch (s : State) (id t own : Nat) (ms : AMap (Nat × Nat × Nat)) : State :=
  let a : Arch := match s.net.archs.get? id with
    | some a => { a with own := own, members := ms }
    | none => ⟨t, own, ms, false, none⟩
  let s1 : State := { s with net := { s.net with archs := s.net.archs.set id a } }
  ((List.range 32).foldl (fun (s : State) i => s.tryUp i) s1).followOffers

-- DEDUCED, unsafe: log 42.
/-- SLICE_DEFINE (R392). -/
def defineCmd (s : State) (c : Cmd) : CmdEff :=
  let id := c.arg 32 8
  let t := c.arg 40 2
  let own := c.arg 42 2
  match s.indirect c.fn c.raw with
  | .error e => s.fails e
  | .ok bs =>
    if id = 0 ∨ (s.tenant? t).isNone ∨ 1023 < own then s.fails .badCommand
    else match s.memberTable own bs with
      | none => s.fails .badCommand
      | some ms => match s.net.archs.get? id with
        | some a =>
          if a.tenant ≠ t then s.fails .badCommand
          else if s.archPlanned id then s.fails .limit
          else (s.defineArch id t own ms).ends 0
        | none => if 64 ≤ s.net.archs.length then s.fails .limit else (s.defineArch id t own ms).ends 0

/-! ### Link enables (R382, R383, R393) -/

/-- A port's enable is withdrawn: the peer is told, and the port is CHARTED; what it carried is moved as from a failed port. -/
def withdrawPort (s : State) (i : Nat) : State :=
  match (s.port i).enabled with
  | none => s
  | some a =>
    let told : State := s.modPort i fun q => { q with
      enabled := none
      mgtOut := if q.st = .up ∨ q.st = .charted then q.mgtOut ++ [enableFlit s i a false] else q.mgtOut }
    if (s.port i).st = .up then
      (((told.cutPartials i).modPort i fun q => { q with st := .charted, peerEn := none, offer := none }).reroute i).followOffers
    else told

/-- One port of LINK_ENABLE. -/
def enablePort (s : State) (id hold : Nat) (on : Bool) (i : Nat) : State :=
  let s1 := s.modPort i fun q => { q with holdMs := hold }
  if on then (s1.modPort i fun q => { q with enabled := some id }).tryUp i else s1.withdrawPort i

-- DEDUCED, unsafe: log 43.
/-- LINK_ENABLE: a port enabled for another archipelago refuses the whole command. -/
def linkCmd (s : State) (c : Cmd) : CmdEff :=
  let mask := c.arg 32 4
  let hold := c.arg 36 2
  let id := c.arg 40 8
  let ps := (List.range 32).filter fun i => bitAt mask i
  if hold = 0 ∨ 10000 < hold ∨ (s.net.archs.get? id).isNone then s.fails .badCommand
  else if ps.any fun i => (s.port i).enabled.any fun a => a != id then s.fails .badCommand
  else (ps.foldl (fun (s : State) i => s.enablePort id hold (bitAt c.raw 304) i) s).ends 0

end State

/-! ### The rows -/

/-- WINDOW_OPEN (R91, R373, R463). -/
def execWindowOpen (fn q : Nat) (s : State) : Out := runVf 0x0701 fn q s fun s c t => s.openCmd c t

/-- WINDOW_CLOSE (R373, R463). -/
def execWindowClose (fn q : Nat) (s : State) : Out := runVf 0x0702 fn q s fun s c t => s.closeCmd c t

/-- SLICE_JOIN (R392, R408). -/
def execSliceJoin (fn q : Nat) (s : State) : Out := runVf 0x0703 fn q s fun s c t => s.joinCmd c t

/-- SLICE_LEAVE (R439). -/
def execSliceLeave (fn q : Nat) (s : State) : Out := runVf 0x0705 fn q s fun s c t => s.leaveCmd c t

/-- SLICE_DEFINE (R392). -/
def execSliceDefine (fn q : Nat) (s : State) : Out := runCmd 0x0F04 fn q s fun s c => s.defineCmd c

/-- LINK_ENABLE (R393). -/
def execLinkEnable (fn q : Nat) (s : State) : Out := runCmd 0x0F05 fn q s fun s c => s.linkCmd c

end Sys2Proof.Machine
end

