-- ==== Sys2Proof/Machine/Admin.lean ====
section
/-! DEFINITION. Commands of PF0: tenants, partitions, caps, firmware, parity and tier-3 backing; and energy readings (R332, R349, R440,
R449 to R457, R504, R516, R530, R538, R539, R544). -/

namespace Sys2Proof.Machine

namespace State

/-! ### Caps and energy (R516, R530) -/

-- DEDUCED, unsafe: log 44.
/-- CAP_SET: bit 0 of the result says that the need exceeds the new cap. -/
def capCmd (s : State) (c : Cmd) : CmdEff :=
  let cap := c.arg 32 2
  let window := c.arg 36 2
  if cap < 400 ∨ 2500 < cap ∨ window < 1000 ∨ 10000 < window then s.fails .badCommand
  else match s.capSet cap window c.since with
    | (s1, need) => s1.ends need.toNat

/-- The counter that ENERGY_READ names; a VF sees what is its own (R440). -/
def energyOf (s : State) (fn scope i : Nat) : Option Nat :=
  let mine (t : Nat) : Bool := fn == 0 || s.boundTo fn == some t
  match scope with
  | 0 => if (s.tenant? i).isSome && mine i then some (s.pow.eTenant.getD i 0) else none
  | 1 => if i < 8 ∧ (s.que? fn i).isSome then some (s.pow.eQueue.getD (queKey fn i) 0) else none
  | 2 => match s.ten.parts.get? i with
    | some p => if mine p.tenant then some (s.pow.ePart.getD i 0) else none
    | none => none
  | _ => some s.pow.energy

-- DEDUCED, unsafe: log 45.
/-- ENERGY_READ: the counter and the rack time of the reading. -/
def energyCmd (s : State) (c : Cmd) : CmdEff :=
  if 3 < c.arg 32 1 then s.fails .badCommand
  else match s.energyOf c.fn (c.arg 32 1) (c.arg 34 2) with
    | some e => s.ends (e % 2 ^ 64 + 2 ^ 64 * (s.now % 2 ^ 64))
    | none => s.fails .noPermission

/-! ### Tenants (R452 to R454) -/

/-- The quotas that TENANT_CREATE names. -/
def quotasOf (c : Cmd) : Quotas := ⟨c.arg 40 4, c.arg 44 4, c.arg 48 4, c.arg 52 4, c.arg 56 1, c.arg 58 2⟩

/-- What a tenant uses of each quota (R454). -/
def usage (s : State) (t : Nat) : Quotas :=
  { tier1 := s.pagesIn t 1, tier2 := s.pagesIn t 2, tier3 := s.pagesIn t 3
    descriptors := (s.kv.descs.filter fun ((_, d) : Nat × Desc) => d.tenant == t).length
    pools := (s.kv.pools.filter fun ((_, q) : Nat × Pool) => q.tenant == t).length
    windows := (s.net.windows.filter fun ((_, w) : Nat × Window) => w.tenant == t).length }

end State

/-- Some use is above its quota. -/
def Quotas.below (q u : Quotas) : Bool :=
  decide (q.tier1 < u.tier1) || decide (q.tier2 < u.tier2) || decide (q.tier3 < u.tier3) || decide (q.descriptors < u.descriptors)
    || decide (q.pools < u.pools) || decide (q.windows < u.windows)

namespace State

/-- A new tenant, with a tier-3 key of its own and counters at 0 (R349, R452, R530). -/
def newTenant (s : State) (t vf : Nat) (q : Quotas) : State :=
  let key := Config.freeNat .random s.net.nextKey 0
  { s with
    ten := { s.ten with tenants := s.ten.tenants.set t ⟨vf, q, [], key⟩ }
    net := { s.net with nextKey := s.net.nextKey + 1 }
    pow := { s.pow with eTenant := s.pow.eTenant.set t 0 } }

-- DEDUCED, unsafe: log 46.
/-- TENANT_CREATE: a new tenant, or new quotas of a tenant with its own VF. -/
def createTenant (s : State) (c : Cmd) : CmdEff :=
  let t := c.arg 32 2
  let vf := c.arg 34 2
  let q := quotasOf c
  if 1023 < t ∨ vf = 0 ∨ 1024 < vf then s.fails .badCommand
  else match s.tenant? t with
    | some x =>
      if x.vf ≠ vf then s.fails .badCommand
      else if q.below (s.usage t) then s.fails .limit
      else ({ s with ten := { s.ten with tenants := s.ten.tenants.set t { x with quotas := q } } } : State).ends 0
    | none => if (s.boundTo vf).isSome then s.fails .badCommand else (s.wakeAll.newTenant t vf q).ends 0

/-- The tenant holds an object (R453). -/
def holdsAny (s : State) (t : Nat) : Bool :=
  ((s.tenant? t).any fun x => !x.table.isEmpty || s.isth.queues.keys.any fun k => k / 8 == x.vf && k % 8 != 0)
    || (s.kv.pools.any fun ((_, q) : Nat × Pool) => q.tenant == t) || (s.kv.descs.any fun ((_, d) : Nat × Desc) => d.tenant == t)
    || (s.isth.models.any fun ((_, m) : Nat × Model) => m.tenant == t) || (s.isth.works.any fun ((_, w) : Nat × Work) => w.tenant == t)
    || (s.isth.natives.any fun ((_, n) : Nat × Native) => n.tenant == t) || (s.net.windows.any fun ((_, w) : Nat × Window) => w.tenant == t)
    || (s.ten.parts.any fun ((_, p) : Nat × Partition) => p.tenant == t) || (s.ten.changes.any fun x => x.tenant == t)
    || s.net.archs.any fun ((_, a) : Nat × Arch) => a.tenant == t && a.joined

/-- A tenant goes: its VF is unbound, its key discarded, its energy counts as attributed to no tenant, and no holm keeps user slots
for it (R453, R457, R530). -/
def dropTenant (s : State) (t : Nat) : State :=
  { s with
    ten := { s.ten with tenants := s.ten.tenants.del t }
    pow := { s.pow with unattr := (s.pow.unattr + s.pow.eTenant.getD t 0) % 2 ^ 64, eTenant := s.pow.eTenant.del t }
    holms := s.holms.map fun ((p, h) : Nat × Holm) => (p, if h.owner = some t then { h with owner := none } else h) }

-- DEDUCED, unsafe: log 46.
/-- TENANT_DESTROY. -/
def destroyTenant (s : State) (c : Cmd) : CmdEff :=
  let t := c.arg 32 2
  if (s.tenant? t).isNone then s.fails .badCommand
  else if s.holdsAny t then s.fails .limit
  else (s.dropTenant t).ends 0

/-! ### Partitions (R455 to R457, R544) -/

/-- The bitmap names a holm of another partition, also one on its way there, or a logical holm that nothing serves (R455, R544). -/
def bitmapTaken (s : State) (n bits : Nat) : Bool :=
  (bitmapHolms bits).any fun lg => (s.physOf? lg).isNone || (s.ten.parts.any fun ((k, p) : Nat × Partition) => k != n && p.bitmap.getLsbD lg)
    || s.ten.changes.any fun x => x.part != n && bitAt x.bitmap lg

-- DEDUCED, unsafe: log 47.
/-- PARTITION_SET: the change waits for its slack, or for its holms to be idle (R457). -/
def setPartition (s : State) (c : Cmd) : CmdEff :=
  let n := c.arg 32 1
  let t := c.arg 34 2
  let bits := c.arg 40 32
  let x : PartChange := ⟨n, t, bits, c.since, c.name⟩
  if (s.tenant? t).isNone then s.fails .badCommand
  else if s.bitmapTaken n bits ∨ s.partBreaks x then s.fails .limit
  else (({ s with ten := { s.ten with changes := s.ten.changes ++ [x] } } : State).idleParts, none)

/-! ### Firmware (R449 to R451, R538, R539) -/

/-- An event of the firmware class (R574): 0 staged, 1 handover done, 2 handover abandoned. -/
def firmwareLog (s : State) (release what : Nat) : State := s.log 0x0C 0 none 0 (release % 2 ^ 64 + 2 ^ 64 * what)

/-- FIRMWARE_STAGE: an authentic image of this generation goes to the flash slot that is not active. It waits while an activation is
under way. -/
def stageImage (s : State) (c : Cmd) (authentic : Bool) : CmdEff :=
  if s.isth.activate.isSome then s.waits c
  else match s.indirect c.fn c.raw with
    | .error e => s.fails e
    | .ok bs =>
      let h := ofBytes (bs.take 256)
      match s.imageOf? h authentic with
      | none => s.fails .badCommand
      | some m =>
        if bs.length ≠ 256 + fld h 128 26 then s.fails .badCommand
        else if m.gen ≠ 2 then s.fails .version
        else if !s.imageOk m then s.fails .noPermission
        else
          let s1 : State := { s with
            free := s.free + 1, isth := { s.isth with slots := setAt s.isth.slots (1 - s.isth.active) m, staged := true } }
          (s1.firmwareLog m.release 0).ends (2 ^ 64 * (m.release % 2 ^ 64))

/-- The staged image. -/
def stagedImage (s : State) : Option FwImage := if s.isth.staged then s.isth.slots[1 - s.isth.active]? else none

/-- FIRMWARE_ACTIVATE: the spare core boots the staged image; the command ends with the handover. -/
def activateCmd (s : State) (c : Cmd) : CmdEff :=
  match s.stagedImage with
  | none => s.fails .limit
  | some m =>
    if s.isth.activate.isSome then s.fails .limit
    else if s.isth.queues.any fun ((_, x) : Nat × Que) => decide (x.minor < m.loMinor) || decide (m.hiMinor < x.minor) then s.fails .version
    else ({ s with isth := { s.isth with activate := some (c.name, 0) } }, none)

/-- Every function that exists. -/
def functions (s : State) : List Nat := 0 :: if s.boot.vfEnable then (List.range s.boot.numVfs).map (· + 1) else []

-- DEDUCED, unsafe: log 48.
/-- A handover: the new image runs, or the attempt is abandoned; the sixteenth time, the activation is (R450, R451). -/
def handover (s : State) (faulted : Bool) : State :=
  match s.isth.activate, s.stagedImage, s.flt.spareCore with
  | some (id, n), some m, some _ =>
    if !s.isReady then s
    else if faulted then
      let s1 := s.firmwareLog m.release 2
      if 15 ≤ n then ({ s1 with isth := { s1.isth with activate := none } } : State).endCmd id .aborted 0 false
      else { s1 with isth := { s1.isth with activate := some (id, n + 1) } }
    else
      let s1 : State := { s with
        isth := { s.isth with active := 1 - s.isth.active, staged := false, activate := none }
        boot := { s.boot with release := m.release } }
      let body := m.release % 2 ^ 64 + 2 ^ 64 * (s.now % 2 ^ 64)
      let s2 := (s1.firmwareLog m.release 1).endCmd id .done (s.now % 2 ^ 64 + 2 ^ 64 * (m.release % 2 ^ 64)) false
      s2.functions.foldl (fun (s : State) fn => s.notice fn 0x40 body) s2
  | _, _, _ => s

/-! ### Parity and tier 3 (R332, R349) -/

/-- PARITY_SET: flash holds the settings for the next cold reset. -/
def setParity (s : State) (c : Cmd) : CmdEff :=
  ({ s with mem := { s.mem with hbmParityNext := bitAt c.raw 256, lpdParityNext := bitAt c.raw 257 } } : State).ends 0

-- DEDUCED, unsafe: log 49.
/-- TIER3_REGISTER: one more range of host memory, of 2 MiB pages, up to 1 TiB in all. -/
def registerTier3 (s : State) (c : Cmd) : CmdEff :=
  let a := c.arg 40 8
  let n := c.arg 48 8
  if !hostForm a 1 || !s.argMapped none a then s.fails .badAddress
  else if n = 0 ∨ n % regionSize ≠ 0 ∨ 2 ^ 40 < n then s.fails .badCommand
  else if 2 ^ 40 < n + (s.mem.backing.map fun ((_, k) : Nat × Nat) => k).sum then s.fails .limit
  else ({ s with mem := { s.mem with backing := s.mem.backing ++ [(a % 2 ^ 63, n)] } } : State).ends 0

end State

/-! ### The rows -/

/-- CAP_SET (R516 to R521). -/
def execCapSet (fn q : Nat) (s : State) : Out := runCmd 0x0801 fn q s fun s c => s.capCmd c

/-- ENERGY_READ (R530). -/
def execEnergyRead (fn q : Nat) (s : State) : Out := runCmd 0x0802 fn q s fun s c => s.energyCmd c

/-- TENANT_CREATE (R452, R454). -/
def execTenantCreate (fn q : Nat) (s : State) : Out := runCmd 0x0F01 fn q s fun s c => s.createTenant c

/-- TENANT_DESTROY (R453). -/
def execTenantDestroy (fn q : Nat) (s : State) : Out := runCmd 0x0F02 fn q s fun s c => s.destroyTenant c

/-- PARTITION_SET (R455 to R457). -/
def execPartitionSet (fn q : Nat) (s : State) : Out := runCmd 0x0F03 fn q s fun s c => s.setPartition c

/-- FIRMWARE_STAGE (R449, R538, R539). -/
def execFirmwareStage (fn q : Nat) (authentic : Bool) (s : State) : Out := runCmd 0x0F06 fn q s fun s c => s.stageImage c authentic

/-- FIRMWARE_ACTIVATE (R450, R451). -/
def execFirmwareActivate (fn q : Nat) (s : State) : Out := runCmd 0x0F07 fn q s fun s c => s.activateCmd c

/-- FIRMWARE_HANDOVER (R450, R451). -/
def execFirmwareHandover (faulted : Bool) (s : State) : Out := .next (s.handover faulted)

/-- PARITY_SET (R332). -/
def execParitySet (fn q : Nat) (s : State) : Out := runCmd 0x0F08 fn q s fun s c => s.setParity c

/-- TIER3_REGISTER (R349). -/
def execTier3Register (fn q : Nat) (s : State) : Out := runCmd 0x0F09 fn q s fun s c => s.registerTier3 c

end Sys2Proof.Machine
end

