-- ==== Sys2Proof/Machine/Flr.lean ====
section
/-! DEFINITION. Function-level resets and VF Enable (R551, R552). -/

namespace Sys2Proof.Machine

namespace State

-- PRESUMED, unsafe: log 50.
/-- Step 1 of R551: the function's queues, notice ring and commands in progress go; commands that wait for a commit point have no
effect, and no migration of theirs swaps. -/
def resetFunction (s : State) (fn : Nat) : State :=
  let s1 := (s.mem.moves.filter fun v => v.cmd.any fun id => id.1 == fn).foldl (fun (s : State) v => s.dropMove v) s
  { s1 with
    isth := { s1.isth with
      cmds := s1.isth.cmds.filter fun c => c.fn != fn
      queues := s1.isth.queues.filter fun ((k, _) : Nat × Que) => k / 8 != fn
      regs := s1.isth.regs.del fn
      rings := s1.isth.rings.del fn
      msix := s1.isth.msix.filter fun ((k, _) : Nat × Msix) => k / 8 != fn
      activate := s1.isth.activate.filter fun (id, _) => id.1 != fn }
    kv := { s1.kv with commits := s1.kv.commits.filter fun c => c.cmd.1 != fn }
    ten := { s1.ten with changes := s1.ten.changes.filter fun c => c.cmd.1 != fn }
    pow := { s1.pow with eQueue := s1.pow.eQueue.filter fun ((k, _) : Nat × Nat) => k / 8 != fn } }

/-- A substitution that a unit of work waits for is made at once. -/
def endRecovery (s : State) (w : Nat) : State :=
  let s1 := (s.flt.recovery.filter fun c => c.work == w && c.row == 0 && !c.swapped).foldl (fun (s : State) c => s.swapHolm c) s
  { s1 with flt := { s1.flt with recovery := s1.flt.recovery.filter fun c => c.work != w } }

-- DESIGN CHOICE, unsafe: log 52.
/-- Step 2: a unit of work ends; its appends do not commit, and its rings and collectives abort toward their peers (R260, R296,
R421). -/
def endWork (s : State) (w t : Nat) : State :=
  let s1 := (s.endRecovery w).failWork w .aborted
  let s2 := (s1.runnersOf w).foldl (fun (s : State) p => s.leaveHolm p .idle) s1
  let s3 := (s2.commitAppends w t false).1
  { s3 with
    isth := { s3.isth with works := s3.isth.works.del w }
    net := { s3.net with
      rings := s3.net.rings.filter fun ((_, r) : Nat × Ring) => r.work != w
      colls := s3.net.colls.filter fun ((_, c) : Nat × Coll) => c.work != w } }

/-- Every sequence and pool of a tenant is freed (R243, R551). -/
def dropPools (s : State) (t : Nat) : State :=
  let ds := s.kv.descs.filter fun ((_, d) : Nat × Desc) => d.tenant == t
  { s with kv := { s.kv with
      pools := s.kv.pools.filter fun ((_, q) : Nat × Pool) => q.tenant != t
      descs := s.kv.descs.filter fun ((_, d) : Nat × Desc) => d.tenant != t
      records := s.kv.records.filter fun ((i, _) : Nat × PendRec) => !ds.any fun (k, _) => k == i
      freed := s.kv.freed ++ ds.map (·.1)
      gens := ds.foldl (fun (m : AMap Nat) ((i, d) : Nat × Desc) => m.set i ((d.gen + 1) % 4096)) s.kv.gens } }

/-- Every page of a tenant is freed, to be zeroed before it is issued again; its tier-3 key is replaced (R331, R551). -/
def dropPages (s : State) (t : Nat) : State :=
  let s0 := (s.mem.moves.filter fun v => v.tenant == t).foldl (fun (s : State) v => s.dropMove v) s
  match s0.tenant? t with
  | none => s0
  | some x =>
    let own := x.table.filter fun ((_, e) : Nat × Trn) => e.aliasOf.isNone
    let key := Config.freeNat .random s0.net.nextKey 0
    { s0 with
      mem := own.foldl (fun (m : MemState) ((_, e) : Nat × Trn) => m.dropPlace e.tier e.target) s0.mem
      ten := { s0.ten with tenants := s0.ten.tenants.set t { x with table := [], tier3Key := key } }
      net := { s0.net with nextKey := s0.net.nextKey + 1 } }

/-- Step 3: every object of a tenant is freed, and it leaves its archipelagos. -/
def dropObjects (s : State) (t : Nat) : State :=
  let s1 : State := { s with isth := { s.isth with
    natives := s.isth.natives.filter fun ((_, n) : Nat × Native) => n.tenant != t
    models := s.isth.models.filter fun ((_, m) : Nat × Model) => m.tenant != t } }
  let s2 := (s1.net.windows.filter fun ((_, w) : Nat × Window) => w.tenant == t).foldl (fun (s : State) (e : Nat × Window) => s.closeWindow e.1) s1
  let s3 := (s2.net.archs.filter fun ((_, a) : Nat × Arch) => a.tenant == t && a.joined).foldl (fun (s : State) (e : Nat × Arch) =>
    let u := match e.2.transit with | some (h, _) => s.closeWindow (h % 2 ^ 14) | none => s
    u.modArch e.1 fun a => { a with joined := false, transit := none }) s2
  (s3.dropPools t).dropPages t

end State

/-- Step 4: a holm of the tenant's partitions is idle, with nothing exposed, empty stores and no lagoon (R551). -/
def Holm.wiped (h : Holm) : Holm :=
  let h1 := (h.dropLagoon).setLagoon 0
  let h2 := { h1 with exposure := [], program := .empty, picots := [], prickings := [], staged := .none, loadDue := false, inv := none }
  match h.st with
  | .running => { h2 with st := .idle }
  | .faulted => { h2 with st := .idle }
  | _ => h2

namespace State

def wipeHolms (s : State) (t : Nat) : State :=
  ((s.ten.parts.filter fun ((_, p) : Nat × Partition) => p.tenant == t).flatMap fun ((_, p) : Nat × Partition) => p.holms).foldl
    (fun (s : State) lg => match s.physOf? lg with | some p => s.modHolm p Holm.wiped | none => s) s

/-- An FLR of a VF (R551). -/
def resetVf (s : State) (v : Nat) : State :=
  match s.boundTo v with
  | none => s.resetFunction v
  | some t =>
    let s1 := s.resetFunction v
    let s2 := ((s1.isth.works.filter fun ((_, w) : Nat × Work) => w.tenant == t).map (·.1)).foldl (fun (s : State) w => s.endWork w t) s1
    ((s2.dropObjects t).wipeHolms t).checkExcess

-- PRESUMED, unsafe: log 51.
/-- VF Enable is cleared: every VF is reset, and its BAR is gone (R552). -/
def disableVfs (s : State) : State :=
  let s1 := if s.boot.vfEnable then (List.range s.boot.numVfs).foldl (fun (s : State) k => s.resetVf (k + 1)) s else s
  s1.modBoot fun b => { b with vfEnable := false }

end State

/-! ### The rows -/

/-- FLR_VF (R551): of a VF that exists. -/
def execFlrVf (v : Nat) (s : State) : Out := .next (if v ≠ 0 ∧ s.reachable v then s.resetVf v else s)

/-- FLR_PF0 (R552). -/
def execFlrPf0 (s : State) : Out := .next (if s.reachable 0 then (s.resetFunction 0).disableVfs else s)

/-- VF_ENABLE_WRITE (R552): NumVFs counts only while VF Enable is clear. -/
def execVfEnableWrite (on : Bool) (num : Nat) (s : State) : Out :=
  .next (if !s.reachable 0 then s
    else if !on then s.disableVfs
    else if s.boot.vfEnable ∨ 1024 < num then s
    else s.modBoot fun b => { b with vfEnable := true, numVfs := num })

end Sys2Proof.Machine
end

