-- ==== Sys2Proof/Machine/Upkeep.lean ====
section
/-! DEFINITION. The page walker's requests and appends, and the upkeep of holms: scrubbing, row repair, lagoon loads and the rated
floor (R51, R85, R93 to R99, R217, R250 to R258, R265, R318, R542). -/

namespace Sys2Proof.Machine

namespace State

/-! ### PEMITs at the walker (R250 to R253) -/

def walk? (s : State) (i : Nat) : Option Walk := s.kv.walks.find? fun w => w.id == i

def modWalk (s : State) (i : Nat) (f : Walk → Walk) : State :=
  { s with kv := { s.kv with walks := s.kv.walks.map fun w => if w.id == i then f w else w } }

/-- A PEMIT is served whole: its rows land, or it fails and rows that may have landed are undefined (R251, R253). -/
def serveWalk (s : State) (w : Walk) (lost : Bool) : State :=
  match s.kvCtx (s.tenantOfHolm w.phys) with
  | none => s.modWalk w.id fun x => { x with failed := some .badAddress }
  | some c =>
    let h := s.holm w.phys
    match w.run c h.rd lost with
    | .ok o =>
      let (tag, s1) := (s.touch (s.workOfHolm w.phys) c.tid o.reads).takeFree 1
      let h1 := o.rows.foldl (fun (h : Holm) (a, bs) => h.putBytes a bs) (s1.holm w.phys)
      let h2 := o.undef.foldl (fun (h : Holm) (a, b) => h.spoil a b tag) h1
      (s1.setHolm w.phys h2).modWalk w.id fun x => { x with landed := true, header := o.header }
    | .error e =>
      let (tag, s1) := s.takeFree 1
      let area := (((c.kv.validDesc c.tid w.handle).bind fun (_, d) => c.kv.pools.get? d.pool).map fun q => w.areaWords q 0).getD 0
      let torn := (e == .memoryError || e == .badAddress) && decide (64 < area ∧ w.sreg + area ≤ lastWord + 1)
      (if torn then s1.modHolm w.phys fun h => h.spoil (w.sreg + 64) (w.sreg + area - 1) tag else s1).modWalk w.id
        fun x => { x with failed := some e }

/-- The header is written and the tile is counted, in tile order (R220, R252). -/
def closeWalk (s : State) (w : Walk) : State :=
  let h0 := w.header.foldl (fun (h : Holm) (a, bs) => h.putBytes a bs) (s.holm w.phys)
  let h1 := h0.modChan w.ch fun c => c.modTile w.tile fun t => { t with walker := false }
  let c := h1.chan w.ch
  let h2 := match c.nextDone with
    | some t => if c.failed.isSome ∨ t.num ≠ w.tile then h1
      else h1.setChan w.ch { c.modTile t.num (fun t => { t with counted := true }) with count := c.count + 1 }
    | none => h1
  let s1 := s.setHolm w.phys h2
  { s1 with kv := { s1.kv with walks := s1.kv.walks.filter fun x => x.id != w.id } }

/-- A failed PEMIT stops its channel at its instruction (R224, R253). -/
def failWalk (s : State) (w : Walk) (st : Status) : State :=
  let s1 := s.modHolm w.phys fun h => h.modChan w.ch fun c => { c with failed := c.failed.or (some (st, w.pc, w.tile)) }
  { s1 with kv := { s1.kv with walks := s1.kv.walks.filter fun x => x.id != w.id } }

/-! ### Appends by a holm (R255, R256, R318) -/

/-- The rows of a KVA in the holm's scratchpad, in the layout of R250. -/
def kvaRows (h : Holm) (q : Pool) (j : KvaJob) : List AppendRows :=
  (List.range j.hcnt).map fun i =>
    let base := j.src + 8 * (i * j.tokens * (q.rk + q.rv))
    { layer := j.layer, head := j.h0 + i
      k := (List.range j.tokens).map fun t => h.bytes (4 * (base + 8 * (t * q.rk))) (q.d * q.wk)
      v := (List.range j.tokens).map fun t => h.bytes (4 * (base + 8 * (j.tokens * q.rk + t * q.rv))) (q.d * q.wv) }

/-- The stage that appends to some pairs of layer and head, in the pending record (R487). -/
def ownPairs (s : State) (handle stage layer h0 hcnt : Nat) : State :=
  { s with kv := { s.kv with records := s.kv.records.modify (handle % 2 ^ 20) fun r =>
      { r with owner := (List.range hcnt).foldl (fun (m : AMap Nat) i => m.set (16 * layer + h0 + i) stage) r.owner } } }

def acceptKva (s : State) (p ch : Nat) : State :=
  let h := s.holm p
  match (h.chan ch).kva, h.inv with
  | some j, some i =>
    let t := s.tenantOfHolm p
    let fail (st : Status) : State := s.setHolm p (h.deferred j.pc 0x31 ch st 0)
    if h.st ≠ .running ∨ h.fault.isSome then s
    else match s.kvCtx t, s.poolOfHandle t j.handle with
      | some c, some q =>
        let n := j.hcnt * j.tokens * (q.rk + q.rv)
        if h.poisonedIn (j.src / 8) (j.src / 8 + n - 1) then
          s.setHolm p { h.deferred j.pc 0x31 ch .memoryError 0 with badRow := h.badLine p (j.src / 8) (j.src / 8 + n - 1) }
        else match c.append i.work j.handle j.off j.tokens (kvaRows h q j) with
          | .error st => fail st
          | .ok c1 =>
            let h1 := (h.retire [j.entry]).modChan ch fun x => { x with kva := none }
            (((s.putKv c1).setHolm p h1.pump).ownPairs j.handle i.stage j.layer j.h0 j.hcnt).touch i.work t
              (c1.rowSpans i.work j.handle j.off j.tokens ((List.range j.hcnt).map fun k => (j.layer, j.h0 + k)))
      | _, _ => fail .badAddress
  | _, _ => s

/-! ### Scrubbing and row repair (R93 to R99) -/

/-- A row has become a candidate for repair (R96): errors in two passes, or three in all. -/
def rowCandidate (h : Holm) (line : Nat) : Bool :=
  let (passes, total) := h.rowErrors.getD line (0, 0)
  decide (2 ≤ passes) || decide (3 ≤ total)

def rowTaken (h : Holm) (bank row : Nat) : Bool :=
  (h.repairing.any fun r => r.bank == bank && r.row == row)

/-- A row that cannot be repaired for want of a spare row: the event is logged and the holm is to be retired (R97). -/
def retireForRow (s : State) (p bank row : Nat) : State :=
  if (s.holm p).retirePlanned then s
  else (s.modHolm p fun h => { h with retirePlanned := true }).log 8 0 none (p % 2 ^ 9 + 2 ^ 9 * bank + 2 ^ 15 * row) 0

/-- A row enters the shadow repair map (R96, R99). -/
def mapRow (s : State) (p bank row : Nat) : State :=
  let h := s.holm p
  if rowTaken h bank row then s
  else match spareRow? h bank with
    | some k => s.setHolm p { h with repairing := h.repairing ++ [⟨bank, row, k, true⟩] }
    | none => s.retireForRow p bank row

/-- The scrubber visits a line: the errors it finds, each a word of the line and whether it is uncorrectable. -/
def scrub (s : State) (p line : Nat) (errs : List (Nat × Bool)) : State :=
  let h := s.holm p
  let (bank, row) := bankOf line
  let soft := (errs.filter fun (_, bad) => !bad).length
  let hard := (errs.filter fun (w, bad) => bad && decide (w < 8)).map fun (w, _) => 8 * line + w
  if h.st = .fusedOut ∨ h.st = .gated ∨ 131072 ≤ line ∨ !h.written.has line then s
  else
    let (a, n) := h.rowErrors.getD line (0, 0)
    let h1 := { h with
      ceCount := (h.ceCount + soft) % 2 ^ 32
      rowErrors := if soft = 0 then h.rowErrors else h.rowErrors.set line (a + 1, n + soft)
      poison := h.poison ++ hard.filter fun w => !h.poison.contains w }
    let s1 := s.setHolm p h1
    if !hard.isEmpty then s1.mapRow p bank row
    else if rowCandidate h1 line && (spareRow? h1 bank).isNone && !rowTaken h1 bank row then s1.retireForRow p bank row
    else s1

/-! ### The repair table (R96, R542) -/

/-- Records that wait are written to flash, those of a holm's repair maps among them. -/
def writeRepairs (s : State) (p : Nat) : State :=
  let own := (s.holm p).repairRecord.map fun (b, r, k) => Repair.rowMap p b r k
  let new := (s.boot.repairsDue ++ own).filter fun r => !s.boot.repairs.contains r
  { s.modHolm p (fun h => { h with repairRecord := [] }) with
    boot := { s.boot with repairs := s.boot.repairs ++ new.eraseDups, repairsDue := [] } }

/-- A holm that fails its check at 2.0 GHz is retired at the next slack or start, and at once where nothing runs on it; without a
spare it is treated as failed (R51). -/
def floorFailed (s : State) (p : Nat) : State :=
  match s.lgOf? p with
  | none => if (s.holm p).st = .spare then s.fuseOut p else s
  | some lg =>
    if (s.spareOf? (p / 68)).isNone then s.pulseLoss p
    else
      let s1 := s.modHolm p fun h => { h with retirePlanned := true }
      if s1.holmPlanned lg ∨ (s1.holm p).inv.isSome then s1 else s1.retireHolms [p]

end State

/-! ### The rows -/

/-- WALKER_REQUEST (R217, R249 to R253, R266 to R271). -/
def execWalkerRequest (i : Nat) (lost : Bool) (s : State) : Out :=
  .next (match s.walk? i with
    | some w => if w.landed ∨ w.failed.isSome ∨ (s.holm w.phys).st ≠ .running then s else s.serveWalk w lost
    | none => s)

/-- WALKER_TILE_COMPLETE (R252). -/
def execWalkerTileComplete (i : Nat) (s : State) : Out :=
  .next (match s.walk? i with
    | some w => if w.landed ∧ (s.holm w.phys).st = .running then s.closeWalk w else s
    | none => s)

/-- WALKER_FAILURE (R253). -/
def execWalkerFailure (i : Nat) (s : State) : Out :=
  .next (match s.walk? i with
    | some w => match w.failed with | some st => s.failWalk w st | none => s
    | none => s)

/-- KV_APPEND_ACCEPT (R256). -/
def execKvAppendAccept (p ch : Nat) (s : State) : Out := onHolm p s fun _ s => s.acceptKva p ch

/-- PAGE_FREE_RETURN (R265). -/
def execPageFreeReturn (pool : Nat) (s : State) : Out :=
  .next { s with kv := { s.kv with pools := s.kv.pools.modify pool fun q => q.returnPages s.kv.walks } }

/-- SCRUB_VISIT (R94, R96, R97, R99). -/
def execScrubVisit (p line : Nat) (errs : List (Nat × Bool)) (s : State) : Out := onHolm p s fun _ s => s.scrub p line errs

/-- ROW_REPAIR_COPY (R96). -/
def execRowRepairCopy (p bank row : Nat) (s : State) : Out :=
  onHolm p s fun h s => if bank < 64 ∧ State.rowCandidate h (64 * row + bank) then s.mapRow p bank row else s

/-- REPAIR_TABLE_WRITE (R96, R542). -/
def execRepairTableWrite (p : Nat) (s : State) : Out := onHolm p s fun _ s => s.writeRepairs p

/-- LAGOON_IMAGE_LOAD (R85): a holm under FILL runs no invocation. -/
def execLagoonImageLoad (p : Nat) (s : State) : Out := onHolm p s fun h s => if h.inv.isNone then s.loadLagoon p else s

/-- The nominal point of a quadrant rises by 5 mV, by at most 50 mV in all (R507). -/
def State.raiseNominal (s : State) (q : Nat) : State :=
  { s with pow := { s.pow with ageing := modAt s.pow.ageing q fun v => min 50 (v + 5) } }

/-- RATED_FLOOR_CHECK (R51, R507). -/
def execRatedFloorCheck (p : Nat) (pass needsMore : Bool) (s : State) : Out := onHolm p s fun _ s =>
  let s1 := if needsMore then s.raiseNominal (p / 68) else s
  if pass then s1 else s1.floorFailed p

end Sys2Proof.Machine
end

