-- ==== Sys2Proof/Machine/Dispatch.lean ====
section
/-! DEFINITION. One arm per command: a direct call of its meaning. -/

namespace Sys2Proof.Machine

/-- The effect of a command on everything but the queue. -/
def exec (i : Instr) (s : State) : Host.Outcome State Fault Refusal :=
  match i with
  | .nop p => Sys2Proof.Machine.execNop p s
  | .halt p => Sys2Proof.Machine.execHalt p s
  | .tide p => Sys2Proof.Machine.execTide p s
  | .br p => Sys2Proof.Machine.execBr p s
  | .loopSet p => Sys2Proof.Machine.execLoopSet p s
  | .loopAdd p => Sys2Proof.Machine.execLoopAdd p s
  | .loopMul p => Sys2Proof.Machine.execLoopMul p s
  | .loopBack p => Sys2Proof.Machine.execLoopBack p s
  | .barArrive p => Sys2Proof.Machine.execBarArrive p s
  | .barWait p => Sys2Proof.Machine.execBarWait p s
  | .barArriveWait p => Sys2Proof.Machine.execBarArriveWait p s
  | .barrierArrivalEffect p bar => Sys2Proof.Machine.execBarrierArrivalEffect p bar s
  | .waveRelease work => Sys2Proof.Machine.execWaveRelease work s
  | .rng p => Sys2Proof.Machine.execRng p s
  | .msgSend p => Sys2Proof.Machine.execMsgSend p s
  | .msgRecv p => Sys2Proof.Machine.execMsgRecv p s
  | .mma p => Sys2Proof.Machine.execMma p s
  | .mmap p => Sys2Proof.Machine.execMmap p s
  | .ats p => Sys2Proof.Machine.execAts p s
  | .atf p => Sys2Proof.Machine.execAtf p s
  | .atb p => Sys2Proof.Machine.execAtb p s
  | .vop p => Sys2Proof.Machine.execVop p s
  | .cvt p => Sys2Proof.Machine.execCvt p s
  | .sfn p => Sys2Proof.Machine.execSfn p s
  | .bobStart p => Sys2Proof.Machine.execBobStart p s
  | .bobStop p => Sys2Proof.Machine.execBobStop p s
  | .bobPost p => Sys2Proof.Machine.execBobPost p s
  | .bobRelease p => Sys2Proof.Machine.execBobRelease p s
  | .kva p => Sys2Proof.Machine.execKva p s
  | .scoreboardRetire p id => Sys2Proof.Machine.execScoreboardRetire p id s
  | .declaredEntryRetire p id => Sys2Proof.Machine.execDeclaredEntryRetire p id s
  | .invocationComplete p => Sys2Proof.Machine.execInvocationComplete p s
  | .holmFault p hw => Sys2Proof.Machine.execHolmFault p hw s
  | .segmentWatchdog p => Sys2Proof.Machine.execSegmentWatchdog p s
  | .prickingEmit p ch => Sys2Proof.Machine.execPrickingEmit p ch s
  | .prickingAdd p ch => Sys2Proof.Machine.execPrickingAdd p ch s
  | .prickingSeta p ch => Sys2Proof.Machine.execPrickingSeta p ch s
  | .prickingSetl p ch => Sys2Proof.Machine.execPrickingSetl p ch s
  | .prickingLoop p ch => Sys2Proof.Machine.execPrickingLoop p ch s
  | .cwait p ch => Sys2Proof.Machine.execCwait p ch s
  | .pemit p ch => Sys2Proof.Machine.execPemit p ch s
  | .prickingEnd p ch => Sys2Proof.Machine.execPrickingEnd p ch s
  | .bobbinParamBlockRead p ch => Sys2Proof.Machine.execBobbinParamBlockRead p ch s
  | .tileLanded p ch => Sys2Proof.Machine.execTileLanded p ch s
  | .tileDrained p ch => Sys2Proof.Machine.execTileDrained p ch s
  | .channelEnded p ch => Sys2Proof.Machine.execChannelEnded p ch s
  | .bobbinFault p ch => Sys2Proof.Machine.execBobbinFault p ch s
  | .remoteAccessArrival n => Sys2Proof.Machine.execRemoteAccessArrival n s
  | .remoteResponseArrival n => Sys2Proof.Machine.execRemoteResponseArrival n s
  | .remoteRequestHeld n => Sys2Proof.Machine.execRemoteRequestHeld n s
  | .msgArrival n => Sys2Proof.Machine.execMsgArrival n s
  | .msgInboxEnter n => Sys2Proof.Machine.execMsgInboxEnter n s
  | .staleRoleReissue n => Sys2Proof.Machine.execStaleRoleReissue n s
  | .scrubVisit p line errs => Sys2Proof.Machine.execScrubVisit p line errs s
  | .rowRepairCopy p bank row => Sys2Proof.Machine.execRowRepairCopy p bank row s
  | .repairTableWrite p => Sys2Proof.Machine.execRepairTableWrite p s
  | .lagoonImageLoad p => Sys2Proof.Machine.execLagoonImageLoad p s
  | .ratedFloorCheck p pass needsMore => Sys2Proof.Machine.execRatedFloorCheck p pass needsMore s
  | .slack work => Sys2Proof.Machine.execSlack work s
  | .checkpointSpill p carried => Sys2Proof.Machine.execCheckpointSpill p carried s
  | .walkerRequest n lost => Sys2Proof.Machine.execWalkerRequest n lost s
  | .walkerTileComplete n => Sys2Proof.Machine.execWalkerTileComplete n s
  | .walkerFailure n => Sys2Proof.Machine.execWalkerFailure n s
  | .kvAppendAccept p ch => Sys2Proof.Machine.execKvAppendAccept p ch s
  | .pageFreeReturn pool => Sys2Proof.Machine.execPageFreeReturn pool s
  | .originBlockFetch rid lost => Sys2Proof.Machine.execOriginBlockFetch rid lost s
  | .shuttleBlockSend rid arrived => Sys2Proof.Machine.execShuttleBlockSend rid arrived s
  | .shuttleBlockLanding rid => Sys2Proof.Machine.execShuttleBlockLanding rid s
  | .shuttleForward rid arrived => Sys2Proof.Machine.execShuttleForward rid arrived s
  | .slotCreditGrant rid => Sys2Proof.Machine.execSlotCreditGrant rid s
  | .ringAbortReceive => Sys2Proof.Machine.execRingAbortReceive s
  | .ringFailure rid status => Sys2Proof.Machine.execRingFailure rid status s
  | .collectivePieceArrival idx => Sys2Proof.Machine.execCollectivePieceArrival idx s
  | .collectorCombine cid piece => Sys2Proof.Machine.execCollectorCombine cid piece s
  | .collectiveCreditReceive => Sys2Proof.Machine.execCollectiveCreditReceive s
  | .alltoallCountReceive => Sys2Proof.Machine.execAlltoallCountReceive s
  | .alltoallGrantReceive => Sys2Proof.Machine.execAlltoallGrantReceive s
  | .transitForward slot => Sys2Proof.Machine.execTransitForward slot s
  | .mmaEmitChunk cid row chunk => Sys2Proof.Machine.execMmaEmitChunk cid row chunk s
  | .collectiveAbortReceive => Sys2Proof.Machine.execCollectiveAbortReceive s
  | .collectiveComplete cid => Sys2Proof.Machine.execCollectiveComplete cid s
  | .hbmRead dpa n => Sys2Proof.Machine.execHbmRead dpa n s
  | .hbmWrite dpa data => Sys2Proof.Machine.execHbmWrite dpa data s
  | .codecRead extent off n => Sys2Proof.Machine.execCodecRead extent off n s
  | .codecRewrite extent off data => Sys2Proof.Machine.execCodecRewrite extent off data s
  | .elementFailureDeclare e => Sys2Proof.Machine.execElementFailureDeclare e s
  | .patrolScrub dpa found => Sys2Proof.Machine.execPatrolScrub dpa found s
  | .balanceWindow => Sys2Proof.Machine.execBalanceWindow s
  | .regionRekey region => Sys2Proof.Machine.execRegionRekey region s
  | .migrationUnitCopy n => Sys2Proof.Machine.execMigrationUnitCopy n s
  | .segmentCompaction seg => Sys2Proof.Machine.execSegmentCompaction seg s
  | .regionZeroing n => Sys2Proof.Machine.execRegionZeroing n s
  | .slotTableSwap ch table => Sys2Proof.Machine.execSlotTableSwap ch table s
  | .flitSlotTableSwap port table => Sys2Proof.Machine.execFlitSlotTableSwap port table s
  | .linkBlockReceive port decoded flits ctl => Sys2Proof.Machine.execLinkBlockReceive port decoded flits ctl s
  | .replayTimeout port => Sys2Proof.Machine.execReplayTimeout port s
  | .nakRepeatTimer port => Sys2Proof.Machine.execNakRepeatTimer port s
  | .linkInit port => Sys2Proof.Machine.execLinkInit port s
  | .hello port => Sys2Proof.Machine.execHello port s
  | .chartEnable port => Sys2Proof.Machine.execChartEnable port s
  | .chartTime port => Sys2Proof.Machine.execChartTime port s
  | .laneFail port => Sys2Proof.Machine.execLaneFail port s
  | .laneSwap port => Sys2Proof.Machine.execLaneSwap port s
  | .portDown port => Sys2Proof.Machine.execPortDown port s
  | .helloTimer port => Sys2Proof.Machine.execHelloTimer port s
  | .timeFlitTimer port => Sys2Proof.Machine.execTimeFlitTimer port s
  | .claimFixTimer => Sys2Proof.Machine.execClaimFixTimer s
  | .laneFailureDetect port lane => Sys2Proof.Machine.execLaneFailureDetect port lane s
  | .laneRemap port => Sys2Proof.Machine.execLaneRemap port s
  | .portFailure port => Sys2Proof.Machine.execPortFailure port s
  | .lossOfSignal port => Sys2Proof.Machine.execLossOfSignal port s
  | .signalDetect port => Sys2Proof.Machine.execSignalDetect port s
  | .trainTimeout port => Sys2Proof.Machine.execTrainTimeout port s
  | .holdTimerExpiry port => Sys2Proof.Machine.execHoldTimerExpiry port s
  | .straitWriteArrival port => Sys2Proof.Machine.execStraitWriteArrival port s
  | .straitReadArrival port => Sys2Proof.Machine.execStraitReadArrival port s
  | .transferReplySend => Sys2Proof.Machine.execTransferReplySend s
  | .straitResponseArrival port => Sys2Proof.Machine.execStraitResponseArrival port s
  | .redirectResend xid => Sys2Proof.Machine.execRedirectResend xid s
  | .relayForward port => Sys2Proof.Machine.execRelayForward port s
  | .rtpEdge width => Sys2Proof.Machine.execRtpEdge width s
  | .rtpLoss => Sys2Proof.Machine.execRtpLoss s
  | .refclkBad b => Sys2Proof.Machine.execRefclkBad b s
  | .timeDepthLost => Sys2Proof.Machine.execTimeDepthLost s
  | .dbCmdTail fn q value host => Sys2Proof.Machine.execDbCmdTail fn q value host s
  | .dbCplHead fn q value => Sys2Proof.Machine.execDbCplHead fn q value s
  | .ntcDbHead fn value => Sys2Proof.Machine.execNtcDbHead fn value s
  | .queCfgCommit fn value => Sys2Proof.Machine.execQueCfgCommit fn value s
  | .rstReqCold fn value => Sys2Proof.Machine.execRstReqCold fn value s
  | .rstReqWarm fn value => Sys2Proof.Machine.execRstReqWarm fn value s
  | .rstReqSoft fn value => Sys2Proof.Machine.execRstReqSoft fn value s
  | .registerWrite fn off size value => Sys2Proof.Machine.execRegisterWrite fn off size value s
  | .commandFetch fn q => Sys2Proof.Machine.execCommandFetch fn q s
  | .commandCompletionPost fn q => Sys2Proof.Machine.execCommandCompletionPost fn q s
  | .heldCompletionPost work => Sys2Proof.Machine.execHeldCompletionPost work s
  | .interruptCoalesceTimer fn q => Sys2Proof.Machine.execInterruptCoalesceTimer fn q s
  | .iciVersion fn q => Sys2Proof.Machine.execIciVersion fn q s
  | .queryCaps fn q => Sys2Proof.Machine.execQueryCaps fn q s
  | .queueCreate fn q => Sys2Proof.Machine.execQueueCreate fn q s
  | .queueDelete fn q => Sys2Proof.Machine.execQueueDelete fn q s
  | .noticeRingSet fn q => Sys2Proof.Machine.execNoticeRingSet fn q s
  | .regionAlloc fn q => Sys2Proof.Machine.execRegionAlloc fn q s
  | .regionFree fn q => Sys2Proof.Machine.execRegionFree fn q s
  | .regionMap fn q => Sys2Proof.Machine.execRegionMap fn q s
  | .copy fn q adm => Sys2Proof.Machine.execCopy fn q adm s
  | .migrate fn q adm => Sys2Proof.Machine.execMigrate fn q adm s
  | .modelLoad fn q => Sys2Proof.Machine.execModelLoad fn q s
  | .lagoonSet fn q => Sys2Proof.Machine.execLagoonSet fn q s
  | .modelFree fn q => Sys2Proof.Machine.execModelFree fn q s
  | .poolCreate fn q => Sys2Proof.Machine.execPoolCreate fn q s
  | .seqCreate fn q => Sys2Proof.Machine.execSeqCreate fn q s
  | .seqFork fn q => Sys2Proof.Machine.execSeqFork fn q s
  | .seqAppend fn q adm => Sys2Proof.Machine.execSeqAppend fn q adm s
  | .seqTruncate fn q => Sys2Proof.Machine.execSeqTruncate fn q s
  | .seqFree fn q => Sys2Proof.Machine.execSeqFree fn q s
  | .poolFree fn q => Sys2Proof.Machine.execPoolFree fn q s
  | .planSubmit fn q adm => Sys2Proof.Machine.execPlanSubmit fn q adm s
  | .planStart fn q => Sys2Proof.Machine.execPlanStart fn q s
  | .planStop fn q => Sys2Proof.Machine.execPlanStop fn q s
  | .planStageUpdate fn q adm => Sys2Proof.Machine.execPlanStageUpdate fn q adm s
  | .planFree fn q => Sys2Proof.Machine.execPlanFree fn q s
  | .attend fn q adm => Sys2Proof.Machine.execAttend fn q adm s
  | .gemm fn q adm => Sys2Proof.Machine.execGemm fn q adm s
  | .batch fn q adm => Sys2Proof.Machine.execBatch fn q adm s
  | .windowOpen fn q => Sys2Proof.Machine.execWindowOpen fn q s
  | .windowClose fn q => Sys2Proof.Machine.execWindowClose fn q s
  | .sliceJoin fn q => Sys2Proof.Machine.execSliceJoin fn q s
  | .collective fn q adm => Sys2Proof.Machine.execCollective fn q adm s
  | .sliceLeave fn q => Sys2Proof.Machine.execSliceLeave fn q s
  | .capSet fn q => Sys2Proof.Machine.execCapSet fn q s
  | .energyRead fn q => Sys2Proof.Machine.execEnergyRead fn q s
  | .nativeLoad fn q => Sys2Proof.Machine.execNativeLoad fn q s
  | .nativeRun fn q => Sys2Proof.Machine.execNativeRun fn q s
  | .nativeFree fn q => Sys2Proof.Machine.execNativeFree fn q s
  | .tenantCreate fn q => Sys2Proof.Machine.execTenantCreate fn q s
  | .tenantDestroy fn q => Sys2Proof.Machine.execTenantDestroy fn q s
  | .partitionSet fn q => Sys2Proof.Machine.execPartitionSet fn q s
  | .sliceDefine fn q => Sys2Proof.Machine.execSliceDefine fn q s
  | .linkEnable fn q => Sys2Proof.Machine.execLinkEnable fn q s
  | .firmwareStage fn q authentic => Sys2Proof.Machine.execFirmwareStage fn q authentic s
  | .firmwareActivate fn q => Sys2Proof.Machine.execFirmwareActivate fn q s
  | .firmwareHandover faulted => Sys2Proof.Machine.execFirmwareHandover faulted s
  | .paritySet fn q => Sys2Proof.Machine.execParitySet fn q s
  | .tier3Register fn q => Sys2Proof.Machine.execTier3Register fn q s
  | .powerEstimateTick estimate measured shares plans => Sys2Proof.Machine.execPowerEstimateTick estimate measured shares plans s
  | .energyCorrection estimated measured => Sys2Proof.Machine.execEnergyCorrection estimated measured s
  | .capCheck avg => Sys2Proof.Machine.execCapCheck avg s
  | .capEnforcementInstant => Sys2Proof.Machine.execCapEnforcementInstant s
  | .railCurrentLimit rail sustained => Sys2Proof.Machine.execRailCurrentLimit rail sustained s
  | .vrAlert cause => Sys2Proof.Machine.execVrAlert cause s
  | .pwrBrakeN => Sys2Proof.Machine.execPwrBrakeN s
  | .lowestStateExit => Sys2Proof.Machine.execLowestStateExit s
  | .phaseFailOpen rail phase => Sys2Proof.Machine.execPhaseFailOpen rail phase s
  | .sparePhaseInService rail => Sys2Proof.Machine.execSparePhaseInService rail s
  | .currentSenseCheck rail phase reading => Sys2Proof.Machine.execCurrentSenseCheck rail phase reading s
  | .droopStretch p => Sys2Proof.Machine.execDroopStretch p s
  | .thermalRead temps alarm => Sys2Proof.Machine.execThermalRead temps alarm s
  | .powerReportSend avg => Sys2Proof.Machine.execPowerReportSend avg s
  | .powerReportReceive group report => Sys2Proof.Machine.execPowerReportReceive group report s
  | .loanTimeout group lender => Sys2Proof.Machine.execLoanTimeout group lender s
  | .holmQuadGate q c => Sys2Proof.Machine.execHolmQuadGate q c s
  | .holmQuadWake q c => Sys2Proof.Machine.execHolmQuadWake q c s
  | .deepIdleEnter => Sys2Proof.Machine.execDeepIdleEnter s
  | .straitGroupGate g => Sys2Proof.Machine.execStraitGroupGate g s
  | .codecDomainGate => Sys2Proof.Machine.execCodecDomainGate s
  | .powerUp => Sys2Proof.Machine.execPowerUp s
  | .bootStageComplete stage found => Sys2Proof.Machine.execBootStageComplete stage found s
  | .powerFailure => Sys2Proof.Machine.execPowerFailure s
  | .perstAssert => Sys2Proof.Machine.execPerstAssert s
  | .perstDeassert => Sys2Proof.Machine.execPerstDeassert s
  | .warmResetEntry => Sys2Proof.Machine.execWarmResetEntry s
  | .flrVf v => Sys2Proof.Machine.execFlrVf v s
  | .flrPf0 => Sys2Proof.Machine.execFlrPf0 s
  | .pldmRackIdentity value => Sys2Proof.Machine.execPldmRackIdentity value s
  | .pldmResetRequest code => Sys2Proof.Machine.execPldmResetRequest code s
  | .pldmFirmwareUpdate header authentic => Sys2Proof.Machine.execPldmFirmwareUpdate header authentic s
  | .spdmGetMeasurements => Sys2Proof.Machine.execSpdmGetMeasurements s
  | .jtagExtestExit => Sys2Proof.Machine.execJtagExtestExit s
  | .thermalTripClear => Sys2Proof.Machine.execThermalTripClear s
  | .hostLinkDown => Sys2Proof.Machine.execHostLinkDown s
  | .holmPulseLoss p => Sys2Proof.Machine.execHolmPulseLoss p s
  | .recoverySlack => Sys2Proof.Machine.execRecoverySlack s
  | .stageReplay => Sys2Proof.Machine.execStageReplay s
  | .rowFaultRecovery => Sys2Proof.Machine.execRowFaultRecovery s
  | .mgmtCoreFault survivor => Sys2Proof.Machine.execMgmtCoreFault survivor s
  | .refclkGood b => Sys2Proof.Machine.execRefclkGood b s
  | .pwrBrakeNDeassert => Sys2Proof.Machine.execPwrBrakeNDeassert s
  | .dieToDieLaneFailure link lane => Sys2Proof.Machine.execDieToDieLaneFailure link lane s
  | .droopStretchEnd p => Sys2Proof.Machine.execDroopStretchEnd p s
  | .registerRead fn off size => Sys2Proof.Machine.execRegisterRead fn off size s
  | .vfEnableWrite on num => Sys2Proof.Machine.execVfEnableWrite on num s
  | .unconfinedFault => Sys2Proof.Machine.execUnconfinedFault s
  | .hostLinkUp => Sys2Proof.Machine.execHostLinkUp s
  | .coldResetOffEnd => Sys2Proof.Machine.execColdResetOffEnd s
  | .jtagExtestSelect => Sys2Proof.Machine.execJtagExtestSelect s

end Sys2Proof.Machine
end

