-- ==== Sys2Proof/Machine/Tick.lean ====
section
/-! DEFINITION. What happens with time alone: the rack-time and always-on counters, the link blocks that every linked
port sends, and changes that no plan holds back any more (R361, R397, R457, R536, R562). -/

namespace Sys2Proof.Machine

/-- One nanosecond of the rack-time counter. While it slews it gains or loses one nanosecond in each microsecond; a loss is
kept as two halves, the first of which holds the counter; it is held, too, until the rack catches up with a count that was
ahead (R397). -/
def RackTime.clockStep (t0 : RackTime) : RackTime :=
  let t := { t0 with ticks := t0.ticks + 1 }
  if t.hold ≠ 0 then { t with hold := t.hold - 1 }
  else if t.now % 1000 = 999 ∧ t.slew < 0 then
    if t.slew % 2 = 0 then { t with slew := t.slew + 1 } else { t with slew := t.slew + 1, now := t.now + 1 }
  else if t.now % 1000 = 999 ∧ 0 < t.slew then { t with slew := t.slew - 1, now := t.now + 2 }
  else { t with now := t.now + 1 }

/-- A block boundary of 12.8 ns lies between two instants (R361). -/
def blockDue (a b : Nat) : Bool := 5 * a / 64 != 5 * b / 64

/-- Every port that sends puts its next link block on its lanes. -/
def State.transmitAll (s : State) : State :=
  { s with net := { s.net with ports := (s.net.ports.zipIdx).map fun (q, i) => if q.sends then q.transmit s i else q } }

-- DESIGN CHOICE, unsafe: log 3.
/-- One nanosecond passes. A module without input power does nothing (R532). -/
def tick (s : State) : State :=
  if s.boot.phase = .off then s
  else
    let t := s.net.time.clockStep
    let b := if t.ticks % 40 ≠ 0 then s.boot else { s.boot with aoCycles := (s.boot.aoCycles + 1) % 2 ^ 64 }
    let s1 := { s with net := { s.net with time := t }, boot := b }
    (if blockDue s.net.time.ticks t.ticks then s1.transmitAll else s1).idleChanges

end Sys2Proof.Machine
end

