-- ==== Sys2Proof/Safety.lean ====
section
/-! DEFINITION. What counts as a safe step and a safe run: nothing stops; and what every step keeps. -/

namespace Sys2Proof.Machine

/-- The step answers a next state: it neither faults nor is refused. -/
def State.safe (s : State) : Prop := ∃ t, step s = .next t

/-- The state after at most n steps; a step that stops leaves none. -/
def run : Nat → State → Option State
  | 0, s => some s
  | n + 1, s => match step s with
    | .next t => run n t
    | .fault _ => none
    | .refused _ => none

/-- No step of the first n stops. -/
def State.safeFor (s : State) (n : Nat) : Prop := (run n s).isSome

/-- Physical holm p of a live module issues, and w is the word at the head of its program (R37, R325). -/
def State.atWord (s : State) (p : Nat) (w : BitVec 128) : Prop :=
  p < 272 ∧ s.live = true ∧ (s.holm p).issuing = true ∧ (s.holm p).program.words[(s.holm p).pc]? = some w

/-- Physical holm p exists and the module is live (R14, R532). -/
def State.liveHolm (s : State) (p : Nat) : Prop := p < 272 ∧ s.live = true

/-- Channel ch of physical holm p of a live module runs, and w is the pricking instruction it has come to (R216, R217). -/
def State.atPrick (s : State) (p ch w : Nat) : Prop := s.liveHolm p ∧ (s.holm p).prickWord ch = some w

/-- Every remap entry names a physical index of its quadrant, 0 to 67, and a role epoch of 24 bits (R57). -/
def State.remapOk (s : State) : Prop := ∀ e ∈ s.remap, e.2.phys < 68 ∧ e.2.epoch < 2 ^ 24

/-- Every byte memory has the canonical form: host memory, HBM, the codec extents and the scratchpads. -/
def State.memOk (s : State) : Prop :=
  s.isth.host.wf = true ∧ s.mem.hbm.wf = true ∧ (∀ e ∈ s.mem.extents, e.2.mem.wf = true) ∧ ∀ e ∈ s.holms, e.2.mem.wf = true

/-- Command c is the oldest that waits on queue q of function fn; it has this code, and may start on a module in operation (R426). -/
def State.starts (s : State) (code fn q : Nat) (c : Cmd) : Prop :=
  s.waiting? fn q = some c ∧ c.opc = code ∧ s.isReady = true ∧ s.mayStart c = true

/-- The state in which command c has started (R426). -/
def State.begun (s : State) (c : Cmd) : State :=
  { s with isth := { s.isth with cmds := s.isth.cmds.map fun d => if d.name = c.name then { d with st := .running } else d } }

/-- What a command that changes a tenant's translation or its sequences answers: at once where no plan of the tenant has started, else at a
commit point, unless it fails for a reason that no earlier change can mend (R261, R461). -/
def State.changeEnds (s : State) (c : Cmd) (t : Nat) (op : CommitOp) (o : Out) : Prop :=
  (s.hasPlan t = false →
    (∀ r u, (s.begun c).commitEffect t op 0 = .ok (r, u) → o = .next (u.endCmd c.name .done r false)) ∧
    (∀ e, (s.begun c).commitEffect t op 0 = .error e → o = .next ((s.begun c).endCmd c.name e 0 false))) ∧
  (s.hasPlan t = true →
    (∀ e, e ≠ .limit → (s.begun c).commitEffect t op 0 = .error e → o = .next ((s.begun c).endCmd c.name e 0 false)) ∧
    ((∀ e, (s.begun c).commitEffect t op 0 = .error e → e = .limit) →
      o = .next { s.begun c with kv := { s.kv with commits := s.kv.commits ++ [⟨t, op, c.name, c.since⟩] } }))

end Sys2Proof.Machine
end

