-- ==== Sys2Proof/WellFormed.lean ====
section
/-! DEFINITION. Well-formed commands: the units they name exist, and their operands fit the fields they stand for. -/

namespace Sys2Proof

/-- A physical holm (R14). -/
def isHolm (p : Nat) : Bool := decide (p < 272)

/-- A bobbin channel (R214). -/
def isChannel (c : Nat) : Bool := decide (c < 8)

/-- A strait port (R360). -/
def isPort (i : Nat) : Bool := decide (i < 32)

/-- A function: PF0 or a VF (R423). -/
def isFunction (fn : Nat) : Bool := decide (fn ≤ 1024)

/-- A VF (R452). -/
def isVf (v : Nat) : Bool := decide (1 ≤ v ∧ v ≤ 1024)

/-- A queue of a function (R423). -/
def isQueue (q : Nat) : Bool := decide (q < 8)

/-- A rail (R502). -/
def isRail (r : Nat) : Bool := decide (r < 8)

/-- Bytes. -/
def isBytes (l : List Nat) : Bool := l.all fun b => decide (b < 256)

/-- The command names units that exist, with operands in their ranges. -/
def Instr.wellFormed (i : Instr) : Bool :=
  match i with
  | .nop p => isHolm p
  | .halt p => isHolm p
  | .tide p => isHolm p
  | .br p => isHolm p
  | .loopSet p => isHolm p
  | .loopAdd p => isHolm p
  | .loopMul p => isHolm p
  | .loopBack p => isHolm p
  | .barArrive p => isHolm p
  | .barWait p => isHolm p
  | .barArriveWait p => isHolm p
  | .rng p => isHolm p
  | .msgSend p => isHolm p
  | .msgRecv p => isHolm p
  | .mma p => isHolm p
  | .mmap p => isHolm p
  | .ats p => isHolm p
  | .atf p => isHolm p
  | .atb p => isHolm p
  | .vop p => isHolm p
  | .cvt p => isHolm p
  | .sfn p => isHolm p
  | .bobStart p => isHolm p
  | .bobStop p => isHolm p
  | .bobPost p => isHolm p
  | .bobRelease p => isHolm p
  | .kva p => isHolm p
  | .scoreboardRetire p _ => isHolm p
  | .declaredEntryRetire p _ => isHolm p
  | .invocationComplete p => isHolm p
  | .holmFault p _ => isHolm p
  | .segmentWatchdog p => isHolm p
  | .repairTableWrite p => isHolm p
  | .lagoonImageLoad p => isHolm p
  | .ratedFloorCheck p _ _ => isHolm p
  | .checkpointSpill p _ => isHolm p
  | .droopStretch p => isHolm p
  | .holmPulseLoss p => isHolm p
  | .droopStretchEnd p => isHolm p
  | .barrierArrivalEffect p bar => isHolm p && decide (bar < 64)
  | .waveRelease _ => true
  | .remoteAccessArrival _ => true
  | .remoteResponseArrival _ => true
  | .remoteRequestHeld _ => true
  | .msgArrival _ => true
  | .msgInboxEnter _ => true
  | .staleRoleReissue _ => true
  | .slack _ => true
  | .walkerRequest _ _ => true
  | .walkerTileComplete _ => true
  | .walkerFailure _ => true
  | .pageFreeReturn _ => true
  | .originBlockFetch _ _ => true
  | .shuttleBlockSend _ _ => true
  | .shuttleBlockLanding _ => true
  | .shuttleForward _ _ => true
  | .slotCreditGrant _ => true
  | .ringAbortReceive => true
  | .ringFailure _ _ => true
  | .collectivePieceArrival _ => true
  | .collectorCombine _ _ => true
  | .collectiveCreditReceive => true
  | .alltoallCountReceive => true
  | .alltoallGrantReceive => true
  | .transitForward _ => true
  | .mmaEmitChunk _ _ _ => true
  | .collectiveAbortReceive => true
  | .collectiveComplete _ => true
  | .hbmRead _ _ => true
  | .codecRead _ _ _ => true
  | .elementFailureDeclare _ => true
  | .balanceWindow => true
  | .regionRekey _ => true
  | .migrationUnitCopy _ => true
  | .segmentCompaction _ => true
  | .regionZeroing _ => true
  | .slotTableSwap _ _ => true
  | .claimFixTimer => true
  | .transferReplySend => true
  | .redirectResend _ => true
  | .rtpEdge _ => true
  | .rtpLoss => true
  | .refclkBad _ => true
  | .timeDepthLost => true
  | .heldCompletionPost _ => true
  | .firmwareHandover _ => true
  | .powerEstimateTick _ _ _ _ => true
  | .energyCorrection _ _ => true
  | .capCheck _ => true
  | .capEnforcementInstant => true
  | .vrAlert _ => true
  | .pwrBrakeN => true
  | .lowestStateExit => true
  | .thermalRead _ _ => true
  | .powerReportSend _ => true
  | .deepIdleEnter => true
  | .codecDomainGate => true
  | .powerUp => true
  | .powerFailure => true
  | .perstAssert => true
  | .perstDeassert => true
  | .warmResetEntry => true
  | .flrPf0 => true
  | .pldmRackIdentity _ => true
  | .pldmResetRequest _ => true
  | .pldmFirmwareUpdate _ _ => true
  | .spdmGetMeasurements => true
  | .jtagExtestExit => true
  | .thermalTripClear => true
  | .hostLinkDown => true
  | .recoverySlack => true
  | .stageReplay => true
  | .rowFaultRecovery => true
  | .mgmtCoreFault _ => true
  | .refclkGood _ => true
  | .pwrBrakeNDeassert => true
  | .unconfinedFault => true
  | .hostLinkUp => true
  | .coldResetOffEnd => true
  | .jtagExtestSelect => true
  | .prickingEmit p ch => isHolm p && isChannel ch
  | .prickingAdd p ch => isHolm p && isChannel ch
  | .prickingSeta p ch => isHolm p && isChannel ch
  | .prickingSetl p ch => isHolm p && isChannel ch
  | .prickingLoop p ch => isHolm p && isChannel ch
  | .cwait p ch => isHolm p && isChannel ch
  | .pemit p ch => isHolm p && isChannel ch
  | .prickingEnd p ch => isHolm p && isChannel ch
  | .bobbinParamBlockRead p ch => isHolm p && isChannel ch
  | .tileLanded p ch => isHolm p && isChannel ch
  | .tileDrained p ch => isHolm p && isChannel ch
  | .channelEnded p ch => isHolm p && isChannel ch
  | .bobbinFault p ch => isHolm p && isChannel ch
  | .kvAppendAccept p ch => isHolm p && isChannel ch
  | .scrubVisit p line _ => isHolm p && decide (line < 131072)
  | .rowRepairCopy p bank row => isHolm p && decide (bank < 64) && decide (row < 2048)
  | .hbmWrite _ data => isBytes data
  | .codecRewrite _ _ data => isBytes data
  | .patrolScrub _ found => decide (found < 3)
  | .flitSlotTableSwap port _ => isPort port
  | .linkBlockReceive port _ _ _ => isPort port
  | .replayTimeout port => isPort port
  | .nakRepeatTimer port => isPort port
  | .linkInit port => isPort port
  | .hello port => isPort port
  | .chartEnable port => isPort port
  | .chartTime port => isPort port
  | .laneFail port => isPort port
  | .laneSwap port => isPort port
  | .portDown port => isPort port
  | .helloTimer port => isPort port
  | .timeFlitTimer port => isPort port
  | .laneRemap port => isPort port
  | .portFailure port => isPort port
  | .lossOfSignal port => isPort port
  | .signalDetect port => isPort port
  | .trainTimeout port => isPort port
  | .holdTimerExpiry port => isPort port
  | .straitWriteArrival port => isPort port
  | .straitReadArrival port => isPort port
  | .straitResponseArrival port => isPort port
  | .relayForward port => isPort port
  | .laneFailureDetect port lane => isPort port && decide (lane < 5)
  | .dbCmdTail fn q _ _ => isFunction fn && isQueue q
  | .dbCplHead fn q _ => isFunction fn && isQueue q
  | .commandFetch fn q => isFunction fn && isQueue q
  | .commandCompletionPost fn q => isFunction fn && isQueue q
  | .interruptCoalesceTimer fn q => isFunction fn && isQueue q
  | .iciVersion fn q => isFunction fn && isQueue q
  | .queryCaps fn q => isFunction fn && isQueue q
  | .queueCreate fn q => isFunction fn && isQueue q
  | .queueDelete fn q => isFunction fn && isQueue q
  | .noticeRingSet fn q => isFunction fn && isQueue q
  | .regionAlloc fn q => isFunction fn && isQueue q
  | .regionFree fn q => isFunction fn && isQueue q
  | .regionMap fn q => isFunction fn && isQueue q
  | .copy fn q _ => isFunction fn && isQueue q
  | .migrate fn q _ => isFunction fn && isQueue q
  | .modelLoad fn q => isFunction fn && isQueue q
  | .lagoonSet fn q => isFunction fn && isQueue q
  | .modelFree fn q => isFunction fn && isQueue q
  | .poolCreate fn q => isFunction fn && isQueue q
  | .seqCreate fn q => isFunction fn && isQueue q
  | .seqFork fn q => isFunction fn && isQueue q
  | .seqAppend fn q _ => isFunction fn && isQueue q
  | .seqTruncate fn q => isFunction fn && isQueue q
  | .seqFree fn q => isFunction fn && isQueue q
  | .poolFree fn q => isFunction fn && isQueue q
  | .planSubmit fn q _ => isFunction fn && isQueue q
  | .planStart fn q => isFunction fn && isQueue q
  | .planStop fn q => isFunction fn && isQueue q
  | .planStageUpdate fn q _ => isFunction fn && isQueue q
  | .planFree fn q => isFunction fn && isQueue q
  | .attend fn q _ => isFunction fn && isQueue q
  | .gemm fn q _ => isFunction fn && isQueue q
  | .batch fn q _ => isFunction fn && isQueue q
  | .windowOpen fn q => isFunction fn && isQueue q
  | .windowClose fn q => isFunction fn && isQueue q
  | .sliceJoin fn q => isFunction fn && isQueue q
  | .collective fn q _ => isFunction fn && isQueue q
  | .sliceLeave fn q => isFunction fn && isQueue q
  | .capSet fn q => isFunction fn && isQueue q
  | .energyRead fn q => isFunction fn && isQueue q
  | .nativeLoad fn q => isFunction fn && isQueue q
  | .nativeRun fn q => isFunction fn && isQueue q
  | .nativeFree fn q => isFunction fn && isQueue q
  | .tenantCreate fn q => isFunction fn && isQueue q
  | .tenantDestroy fn q => isFunction fn && isQueue q
  | .partitionSet fn q => isFunction fn && isQueue q
  | .sliceDefine fn q => isFunction fn && isQueue q
  | .linkEnable fn q => isFunction fn && isQueue q
  | .firmwareStage fn q _ => isFunction fn && isQueue q
  | .firmwareActivate fn q => isFunction fn && isQueue q
  | .paritySet fn q => isFunction fn && isQueue q
  | .tier3Register fn q => isFunction fn && isQueue q
  | .ntcDbHead fn _ => isFunction fn
  | .queCfgCommit fn _ => isFunction fn
  | .rstReqCold fn _ => isFunction fn
  | .rstReqWarm fn _ => isFunction fn
  | .rstReqSoft fn _ => isFunction fn
  | .registerWrite fn _ _ _ => isFunction fn
  | .registerRead fn _ _ => isFunction fn
  | .railCurrentLimit rail _ => isRail rail
  | .phaseFailOpen rail _ => isRail rail
  | .sparePhaseInService rail => isRail rail
  | .currentSenseCheck rail _ _ => isRail rail
  | .powerReportReceive group _ => decide (group < 6)
  | .loanTimeout group _ => decide (group < 6)
  | .holmQuadGate q c => decide (q < 4) && decide (c < 17)
  | .holmQuadWake q c => decide (q < 4) && decide (c < 17)
  | .straitGroupGate g => decide (g < 8)
  | .bootStageComplete stage _ => decide (1 ≤ stage ∧ stage ≤ 10)
  | .flrVf v => isVf v
  | .dieToDieLaneFailure link lane => decide (link < 8) && decide (lane < 512)
  | .vfEnableWrite _ num => decide (num ≤ 1024)

/-- The physical holm that a command names. -/
def Instr.holm? (i : Instr) : Option Nat :=
  match i with
  | .nop p => some p
  | .halt p => some p
  | .tide p => some p
  | .br p => some p
  | .loopSet p => some p
  | .loopAdd p => some p
  | .loopMul p => some p
  | .loopBack p => some p
  | .barArrive p => some p
  | .barWait p => some p
  | .barArriveWait p => some p
  | .barrierArrivalEffect p _ => some p
  | .rng p => some p
  | .msgSend p => some p
  | .msgRecv p => some p
  | .mma p => some p
  | .mmap p => some p
  | .ats p => some p
  | .atf p => some p
  | .atb p => some p
  | .vop p => some p
  | .cvt p => some p
  | .sfn p => some p
  | .bobStart p => some p
  | .bobStop p => some p
  | .bobPost p => some p
  | .bobRelease p => some p
  | .kva p => some p
  | .scoreboardRetire p _ => some p
  | .declaredEntryRetire p _ => some p
  | .invocationComplete p => some p
  | .holmFault p _ => some p
  | .segmentWatchdog p => some p
  | .prickingEmit p _ => some p
  | .prickingAdd p _ => some p
  | .prickingSeta p _ => some p
  | .prickingSetl p _ => some p
  | .prickingLoop p _ => some p
  | .cwait p _ => some p
  | .pemit p _ => some p
  | .prickingEnd p _ => some p
  | .bobbinParamBlockRead p _ => some p
  | .tileLanded p _ => some p
  | .tileDrained p _ => some p
  | .channelEnded p _ => some p
  | .bobbinFault p _ => some p
  | .scrubVisit p _ _ => some p
  | .rowRepairCopy p _ _ => some p
  | .repairTableWrite p => some p
  | .lagoonImageLoad p => some p
  | .ratedFloorCheck p _ _ => some p
  | .checkpointSpill p _ => some p
  | .kvAppendAccept p _ => some p
  | .droopStretch p => some p
  | .holmPulseLoss p => some p
  | .droopStretchEnd p => some p
  | _ => none

/-- The strait port that a command names. -/
def Instr.port? (i : Instr) : Option Nat :=
  match i with
  | .flitSlotTableSwap port _ => some port
  | .linkBlockReceive port _ _ _ => some port
  | .replayTimeout port => some port
  | .nakRepeatTimer port => some port
  | .linkInit port => some port
  | .hello port => some port
  | .chartEnable port => some port
  | .chartTime port => some port
  | .laneFail port => some port
  | .laneSwap port => some port
  | .portDown port => some port
  | .helloTimer port => some port
  | .timeFlitTimer port => some port
  | .laneFailureDetect port _ => some port
  | .laneRemap port => some port
  | .portFailure port => some port
  | .lossOfSignal port => some port
  | .signalDetect port => some port
  | .trainTimeout port => some port
  | .holdTimerExpiry port => some port
  | .straitWriteArrival port => some port
  | .straitReadArrival port => some port
  | .straitResponseArrival port => some port
  | .relayForward port => some port
  | _ => none

/-- The rail that a command names. -/
def Instr.rail? (i : Instr) : Option Nat :=
  match i with
  | .railCurrentLimit rail _ => some rail
  | .phaseFailOpen rail _ => some rail
  | .sparePhaseInService rail => some rail
  | .currentSenseCheck rail _ _ => some rail
  | _ => none

end Sys2Proof
end

