-- ==== Sys2Proof/Certificates/Slice0/Obligations.lean ====
section
/-! DEFINITION. The statements about the block, for the provers: what each command does, what every step keeps, what reset leaves. -/

open Sys2Proof Sys2Proof.Machine

/-- NOP only goes to the next instruction. TIDE ends a tidal and HALT a one-shot invocation: nothing issues any more. In the other kind each is a
precise BAD_COMMAND fault. A BR with legal fields goes to its target where its condition on the selected value holds, else to the next
instruction. Nothing else changes (R300, R322, R323). -/
def Obligations.ControlWords : Prop :=
  ∀ (s : State) (p : Nat) (w : BitVec 128), s.atWord p w →
    (fld w.toNat 0 8 = 0x00 →
      exec (.nop p) s = .next (s.setHolm p { s.holm p with pc := (s.holm p).pc + 1 })) ∧
    (∀ i, (s.holm p).inv = some i → fld w.toNat 0 8 = 0x02 →
      exec (.tide p) s = .next (s.setHolm p (if i.tidal then { s.holm p with inv := some { i with ending := true } }
        else (s.holm p).precise (s.holm p).pc 0x02 .badCommand 0))) ∧
    (∀ i, (s.holm p).inv = some i → fld w.toNat 0 8 = 0x01 →
      exec (.halt p) s = .next (s.setHolm p (if i.tidal then (s.holm p).precise (s.holm p).pc 0x01 .badCommand 0
        else { s.holm p with inv := some { i with ending := true } }))) ∧
    (fld w.toNat 0 8 = 0x03 → fld w.toNat 8 4 ≤ 4 → fld w.toNat 29 3 = 0 → fld w.toNat 64 64 = 0 → fld w.toNat 12 5 < 0x18 →
      (fld w.toNat 8 4 = 0 → fld w.toNat 12 5 = 0) → fld w.toNat 17 12 < (s.holm p).program.words.length →
      let v := (s.holm p).selVal (fld w.toNat 12 5)
      let imm := fld w.toNat 32 32
      let c := fld w.toNat 8 4
      (c = 0 ∨ (c = 1 ∧ v = imm) ∨ (c = 2 ∧ v ≠ imm) ∨ (c = 3 ∧ (BitVec.ofNat 32 v).toInt < (BitVec.ofNat 32 imm).toInt) ∨ (c = 4 ∧ (BitVec.ofNat 32 imm).toInt ≤ (BitVec.ofNat 32 v).toInt) →
        exec (.br p) s = .next (s.setHolm p { s.holm p with pc := fld w.toNat 17 12 })) ∧
      (¬ (c = 0 ∨ (c = 1 ∧ v = imm) ∨ (c = 2 ∧ v ≠ imm) ∨ (c = 3 ∧ (BitVec.ofNat 32 v).toInt < (BitVec.ofNat 32 imm).toInt) ∨ (c = 4 ∧ (BitVec.ofNat 32 imm).toInt ≤ (BitVec.ofNat 32 v).toInt)) →
        exec (.br p) s = .next (s.setHolm p { s.holm p with pc := (s.holm p).pc + 1 })))

/-- SET, ADD and MUL write register G[DST] with s + imm, G[DST] + s + imm and s × imm modulo 2^32 and go to the next instruction; BACK
decrements a counter above 1 and goes to its target, else clears it and goes on. Nothing else changes (R322). -/
def Obligations.LoopWords : Prop :=
  ∀ (s : State) (p : Nat) (w : BitVec 128), s.atWord p w → fld w.toNat 0 8 = 0x04 → bitAt w.toNat 31 = false → fld w.toNat 64 64 = 0 →
    let h := s.holm p
    let d := fld w.toNat 10 4
    let g := (h.g.getD d 0).toNat
    let v := h.selVal (fld w.toNat 14 5)
    let imm := fld w.toNat 32 32
    (fld w.toNat 14 5 < 0x18 → fld w.toNat 19 12 = 0 →
      (fld w.toNat 8 2 = 0 → exec (.loopSet p) s = .next (s.setHolm p { h with g := setAt h.g d (BitVec.ofNat 32 (v + imm)), pc := h.pc + 1 })) ∧
      (fld w.toNat 8 2 = 1 → exec (.loopAdd p) s = .next (s.setHolm p { h with g := setAt h.g d (BitVec.ofNat 32 (g + v + imm)), pc := h.pc + 1 })) ∧
      (fld w.toNat 8 2 = 2 → exec (.loopMul p) s = .next (s.setHolm p { h with g := setAt h.g d (BitVec.ofNat 32 (v * imm)), pc := h.pc + 1 }))) ∧
    (fld w.toNat 8 2 = 3 → fld w.toNat 14 5 = 0 → imm = 0 → fld w.toNat 19 12 ≤ h.pc →
      exec (.loopBack p) s = .next (s.setHolm p
        (if 1 < g then { h with g := setAt h.g d (BitVec.ofNat 32 (g - 1)), pc := fld w.toNat 19 12 }
         else { h with g := setAt h.g d 0, pc := h.pc + 1 })))

/-- An ARRIVE is issued with the WRITE entries and the posts of its masked out-channels that it waits for, and issue goes on. A WAIT whose
barrier has a phase past the holm's wait phase, as far as the holm has learnt it, goes on with the wait phase one higher; before that nothing
changes. A WAIT that holds another barrier of no lower rank is a precise BAD_COMMAND fault that names both. An ARRIVE_WAIT issues its arrival
once and is then a WAIT (R226, R227, R229). -/
def Obligations.BarrierWords : Prop :=
  ∀ (s : State) (p : Nat) (w : BitVec 128) (b m : Nat), s.atWord p w → fld w.toNat 0 8 = 0x08 →
    let h := s.holm p
    let a : Arrival := ⟨b, (h.scoreboard.filter fun e => e.kind == .write).map (·.id),
      ((List.range 4).filter fun i => bitAt m i).map fun i => (4 + i, (h.chan (4 + i)).posted)⟩
    let past : Holm := { h with pc := h.pc + 1, waitPhase := h.waitPhase.set b (h.waitPhase.getD b 0 + 1), headArrived := false }
    (lookBar (s.lookCtx h) h.look w.toNat = .ok ⟨0, b, m⟩ → fld w.toNat 8 2 = 0 →
      exec (.barArrive p) s = .next (s.setHolm p { h with arrivals := h.arrivals ++ [a], pc := h.pc + 1 })) ∧
    (lookBar (s.lookCtx h) h.look w.toNat = .ok ⟨1, b, m⟩ → fld w.toNat 8 2 = 1 → s.ringBar h b = false →
      ((h.program.noRank = true ∨ ∀ x ∈ h.held, x ≠ b → s.rankOf h x < s.rankOf h b) →
        exec (.barWait p) s = .next (s.setHolm p (if h.waitPhase.getD b 0 < h.seenPhase.getD b 0 then past else h))) ∧
      (∀ x l r, h.program.noRank = false → h.held = l ++ x :: r → (∀ y ∈ l, y ≠ b → s.rankOf h y < s.rankOf h b) → x ≠ b →
        s.rankOf h b ≤ s.rankOf h x →
        exec (.barWait p) s = .next (s.setHolm p (h.precise h.pc 0x08 .badCommand (b + 2 ^ 8 * x))))) ∧
    (lookBar (s.lookCtx h) h.look w.toNat = .ok ⟨2, b, m⟩ → fld w.toNat 8 2 = 2 → s.ringBar h b = false →
      (h.program.noRank = true ∨ ∀ x ∈ h.held, x ≠ b → s.rankOf h x < s.rankOf h b) →
      exec (.barArriveWait p) s = .next (s.setHolm p
        (if h.waitPhase.getD b 0 < h.seenPhase.getD b 0 then { past with arrivals := if h.headArrived then h.arrivals else h.arrivals ++ [a] }
         else { h with arrivals := if h.headArrived then h.arrivals else h.arrivals ++ [a], headArrived := true })))

/-- An issued arrival whose conditions hold counts once at its barrier, and its holm then holds the barrier, where it is not the last of the
phase. A wave of a release tells each of its at most 16 waiters that still run the unit of work the new phase, and changes no other holm
(R226, R229). -/
def Obligations.ArrivalsAndWaves : Prop :=
  (∀ (s : State) (p bar : Nat) (i : Invocation) (a : Arrival) (wk : Work) (x : Barrier), s.liveHolm p → (s.holm p).inv = some i →
    s.readyArrival p bar (s.holm p) = some a → s.work? i.work = some wk → wk.barriers.get? (barKey i.part bar) = some x →
    s.physOf? i.lg = some p → x.got.getD i.lg 0 ≤ (s.holm p).arrCount.getD bar 0 → x.count + 1 < x.parts →
    ∃ t, exec (.barrierArrivalEffect p bar) s = .next t ∧
      t.holm p = { s.holm p with arrivals := (s.holm p).arrivals.erase a, arrCount := (s.holm p).arrCount.set bar ((s.holm p).arrCount.getD bar 0 + 1)
                                 held := if (s.holm p).held.contains bar then (s.holm p).held else (s.holm p).held ++ [bar] } ∧
      (∀ q, q ≠ p → t.holm q = s.holm q) ∧
      t.work? i.work = some { wk with barriers := wk.barriers.set (barKey i.part bar) { x with
        count := x.count + 1, arrived := i.lg :: x.arrived, got := x.got.set i.lg ((s.holm p).arrCount.getD bar 0 + 1) } } ∧
      (∀ v, v ≠ i.work → t.work? v = s.work? v) ∧ t.mem = s.mem ∧ t.net = s.net ∧ t.kv = s.kv ∧ t.ten = s.ten) ∧
  (∀ (s : State) (w key phase : Nat) (wk : Work) (v : Wave) (rest : List Wave), s.work? w = some wk → v.kind = .release key phase →
    sortBy (fun a b => decide (a.due < b.due)) wk.waves = v :: rest →
    let group := (v.waiters.drop (16 * v.next)).take 16
    ∃ t, exec (.waveRelease w) s = .next t ∧
      (∀ p, t.holm p = if (∃ lg ∈ group, s.physOf? lg = some p) ∧ (s.holm p).inv.map (·.work) = some w then
          { s.holm p with seenPhase := (s.holm p).seenPhase.set (key % 64) phase, ramp := (s.holm p).ramp || decide (16 < v.waiters.length) }
        else s.holm p) ∧
      t.work? w = some { wk with waves := if v.waiters.length ≤ 16 * (v.next + 1) then wk.waves.erase v
        else (wk.waves.map fun y => if y = v then { y with next := y.next + 1 } else y) } ∧
      t.mem = s.mem ∧ t.net = s.net ∧ t.kv = s.kv ∧ t.ten = s.ten)

/-- An RNG whose range may issue goes to the next instruction; it enters one DECLARED entry over the range unless its event has occurred already,
and where its range meets an entry or no entry is free it waits and nothing changes. An engine's entry that its engine has come to, and a
DECLARED entry whose count has reached the target, retires: it alone leaves the scoreboard, and an engine instruction without entries left is
complete (R35, R41, R44, R45, R320). -/
def Obligations.ScoreboardEntries : Prop :=
  ∀ (s : State) (p : Nat), s.liveHolm p →
    let h := s.holm p
    (∀ (w : BitVec 128) (r : RngReq), s.atWord p w → fld w.toNat 0 8 = 0x09 → lookRng (s.lookCtx h) h.look w.toNat = .ok r →
      let ev := if r.event = 0 then RetireEv.tiles r.ch r.count else if r.event = 1 then .arrivals r.count else .phase r.bar r.count
      ((∀ e ∈ h.scoreboard, r.last < e.first ∨ e.last < r.first) → h.scoreboard.length < 32 → s.eventHolds h ev = false →
        exec (.rng p) s = .next (s.setHolm p { h with
          scoreboard := h.scoreboard ++ [⟨h.nextEntry, .declared, r.first, r.last, [], ev⟩], nextEntry := h.nextEntry + 1, pc := h.pc + 1 })) ∧
      ((∀ e ∈ h.scoreboard, r.last < e.first ∨ e.last < r.first) → h.scoreboard.length < 32 → s.eventHolds h ev = true →
        exec (.rng p) s = .next (s.setHolm p { h with pc := h.pc + 1 })) ∧
      (((∃ e ∈ h.scoreboard, e.first ≤ r.last ∧ r.first ≤ e.last) ∨ 32 ≤ h.scoreboard.length) → exec (.rng p) s = .next s)) ∧
    (∀ (l k : List SbEntry) (e : SbEntry), h.scoreboard = l ++ e :: k → (∀ x ∈ l ++ k, x.id ≠ e.id) →
      let t := s.setHolm p { h with
        scoreboard := l ++ k
        inFlight := (h.inFlight.map fun f => { f with entries := f.entries.filter fun i => i != e.id }).filter fun f => !f.entries.isEmpty }
      (e.ev = .engine → h.engineAt e.id = true → h.emitDone e = true → exec (.scoreboardRetire p e.id) s = .next t) ∧
      (e.kind = .declared → s.eventHolds h e.ev = true → exec (.declaredEntryRetire p e.id) s = .next t))

/-- A MSG SEND that may issue puts its 64 bytes on the network for the logical holm at its partition index, stamped with the physical holm and the
epoch that the remap names. A message that names the current role is accepted at its target; the oldest accepted one enters an inbox of fewer than
16 messages and is then answered with DONE; a MSG RECV claims the oldest of them into its buffer and waits for one (R55, R62, R321). -/
def Obligations.Messages : Prop :=
  (∀ (s : State) (p : Nat) (w : BitVec 128) (r : MsgReq) (lg q : Nat), s.atWord p w → fld w.toNat 0 8 = 0x0A → bitAt w.toNat 8 = false →
    let h := s.holm p
    let hull := (r.buf / 8, r.buf / 8 + 1)
    lookMsg h.look w.toNat = .ok r → r.tgt < (h.inv.map (·.size)).getD 0 → h.canIssue [.msg] [hull] [] = true →
    h.poisonedIn hull.1 hull.2 = false → s.peerLg? h r.tgt = some lg → s.physOf? lg = some q →
    ∃ t m, exec (.msgSend p) s = .next t ∧ t.reqs = s.reqs.set s.nextReq m ∧ t.nextReq = s.nextReq + 1 ∧
      m.kind = .msg ∧ m.src = p ∧ m.tgtLg = lg ∧ m.tgtPhys = q ∧ m.epoch = s.epochOf lg ∧ m.data = h.bytes (4 * r.buf) 64 ∧ m.resp = none ∧
      t.holm p = { h.launch 0x0A [.msg] [hull] [] with msgSeq := h.msgSeq.set lg (h.msgSeq.getD lg 0 + 1) } ∧
      (∀ j, j ≠ p → t.holm j = s.holm j) ∧ t.mem = s.mem ∧ t.isth = s.isth ∧ t.net = s.net) ∧
  (∀ (s : State) (p : Nat) (w : BitVec 128) (r : MsgReq), s.atWord p w → fld w.toNat 0 8 = 0x0A → bitAt w.toNat 8 = true →
    let h := s.holm p
    let hull := (r.buf / 8, r.buf / 8 + 1)
    lookMsg h.look w.toNat = .ok r →
    (h.inbox = [] → exec (.msgRecv p) s = .next s) ∧
    (∀ m rest, h.inbox = m :: rest → h.canIssue [.msg] [] [hull] = true →
      exec (.msgRecv p) s = .next (s.setHolm p { (h.launch 0x0A [.msg] [] [hull]).putBytes (4 * r.buf) m with inbox := rest }))) ∧
  (∀ (s : State) (i : Nat) (r : NetReq), s.reqs.get? i = some r → r.kind = .msg → r.resp = none →
    (r.arrived = 0 → s.roleOk r = true → (((s.holm r.tgtPhys).gotSeq.getD r.srcLg []) : Ranges).has r.seq = false →
      exec (.msgArrival i) s = .next { s with
        reqs := s.reqs.modify i fun r => { r with accepted := true, arrived := s.nextReq + 1 }, nextReq := s.nextReq + 1 }) ∧
    (r.arrived ≠ 0 → s.behind r = false → (s.holm r.tgtPhys).inbox.length < 16 →
      exec (.msgInboxEnter i) s = .next ((s.setHolm r.tgtPhys { s.holm r.tgtPhys with
        inbox := (s.holm r.tgtPhys).inbox ++ [r.data]
        gotSeq := (s.holm r.tgtPhys).gotSeq.set r.srcLg (((s.holm r.tgtPhys).gotSeq.getD r.srcLg [] : Ranges).add r.seq r.seq) }).modReq i
          fun r => { r with resp := some .done })) ∧
    (r.arrived ≠ 0 → 16 ≤ (s.holm r.tgtPhys).inbox.length → exec (.msgInboxEnter i) s = .next s))

/-- An MMA that may issue and reads no poisoned word enters one READ entry for each source hull and one WRITE entry for C, goes to the next
instruction, and writes its output words and nothing else; one without rows or columns enters and writes nothing. An MMAP runs its problems in
list order, each as one MMA on the scratchpad that the ones before it left. No other holm changes (R41, R129, R135, R307). -/
def Obligations.MatrixWords : Prop :=
  (∀ (s : State) (p : Nat) (w : BitVec 128) (m : MmaOp), s.atWord p w → fld w.toNat 0 8 = 0x10 →
    let h := s.holm p
    let rs := hulls ((if m.prob.k = 0 then [] else [m.prob.hullA, m.prob.hullB]) ++ (if m.prob.acc && !m.prob.inPlace then [m.prob.hullI] else []))
    let ws := hulls [m.prob.hullC]
    lookMma (s.lookCtx h) h.look w.toNat = .ok m → m.emit = false → h.poison.any m.prob.reads = false →
    (m.prob.m ≠ 0 → m.prob.n ≠ 0 → h.canIssue [.mxe] rs ws = true →
      exec (.mma p) s = .next ({ s with free := s.free + 1 }.setHolm p ((h.launch 0x10 [.mxe] rs ws).putWords (m.prob.writes h.rd)))) ∧
    ((m.prob.m = 0 ∨ m.prob.n = 0) → h.canIssue [.mxe] [] [] = true →
      exec (.mma p) s = .next ({ s with free := s.free + 1 }.setHolm p { h with pc := h.pc + 1 })) ∧
    (m.prob.m ≠ 0 → m.prob.n ≠ 0 → h.canIssue [.mxe] rs ws = false → exec (.mma p) s = .next s)) ∧
  (∀ (s : State) (p : Nat) (w : BitVec 128) (m : MapSpec) (hs : Nat → Holm), s.atWord p w → fld w.toNat 0 8 = 0x11 →
    let h := s.holm p
    let rs := hulls [rowsHull m.list 0 1 (64 * m.count), some m.src]
    let desc (i : Nat) : Nat := rdLE (hs i).rd (4 * (m.list + 16 * i)) 64
    lookMmap h.look w.toNat = .ok m → h.canIssue [.mxe] rs [m.dst] = true → hs 0 = h.launch 0x11 [.mxe] rs [m.dst] →
    (∀ i, i < m.count → (∀ j, j < 16 → (hs i).poison.contains (m.list + 16 * i + j) = false) ∧ mapCheck m (desc i) = none ∧
      (hs i).poison.any (mprobOfDesc m (desc i)).reads = false ∧
      hs (i + 1) = (hs i).putWords ((mprobOfDesc m (desc i)).writes (hs i).rd)) →
    exec (.mmap p) s = .next (s.setHolm p (hs m.count)))

/-- An attention step whose control block is free of WRITE and DECLARED entries, unpoisoned and passes its checks, and that may issue, enters one
entry for each operand hull, goes to the next instruction, and writes what the step computes and nothing else; an exporting ATS hands its score
records to its out-channel. A block that fails its checks is a precise fault with no other effect (R41, R176, R177, R185, R192, R199, R200). -/
def Obligations.AttentionWords : Prop :=
  ∀ (s : State) (p : Nat) (w : BitVec 128), s.atWord p w →
    let h := s.holm p
    let qs : List Queue := [.mxe, .vec, .sfu]
    let slots (i : Nat) : Bool := (h.picots.get? i).isSome
    (∀ cb, fld w.toNat 0 8 = 0x18 → lookAts h.look w.toNat 8 = .ok cb → cbFree h [] cb 256 = true → cbPoisoned h cb 8 = false →
      let c : Acb := ⟨rdLE h.rd (4 * cb) 256⟩
      let rs := hulls (if c.m = 0 then [Acb.hullSelf cb 256] else [Acb.hullSelf cb 256, c.hullQ, c.hullK, c.hullV])
      let ws := hulls (if c.m = 0 then [] else if c.n = 0 then [c.hullAcc] else [c.hullS, c.hullAcc])
      (∀ o, c.check cb slots h.mayExport = none → h.canIssue qs rs ws = true → c.ats h.rd (State.picotOf h) h.poison = .ok o →
        exec (.ats p) s = .next ({ s with free := s.free + 1 }.setHolm p
          (exportTo (((h.launch 0x18 qs rs ws).putWords o.writes).spoilAll o.undef s.free) (4 + c.expCh) o.records))) ∧
      (∀ e, c.check cb slots h.mayExport = some e → exec (.ats p) s = .next (s.setHolm p (h.precise h.pc 0x18 e 0)))) ∧
    (∀ cb y, fld w.toNat 0 8 = 0x19 → lookAtf h.look w.toNat = .ok (cb, y) → cbFree h [] cb 256 = true → cbPoisoned h cb 8 = false →
      let c : Acb := ⟨rdLE h.rd (4 * cb) 256⟩
      let rs := hulls [Acb.hullSelf cb 256]
      let ws := hulls (if c.m = 0 then [] else [c.hullAcc, c.hullY y])
      (∀ o, c.atfCheck cb slots y = none → h.canIssue [.vec, .sfu] rs ws = true → c.atf h.rd y h.poison s.free = .ok o →
        exec (.atf p) s = .next ({ s with free := s.free + 65537 }.setHolm p
          (((h.launch 0x19 [.vec, .sfu] rs ws).putWords o.writes).spoilAll o.undef (s.free + 65536)))) ∧
      (∀ e, c.atfCheck cb slots y = some e → exec (.atf p) s = .next (s.setHolm p (h.precise h.pc 0x19 e 0)))) ∧
    (∀ cb, fld w.toNat 0 8 = 0x1A → lookAts h.look w.toNat 12 = .ok cb → cbFree h [] cb 384 = true → cbPoisoned h cb 12 = false →
      let b : Bcb := ⟨⟨rdLE h.rd (4 * cb) 256⟩, rdLE h.rd (4 * cb + 256) 128⟩
      let z := b.step.m = 0 ∧ b.step.n = 0
      let rs := hulls (if z then [Acb.hullSelf cb 384] else [Acb.hullSelf cb 384, b.hullQuery, b.hullKey])
      let ws := hulls (if z then [] else [b.hullScratch, b.hullRow, b.hullBlock])
      (∀ o, b.check cb slots = none → h.canIssue qs rs ws = true → b.run h.rd (State.picotOf h) h.poison s.free = .ok o →
        exec (.atb p) s = .next ({ s with free := s.free + 17 }.setHolm p
          (((h.launch 0x1A qs rs ws).putWords o.writes).spoilAll o.undef (s.free + 16)))) ∧
      (∀ e, b.check cb slots = some e → exec (.atb p) s = .next (s.setHolm p (h.precise h.pc 0x1A e 0))))

/-- A VOP, a CVT or an SFN whose fields pass the checks, that may issue and reads no poisoned word, enters one READ entry for each source hull
and one WRITE entry for its destination, goes to the next instruction, and writes its result words and nothing else. One without rows or columns
enters no entry. A poisoned word it reads, or a position past the limit of an SFN, stops it: it writes nothing and its fault is deferred
(R41, R98, R157, R166, R314, R315, R316). -/
def Obligations.VectorWords : Prop :=
  ∀ (s : State) (p : Nat) (w : BitVec 128), s.atWord p w →
    let h := s.holm p
    let after (opc : Nat) (q : Queue) (rs ws : List (Nat × Nat)) (out : List (Nat × Nat)) : State :=
      { s with free := s.free + 1 }.setHolm p ((h.launch opc [q] rs ws).putWords out)
    (∀ v, fld w.toNat 0 8 = 0x20 → lookVop (s.lookCtx h) h.look w.toNat = .ok v →
      let z := v.rows = 0 ∨ v.cols = 0
      let rs := if z then [] else hulls [v.a.hull v.rows v.cols, v.b.hull v.rows v.cols]
      let ws := if z then [] else hulls [v.d.hull v.rows v.cols]
      h.canIssue [.vec] rs ws = true →
      (h.poison.any v.reads = false → exec (.vop p) s = .next (after 0x20 .vec rs ws (v.run h.rd))) ∧
      (h.poison.any v.reads = true →
        exec (.vop p) s = .next (s.setHolm p ((h.launch 0x20 [.vec] rs ws).deferred h.pc 0x20 0 .memoryError 0)))) ∧
    (∀ v, fld w.toNat 0 8 = 0x21 → lookCvt (s.lookCtx h) h.look w.toNat = .ok v →
      let z := v.rows = 0 ∨ v.cols = 0
      let rs := if z then [] else hulls [v.hullA]
      let ws := if z then [] else hulls [v.hullD]
      h.canIssue [.vec] rs ws = true →
      (h.poison.any v.reads = false → exec (.cvt p) s = .next (after 0x21 .vec rs ws (v.run h.rd))) ∧
      (h.poison.any v.reads = true →
        exec (.cvt p) s = .next (s.setHolm p ((h.launch 0x21 [.vec] rs ws).deferred h.pc 0x21 0 .memoryError 0)))) ∧
    (∀ v, fld w.toNat 0 8 = 0x28 → lookSfn (s.lookCtx h) h.look w.toNat = .ok v →
      let z := v.rows = 0 ∨ v.cols = 0
      let rs := if z then [] else hulls [v.a.hull v.rows v.cols, v.hull1, v.hull2]
      let ws := if z then [] else hulls [v.d.hull v.rows v.cols]
      h.canIssue [.sfu] rs ws = true → h.poison.any v.reads = false →
      (v.posLimit h.rd = false →
        exec (.sfn p) s = .next (after 0x28 .sfu rs ws (v.run h.rd h.sfuMode (State.picotOf h v.slot)))) ∧
      (v.posLimit h.rd = true →
        exec (.sfn p) s = .next (s.setHolm p ((h.launch 0x28 [.sfu] rs ws).deferred h.pc 0x28 0 .limit 0))))

/-- With the control queue empty, a BOB or KVA that may issue goes to the next instruction and acts at once: a START of an idle channel begins a
run with one READ entry over its parameter block, and waits in the queue for a channel that is not idle; a STOP closes an open tile and stops the
channel from going on; a POST adds credits, at most 255, and one READ entry over an out-channel's range; a RELEASE frees the next counted tiles,
and one that asks for more than are ready is a LIMIT fault; a KVA of an idle channel hands it its append job with one READ entry over the source
rows (R221, R222, R317, R318). -/
def Obligations.BobbinCommands : Prop :=
  ∀ (s : State) (p : Nat) (w : BitVec 128), s.atWord p w → (s.holm p).bobq = [] →
    let h := s.holm p
    let entry (ev : RetireEv) (r : Nat × Nat) : SbEntry := ⟨h.nextEntry, .read, r.1, r.2, [.bob], ev⟩
    (∀ ch slot depth param, fld w.toNat 0 8 = 0x30 → fld w.toNat 8 3 = 0 →
      lookBob (s.lookCtx h) h.look w.toNat = .ok (.start ch slot depth param) → h.canIssue [.bob] [(param / 8, param / 8 + 1)] [] = true →
      let h1 : Holm := { h with scoreboard := h.scoreboard ++ [entry (.params ch) (param / 8, param / 8 + 1)], nextEntry := h.nextEntry + 1, pc := h.pc + 1 }
      ((h.chan ch).idle = true → exec (.bobStart p) s = .next (s.setHolm p (h1.setChan ch { Chan.reset with
        active := true, slot := slot, depth := depth, startPc := h.pc, paramAddr := param, paramEntry := some h.nextEntry
        posted := (h.chan ch).posted, settled := (h.chan ch).settled, exported := (h.chan ch).exported }))) ∧
      ((h.chan ch).idle = false → exec (.bobStart p) s = .next (s.setHolm p { h1 with bobq := [.start ch slot depth param h.nextEntry h.pc] }))) ∧
    (∀ ch, fld w.toNat 0 8 = 0x30 → fld w.toNat 8 3 = 1 → lookBob (s.lookCtx h) h.look w.toNat = .ok (.stop ch) → h.canIssue [.bob] [] [] = true →
      exec (.bobStop p) s = .next (s.setHolm p (if (h.chan ch).active then ({ h with pc := h.pc + 1 } : Holm).modChan ch fun c =>
        { (if c.tileOpen then { c.modLast fun t => { t with closed := true, dropped := true } with tileOpen := false } else c) with stopping := true }
        else { h with pc := h.pc + 1 }))) ∧
    (∀ ch n, fld w.toNat 0 8 = 0x30 → fld w.toNat 8 3 = 2 →
      (h.chan ch).active = true → (h.chan ch).stopping = false → (h.chan ch).ended = false → ch < h.chans.length → (h.chan ch).credits + n ≤ 255 →
      (lookBob (s.lookCtx h) h.look w.toNat = .ok (.post ch n none) → h.canIssue [.bob] [] [] = true →
        exec (.bobPost p) s = .next (s.setHolm p (({ h with pc := h.pc + 1 } : Holm).modChan ch fun c => { c with
          posted := c.posted + n, credits := c.credits + n, posts := c.posts ++ [⟨n, none⟩] }))) ∧
      (∀ r, lookBob (s.lookCtx h) h.look w.toNat = .ok (.post ch n (some r)) → h.canIssue [.bob] [r] [] = true →
        exec (.bobPost p) s = .next (s.setHolm p (({ h with
            scoreboard := h.scoreboard ++ [entry (.post ch) r], nextEntry := h.nextEntry + 1, pc := h.pc + 1 } : Holm).modChan ch fun c => { c with
          posted := c.posted + n, credits := c.credits + n, posts := c.posts ++ [⟨n, some h.nextEntry⟩] })))) ∧
    (∀ ch n r, fld w.toNat 0 8 = 0x30 → fld w.toNat 8 3 = 3 → lookBob (s.lookCtx h) h.look w.toNat = .ok (.release ch n r) →
      h.conflicts [] [] [r] = false → h.roomIn [.bob] = true →
      let ready := (h.chan ch).tiles.filter fun t => t.counted && !t.freed
      (n ≤ ready.length → exec (.bobRelease p) s = .next (s.setHolm p (({ h with pc := h.pc + 1 } : Holm).modChan ch fun c =>
        ({ c with tiles := c.tiles.map fun t => if ((((c.tiles.filter fun t => t.counted && !t.freed).take n).map (·.num)).contains t.num) then { t with freed := true } else t } : Chan).trim))) ∧
      (ready.length < n → exec (.bobRelease p) s = .next (s.setHolm p (({ h with pc := h.pc + 1 } : Holm).deferred h.pc 0x30 ch .limit 0)))) ∧
    (∀ (r : KvaReq) (q : Pool) (hull : Nat × Nat), fld w.toNat 0 8 = 0x31 → lookKva h.look w.toNat = .ok r →
      s.poolOfHandle (s.tenantOfHolm p) (h.selVal r.hsel) = some q → rowsHull r.src 0 1 (32 * r.hcnt * r.tokens * (q.rk + q.rv)) = some hull →
      hullOk (some hull) = true → h.canIssue [.bob] [hull] [] = true → (h.chan r.ch).idle = true →
      exec (.kva p) s = .next (s.setHolm p (({ h with
          scoreboard := h.scoreboard ++ [entry (.kva r.ch) hull], nextEntry := h.nextEntry + 1, pc := h.pc + 1 } : Holm).modChan r.ch fun c => { c with
        kva := some ⟨h.nextEntry, h.selVal r.hsel, r.src, r.tokens, r.layer, r.h0, r.hcnt, r.off, h.pc⟩ })))

/-- ADD adds its sign-extended immediate to an address register modulo 2^48 and SETA sets one; SETL sets a loop counter from the immediate or from
a parameter; LOOP decrements a counter above 1 and goes to its target, else clears it and goes on; CWAIT consumes one go credit and waits for one;
END closes an open tile and ends the pricking. Nothing outside the channel changes, but for the entries that an END's closed tile releases
(R217, R222). -/
def Obligations.PrickingRegisters : Prop :=
  ∀ (s : State) (p ch w : Nat), s.atPrick p ch w →
    let h := s.holm p
    let c := h.chan ch
    let into (c : Chan) : State := s.setHolm p (h.setChan ch c)
    let r := fld w 58 2
    (fld w 60 4 = 0x2 → exec (.prickingAdd p ch) s = .next (into { c with
      ar := setAt c.ar r (BitVec.ofInt 48 ((c.ar.getD r 0).toNat + (BitVec.ofNat 40 (fld w 0 40)).toInt)), pc := c.pc + 1 })) ∧
    (fld w 60 4 = 0x3 → exec (.prickingSeta p ch) s = .next (into { c with ar := setAt c.ar r (BitVec.ofNat 48 (fld w 0 48)), pc := c.pc + 1 })) ∧
    (fld w 60 4 = 0x4 → exec (.prickingSetl p ch) s = .next (into { c with
      loops := setAt c.loops r (if bitAt w 57 then BitVec.ofNat 32 (c.param (fld w 32 2)) else BitVec.ofNat 32 (fld w 0 32)), pc := c.pc + 1 })) ∧
    (fld w 60 4 = 0x5 → exec (.prickingLoop p ch) s = .next (into (if 1 < (c.loops.getD r 0).toNat then
        { c with loops := setAt c.loops r (BitVec.ofNat 32 ((c.loops.getD r 0).toNat - 1)), pc := fld w 48 5 }
      else { c with loops := setAt c.loops r 0, pc := c.pc + 1 }))) ∧
    (fld w 60 4 = 0x6 →
      (c.credits = 0 → exec (.cwait p ch) s = .next s) ∧
      (c.credits ≠ 0 → c.posts = [] → exec (.cwait p ch) s = .next (into { c with credits := c.credits - 1, taken := c.taken + 1, pc := c.pc + 1 })) ∧
      (∀ q rest, c.credits ≠ 0 → c.posts = q :: rest → exec (.cwait p ch) s = .next (into { c with
        credits := c.credits - 1, taken := c.taken + 1, pc := c.pc + 1
        posts := if q.left ≤ 1 then rest else ⟨q.left - 1, q.entry⟩ :: rest
        takenDue := if q.left ≤ 1 then c.takenDue ++ q.entry.toList else c.takenDue }))) ∧
    (fld w 60 4 = 0x0 → exec (.prickingEnd p ch) s = .next (s.setHolm p ((h.setChan ch { c.close with ended := true }).readTiles ch)))

/-- An EMIT of tenant memory on a channel whose tile may begin lands the bytes that memory holds at AR[FREG] in the scratchpad, or stores the
scratchpad's bytes there, moves the address registers and goes on; memory that does not answer stops the channel with its status. An EMIT to a
holm of the partition puts one request on the network for the lines it names. A PEMIT gives the walker of its quadrant one request, whose tile is
whole and closed, and waits while the channel's run-ahead depth is used up (R211, R217, R219, R224, R249). -/
def Obligations.PrickingRequests : Prop :=
  ∀ (s : State) (p ch w : Nat) (c1 : Chan), s.atPrick p ch w →
    let h := s.holm p
    let c := h.chan ch
    let e := emitOf w
    let a := c1.ar_ e.freg
    let x := c1.ar_ e.sreg
    let t := s.tenantOfHolm p
    (fld w 60 4 = 0x1 → (if c.tileOpen then c1 = c else c.unfreed < c.depth ∧ c1 = c.begin_) → x % 8 = 0 → x + 8 * e.lines ≤ 0x100000 →
      (e.kind = 0 → a % 32 = 0 →
        (∀ bs, ch < 4 → s.memRead t a (32 * e.lines) = .ok bs → exec (.prickingEmit p ch) s = .next
          ((s.setHolm p ((h.putBytes (4 * x) bs).setChan ch (c1.emitted e))).touch (s.workOfHolm p) t [(a, 32 * e.lines)])) ∧
        (∀ st, ch < 4 → s.memRead t a (32 * e.lines) = .error st →
          exec (.prickingEmit p ch) s = .next (s.setHolm p (h.setChan ch (c1.fail st)))) ∧
        (∀ s1, 4 ≤ ch → h.poisonedIn (x / 8) (x / 8 + e.lines - 1) = false → s.memWrite t a (h.bytes (4 * x) (32 * e.lines)) = .ok s1 →
          exec (.prickingEmit p ch) s = .next
            ((s1.setHolm p ((h.setChan ch (c1.emitted e)).readTiles ch)).touch (s.workOfHolm p) t [(a, 32 * e.lines)]))) ∧
      (∀ lg q, e.kind ≠ 0 → a < 2 ^ 28 → a % 2 ^ 20 % 8 = 0 → a % 2 ^ 20 + 8 * e.lines ≤ 0x100000 → s.peerLg? h (a / 2 ^ 20) = some lg →
        s.inFlightLines p ch + e.lines ≤ 1024 → (4 ≤ ch → h.poisonedIn (x / 8) (x / 8 + e.lines - 1) = false) → s.physOf? lg = some q →
        ∃ t m, exec (.prickingEmit p ch) s = .next t ∧ t.reqs = s.reqs.set s.nextReq m ∧ t.nextReq = s.nextReq + 1 ∧
          m.kind = (if ch < 4 then .read else .write) ∧ m.src = p ∧ m.ch = ch ∧ m.tgtLg = lg ∧ m.tgtPhys = q ∧ m.epoch = s.epochOf lg ∧
          m.addr = a % 2 ^ 20 / 8 ∧ m.lines = e.lines ∧ m.resp = none ∧ (4 ≤ ch → m.data = h.bytes (4 * x) (32 * e.lines)) ∧
          t.mem = s.mem ∧ t.kv = s.kv ∧ t.net = s.net ∧ ∀ j, j ≠ p → t.holm j = s.holm j)) ∧
    (fld w 60 4 = 0x7 →
      (c.close.depth ≤ c.close.unfreed → exec (.pemit p ch) s = .next (s.setHolm p (h.setChan ch c.close))) ∧
      (c.close.unfreed < c.close.depth → ∃ t v, exec (.pemit p ch) s = .next t ∧ t.kv = { s.kv with walks := s.kv.walks ++ [v], nextWalk := s.kv.nextWalk + 1 } ∧
        v.phys = p ∧ v.ch = ch ∧ v.walker = fld w 58 2 ∧ v.handle = c.param (fld w 36 2) ∧ v.layer = fld w 38 7 ∧ v.tokens = fld w 45 9 ∧
        v.sreg = c.ar_ (fld w 56 2) ∧ v.treg = c.ar_ (fld w 54 2) ∧ v.tile = c.begun ∧ v.landed = false ∧
        t.mem = s.mem ∧ t.net = s.net ∧ t.reqs = s.reqs ∧ ∀ j, j ≠ p → t.holm j = s.holm j))

/-- A channel that reads its parameter block has its four address registers, loop counters and parameters from it, and the block's READ entry
retires; a reserved bit set is a BAD_COMMAND fault. A closed tile of an in-channel with nothing outstanding is counted, one of an out-channel is
counted and freed. A channel that may end gives up its credits and the entries left. A failed channel faults its holm with the status, the tile
and the pricking instruction (R215, R219, R220, R221, R222, R224). -/
def Obligations.ChannelEvents : Prop :=
  ∀ (s : State) (p ch : Nat), s.liveHolm p →
    let h := s.holm p
    let c := h.chan ch
    let b := rdLE h.rd (4 * c.paramAddr) 64
    (∀ e, c.paramEntry = some e → h.st = .running → h.fault = none → c.active = true → c.loaded = false →
      h.poisonedIn (c.paramAddr / 8) (c.paramAddr / 8 + 1) = false →
      let h1 := (h.modChan ch fun c => { c with paramEntry := none }).retire [e]
      ((∀ i, i < 4 → fld b (64 * i + 48) 16 = 0) → exec (.bobbinParamBlockRead p ch) s = .next (s.setHolm p (h1.modChan ch fun c => { c with
        loaded := true
        ar := [BitVec.ofNat 48 (fld b 0 48), BitVec.ofNat 48 (fld b 64 48), BitVec.ofNat 48 (fld b 128 48), BitVec.ofNat 48 (fld b 192 48)]
        loops := [BitVec.ofNat 32 (fld b 256 32), BitVec.ofNat 32 (fld b 288 32), BitVec.ofNat 32 (fld b 320 32), BitVec.ofNat 32 (fld b 352 32)]
        params := [BitVec.ofNat 32 (fld b 384 32), BitVec.ofNat 32 (fld b 416 32), BitVec.ofNat 32 (fld b 448 32), BitVec.ofNat 32 (fld b 480 32)] }))) ∧
      ((∃ i, i < 4 ∧ fld b (64 * i + 48) 16 ≠ 0) → exec (.bobbinParamBlockRead p ch) s = .next (s.setHolm p
        ((h1.modChan ch fun c => { c with active := false }).deferred c.startPc 0x30 ch .badCommand 0)))) ∧
    (∀ t, c.tiles.find? (fun t => !t.counted && !t.dropped) = some t → t.closed = true → t.outstanding = 0 → t.walker = false →
      h.st = .running → c.failed = none →
      (ch < 4 → exec (.tileLanded p ch) s = .next (s.setHolm p (h.setChan ch { c with
        tiles := c.tiles.map fun u => if u.num = t.num then { u with counted := true } else u, count := c.count + 1 }))) ∧
      (4 ≤ ch → exec (.tileDrained p ch) s = .next (s.setHolm p (h.setChan ch ({ c with
        tiles := c.tiles.map fun u => if u.num = t.num then { u with counted := true, freed := true } else u, count := c.count + 1
        settled := c.settled + t.credits } : Chan).trim)))) ∧
    (h.st = .running → c.active = true → c.failed = none →
      (if c.stopping then ∀ t ∈ c.tiles, t.outstanding = 0 ∧ t.walker = false else c.ended = true ∧ ∀ t ∈ c.tiles, t.freed = true) →
      exec (.channelEnded p ch) s = .next (s.setHolm p (((h.setChan ch ({ c with
        active := false, posts := [], taken := 0, takenDue := [], credits := 0
        settled := c.settled + c.credits + c.taken + ((c.tiles.filter (·.dropped)).map (·.credits)).sum
        tiles := c.tiles.map fun t => { t with due := [], freed := t.freed || t.dropped } } : Chan).trim).retire
          (c.posts.filterMap (·.entry) ++ c.takenDue ++ c.tiles.flatMap (·.due))).pump))) ∧
    (∀ st pc tile, c.failed = some (st, pc, tile) → h.st = .running → h.fault = none →
      exec (.bobbinFault p ch) s = .next (s.setHolm p { h with
        fault := some ⟨st, c.startPc, 0x30, ch, true, tile % 2 ^ 27 + 2 ^ 27 * (pc % 32), false, 0, h.tideNo⟩ }))

/-- A remote access that reaches the holm that serves the named logical holm, with its current epoch, from the same partition, to lines that are
exposed, reads or writes the target's scratchpad and is answered with DONE; one for another role or epoch is answered with STALE_ROLE and counted,
with no effect on the target's scratchpad. A response ends the request: a read's data land and the tile has one request less outstanding. A
request without a response is held and its target reported. Firmware reissues a request that met its own remap to the new physical holm, and the
sender's work is degraded (R53, R56, R62, R64, R90). -/
def Obligations.RemoteAccesses : Prop :=
  ∀ (s : State) (i : Nat) (r : NetReq), s.reqs.get? i = some r →
    let g := s.holm r.tgtPhys
    let last := r.addr + r.lines - 1
    (r.kind ≠ .msg → r.resp = none → g.st ≠ .gated →
      (s.roleOk r = true → s.samePart r = true → g.exposed r.addr last 1 = true →
        (r.kind = .read → (g.inv.isSome ∨ g.lagoonAt ≤ 8 * r.addr) → g.poisonedIn r.addr last = false →
          exec (.remoteAccessArrival i) s = .next (s.modReq i fun r =>
            { r with accepted := true, data := g.bytes (32 * r.addr) (32 * r.lines), resp := some .done })) ∧
        (r.kind = .write → exec (.remoteAccessArrival i) s = .next
          ((s.setHolm r.tgtPhys (g.putBytes (32 * r.addr) r.data)).modReq i fun r => { r with accepted := true, resp := some .done }))) ∧
      (s.roleOk r = false → s.reissuable r = false → g.st ≠ .fusedOut → exec (.remoteAccessArrival i) s = .next
        ((s.modReq i fun r => { r with resp := some .staleRole }).setHolm r.tgtPhys { g with staleCount := (g.staleCount + 1) % 2 ^ 32 }))) ∧
    (r.resp = some .done → (s.holm r.src).st = .running → r.kind ≠ .msg →
      let h1 := (s.holm r.src).modChan r.ch fun c => c.modTile r.tile fun t => { t with outstanding := t.outstanding - 1 }
      exec (.remoteResponseArrival i) s = .next ({ s with reqs := s.reqs.del i }.setHolm r.src
        (if r.kind = NetKind.read then h1.putBytes (4 * r.local_) r.data else h1))) ∧
    (r.resp = none → exec (.remoteRequestHeld i) s = .next
      ((s.modReq i fun r => { r with held := true }).setHolm r.tgtPhys { g with reported := true })) ∧
    (∀ v q, r.resp = some .staleRole → s.roleCause.getD r.tgtLg .none = .firmware → s.physOf? r.tgtLg = some q → (s.holm r.src).inv = some v →
      (∀ c ∈ s.flt.recovery, c.work ≠ v.work ∨ c.stage ≠ v.stage) →
      ∃ t, exec (.staleRoleReissue i) s = .next t ∧ t.reqs.get? i = some { r with
          tgtPhys := q, epoch := s.epochOf r.tgtLg, accepted := false, arrived := 0, resp := none, held := false } ∧
        (∀ j, j ≠ i → t.reqs.get? j = s.reqs.get? j) ∧ t.work? v.work = (s.work? v.work).map (fun w => { w with degraded := true }) ∧
        (∀ u, u ≠ v.work → t.work? u = s.work? u) ∧ t.holms = s.holms ∧ t.mem = s.mem ∧ t.kv = s.kv ∧ t.net = s.net)

/-- A holm whose TIDE or HALT has issued, with no entry, channel, arrival or response left, becomes IDLE and leaves its invocation. A holm of a tidal
invocation that itself fails stops with its record, and recovery of its stage begins where its quadrant has a spare. An idle holm without a pulse
leaves service: its role moves to the lowest spare with a role epoch one higher, and its retirement is to be recorded. A segment watchdog that finds
no cycle and no holm that can never go on ends nothing and logs the wait graph it saw (R61, R66, R232, R325, R483, R492, R499). -/
def Obligations.HolmEvents : Prop :=
  ∀ (s : State) (p : Nat), s.liveHolm p →
    let h := s.holm p
    (∀ i wk st, h.st = .running → h.inv = some i → s.work? i.work = some wk → wk.stages[i.stage]? = some st → st.oplist = [] →
      i.ending = true → s.quiet p h = true →
      ∃ t, exec (.invocationComplete p) s = .next t ∧ (t.holm p).st = .idle ∧ (t.holm p).inv = none ∧ (t.holm p).scoreboard = [] ∧
        (t.holm p).program = h.program ∧ ∀ q, q ≠ p → t.holm q = s.holm q) ∧
    (∀ i q, h.st = .running → h.inv = some i → h.fault = none → i.tidal = true → s.spareOf? (p / 68) = some q →
      ∃ t r, exec (.holmFault p true) s = .next t ∧ r.hw = true ∧ r.status = .memoryError ∧ r.pc = h.pc ∧
        (t.holm p).st = .faulted ∧ (t.holm p).record = some r ∧ (t.holm p).inv = some i ∧ (t.holm p).scoreboard = [] ∧
        t.flt.recovery = s.flt.recovery ++ [⟨0, i.work, i.stage, i.lg, p, 0, 0, false, s.now⟩] ∧
        t.boot.moduleLog.next = (s.boot.moduleLog.next + 1) % 2 ^ 32 ∧ t.mem = s.mem ∧ t.remap = s.remap) ∧
    (∀ lg q, h.st = .idle → s.lgOf? p = some lg → s.spareOf? (p / 68) = some q →
      ∃ t, exec (.holmPulseLoss p) s = .next t ∧ t.remap = s.remap.set lg ⟨q % 68, true, (s.epochOf lg + 1) % 2 ^ 24⟩ ∧
        (t.holm p).st = .fusedOut ∧ t.boot.repairsDue = s.boot.repairsDue ++ [.retired p] ∧ t.mem = s.mem ∧ t.kv = s.kv) ∧
    (h.st = .spare → exec (.holmPulseLoss p) s = .next (s.fuseOut p)) ∧
    (∀ i, h.inv = some i → (s.waitGraph.any fun e => e.1 == i.lg) = true →
      let g := s.waitGraph
      let nodes := g.filter fun e => (State.reach g (g.length + 1) [i.lg]).contains e.1
      (∀ e ∈ nodes, (State.reach g (g.length + 1) e.2.who).contains e.1 = false) → (∀ e ∈ nodes, e.2.other = true) →
      ∃ t, exec (.segmentWatchdog p) s = .next t ∧ t.flt.graphs = s.flt.graphs + 1 ∧
        t.flt.waitGraph = nodes.flatMap (fun e => e.2.who.map fun y => (e.1, y)) ∧ t.holms = s.holms ∧ t.isth = s.isth ∧ t.mem = s.mem)

/-- The scrubber counts every corrected error of a written line; an uncorrectable one poisons its word and maps the row to a spare row, or plans the
holm's retirement where the bank has none. A row that is a candidate is copied to a spare row. Pending repairs are written to the repair table once.
A load fills the lagoon from its image. A holm that fails its check at the rated floor is retired, at once where nothing runs on it; one whose
quadrant needs more voltage raises the nominal point by 5 mV, to 50 mV at most (R51, R85, R94, R96, R97, R99, R507, R542). -/
def Obligations.HolmUpkeep : Prop :=
  ∀ (s : State) (p : Nat), s.liveHolm p →
    let h := s.holm p
    (∀ line errs, h.st ≠ .fusedOut → h.st ≠ .gated → line < 131072 → h.written.has line = true →
      let bank := line % 64
      let row := line / 64
      let soft := (errs.filter fun (x : Nat × Bool) => !x.2).length
      let hard := (errs.filter fun (x : Nat × Bool) => x.2 && decide (x.1 < 8)).map fun x => 8 * line + x.1
      let errsOf := h.rowErrors.getD line (0, 0)
      let h1 := { h with
        ceCount := (h.ceCount + soft) % 2 ^ 32
        rowErrors := if soft = 0 then h.rowErrors else h.rowErrors.set line (errsOf.1 + 1, errsOf.2 + soft)
        poison := h.poison ++ hard.filter fun w => !h.poison.contains w }
      (hard = [] → (State.rowCandidate h1 line = false ∨ (∃ k, State.spareRow? h bank = some k) ∨ State.rowTaken h bank row = true) →
        exec (.scrubVisit p line errs) s = .next (s.setHolm p h1)) ∧
      (∀ k, hard ≠ [] → State.rowTaken h bank row = false → State.spareRow? h bank = some k →
        exec (.scrubVisit p line errs) s = .next (s.setHolm p { h1 with repairing := h.repairing ++ [⟨bank, row, k, true⟩] })) ∧
      (hard ≠ [] → State.rowTaken h bank row = false → State.spareRow? h bank = none → h.retirePlanned = false →
        ∃ t, exec (.scrubVisit p line errs) s = .next t ∧ t.holms = (s.setHolm p { h1 with retirePlanned := true }).holms ∧
          t.boot.moduleLog.next = (s.boot.moduleLog.next + 1) % 2 ^ 32 ∧ t.isth = s.isth ∧ t.mem = s.mem)) ∧
    (∀ bank row k, bank < 64 → State.rowCandidate h (64 * row + bank) = true → State.rowTaken h bank row = false → State.spareRow? h bank = some k →
      exec (.rowRepairCopy p bank row) s = .next (s.setHolm p { h with repairing := h.repairing ++ [⟨bank, row, k, true⟩] })) ∧
    (∃ t, exec (.repairTableWrite p) s = .next t ∧ t.boot.repairsDue = [] ∧ (t.holm p).repairRecord = [] ∧
      (∀ r, r ∈ t.boot.repairs ↔ r ∈ s.boot.repairs ∨ r ∈ s.boot.repairsDue ∨ ∃ b x k, (b, x, k) ∈ h.repairRecord ∧ r = .rowMap p b x k) ∧
      (t.holm p).mem = h.mem ∧ (∀ q, q ≠ p → t.holm q = s.holm q) ∧ t.boot.moduleLog = s.boot.moduleLog ∧ t.mem = s.mem) ∧
    (∀ lg tn bs, h.inv = none → h.loadDue = true → h.lagoon ≠ 0 → h.image ≠ 0 → s.lgOf? p = some lg → s.tenantOfLg lg = some tn →
      s.memRead tn (h.image - 1) (h.lagoon * 262144) = .ok bs →
      exec (.lagoonImageLoad p) s = .next (s.setHolm p { h.putBytes (4 * h.lagoonAt) bs with loadDue := false })) ∧
    (exec (.ratedFloorCheck p true false) s = .next s) ∧
    (exec (.ratedFloorCheck p true true) s = .next { s with pow := { s.pow with ageing := modAt s.pow.ageing (p / 68) fun v => min 50 (v + 5) } }) ∧
    (h.st = .spare → s.lgOf? p = none → exec (.ratedFloorCheck p false false) s = .next (s.fuseOut p)) ∧
    (∀ lg, s.lgOf? p = some lg → (∃ q, s.spareOf? (p / 68) = some q) → ((∃ i, h.inv = some i) ∨
        (s.modHolm p fun x => { x with retirePlanned := true }).holmPlanned lg = true) →
      exec (.ratedFloorCheck p false false) s = .next (s.setHolm p { h with retirePlanned := true }))

/-- A step runs the command at the front of the queue on the state with the queue's rest. With no command waiting and no change of a partition, a
sequence or a page under way, one nanosecond passes: rack time counts one, two or none as its slew and its hold say, every 40th nanosecond is one
cycle of the always-on counter, and between two instants at which link blocks end no port changes (R361, R397, R536; the idle step is the model's
choice, log 3). -/
def Obligations.StepRunsFrontCommand : Prop :=
  ∀ s : State,
    (∀ c rest, s.pending = c :: rest → step s = exec c { s with pending := rest }) ∧
    (s.pending = [] → s.boot.phase = .off → step s = .next s) ∧
    (s.pending = [] → s.boot.phase ≠ .off → s.ten.changes = [] → s.kv.commits = [] → s.mem.moves = [] →
      let r := s.net.time
      ∃ t, step s = .next t ∧ t.net.time.ticks = r.ticks + 1 ∧
        (r.hold ≠ 0 → t.net.time.now = r.now ∧ t.net.time.hold = r.hold - 1) ∧
        (r.hold = 0 → (r.now % 1000 ≠ 999 ∨ r.slew = 0) → t.net.time.now = r.now + 1 ∧ t.net.time.slew = r.slew) ∧
        (r.hold = 0 → r.now % 1000 = 999 → 0 < r.slew → t.net.time.now = r.now + 2 ∧ t.net.time.slew = r.slew - 1) ∧
        (r.hold = 0 → r.now % 1000 = 999 → r.slew < 0 → t.net.time.slew = r.slew + 1 ∧
          t.net.time.now = if r.slew % 2 = 0 then r.now else r.now + 1) ∧
        t.boot.aoCycles = (if (r.ticks + 1) % 40 = 0 then (s.boot.aoCycles + 1) % 2 ^ 64 else s.boot.aoCycles) ∧
        (5 * r.ticks / 64 = 5 * (r.ticks + 1) / 64 → t.net.ports = s.net.ports) ∧
        t.holms = s.holms ∧ t.mem = s.mem ∧ t.ten = s.ten ∧ t.kv = s.kv ∧ t.isth = s.isth ∧ t.pow = s.pow ∧ t.pending = [])

/-- What reset leaves is a module that has just reached READY: every stage complete, no tenant, partition, archipelago, window, plan, pool, sequence or
notice ring, no queue in service, every logical holm l of quadrant q served by the physical holm 68 q + l, idle, with nothing written in its scratchpad
and an empty scoreboard, the other four holms of a quadrant spares, role epochs 0, every port DOWN, the cap 2,500 W over 4,000 ms, and no command
waiting. That the model starts in this state rather than before a boot is its choice (log 5), as is the number of spares (log 6)
(R57, R66, R382, R516, R547). -/
def Obligations.ResetLeavesReadyModule : Prop :=
  let s := State.reset
  (s.boot.phase = .ready ∧ s.ten.tenants = [] ∧ s.ten.parts = [] ∧ s.net.archs = [] ∧ s.net.windows = [] ∧ s.isth.works = [] ∧ s.isth.rings = [] ∧
    s.isth.queues = [] ∧ s.kv.pools = [] ∧ s.kv.descs = [] ∧ s.pow.cap = 2500 ∧ s.pow.window = 4000 ∧ s.pending = []) ∧
  (∀ q ∈ s.net.ports, q.st = .down) ∧
  (∀ lg, lg < 256 → s.physOf? lg = some (68 * (lg / 64) + lg % 64) ∧ s.epochOf lg = 0 ∧
    (s.holm (68 * (lg / 64) + lg % 64)).st = .idle ∧ (s.holm (68 * (lg / 64) + lg % 64)).written = [] ∧
    (s.holm (68 * (lg / 64) + lg % 64)).scoreboard = []) ∧
  (∀ q j, q < 4 → 64 ≤ j → j < 68 → (s.holm (68 * q + j)).st = .spare)

/-- A logical holm is served by a physical holm of its own quadrant, whatever has happened: every command and every idle nanosecond keeps the
physical index of every remap entry among the 68 holms of the quadrant and every role epoch within 24 bits, and an entry with such an index never
names a holm of another quadrant (R57, R58, R61). -/
def Obligations.QuadrantsServeThemselves : Prop :=
  (∀ s t : State, s.remapOk → step s = .next t → t.remapOk) ∧
  (∀ s : State, s.remapOk → ∀ lg p, lg < 256 → s.physOf? lg = some p → p < 272 ∧ p / 68 = lg / 64)

/-- Every command and every idle nanosecond keeps byte memory in its one canonical form: host memory, HBM, each codec extent and each scratchpad list
addresses strictly rising and no byte that is 0, which is what an unlisted address reads as (R7, R331). The form is the model's own. -/
def Obligations.MemoryStaysCanonical : Prop :=
  ∀ s t : State, s.memOk → step s = .next t → t.memOk

/-- The state after reset meets the two invariants: remap entries in range, and byte memories in canonical form (R57, R331). -/
def Obligations.ResetMeetsInvariants : Prop := State.reset.remapOk ∧ State.reset.memOk

/-- A queue of commands that name units that exist never stops the block: each step takes the front command and no other, puts no command into the
queue and leaves the part as it is, until the queue is empty (R14, R360, R502; the queue is the model's own). -/
def Obligations.CommandsRunToTheEnd : Prop :=
  (∀ s t : State, step s = .next t → t.pending = s.pending.tail ∧ t.part = s.part) ∧
  (∀ s : State, (∀ c ∈ s.pending, c.wellFormed = true) →
    (∃ t, step s = .next t ∧ ∀ c ∈ t.pending, c.wellFormed = true) ∧ ∃ t, run s.pending.length s = some t ∧ t.pending = [])

/-- A command that names a physical holm from 272, a strait port from 32 or a rail from 8 stops the block with a fault: the module has no such unit
(R14, R360, R502). -/
def Obligations.NoSuchUnit : Prop :=
  ∀ (s : State) (n : Nat),
    (272 ≤ n → exec (.nop n) s = .fault .noSuchHolm ∧ exec (.droopStretch n) s = .fault .noSuchHolm ∧ exec (.holmPulseLoss n) s = .fault .noSuchHolm) ∧
    (32 ≤ n → exec (.hello n) s = .fault .noSuchPort ∧ exec (.portFailure n) s = .fault .noSuchPort) ∧
    (8 ≤ n → ∀ k b c, exec (.phaseFailOpen n k) s = .fault .noSuchRail ∧ exec (.sparePhaseInService n) s = .fault .noSuchRail ∧
      exec (.railCurrentLimit n b) s = .fault .noSuchRail ∧ exec (.currentSenseCheck n k c) s = .fault .noSuchRail)

/-- The host writes to the notice doorbell the index up to which it has consumed notices: the device's notice head moves to it, and the entries are
released. A value at or above the ring's size, one that would release an entry not yet posted, or a write without a ring has no effect; a
QUEUE_ERROR notice with queue 0xFF and the value follows where there is a ring. The register reads 0 (R567). -/
def Obligations.NoticeDoorbell : Prop :=
  ∀ (s : State) (fn v : Nat), s.reachable fn = true → s.boot.phase = .ready → v < 2 ^ 32 →
    (exec (.registerRead fn 0x9000 4) s = .next { s with boot := { s.boot with busReply := some 0 } }) ∧
    (s.isth.rings.get? fn = none → exec (.ntcDbHead fn v) s = .next s) ∧
    (∀ r, s.isth.rings.get? fn = some r →
      (∀ k, k < 2 ^ r.log2 → (r.head + k) % 2 ^ r.log2 = v → r.head + k ≤ r.tail →
        exec (.ntcDbHead fn v) s = .next { s with isth := { s.isth with rings := s.isth.rings.set fn { r with head := r.head + k } } }) ∧
      ((2 ^ r.log2 ≤ v ∨ ∃ k, k < 2 ^ r.log2 ∧ (r.head + k) % 2 ^ r.log2 = v ∧ r.tail < r.head + k) →
        exec (.ntcDbHead fn v) s = .next (s.notice fn 0x12 (0xFF + 2 ^ 32 * v))))

/-- A write of RST_REQ starts the reset that its kind names where RST_CONFIRM is 0x4C4D, the kind is not 0, the reserved bits are 0, no reset is in
progress and, for a soft reset, the module has reached READY: a cold reset switches the rails off, a warm or soft one has its entry phase before it.
Any other write has no effect but a bus-error entry of the log. The register reads 0 (R571). -/
def Obligations.ResetRequest : Prop :=
  ∀ (s : State) (v : Nat), s.reachable 0 = true → v < 2 ^ 32 →
    let ok := fld v 16 16 = 0x4C4D ∧ fld v 2 14 = 0 ∧ s.boot.phase ≠ .entryDue ∧ s.boot.phase ≠ .railsOff ∧ s.boot.phase ≠ .booting
    (s.boot.phase = .ready →
      exec (.registerRead 0 0x12000 4) s = .next { s with boot := { s.boot with busReply := some 0 } }) ∧
    (ok → v % 4 = 1 → exec (.registerWrite 0 0x12000 4 v) s = .next (s.startReset .cold) ∧ exec (.rstReqCold 0 v) s = .next (s.startReset .cold) ∧
      (s.startReset .cold).boot.phase = .railsOff ∧ (s.startReset .cold).boot.kind = .cold) ∧
    (ok → v % 4 = 2 → exec (.registerWrite 0 0x12000 4 v) s = .next (s.startReset .warm) ∧ exec (.rstReqWarm 0 v) s = .next (s.startReset .warm) ∧
      s.startReset .warm = { s with boot := { s.boot with phase := .entryDue, kind := .warm, stages := [] } }) ∧
    (ok → v % 4 = 3 → s.boot.phase = .ready →
      exec (.registerWrite 0 0x12000 4 v) s = .next (s.startReset .soft) ∧ exec (.rstReqSoft 0 v) s = .next (s.startReset .soft) ∧
      s.startReset .soft = { s with boot := { s.boot with phase := .entryDue, kind := .soft, stages := [] } }) ∧
    (¬ ok ∨ v % 4 = 0 ∨ (v % 4 = 3 ∧ s.boot.phase ≠ .ready) →
      exec (.registerWrite 0 0x12000 4 v) s = .next (s.busError 0 0x12000 4 v true) ∧
      (v % 4 = 1 → exec (.rstReqCold 0 v) s = .next (s.busError 0 0x12000 4 v true)) ∧
      (v % 4 = 2 → exec (.rstReqWarm 0 v) s = .next (s.busError 0 0x12000 4 v true)) ∧
      (v % 4 = 3 → exec (.rstReqSoft 0 v) s = .next (s.busError 0 0x12000 4 v true)))

/-- A write of the high word of QUE_CFG commits the queue 0 setup block by the first row of the table that applies: BAD_COMMAND for a reserved field or
a ring size out of range; BAD_ADDRESS for an enabled queue with a base that is not 4 KiB-aligned; VERSION for a minor version out of range; LIMIT
for a queue that is stopping, for one in service whose ring or version would change, and for a stop while a plan of the queue has not been freed; else a
disabled or failed queue starts with empty rings, one in service takes its new vector and thresholds, and one that is disabled stops. A refused
commit changes nothing but the status and the source; one that succeeds clears both and the value (R563, R564, R430). -/
def Obligations.QueueZeroSetup : Prop :=
  ∀ (s : State) (fn v : Nat), s.reachable fn = true → s.bootFailed = false → v < 2 ^ 32 →
    let r : QueRegs := { s.queRegs fn with cfg := (s.queRegs fn).cfg % 2 ^ 32 + 2 ^ 32 * v }
    let put (r : QueRegs) : State := { s with isth := { s.isth with regs := s.isth.regs.set fn r } }
    let refuse (st : Status) : Prop := exec (.queCfgCommit fn v) s = .next (put { r with errStatus := st.code, errSrc := 3 })
    let clear := put { r with errStatus := 0, errSrc := 0, errValue := 0 }
    let badForm := fld r.cfg 5 3 ≠ 0 ∨ fld r.cfg 11 5 ≠ 0 ∨ fld r.cfg 34 6 ≠ 0 ∨ fld r.cfg 48 15 ≠ 0 ∨ fld r.cfg 0 5 < 6 ∨ 16 < fld r.cfg 0 5
    let enable := bitAt r.cfg 63 = true
    let badBase := enable ∧ (r.cmdBase % 4096 ≠ 0 ∨ r.cplBase % 4096 ≠ 0)
    let badMinor := enable ∧ (fld r.cfg 40 8 < s.minors.1 ∨ s.minors.2 < fld r.cfg 40 8)
    let new := Que.armed r.cmdBase r.cplBase (fld r.cfg 0 5) (fld r.cfg 40 8) (fld r.cfg 8 3) (fld r.cfg 16 8 + 1) (fld r.cfg 24 10)
    (badForm → refuse .badCommand) ∧
    (¬ badForm → badBase → refuse .badAddress) ∧
    (¬ badForm → ¬ badBase → badMinor → refuse .version) ∧
    (¬ badForm → ¬ badBase → ¬ badMinor →
      (s.que? fn 0 = none → enable → exec (.queCfgCommit fn v) s = .next (clear.setQue fn 0 new)) ∧
      (s.que? fn 0 = none → ¬ enable → exec (.queCfgCommit fn v) s = .next clear) ∧
      (∀ x, s.que? fn 0 = some x →
        (x.stopFetch = true → refuse .limit) ∧
        (x.stopFetch = false → enable → x.err = true → exec (.queCfgCommit fn v) s = .next (clear.setQue fn 0 new)) ∧
        (x.stopFetch = false → enable → x.err = false →
          (x.cmdBase = new.cmdBase ∧ x.cplBase = new.cplBase ∧ x.log2 = new.log2 ∧ x.minor = new.minor →
            exec (.queCfgCommit fn v) s = .next (clear.setQue fn 0 { x with vector := new.vector, c := new.c, t := new.t })) ∧
          (¬ (x.cmdBase = new.cmdBase ∧ x.cplBase = new.cplBase ∧ x.log2 = new.log2 ∧ x.minor = new.minor) → refuse .limit)) ∧
        (x.stopFetch = false → ¬ enable → s.planOn fn 0 = true → refuse .limit) ∧
        (x.stopFetch = false → ¬ enable → s.planOn fn 0 = false →
          (s.inProgress fn 0 ≠ 0 → exec (.queCfgCommit fn v) s = .next (clear.setQue fn 0 { x with stopFetch := true })) ∧
          (s.inProgress fn 0 = 0 → ∃ t, exec (.queCfgCommit fn v) s = .next t ∧ t.que? fn 0 = none ∧ t.isth.host = s.isth.host ∧
            t.holms = s.holms ∧ t.mem = s.mem ∧ t.net = s.net ∧ t.kv = s.kv))))

/-- A doorbell of a queue in service moves the command tail, or releases completion entries up to the head written; a value at or above the ring's size,
or one that would release an entry that holds no completion, puts the queue into ERROR with BAD_COMMAND. A queue that is absent, stopping or in
ERROR ignores the write and logs a bus error. Before READY a doorbell has no effect (R424, R425, R566). The command doorbell carries what
the host has stored in its memory before (log 9). -/
def Obligations.Doorbells : Prop :=
  ∀ (s : State) (fn q v : Nat), s.reachable fn = true → s.bootFailed = false → q < 8 → v < 2 ^ 32 →
    let cmd := exec (.dbCmdTail fn q v []) s
    let cpl := exec (.dbCplHead fn q v) s
    (s.boot.phase ≠ .ready → cmd = .next s ∧ cpl = .next s) ∧
    (s.boot.phase = .ready →
      (s.que? fn q = none → cmd = .next (s.busError fn (0x1000 + 0x1000 * q) 4 v true) ∧ cpl = .next (s.busError fn (0x1008 + 0x1000 * q) 4 v true)) ∧
      (∀ x, s.que? fn q = some x →
        (x.err = true ∨ x.stopFetch = true →
          cmd = .next (s.busError fn (0x1000 + 0x1000 * q) 4 v true) ∧ cpl = .next (s.busError fn (0x1008 + 0x1000 * q) 4 v true)) ∧
        (x.err = false → x.stopFetch = false →
          (x.size ≤ v → cmd = .next (s.queueError fn q .badCommand 1 v) ∧ cpl = .next (s.queueError fn q .badCommand 2 v)) ∧
          (v < x.size → cmd = .next (s.setQue fn q { x with tail := v })) ∧
          (∀ k, k < x.size → (x.cplHead + k) % x.size = v →
            (x.cplHead + k ≤ x.cplTail → cpl = .next (s.setQue fn q { x with cplHead := x.cplHead + k })) ∧
            (x.cplTail < x.cplHead + k → cpl = .next (s.queueError fn q .badCommand 2 v)))))) ∧
    (∀ a bs, s.boot.phase = .ready → s.que? fn q = none → ∃ t, exec (.dbCmdTail fn q v [(a, bs)]) s = .next t ∧
      t.isth = { s.isth with host := s.isth.host.write a bs })

/-- An access of 4 bytes, or of 8 bytes to a 64-bit register, at its aligned offset reads the register's value, or writes it; one at any other place
is a bus error, logged and counted. A register that is only read does not change by a write, and one that is only written reads 0. A function that
is not there does not answer (R12, R13, R557, R561). -/
def Obligations.RegisterAccesses : Prop :=
  ∀ (s : State) (fn off size v : Nat),
    let answer (s : State) (x : Option Nat) : State := { s with boot := { s.boot with busReply := x } }
    (s.reachable fn = false → exec (.registerRead fn off size) s = .next s ∧ exec (.registerWrite fn off size v) s = .next s) ∧
    (s.reachable fn = true → s.bootFailed = false →
      (∀ n i b, findReg fn off size = some (n, i, b) →
        exec (.registerRead fn off size) s = .next (answer s (some (s.regValue fn n i / 2 ^ (8 * b) % 2 ^ (8 * size))))) ∧
      (findReg fn off size = none →
        exec (.registerRead fn off size) s = .next (answer (s.busError fn off size 0 false) none) ∧
        exec (.registerWrite fn off size v) s = .next (s.busError fn off size v true)) ∧
      ((size ≠ 4 ∧ size ≠ 8) ∨ off % size ≠ 0 → findReg fn off size = none) ∧
      (∀ n i b, findReg fn off size = some (n, i, b) →
        n ∉ [RegName.queCmd, .queCpl, .queCfg, .dbCmd, .dbCpl, .ntcDb, .msixAddr, .msixData, .msixCtrl, .rstReq] →
        exec (.registerWrite fn off size v) s = .next s) ∧
      (∀ i, s.regValue fn .dbCmd i = 0 ∧ s.regValue fn .dbCpl i = 0 ∧ s.regValue fn .ntcDb i = 0 ∧ s.regValue fn .rstReq i = 0) ∧
      exec (.registerWrite fn 0x204 4 v) s = .next { s with isth := { s.isth with regs := (s.isth.regs.set fn
        { s.queRegs fn with cmdBase := (s.queRegs fn).cmdBase % 2 ^ 32 + 2 ^ 32 * (v % 2 ^ 32) }) } } ∧
      exec (.registerRead fn 0x1C 4) s = .next (answer s (some ((s.net.claim.x % 4 + 4 * (s.net.claim.y % 4) + 16 * (s.net.claim.z % 4)
        + 128 * s.net.claim.fixed.toNat)))))

/-- Power-up of a module that is off and has not tripped begins a boot with everything cleared but what flash, fuses and the host hold; a power
failure leaves the module off, with the newest 256 log entries in flash and no work. The entry phase of a warm or soft reset ends every invocation,
queue and command, keeps rack time, its synchronisation state, the cap and the energy counter, writes the newest 256 log entries to flash, and the boot
begins. The off time of a cold reset ends with a new incarnation and the boot from stage RAILS. A fault that is not confined triggers a
warm reset of a module in operation (R386, R532, R535, R536, R549, R553). -/
def Obligations.StartsAndResets : Prop :=
  ∀ s : State,
    (s.boot.phase = .off → s.pow.trip = false → ∃ t, exec .powerUp s = .next t ∧ t.boot.phase = .booting ∧ t.boot.kind = .powerUp ∧
      t.boot.stages = [] ∧ t.remap = State.reset.remap ∧ t.ten = .reset ∧ t.kv = .reset ∧ t.reqs = [] ∧ t.isth.queues = [] ∧ t.isth.cmds = [] ∧
      t.isth.works = [] ∧ t.isth.host = s.isth.host ∧ t.isth.slots = s.isth.slots ∧ t.net.time.now = 0 ∧ t.net.time.sync = .unsync ∧
      t.net.serial = s.net.serial ∧ t.net.rackId = 0 ∧ t.mem.hbm = [] ∧ t.mem.hbmParityNext = s.mem.hbmParityNext ∧ t.pow.cap = 2500 ∧
      t.pow.window = 4000 ∧ t.pow.energy = 0 ∧ t.boot.minSvn = s.boot.minSvn ∧ t.boot.repairs = s.boot.repairs ∧ t.boot.busErrors = 0 ∧
      t.boot.moduleLog = ⟨s.boot.flashLog.next, s.boot.flashLog.entries.take 256⟩ ∧
      (∀ p, (t.holm p).written = [] ∧ (t.holm p).scoreboard = [] ∧ (t.holm p).inv = none) ∧ ∀ q ∈ t.net.ports, q = .reset) ∧
    (s.boot.phase ≠ .off ∨ s.pow.trip = true → exec .powerUp s = .next s) ∧
    (s.boot.phase ≠ .off → ∃ t, exec .powerFailure s = .next t ∧ t.boot.phase = .off ∧
      t.boot.flashLog = ⟨s.boot.moduleLog.next, s.boot.moduleLog.entries.take 256⟩ ∧ t.isth.works = [] ∧ t.isth.cmds = [] ∧ t.isth.queues = [] ∧
      t.mem.hbm = [] ∧ t.mem.hostLinkUp = false ∧ t.isth.host = s.isth.host ∧ t.boot.minSvn = s.boot.minSvn ∧
      (∀ p, (t.holm p).inv = none) ∧ ∀ q ∈ t.net.ports, q.st = .down) ∧
    (s.boot.phase = .off → exec .powerFailure s = .next s) ∧
    (s.boot.phase = .entryDue → s.boot.kind = .warm ∨ s.boot.kind = .soft → ∃ t, exec .warmResetEntry s = .next t ∧ t.boot.phase = .booting ∧
      t.boot.kind = s.boot.kind ∧ t.boot.stages = [] ∧ t.isth.works = [] ∧ t.isth.cmds = [] ∧ t.isth.queues = [] ∧ t.ten = .reset ∧ t.kv = .reset ∧
      t.boot.flashLog = ⟨s.boot.moduleLog.next, s.boot.moduleLog.entries.take 256⟩ ∧ (∀ r ∈ s.boot.repairs ++ s.boot.repairsDue, r ∈ t.boot.repairs) ∧
      t.net.time.now = s.net.time.now ∧ t.net.time.sync = s.net.time.sync ∧ t.pow.cap = s.pow.cap ∧ t.pow.window = s.pow.window ∧
      t.pow.energy = s.pow.energy ∧ t.net.inc = s.net.inc ∧ t.net.rackId = s.net.rackId ∧ (∀ p, (t.holm p).inv = none ∧ (t.holm p).written = []) ∧
      (∀ lg, t.epochOf lg = 0 ∧ t.physOf? lg = s.physOf? lg) ∧ ∀ q ∈ t.net.ports, q.st = .down) ∧
    (s.boot.phase ≠ .entryDue → exec .warmResetEntry s = .next s) ∧
    (s.boot.phase = .railsOff → ∃ t, exec .coldResetOffEnd s = .next t ∧ t.boot.phase = .booting ∧ t.boot.stages = [1, 2] ∧
      t.net.inc ≠ 0 ∧ t.net.inc % 2 ^ 32 ≠ s.net.inc % 2 ^ 32 ∧ t.net.prevInc = s.net.inc ∧ t.holms = s.holms ∧ t.mem = s.mem ∧ t.isth = s.isth ∧
      t.net.time = s.net.time ∧ t.net.ports = s.net.ports) ∧
    (s.boot.phase ≠ .railsOff → exec .coldResetOffEnd s = .next s) ∧
    (s.boot.phase = .ready → exec .unconfinedFault s = .next { s with boot := { s.boot with phase := .entryDue, kind := .warm, stages := [] } }) ∧
    (s.boot.phase ≠ .ready → exec .unconfinedFault s = .next s)

/-- A boot stage completes once the stages before it have, and once only. AUTH draws the incarnation and boots the first authentic image, or enters
RECOVERY; a failed check of RAILS, CORES or DIE_LINKS fails the boot with its cause and brings the host link up on PF0 alone; HOLM_TEST builds remap
tables with epochs 0; MEMORY fails the boot where a tier has lost too much; HOST brings the link up; READY accepts commands and logs it. What a stage
finds is an operand (log 106) (R386, R533, R540, R543, R545, R548). -/
def Obligations.BootStages : Prop :=
  ∀ (s : State) (k : Nat) (f : BootFound),
    let before : List Nat := match k with
      | 1 => [] | 2 => [1] | 3 => [2] | 4 => [3] | 5 => [4] | 6 => [5] | 7 => [5] | 8 => [5] | 9 => [3, 4] | _ => [1, 2, 3, 4, 5, 6, 7, 8, 9]
    let ends := exec (.bootStageComplete k f) s
    let failed (c : Nat) : Prop := ∃ t, ends = .next t ∧ t.boot.phase = .failed c ∧ t.boot.vfEnable = false ∧ t.mem.hostLinkUp = s.boot.pins.perstN ∧
      t.boot.moduleLog.next = (s.boot.moduleLog.next + 1) % 2 ^ 32 ∧ t.holms = s.holms ∧ t.isth = s.isth ∧ t.net = s.net
    let done (t : State) : Prop := t.boot.stages = s.boot.stages ++ [k] ∧ t.boot.kind = s.boot.kind ∧ t.ten = s.ten ∧ t.kv = s.kv
    (s.boot.phase ≠ .booting ∨ k ∈ s.boot.stages ∨ k = 0 ∨ 10 < k ∨ (∃ j ∈ before, j ∉ s.boot.stages) ∨ (k = 9 ∧ s.boot.pins.perstN = false) →
      ends = .next s) ∧
    (s.boot.phase = .booting → k ∉ s.boot.stages → (∀ j ∈ before, j ∈ s.boot.stages) →
      (k = 1 → ends = .next { s with boot := { s.boot with stages := s.boot.stages ++ [1] } }) ∧
      (k = 2 → s.slotOk f.authentic s.isth.active = true → ∃ t, ends = .next t ∧ done t ∧ t.boot.phase = .booting ∧ t.isth.active = s.isth.active ∧
        t.net.inc ≠ 0 ∧ t.net.inc % 2 ^ 32 ≠ s.net.inc % 2 ^ 32 ∧ t.net.prevInc = s.net.inc ∧ t.holms = s.holms ∧ t.mem = s.mem) ∧
      (k = 2 → s.slotOk f.authentic s.isth.active = false → s.slotOk f.authentic (1 - s.isth.active) = false → ∃ t, ends = .next t ∧
        t.boot.phase = .recovery ∧ t.boot.moduleLog.next = ((s.boot.moduleLog.next + 1) % 2 ^ 32 + 1) % 2 ^ 32 ∧ t.holms = s.holms) ∧
      (k = 3 → f.ok = false → failed 1) ∧ (k = 4 → f.ok = false → failed 2) ∧ (k = 5 → f.ok = false → failed 3) ∧
      (k = 3 → f.ok = true → s.boot.repairs = [] → ∃ t, ends = .next t ∧ done t ∧ t.pow.rails = railsReset ∧ t.holms = s.holms ∧ t.net = s.net) ∧
      (k = 4 → f.ok = true → f.badRecords = [] → ∃ t, ends = .next t ∧ done t ∧ t.boot.repairs = s.boot.repairs ∧ t.holms = s.holms ∧ t.net = s.net) ∧
      (k = 5 → f.ok = true → s.boot.repairs = [] → ∃ t, ends = .next t ∧ done t ∧ (∀ l, t.flt.laneSpares.getD l 8 = 8) ∧ t.holms = s.holms) ∧
      (k = 6 → ∃ t, ends = .next t ∧ done t ∧ t.mem = s.mem ∧ t.net = s.net ∧
        ∀ lg, lg < 256 → ∃ r, t.remap.get? lg = some r ∧ r.epoch = 0 ∧ r.phys < 68) ∧
      (k = 7 → f.failedElements = [] → s.mem.failedStacks = [] → s.mem.failedPcs = [] → s.mem.failedPkgs = [] →
        s.boot.kind = .powerUp ∨ s.boot.kind = .cold → ∃ t, ends = .next t ∧ done t ∧ t.boot.phase = .booting ∧
        t.mem.hbmParity = s.mem.hbmParityNext ∧ t.mem.lpdParity = s.mem.lpdParityNext ∧ t.holms = s.holms) ∧
      (k = 7 → s.mem.hbmParityNext = false → s.mem.hbmParity = false → f.failedElements = [.stack 0] → failed 4) ∧
      (k = 8 → (∀ q ∈ s.net.ports, q.st ∈ [PortSt.down, .charted, .failed, .chart]) → ∃ t, ends = .next t ∧ done t ∧ t.net = s.net ∧ t.holms = s.holms) ∧
      (k = 9 → s.boot.pins.perstN = true → ends = .next { s with
        boot := { s.boot with stages := s.boot.stages ++ [9] }, mem := { s.mem with hostLinkUp := true } }) ∧
      (k = 10 → ∃ t, ends = .next t ∧ done t ∧ t.boot.phase = .ready ∧ t.boot.moduleLog.next = (s.boot.moduleLog.next + 1) % 2 ^ 32 ∧
        t.holms = s.holms ∧ t.mem = s.mem ∧ t.net = s.net ∧ s.boot.minSvn ≤ t.boot.minSvn))

/-- PERST_N asserted takes the host link down and gates the host interface; a module in operation then begins a warm reset. Its release wakes the host
interface. A host link that goes down ends what accesses tier 3, and it comes up again only in operation with PERST_N released (R349, R504, R532,
R537, R584). -/
def Obligations.HostLinkAndPins : Prop :=
  ∀ s : State,
    (s.controlled = true → s.boot.phase = .ready → s.mem.moves = [] → ∃ t, exec .perstAssert s = .next t ∧ t.boot.phase = .entryDue ∧
      t.boot.kind = .warm ∧ t.boot.stages = [] ∧ t.boot.pins = { s.boot.pins with perstN := false, clkreqN := true } ∧ t.mem.hostLinkUp = false ∧
      91 ∈ t.pow.gated ∧ t.holms = s.holms ∧ t.isth = s.isth ∧ t.net = s.net) ∧
    (s.controlled = false → exec .perstAssert s = .next { s with boot := { s.boot with pins := { s.boot.pins with perstN := false } } } ∧
      exec .perstDeassert s = .next { s with boot := { s.boot with pins := { s.boot.pins with perstN := true } } }) ∧
    (s.controlled = true → exec .perstDeassert s = .next { s with
      boot := { s.boot with pins := { s.boot.pins with perstN := true, clkreqN := false } }
      pow := { s.pow with gated := s.pow.gated.filter (· != 91) } }) ∧
    ((∀ v ∈ s.mem.moves, v.srcTier ≠ 3 ∧ v.dstTier ≠ 3) → exec .hostLinkDown s = .next { s with mem := { s.mem with hostLinkUp := false } }) ∧
    (∀ v, s.mem.moves = [v] → v.srcTier = 3 ∨ v.dstTier = 3 → ∃ t, exec .hostLinkDown s = .next t ∧ t.mem.moves = [] ∧
      t.mem.hostLinkUp = false ∧ t.holms = s.holms ∧ t.isth.works = s.isth.works) ∧
    (s.boot.phase = .ready → s.boot.pins.perstN = true → exec .hostLinkUp s = .next { s with mem := { s.mem with hostLinkUp := true } }) ∧
    (s.boot.phase ≠ .ready ∨ s.boot.pins.perstN = false → exec .hostLinkUp s = .next s)

/-- The spare management core takes over from one that fails, and a die-to-die lane's spare from a lane that fails, each as a masked fault; without a spare
the fault is not confined, and a module in operation begins a warm reset. The sensors' readings are kept; an alarm is VR_ALERT, and 120 degrees or more
switch every rail off with THERMTRIP_N low, which lasts until it is cleared (R22, R482, R483, R500, R529, R585). -/
def Obligations.PartFaults : Prop :=
  ∀ s : State, s.live = true →
    let warm := { s with boot := { s.boot with phase := .entryDue, kind := .warm, stages := [] } }
    (∀ c a b, s.flt.spareCore = some c → s.flt.pair = [a, b] → a ≠ b →
      ∃ t, exec (.mgmtCoreFault (some a)) s = .next t ∧ t.flt.spareCore = none ∧ t.flt.pair = [c, a] ∧ t.holms = s.holms ∧ t.mem = s.mem ∧
        t.net = s.net ∧ t.boot.phase = s.boot.phase ∧ t.boot.moduleLog.next = (s.boot.moduleLog.next + 1) % 2 ^ 32) ∧
    (∀ x, s.flt.spareCore = none → s.boot.phase = .ready → exec (.mgmtCoreFault x) s = .next warm) ∧
    (∀ link lane, link < 8 → lane < 512 → 0 < s.flt.laneSpares.getD (2 * link + lane / 256) 8 →
      ∃ t, exec (.dieToDieLaneFailure link lane) s = .next t ∧
        t.flt.laneSpares.getD (2 * link + lane / 256) 8 = s.flt.laneSpares.getD (2 * link + lane / 256) 8 - 1 ∧
        t.boot.repairsDue = s.boot.repairsDue ++ [.dieLane link lane] ∧ t.boot.moduleLog.next = (s.boot.moduleLog.next + 1) % 2 ^ 32 ∧
        t.holms = s.holms ∧ t.mem = s.mem ∧ t.net = s.net ∧ t.boot.phase = s.boot.phase) ∧
    (∀ link lane, link < 8 → lane < 512 → s.flt.laneSpares.getD (2 * link + lane / 256) 8 = 0 → s.boot.phase = .ready →
      exec (.dieToDieLaneFailure link lane) s = .next warm) ∧
    (∀ a b c d e, s.pow.trip = false → a < 120 → b < 120 → c < 120 → d < 120 → e < 120 →
      exec (.thermalRead [a, b, c, d, e] false) s = .next { s with pow := { s.pow with temps := [a, b, c, d, e] } } ∧
      ∃ t, exec (.thermalRead [a, b, c, d, e] true) s = .next t ∧ t.pow.temps = [a, b, c, d, e] ∧ t.pow.lowest = true ∧
        LowCause.vrAlert ∈ t.pow.lowCauses ∧ t.boot.pins.alertN = false ∧ ∀ x ∈ t.holms, x.2.freq = 1000 ∧ x.2.throttle = 1) ∧
    (∀ l b, s.pow.trip = false → (∃ x ∈ l, 120 ≤ x) → ∃ t, exec (.thermalRead l b) s = .next t ∧ t.boot.phase = .off ∧ t.pow.trip = true ∧
      t.boot.pins.thermtripN = false ∧ t.isth.works = [] ∧ exec .powerUp t = .next t ∧
      ∃ u, exec .thermalTripClear t = .next u ∧ u.pow.trip = false ∧ u.boot.pins.thermtripN = true ∧ u.boot.phase = .off) ∧
    (s.pow.trip = false → exec .thermalTripClear s = .next s)

/-- Over SMBus, once stage ROM has ended: a rack identity takes effect at once where none is set, and else at the next boot; 0 is refused; a reset code
starts its reset unless one is in progress; in RECOVERY an authentic firmware image is written to the active slot and the boot goes on from RAILS.
Measurements answer 240 bytes. EXTEST is selected where the module is in recovery, has failed, or is held in PERST_N without tenants, and leaving
it is a warm reset. The completion codes of the answers are the model's own (log 111) (R387, R532, R540, R541, R591, R592). -/
def Obligations.SidebandRequests : Prop :=
  ∀ s : State, s.smbusUp = true →
    let answer (s : State) (x : Nat) : State := { s with boot := { s.boot with smbusReply := [x] } }
    (∀ v, 0 < v → v < 2 ^ 32 → s.net.rackId = 0 ∨ s.net.rackId = v → exec (.pldmRackIdentity v) s = .next (answer { s with
      net := { s.net with rackId := v }, boot := { s.boot with rackNext := none } } 0)) ∧
    (∀ v, 0 < v → v < 2 ^ 32 → s.net.rackId ≠ 0 → s.net.rackId ≠ v → exec (.pldmRackIdentity v) s = .next (answer { s with
      boot := { s.boot with rackNext := some v } } 0)) ∧
    exec (.pldmRackIdentity 0) s = .next (answer s 2) ∧
    (s.resetting = false → exec (.pldmResetRequest 1) s = .next (answer (s.startReset .cold) 0) ∧
      exec (.pldmResetRequest 2) s = .next (answer { s with boot := { s.boot with phase := .entryDue, kind := .warm, stages := [] } } 0)) ∧
    (∀ c, c = 1 ∨ c = 2 → s.resetting = true → exec (.pldmResetRequest c) s = .next (answer s 1)) ∧
    (∀ h b, s.boot.phase ≠ .recovery → exec (.pldmFirmwareUpdate h b) s = .next (answer s 5)) ∧
    (∀ h m, s.boot.phase = .recovery → s.imageOf? h true = some m → fld h 0 16 = 2 → fld h 16 2 ∉ s.boot.revoked → s.boot.minSvn ≤ fld h 24 6 →
      ∃ t, exec (.pldmFirmwareUpdate h true) s = .next t ∧ t.boot.phase = .booting ∧ t.boot.stages = [1, 2] ∧ t.boot.release = fld h 64 64 ∧
        t.isth.slots = setAt s.isth.slots s.isth.active m ∧ t.boot.smbusReply = [0] ∧ t.holms = s.holms ∧ t.mem = s.mem ∧ t.net = s.net) ∧
    (∀ h m, s.boot.phase = .recovery → s.imageOf? h false = some m → exec (.pldmFirmwareUpdate h false) s = .next (answer s 1)) ∧
    (∃ t, exec .spdmGetMeasurements s = .next t ∧ t.boot.smbusReply.length = 240 ∧ (∀ x ∈ t.boot.smbusReply, x < 256) ∧ t.holms = s.holms ∧
      t.mem = s.mem ∧ t.isth = s.isth ∧ t.net = s.net) ∧
    ((s.boot.phase = .recovery ∨ (∃ c, s.boot.phase = .failed c) ∨ (s.boot.pins.perstN = false ∧ s.ten.tenants = [])) →
      exec .jtagExtestSelect s = .next { s with boot := { s.boot with extest := true } }) ∧
    (s.boot.phase = .ready → s.boot.pins.perstN = true → exec .jtagExtestSelect s = .next s) ∧
    (s.boot.extest = true → exec .jtagExtestExit s = .next { s with
      boot := { s.boot with extest := false, phase := .entryDue, kind := .warm, stages := [] } }) ∧
    (s.boot.extest = false → exec .jtagExtestExit s = .next s)

/-- An FLR of a VF removes its queues, its notice ring, its setup registers and its commands in progress; where a tenant is bound, every object of the
tenant is freed and the tenant stays; other functions keep theirs. An FLR of PF0 does the same to PF0 and clears VF Enable. VF Enable is set with a number
of VFs up to 1,024 while it is clear, and clearing it resets every VF (R551, R552; the NumVFs rules are PCI Express's, log 51). -/
def Obligations.FunctionResets : Prop :=
  ∀ s : State,
    (∀ v, v ≠ 0 → s.reachable v = true → ∃ t, exec (.flrVf v) s = .next t ∧ (∀ q, q < 8 → t.que? v q = none) ∧ t.isth.rings.get? v = none ∧
      (∀ c ∈ t.isth.cmds, c.fn ≠ v) ∧
      (s.boundTo v = none → s.mem.moves = [] → t.holms = s.holms ∧ t.isth.works = s.isth.works ∧ t.net = s.net ∧ t.boot = s.boot ∧
        (∀ fn q, fn ≠ v → q < 8 → t.que? fn q = s.que? fn q) ∧ t.isth.host = s.isth.host)) ∧
    (s.reachable 0 = true → s.mem.moves = [] → s.boot.vfEnable = false → ∃ t, exec .flrPf0 s = .next t ∧ (∀ q, q < 8 → t.que? 0 q = none) ∧
      t.isth.rings.get? 0 = none ∧ t.boot.vfEnable = false ∧ t.ten.tenants = s.ten.tenants ∧ t.ten.parts = s.ten.parts ∧ t.pow.cap = s.pow.cap ∧
      t.net.archs = s.net.archs ∧ t.net.inc = s.net.inc ∧ t.mem = s.mem ∧ t.holms = s.holms) ∧
    (s.reachable 0 = true → ∃ t, exec .flrPf0 s = .next t ∧ t.boot.vfEnable = false) ∧
    (∀ n, s.reachable 0 = true → s.boot.vfEnable = false → n ≤ 1024 →
      exec (.vfEnableWrite true n) s = .next { s with boot := { s.boot with vfEnable := true, numVfs := n } }) ∧
    (∀ n, s.reachable 0 = true → s.boot.vfEnable = true → exec (.vfEnableWrite true n) s = .next s ∧
      ∃ t, exec (.vfEnableWrite false n) s = .next t ∧ t.boot.vfEnable = false) ∧
    (∀ v, s.reachable v = false → exec (.flrVf v) s = .next s)

/-- One interval's energy is added to the module counter modulo 2^64, each share to its tenant, and what no tenant takes to the unattributed counter; an
interval whose shares exceed what was measured is not taken. The correction factor follows the energies of a millisecond within 0.900 to 1.100, and
a factor outside is logged. The cap check keeps the average and steers to the effective cap, less the excess where the cap is enforced, and no lower than
the floor; at the enforcement instant plans may be lowered, the latest first (R503, R512, R516, R517, R518, R530; log 97 to 100). -/
def Obligations.PowerTicks : Prop :=
  ∀ s : State, s.controlled = true →
    (∀ est m sh pl, m < ((sh.filter fun e => (s.tenant? e.tenant).isSome).map (·.nj)).sum → exec (.powerEstimateTick est m sh pl) s = .next s) ∧
    (∀ est m, ∃ t, exec (.powerEstimateTick est m [] []) s = .next t ∧ t.pow.estimate = est ∧ t.pow.measured = m / 4 ∧
      t.pow.energy = (s.pow.energy + m) % 2 ^ 64 ∧ t.pow.unattr = (s.pow.unattr + m) % 2 ^ 64 ∧ t.pow.eTenant = s.pow.eTenant ∧
      (∀ p, (t.holm p).mem = (s.holm p).mem ∧ (t.holm p).pc = (s.holm p).pc ∧ (t.holm p).st = (s.holm p).st) ∧
      t.mem = s.mem ∧ t.net = s.net ∧ t.isth = s.isth ∧ t.kv = s.kv ∧ t.boot = s.boot) ∧
    (∀ est e, (s.tenant? e.tenant).isSome = true → ∃ t, exec (.powerEstimateTick est e.nj [e] []) s = .next t ∧
      t.pow.energy = (s.pow.energy + e.nj) % 2 ^ 64 ∧ t.pow.unattr = s.pow.unattr % 2 ^ 64 ∧
      t.pow.eTenant.getD e.tenant 0 = (s.pow.eTenant.getD e.tenant 0 + e.nj) % 2 ^ 64 ∧ t.mem = s.mem ∧ t.net = s.net ∧ t.kv = s.kv) ∧
    (∀ m, exec (.energyCorrection 0 m) s = .next { s with pow := { s.pow with msMean := m / 1000000 } }) ∧
    (∀ e m, e ≠ 0 → let f := s.pow.factor * m / e
      (900 ≤ f → f ≤ 1100 → exec (.energyCorrection e m) s = .next { s with pow := { s.pow with msMean := m / 1000000, factor := f } }) ∧
      (f < 900 ∨ 1100 < f → ∃ t, exec (.energyCorrection e m) s = .next t ∧
        t.pow = { s.pow with msMean := m / 1000000, factor := if f < 900 then 900 else 1100 } ∧
        t.boot.moduleLog.next = (s.boot.moduleLog.next + 1) % 2 ^ 32 ∧ t.holms = s.holms ∧ t.isth = s.isth ∧ t.mem = s.mem ∧ t.net = s.net)) ∧
    (∀ avg, let eff := s.pow.effCap
      let on := s.pow.enforcing = true ∨ (s.pow.excess = none ∧ s.pow.enforceFrom ≤ s.now)
      (s.pow.enforcing = false ∨ avg ≤ eff → ∃ t, exec (.capCheck avg) s = .next t ∧ t.pow.enforced = avg ∧
        (on → t.pow.target = max s.pow.floor (eff - (avg - eff))) ∧ (¬ on → t.pow.target = max s.pow.floor eff) ∧
        t.pow.cap = s.pow.cap ∧ t.pow.affected = s.pow.affected ∧ t.holms = s.holms ∧ t.isth = s.isth ∧ t.mem = s.mem ∧ t.net = s.net ∧ t.boot = s.boot) ∧
      (s.pow.enforcing = true → eff < avg → ∃ t l, exec (.capCheck avg) s = .next t ∧ t.pow.enforced = avg ∧
        t.pow.target = max s.pow.floor (eff - (avg - eff)) ∧ t.pow.affected = s.pow.affected ++ l ∧
        (∀ h ∈ l, ∃ e ∈ s.isth.works, e.2.kind = .plan ∧ e.2.started = true ∧ e.2.handle = h) ∧ t.holms = s.holms ∧ t.mem = s.mem ∧ t.net = s.net)) ∧
    (s.pow.excess = none ∨ s.pow.enforcing = true → exec .capEnforcementInstant s = .next s) ∧
    (∀ e, s.pow.excess = some e → s.pow.enforcing = false → ∃ t, exec .capEnforcementInstant s = .next t ∧ t.pow.enforcing = true ∧
      t.pow.excess = some e ∧ t.pow.cap = s.pow.cap ∧ t.mem = s.mem ∧ t.net = s.net ∧ t.kv = s.kv)

/-- VR_ALERT and PWR_BRAKE_N put every holm at 1,000 MHz and throttle level 1, the core rails at 0.600 V and every service at level 1, with no other
effect on a holm; the state ends once no brake is asserted. A core rail at its limit throttles the running holms of its quadrant that no plan makes sure
of. A droop stretch is counted once and timed, and what it ends changes no result (R49, R510, R514, R524, R525, R584). -/
def Obligations.LowestOperatingState : Prop :=
  ∀ s : State, s.controlled = true →
    let low (t : State) : Prop := t.pow.lowest = true ∧ t.pow.volts = [600, 600, 600, 600] ∧ t.pow.service = [1, 1, 1, 1, 1] ∧
      t.holms = s.holms.map (fun e => (e.1, { e.2 with freq := 1000, throttle := 1 })) ∧ t.mem = s.mem ∧ t.net = s.net ∧ t.kv = s.kv ∧ t.ten = s.ten
    (∀ c, c < 5 → ∃ t, exec (.vrAlert c) s = .next t ∧ low t ∧ .vrAlert ∈ t.pow.lowCauses ∧ t.boot.pins = { s.boot.pins with alertN := false }) ∧
    (∀ c, 5 ≤ c → exec (.vrAlert c) s = .next s) ∧
    (∃ t, exec .pwrBrakeN s = .next t ∧ low t ∧ .pwrBrake ∈ t.pow.lowCauses ∧ t.boot.pins = { s.boot.pins with pwrBrakeN := false }) ∧
    (exec .pwrBrakeNDeassert s = .next { s with
      boot := { s.boot with pins := { s.boot.pins with pwrBrakeN := true } }
      pow := { s.pow with lowCauses := s.pow.lowCauses.filter (· != .pwrBrake) } }) ∧
    (s.pow.lowest = false ∨ .pwrBrake ∈ s.pow.lowCauses → exec .lowestStateExit s = .next s) ∧
    (s.pow.lowest = true → .pwrBrake ∉ s.pow.lowCauses → ∃ t, exec .lowestStateExit s = .next t ∧ t.pow.lowest = false ∧ t.pow.lowCauses = [] ∧
      t.boot.pins = { s.boot.pins with alertN := true } ∧ t.pow.service = [16, 16, 16, 16, 16] ∧
      (∀ p, (t.holm p).mem = (s.holm p).mem ∧ (t.holm p).pc = (s.holm p).pc ∧ (t.holm p).st = (s.holm p).st) ∧
      t.mem = s.mem ∧ t.net = s.net ∧ t.isth = s.isth) ∧
    (∀ r, r < 4 → ∃ t, exec (.railCurrentLimit r false) s = .next t ∧ (∀ p, t.holm p =
        if p / 68 = r ∧ (s.holm p).st = .running ∧ p ∉ s.sureHolms r then { s.holm p with throttle := 1 } else s.holm p) ∧
      t.pow = s.pow ∧ t.mem = s.mem ∧ t.net = s.net ∧ t.isth = s.isth ∧ t.boot = s.boot) ∧
    (∀ r, r < 4 → ∃ t, exec (.railCurrentLimit r true) s = .next t ∧ t.pow.lowest = true ∧ t.boot.pins.alertN = false ∧ t.mem = s.mem) ∧
    (∀ r b, 4 ≤ r → r < 8 → exec (.railCurrentLimit r b) s = .next s) ∧
    (∀ p, p < 272 → s.live = true →
      let h := s.holm p
      (h.stretched = false → h.st ≠ .gated → h.st ≠ .fusedOut → exec (.droopStretch p) s = .next (s.setHolm p { h with
        stretched := true, stretchFrom := s.net.time.ticks, stretchCount := h.stretchCount + 1 })) ∧
      (h.stretched = true → exec (.droopStretch p) s = .next s) ∧
      (h.stretched = false → exec (.droopStretchEnd p) s = .next s) ∧
      (h.stretched = true → h.inv = none → exec (.droopStretchEnd p) s = .next (s.setHolm p { h with
        stretched := false, stretchTime := h.stretchTime + (s.net.time.ticks - h.stretchFrom) })) ∧
      (∀ i w, h.stretched = true → h.inv = some i → s.work? i.work = some w → i.tidal = true →
        let n := h.stretchTime + (s.net.time.ticks - h.stretchFrom)
        w.period < 100 * n → 100 * h.stretchTime ≤ w.period → s.pow.guard_.getD (p / 68) 50 < 50 → p / 68 < s.pow.guard_.length →
        ∃ t, exec (.droopStretchEnd p) s = .next t ∧ t.holm p = { h with stretched := false, stretchTime := n } ∧
          t.pow.guard_.getD (p / 68) 50 = s.pow.guard_.getD (p / 68) 50 + 5 ∧
          t.boot.moduleLog.next = (s.boot.moduleLog.next + 1) % 2 ^ 32 ∧ (∀ q, q ≠ p → t.holm q = s.holm q) ∧ t.mem = s.mem ∧ t.isth = s.isth))

/-- A phase in service that fails open leaves its rail, which is recorded for the repair table, and the rail's limit is 40 A for each phase that counts,
less 40 A for each without a verified sense; a spare phase restores it. A sense out of range takes its 40 A from the limit; a phase whose sense
disagrees is lost, with VR_ALERT (R502, R527, R528, R542). -/
def Obligations.RegulatorPhases : Prop :=
  ∀ (s : State) (r k : Nat), s.controlled = true → r < 8 → r < s.pow.rails.length →
    let x := s.rail r
    let amps (y : Rail) : Nat := 40 * (min x.rated y.active.length - (y.active.filter fun p => y.unsensed.contains p).length)
    let frame (t : State) : Prop := t.mem = s.mem ∧ t.net = s.net ∧ t.kv = s.kv ∧ t.ten = s.ten ∧ ∀ j, j ≠ r → t.rail j = s.rail j
    (k ∉ x.active → exec (.phaseFailOpen r k) s = .next s ∧ ∀ c, exec (.currentSenseCheck r k c) s = .next s) ∧
    (k ∈ x.active → ∃ t, exec (.phaseFailOpen r k) s = .next t ∧ frame t ∧ t.holms = s.holms ∧
      (t.rail r).active = x.active.filter (· != k) ∧ (t.rail r).spare = x.spare ∧ (t.rail r).failed = x.failed ++ [k] ∧
      (t.rail r).limit = amps (t.rail r) ∧ t.boot.repairsDue = s.boot.repairsDue ++ [.phase r k]) ∧
    (∀ j rest, x.spare = j :: rest → x.active.length < x.rated → ∃ t, exec (.sparePhaseInService r) s = .next t ∧ frame t ∧ t.holms = s.holms ∧
      (t.rail r).active = x.active ++ [j] ∧ (t.rail r).spare = rest ∧ (t.rail r).limit = amps (t.rail r) ∧
      t.boot.moduleLog.next = (s.boot.moduleLog.next + 1) % 2 ^ 32) ∧
    (x.spare = [] ∨ x.rated ≤ x.active.length → exec (.sparePhaseInService r) s = .next s) ∧
    (exec (.currentSenseCheck r k .good) s = .next s) ∧
    (k ∈ x.active → k ∉ x.unsensed → ∃ t, exec (.currentSenseCheck r k .outOfRange) s = .next t ∧ frame t ∧ t.holms = s.holms ∧
      (t.rail r).unsensed = x.unsensed ++ [k] ∧ (t.rail r).active = x.active ∧ (t.rail r).limit = amps (t.rail r) ∧
      t.boot.repairsDue = s.boot.repairsDue ++ [.phase r k]) ∧
    (k ∈ x.active → ∃ t, exec (.currentSenseCheck r k .disagrees) s = .next t ∧ t.pow.lowest = true ∧ (t.rail r).active = x.active.filter (· != k) ∧
      t.boot.pins.alertN = false ∧ t.mem = s.mem)

/-- With no neighbour to report to, a millisecond's reports only clear the least slacks; where one group has a neighbour, one report is numbered for it. A
report from a neighbour with a port UP is kept, and what it lends is added up to the range of the effective cap; a report that is not newer is
dropped. A loan ends on either side when its time-out falls (R522, R523; log 101). -/
def Obligations.PowerLoans : Prop :=
  ∀ s : State, s.controlled = true →
    (∀ avg, (∀ g, g < 6 → s.loanPeer g = none) → exec (.powerReportSend avg) s = .next { s with pow := { s.pow with minSlack := [] } }) ∧
    (∀ avg g a k, g < 6 → s.loanPeer g = some (a, k) → (∀ j, j < 6 → j ≠ g → s.loanPeer j = none) →
      ∃ t l, exec (.powerReportSend avg) s = .next t ∧ t.pow.reportSeq = (s.pow.reportSeq + 1) % 2 ^ 32 ∧ t.pow.minSlack = [] ∧
        t.pow.loans = s.pow.loans.set g l ∧ (s.pow.loans.get? g = none → l = ⟨0, 0, none⟩) ∧ t.holms = s.holms ∧ t.mem = s.mem ∧ t.kv = s.kv) ∧
    (∀ g v, 6 ≤ g → exec (.powerReportReceive g v) s = .next s) ∧
    (∀ g v, g < 6 → s.pow.loans.get? g = none → (∃ k, k < 5 ∧ (s.port (5 * g + k)).st = .up) →
      let r := Report.ofBits v
      exec (.powerReportReceive g v) s = .next { s with pow := { s.pow with
        loans := s.pow.loans.set g ⟨0, min r.loan.toNat (min 2500 (s.pow.cap * 3 / 2) - s.pow.effCap), some r⟩ } }) ∧
    (∀ g v l o, g < 6 → s.pow.loans.get? g = some l → l.report = some o → (Report.ofBits v).seq = o.seq → exec (.powerReportReceive g v) s = .next s) ∧
    (∀ g v, g < 6 → (∀ k, k < 5 → (s.port (5 * g + k)).st ≠ .up) → exec (.powerReportReceive g v) s = .next s) ∧
    (∀ g b, ∃ t, exec (.loanTimeout g b) s = .next t ∧ (∀ j, j ≠ g → t.pow.loans.get? j = s.pow.loans.get? j) ∧
      t.pow.loans.get? g = (s.pow.loans.get? g).map (fun l => if b then { l with lent := 0 } else { l with owed := 0 }) ∧
      t = { s with pow := { s.pow with loans := t.pow.loans } })

/-- A holm-quad that may be gated is gated with its idle holms, which keep their scratchpads; it wakes with those holms IDLE and their open water
unwritten. A strait group with all ports DOWN, the codec with no page in tiers 2 and 3, and the memory controllers and services of a module without a
tenant are gated; nothing else changes (R66, R84, R504, R506). -/
def Obligations.PowerDomains : Prop :=
  ∀ s : State, s.controlled = true →
    (∀ q c, q < 4 → c < 17 →
      let own (p : Nat) : Prop := ∃ i, i < 4 ∧ p = 68 * q + 4 * c + i
      (22 * q + c ∉ s.pow.gated → s.mayGate q c = true → ∃ t, exec (.holmQuadGate q c) s = .next t ∧ t.pow.gated = s.pow.gated ++ [22 * q + c] ∧
        (∀ p, own p → (s.holm p).st = .idle → t.holm p = { s.holm p with st := .gated }) ∧
        (∀ p, ¬ own p ∨ (s.holm p).st ≠ .idle → t.holm p = s.holm p) ∧ t.mem = s.mem ∧ t.net = s.net ∧ t.isth = s.isth) ∧
      (22 * q + c ∈ s.pow.gated ∨ s.mayGate q c = false → exec (.holmQuadGate q c) s = .next s) ∧
      (22 * q + c ∈ s.pow.gated → ∃ t, exec (.holmQuadWake q c) s = .next t ∧ 22 * q + c ∉ t.pow.gated ∧
        (∀ p, own p → (s.holm p).st = .gated → (t.holm p).st = .idle ∧ (t.holm p).lagoon = (s.holm p).lagoon ∧
          ((s.holm p).lagoon ≤ 15 → ∀ line, (s.holm p).lagoonAt / 8 ≤ line → (t.holm p).written.has line = (s.holm p).written.has line) ∧
          (t.holm p).program = (s.holm p).program) ∧
        (∀ p, ¬ own p ∨ (s.holm p).st ≠ .gated → t.holm p = s.holm p) ∧ t.mem = s.mem ∧ t.net = s.net ∧ t.isth = s.isth) ∧
      (22 * q + c ∉ s.pow.gated → exec (.holmQuadWake q c) s = .next s)) ∧
    (∀ g, g < 8 → straitDomain g ∉ s.pow.gated →
      ((∀ k, k < 4 → (s.port (4 * g + k)).st = .down) →
        exec (.straitGroupGate g) s = .next { s with pow := { s.pow with gated := s.pow.gated ++ [straitDomain g] } }) ∧
      (∀ k, k < 4 → (s.port (4 * g + k)).st ≠ .down → exec (.straitGroupGate g) s = .next s)) ∧
    (92 ∉ s.pow.gated → s.codecIdle = true → exec .codecDomainGate s = .next { s with pow := { s.pow with gated := s.pow.gated ++ [92] } }) ∧
    (s.codecIdle = false → exec .codecDomainGate s = .next s) ∧
    (s.ten.tenants = [] → s.pow.deepIdle = false → ∃ t, exec .deepIdleEnter s = .next t ∧ t.pow.deepIdle = true ∧
      (∀ d ∈ s.pow.gated, d ∈ t.pow.gated) ∧ (∀ q, q < 4 → 22 * q + 17 ∈ t.pow.gated ∧ 22 * q + 18 ∈ t.pow.gated ∧ 22 * q + 21 ∈ t.pow.gated) ∧
      t = { s with pow := { s.pow with deepIdle := true, gated := t.pow.gated } }) ∧
    (s.ten.tenants ≠ [] → exec .deepIdleEnter s = .next s)

/-- A read of HBM data answers its bytes, and a read with a lost byte MEMORY_ERROR; a write stores its bytes; a range that leaves the data range is
BAD_ADDRESS, reads nothing and writes nothing. The codec answers an extent's bytes, and a rewrite within one unit that finds stored space replaces
exactly those bytes of the extent; an access past the 2 MiB of a page is BAD_ADDRESS (R26, R27, R334, R344, R346, R347). -/
def Obligations.MemoryRequests : Prop :=
  ∀ s : State, s.live = true →
    let answer (st : Status) (bs : List Nat) (s : State) : State := { s with mem := { s.mem with reply := (st, bs) }, free := s.free + 65536 }
    let awake : State := { s with pow := { s.pow with gated := s.pow.gated.filter (· != 92) } }
    (∀ a n bs, a + n ≤ hbmEnd s.mem.hbmParity → s.mem.hbmRead a n = some bs → ∃ t, exec (.hbmRead a n) s = .next t ∧ t.mem.reply = (.done, bs) ∧
      (s.mem.badBlocks = [] → s.mem.failedStacks = [] → s.mem.failedPcs = [] → t.mem.hbm = s.mem.hbm ∧ t.mem.poisoned = s.mem.poisoned) ∧
      t.mem.fresh = s.mem.fresh ∧ t.mem.extents = s.mem.extents ∧
      t.holms = s.holms ∧ t.isth = s.isth ∧ t.ten = s.ten ∧ t.kv = s.kv) ∧
    (∀ a n, a + n ≤ hbmEnd s.mem.hbmParity → s.mem.hbmRead a n = none → ∃ t, exec (.hbmRead a n) s = .next t ∧ t.mem.reply = (.memoryError, []) ∧
      t.mem.extents = s.mem.extents ∧ t.holms = s.holms ∧ t.isth = s.isth ∧ t.ten = s.ten) ∧
    (∀ a n, hbmEnd s.mem.hbmParity < a + n → exec (.hbmRead a n) s = .next (answer .badAddress [] s)) ∧
    (∀ a bs, a + bs.length ≤ hbmEnd s.mem.hbmParity →
      exec (.hbmWrite a bs) s = .next (answer .done [] { s with mem := s.mem.hbmStore a bs })) ∧
    (∀ a bs, hbmEnd s.mem.hbmParity < a + bs.length → exec (.hbmWrite a bs) s = .next (answer .badAddress [] s)) ∧
    (∀ e off n, regionSize < off + n → exec (.codecRead e off n) s = .next (answer .badAddress [] awake)) ∧
    (∀ e x off n, off + n ≤ regionSize → s.mem.extents.get? e = some x → x.tier = 2 → s.mem.failedPkgs = [] → (∀ u ∈ x.units, u.2.poisoned = false) →
      exec (.codecRead e off n) s = .next (answer .done (Mem.read x.mem off n) awake)) ∧
    (∀ e off n, off + n ≤ regionSize → s.mem.extents.get? e = none → exec (.codecRead e off n) s = .next (answer .badAddress [] awake)) ∧
    (∀ e off bs, regionSize < off + bs.length → exec (.codecRewrite e off bs) s = .next (answer .badAddress [] awake)) ∧
    (∀ e x off bs, bs ≠ [] → off % 4096 + bs.length ≤ 4096 → off + bs.length ≤ regionSize → s.mem.extents.get? e = some x → x.tier = 2 →
      s.mem.failedPkgs = [] → (∀ u ∈ x.units, u.2.poisoned = false) →
      (∀ n, 1 ≤ n → n ≤ 16 → (MemState.takeStored s.part s.mem 2 n 64).isSome = true) →
      ∃ t y, exec (.codecRewrite e off bs) s = .next t ∧ t.mem.reply = (.done, []) ∧ t.mem.extents = s.mem.extents.set e y ∧
        y.mem = x.mem.write off bs ∧ y.tier = x.tier ∧ y.owner = x.owner ∧ t.mem.hbm = s.mem.hbm ∧ t.holms = s.holms ∧ t.isth = s.isth ∧ t.ten = s.ten)

/-- A stack or package declared failed joins the failed ones and the module runs degraded; with parity and nothing else failed the fault is masked and
logged. Patrol scrub counts what it corrects, and a row found twice is recorded for post-package repair. A window that is not skewed ends a run of
skewed ones. A unit of a move is copied to its destination. Compaction changes no byte of an extent. A freed place is released once zeroed. A slot table
that is legal takes effect, and the old one becomes the shadow (R331, R332, R340, R343, R346, R350, R352, R353, R357). -/
def Obligations.MemoryEvents : Prop :=
  ∀ s : State, s.live = true →
    let frame (t : State) : Prop := t.holms = s.holms ∧ t.kv = s.kv ∧ t.net = s.net
    (∀ k, k < 8 → k ∉ s.mem.failedStacks → ∃ t, exec (.elementFailureDeclare (.stack k)) s = .next t ∧ frame t ∧
      t.mem = { s.mem with failedStacks := s.mem.failedStacks ++ [k], degraded := true } ∧
      (s.mem.hbmParity = true → s.mem.failedStacks = [] → s.mem.failedPcs = [] →
        t.boot.moduleLog.next = (s.boot.moduleLog.next + 1) % 2 ^ 32) ∧ (s.mem.hbmParity = false → t.boot = s.boot ∧ t.isth = s.isth)) ∧
    (∀ k, k < 12 → k ∉ s.mem.failedPkgs → ∃ t, exec (.elementFailureDeclare (.package k)) s = .next t ∧ frame t ∧
      t.mem = { s.mem with failedPkgs := s.mem.failedPkgs ++ [k], degraded := true }) ∧
    (∀ k, k ∈ s.mem.failedStacks → exec (.elementFailureDeclare (.stack k)) s = .next s) ∧
    (∀ a, dpaKind s.part s.mem a = .hbm →
      let st := (s.mem.place a).stack
      exec (.patrolScrub a 0) s = .next s ∧
      (s.mem.scrubRows.getD (a / 64) 0 ≠ 1 → exec (.patrolScrub a 1) s = .next { s with mem := { s.mem with
        ceHbm := s.mem.ceHbm.set st ((s.mem.ceHbm.getD st 0 + 1) % 2 ^ 32)
        scrubRows := s.mem.scrubRows.set (a / 64) (s.mem.scrubRows.getD (a / 64) 0 + 1) } }) ∧
      (s.mem.scrubRows.getD (a / 64) 0 = 1 → ∃ t, exec (.patrolScrub a 1) s = .next t ∧ frame t ∧ t.mem.pprRows = s.mem.pprRows ++ [a / 64] ∧
        t.boot.repairsDue = s.boot.repairsDue ++ [.ppr (a / 64)] ∧ t.boot.moduleLog.next = (s.boot.moduleLog.next + 1) % 2 ^ 32)) ∧
    (s.mem.pcBytes = [] → exec .balanceWindow s = .next { s with mem := { s.mem with skewRun := 0, skewReported := false } }) ∧
    (∀ r, s.pageOfRegion r = none → exec (.regionRekey r) s = .next s) ∧
    (∀ r t page dst m, s.pageOfRegion r = some (t, page) → s.mem.skewReported = true → s.mem.rekeysInSecond = [] → s.mem.rekeys = [] → s.mem.moves = [] →
      s.mem.takePlace 1 t s.free = some (dst, m) → ∃ u, exec (.regionRekey r) s = .next u ∧ u.mem.moves = [⟨t, page, 1, r, 1, dst, 0, none, none, s.now⟩] ∧
        u.mem.hbm = s.mem.hbm ∧ u.mem.issued = s.mem.issued.set dst t ∧ u.holms = s.holms ∧ u.kv = s.kv ∧ u.net = s.net) ∧
    (∀ i v bs m, s.mem.moves[i]? = some v → v.next < 511 → s.mem.readUnit v.srcTier v.src v.next = .ok bs →
      MemState.writeUnit s.part s.mem v.dstTier v.dst v.next bs s.free = .ok m →
      exec (.migrationUnitCopy i) s = .next { s with
        mem := { m with moves := modAt m.moves i fun x => { x with next := x.next + 1 } }, free := s.free + 512 }) ∧
    (∀ i, s.mem.moves[i]? = none → exec (.migrationUnitCopy i) s = .next s) ∧
    (∀ seg, ∃ t, exec (.segmentCompaction seg) s = .next t ∧ frame t ∧ t.isth = s.isth ∧ t.mem.hbm = s.mem.hbm ∧
      (∀ e, (t.mem.extents.get? e).map (·.mem) = (s.mem.extents.get? e).map (·.mem))) ∧
    (∀ i z, s.mem.zeroing[i]? = some z → ∃ t, exec (.regionZeroing i) s = .next t ∧ frame t ∧ t.mem.zeroing = s.mem.zeroing.erase z ∧
      (z.tier ≠ 1 → t.mem.extents.get? z.target = none ∧ t.mem.hbm = s.mem.hbm ∧ ∀ e, e ≠ z.target → t.mem.extents.get? e = s.mem.extents.get? e) ∧
      (z.tier = 1 → t.mem.extents = s.mem.extents ∧ ∀ b, z.target * regionSize / 64 ≤ b → b < (z.target + 1) * regionSize / 64 → b ∉ t.mem.poisoned)) ∧
    (∀ c tb, c < 540 → slotTableOk c tb = true → exec (.slotTableSwap c tb) s = .next { s with mem := { s.mem with
      slots := s.mem.slots.set c tb, slotsShadow := s.mem.slotsShadow.set c (s.mem.slotTable c) } }) ∧
    (∀ c tb, slotTableOk c tb = false → exec (.slotTableSwap c tb) s = .next s)

/-- A queue in service fetches its next entry while fewer than 256 commands of it are in progress and completion entries are left beyond those it keeps
for tides: the entry is accepted with what it names, or ends with the first failure of the acceptance checks; one that the host does not let it read
puts the queue into ERROR. The command that ended first posts its completion of 32 bytes where an entry is free, with its phase, and leaves. Space lets the
oldest held tide completion of a plan post. The coalescing timer signals what is unsignalled (R424 to R429, R434, R435). -/
def Obligations.FetchAndPost : Prop :=
  ∀ (s : State) (fn q : Nat),
    (s.que? fn q = none → exec (.commandFetch fn q) s = .next s ∧ exec (.commandCompletionPost fn q) s = .next s ∧
      exec (.interruptCoalesceTimer fn q) s = .next s) ∧
    (∀ x, s.que? fn q = some x →
      let free := x.size - (x.cplTail - x.cplHead)
      let may : Prop := s.boot.phase = .ready ∧ s.mem.hostLinkUp = true ∧ x.err = false ∧ x.stopFetch = false ∧ x.head ≠ x.tail ∧
        s.inProgress fn q < 256 ∧ s.inProgress fn q + (if 256 ≤ x.size then 64 else x.size / 4) < free
      let taken (raw : Nat) (objs pages : List (Nat × Nat)) : State := { s with isth := { s.isth with
        queues := s.isth.queues.set (8 * fn + q) { x with head := (x.head + 1) % x.size }
        cmds := s.isth.cmds ++ [⟨fn, q, s.isth.nextCmd, raw, .accepted, 0, s.now, objs, pages⟩], nextCmd := s.isth.nextCmd + 1 } }
      (¬ may → exec (.commandFetch fn q) s = .next s) ∧
      (∀ bs, may → s.hostRead (x.cmdBase + 128 * x.head) 128 = some bs →
        let raw := ofBytes bs
        (acceptCheck fn x.minor (s.boundTo fn).isSome raw = none →
          exec (.commandFetch fn q) s = .next (taken raw (s.namedObjs fn raw) (s.namedPages fn raw))) ∧
        (∀ st, acceptCheck fn x.minor (s.boundTo fn).isSome raw = some st →
          exec (.commandFetch fn q) s = .next ((taken raw [] []).endCmd (fn, q, s.isth.nextCmd) st 0 false))) ∧
      (may → s.hostRead (x.cmdBase + 128 * x.head) 128 = none → ∃ t, exec (.commandFetch fn q) s = .next t ∧
        t.que? fn q = some { x with err := true } ∧ t.isth.cmds = s.isth.cmds ∧ t.holms = s.holms ∧ t.mem = s.mem ∧ t.kv = s.kv ∧ t.net = s.net) ∧
      (s.firstEnded fn q = none ∨ free = 0 → exec (.commandCompletionPost fn q) s = .next s) ∧
      (∀ c st r f n, s.firstEnded fn q = some (c, st, r, f, n) → s.boot.phase = .ready → s.mem.hostLinkUp = true → free ≠ 0 →
        let at_ := x.cplBase + 32 * (x.cplTail % x.size)
        let entry := toBytes (Cpl.bits ⟨st, false, f, x.head, c.tag, r, c.energy⟩ (phaseBit x.cplTail x.size)) 32
        let rest := s.isth.cmds.filter fun d => d.name != c.name
        s.hostOk at_ 32 = true →
          (bitAt c.raw 17 = true → x.stopFetch = false → exec (.commandCompletionPost fn q) s = .next { s with isth := { s.isth with
            host := s.isth.host.write at_ entry, queues := s.isth.queues.set (8 * fn + q) { x with cplTail := x.cplTail + 1 }, cmds := rest } }) ∧
          (bitAt c.raw 17 = false → x.stopFetch = false → ∃ t, exec (.commandCompletionPost fn q) s = .next t ∧ t.isth.cmds = rest ∧
            t.que? fn q = some { x with cplTail := x.cplTail + 1, unsignalled := (if x.c ≤ x.unsignalled + 1 ∨ x.t = 0 then 0 else x.unsignalled + 1) } ∧
            t.holms = s.holms ∧ t.mem = s.mem ∧ t.kv = s.kv ∧ t.net = s.net ∧ t.ten = s.ten ∧ t.boot = s.boot) ∧
          (x.stopFetch = true → (∀ d ∈ s.isth.cmds, d.fn = fn → d.q = q → d.name = c.name) →
            ∃ t, exec (.commandCompletionPost fn q) s = .next t ∧ t.que? fn q = none ∧ t.holms = s.holms ∧ t.mem = s.mem ∧ t.net = s.net)) ∧
      (let m := s.isth.msix.getD (8 * fn + x.vector) ⟨0, 0, true, false⟩
       let told := s.isth.queues.set (8 * fn + q) { x with unsignalled := 0 }
       (x.unsignalled = 0 → exec (.interruptCoalesceTimer fn q) s = .next s) ∧
       (x.unsignalled ≠ 0 → m.masked = true → exec (.interruptCoalesceTimer fn q) s = .next { s with isth := { s.isth with
          queues := told, msix := s.isth.msix.set (8 * fn + x.vector) { m with pending := true } } }) ∧
       (x.unsignalled ≠ 0 → m.masked = false → s.hostOk m.addr 4 = true → exec (.interruptCoalesceTimer fn q) s = .next { s with isth := { s.isth with
          queues := told, host := s.isth.host.write m.addr (toBytes m.data 4) } }))) ∧
    (∀ w, s.work? w = none → exec (.heldCompletionPost w) s = .next s) ∧
    (∀ w x, s.work? w = some x → x.held = [] → exec (.heldCompletionPost w) s = .next s) ∧
    (∀ w x c rest y, s.work? w = some x → x.held = c :: rest → s.que? x.fn x.q = some y → y.err = false →
      s.inProgress x.fn x.q < y.size - (y.cplTail - y.cplHead) → s.hostOk (y.cplBase + 32 * (y.cplTail % y.size)) 32 = true →
      ∃ t, exec (.heldCompletionPost w) s = .next t ∧ t.work? w = some { x with held := rest } ∧
        (t.que? x.fn x.q).map (·.cplTail) = some (y.cplTail + 1) ∧ t.isth.cmds = s.isth.cmds ∧ t.holms = s.holms ∧ t.mem = s.mem ∧ t.kv = s.kv)

/-- A command starts only as the oldest that waits on its queue, and where no earlier one of the queue stands in its way; before that nothing changes.
A command of a tenant that comes on a function without a tenant ends NO_PERMISSION (R426, R440). -/
def Obligations.CommandsWait : Prop :=
  ∀ (s : State) (fn q : Nat) (b : Bool) (v : Option Verdict) (adm : Admission),
    let waits (code : Nat) (i : Instr) : Prop := (∀ c, ¬ s.starts code fn q c) → exec i s = .next s
    let bound (code : Nat) (i : Instr) : Prop := waits code i ∧
      ∀ c, s.starts code fn q c → s.boundTo fn = none → exec i s = .next ((s.begun c).endCmd c.name .noPermission 0 false)
    waits 0x0101 (.iciVersion fn q) ∧ waits 0x0102 (.queryCaps fn q) ∧ waits 0x0103 (.queueCreate fn q) ∧ waits 0x0104 (.queueDelete fn q) ∧
    waits 0x0105 (.noticeRingSet fn q) ∧ bound 0x0201 (.regionAlloc fn q) ∧ bound 0x0202 (.regionFree fn q) ∧ waits 0x0203 (.regionMap fn q) ∧
    bound 0x0204 (.copy fn q v) ∧ bound 0x0205 (.migrate fn q v) ∧ bound 0x0301 (.modelLoad fn q) ∧ bound 0x0302 (.lagoonSet fn q) ∧
    bound 0x0303 (.modelFree fn q) ∧ bound 0x0401 (.poolCreate fn q) ∧ bound 0x0402 (.seqCreate fn q) ∧ bound 0x0403 (.seqFork fn q) ∧
    bound 0x0404 (.seqAppend fn q v) ∧ bound 0x0405 (.seqTruncate fn q) ∧ bound 0x0406 (.seqFree fn q) ∧ bound 0x0407 (.poolFree fn q) ∧
    bound 0x0501 (.planSubmit fn q adm) ∧ bound 0x0502 (.planStart fn q) ∧ bound 0x0503 (.planStop fn q) ∧ bound 0x0504 (.planStageUpdate fn q adm) ∧
    bound 0x0505 (.planFree fn q) ∧ bound 0x0601 (.attend fn q v) ∧ bound 0x0602 (.gemm fn q v) ∧ bound 0x0603 (.batch fn q v) ∧
    bound 0x0701 (.windowOpen fn q) ∧ bound 0x0702 (.windowClose fn q) ∧ bound 0x0703 (.sliceJoin fn q) ∧ bound 0x0704 (.collective fn q v) ∧
    bound 0x0705 (.sliceLeave fn q) ∧ waits 0x0801 (.capSet fn q) ∧ waits 0x0802 (.energyRead fn q) ∧ bound 0x0901 (.nativeLoad fn q) ∧
    bound 0x0902 (.nativeRun fn q) ∧ bound 0x0903 (.nativeFree fn q) ∧ waits 0x0F01 (.tenantCreate fn q) ∧ waits 0x0F02 (.tenantDestroy fn q) ∧
    waits 0x0F03 (.partitionSet fn q) ∧ waits 0x0F04 (.sliceDefine fn q) ∧ waits 0x0F05 (.linkEnable fn q) ∧ waits 0x0F06 (.firmwareStage fn q b) ∧
    waits 0x0F07 (.firmwareActivate fn q) ∧ waits 0x0F08 (.paritySet fn q) ∧ waits 0x0F09 (.tier3Register fn q)

/-- ICI_VERSION answers the range of minor versions, the major version 1, the count 2 and the release. QUERY_CAPS writes its 560 bytes. QUEUE_CREATE sets a
new queue, or a queue in ERROR, up with empty rings; QUEUE_DELETE stops a queue and ends once it has stopped; NOTICE_RING_SET sets an empty ring. Each
checks its addresses, then its fields, then what it names, and fails with no effect (R423, R425, R430, R431, R434, R437, R569). -/
def Obligations.QueueCommands : Prop :=
  ∀ (s : State) (fn q : Nat) (c : Cmd),
    let b := s.begun c
    let ends (i : Instr) (t : State) (st : Status) (r : Nat) : Prop := exec i s = .next (t.endCmd c.name st r false)
    let hosted (a : Nat) : Prop := bitAt a 63 = true ∧ a % 4096 = 0 ∧ s.argMapped none a = true
    (s.starts 0x0101 fn q c →
      ends (.iciVersion fn q) b .done (s.minors.2 % 256 + 2 ^ 8 + 2 ^ 16 * (s.minors.1 % 256) + 2 ^ 33 + 2 ^ 64 * (s.boot.release % 2 ^ 64))) ∧
    (s.starts 0x0102 fn q c →
      (s.argMapped (s.boundTo fn) (c.arg 32 8) = false → ends (.queryCaps fn q) b .badAddress 0) ∧
      (∀ t, s.argMapped (s.boundTo fn) (c.arg 32 8) = true → b.argWrite (s.boundTo fn) (c.arg 32 8) (s.capBytes fn) = .ok t →
        ends (.queryCaps fn q) t .done 560)) ∧
    (s.starts 0x0103 fn q c →
      let k := c.arg 32 1
      let addrs := hosted (c.arg 40 8) ∧ hosted (c.arg 48 8)
      let fields := 1 ≤ k ∧ k ≤ 7 ∧ c.arg 33 1 ≤ 7 ∧ c.arg 36 2 ≤ 1023 ∧ 6 ≤ c.arg 38 1 ∧ c.arg 38 1 ≤ 16
      let minor := s.minors.1 ≤ c.arg 39 1 ∧ c.arg 39 1 ≤ s.minors.2
      let new := Que.armed (c.arg 40 8) (c.arg 48 8) (c.arg 38 1) (c.arg 39 1) (c.arg 33 1) (c.arg 34 1 + 1) (c.arg 36 2)
      (¬ addrs → ends (.queueCreate fn q) b .badAddress 0) ∧ (addrs → ¬ fields → ends (.queueCreate fn q) b .badCommand 0) ∧
      (addrs → fields → ¬ minor → ends (.queueCreate fn q) b .version 0) ∧
      (addrs → fields → minor → s.que? fn k = none → ends (.queueCreate fn q)
        { b.setQue fn k new with pow := { s.pow with eQueue := s.pow.eQueue.del (8 * fn + k) } } .done 0) ∧
      (∀ x, addrs → fields → minor → s.que? fn k = some x →
        (x.err = false ∨ x.stopFetch = true → ends (.queueCreate fn q) b .limit 0) ∧
        (x.err = true → x.stopFetch = false → c.arg 39 1 < 4 → s.planNeedsNew fn k = true → ends (.queueCreate fn q) b .version 0) ∧
        (x.err = true → x.stopFetch = false → 4 ≤ c.arg 39 1 ∨ s.planNeedsNew fn k = false → ends (.queueCreate fn q) (b.setQue fn k new) .done 0))) ∧
    (s.starts 0x0104 fn q c →
      let k := c.arg 32 1
      (k = 0 ∨ 7 < k ∨ k = c.q → ends (.queueDelete fn q) b .badCommand 0) ∧
      (1 ≤ k → k ≤ 7 → k ≠ c.q → s.que? fn k = none → ends (.queueDelete fn q) b .limit 0) ∧
      (∀ x, 1 ≤ k → k ≤ 7 → k ≠ c.q → s.que? fn k = some x →
        (x.stopFetch = true ∨ s.planOn fn k = true → ends (.queueDelete fn q) b .limit 0) ∧
        (x.stopFetch = false → s.planOn fn k = false → s.inProgress fn k ≠ 0 →
          exec (.queueDelete fn q) s = .next (b.setQue fn k { x with stopFetch := true })) ∧
        (x.stopFetch = false → s.planOn fn k = false → s.inProgress fn k = 0 → ∃ t, exec (.queueDelete fn q) s = .next t ∧ t.que? fn k = none ∧
          (∀ d ∈ t.isth.cmds, d.name = c.name → ∃ n, d.st = .ended .done 0 false n) ∧ t.holms = s.holms ∧ t.mem = s.mem ∧ t.net = s.net ∧ t.kv = s.kv))) ∧
    (s.starts 0x0105 fn q c →
      (¬ hosted (c.arg 40 8) → ends (.noticeRingSet fn q) b .badAddress 0) ∧
      (hosted (c.arg 40 8) → c.arg 32 1 < 6 ∨ 12 < c.arg 32 1 ∨ 7 < c.arg 33 1 → ends (.noticeRingSet fn q) b .badCommand 0) ∧
      (hosted (c.arg 40 8) → 6 ≤ c.arg 32 1 → c.arg 32 1 ≤ 12 → c.arg 33 1 ≤ 7 → ends (.noticeRingSet fn q)
        { b with isth := { b.isth with rings := s.isth.rings.set fn ⟨c.arg 40 8 % 2 ^ 63, c.arg 32 1, c.arg 33 1, 0, 0⟩ } } .done 0))

/-- REGION_ALLOC, REGION_FREE and REGION_MAP change a tenant's pages, at once or at a commit point; an allocation maps pages of its tier, a release
unmaps them. COPY writes the bytes it has read. MIGRATE of pages that lie in the tier ends at once with their stored bytes, else its pages begin to
move. MODEL_LOAD copies and locks, MODEL_FREE unlocks. LAGOON_SET gives idle holms their lagoon at once and others with their next start (R85, R330, R350,
R351, R359, R434, R439, R460, R461). -/
def Obligations.RegionCommands : Prop :=
  ∀ (s : State) (fn q : Nat) (c : Cmd) (t : Nat), s.boundTo fn = some t →
    let b := s.begun c
    let ends (i : Instr) (u : State) (st : Status) (r : Nat) : Prop := exec i s = .next (u.endCmd c.name st r false)
    let a := c.arg 40 8
    let n := c.arg 36 4
    let mapped (x align : Nat) : Prop := x < 2 ^ 48 ∧ x % align = 0 ∧ s.argMapped (some t) x = true
    (s.starts 0x0201 fn q c →
      (2 ^ 48 ≤ a ∨ a % regionSize ≠ 0 → ends (.regionAlloc fn q) b .badAddress 0) ∧
      (a < 2 ^ 48 → a % regionSize = 0 → c.arg 32 1 < 1 ∨ 3 < c.arg 32 1 ∨ n = 0 → ends (.regionAlloc fn q) b .badCommand 0) ∧
      (a < 2 ^ 48 → a % regionSize = 0 → 1 ≤ c.arg 32 1 → c.arg 32 1 ≤ 3 → n ≠ 0 →
        s.changeEnds c t (.alloc (c.arg 32 1) n a) (exec (.regionAlloc fn q) s) ∧
        (∀ r u, b.commitEffect t (.alloc (c.arg 32 1) n a) 0 = .ok (r, u) → r = 0 ∧ ∃ x, u.tenant? t = some x ∧
          ∀ i, i < n → ∃ k, x.table.get? (a / regionSize + i) = some ⟨c.arg 32 1, true, false, none, false, k⟩))) ∧
    (s.starts 0x0202 fn q c →
      (¬ mapped a regionSize → ends (.regionFree fn q) b .badAddress 0) ∧
      (mapped a regionSize → n = 0 → ends (.regionFree fn q) b .badCommand 0) ∧
      (mapped a regionSize → n ≠ 0 → s.changeEnds c t (.free n a) (exec (.regionFree fn q) s) ∧
        (∀ r u, b.commitEffect t (.free n a) 0 = .ok (r, u) → r = 0 ∧ ∃ x, u.tenant? t = some x ∧
          ∀ i, i < n → x.table.get? (a / regionSize + i) = none))) ∧
    (s.starts 0x0203 fn q c → c.arg 48 8 < 2 ^ 48 → c.arg 48 8 % regionSize = 0 → c.arg 33 1 = 0 → c.arg 34 2 = 0 → n ≠ 0 → mapped a regionSize →
      s.changeEnds c t (.mapPages (bitAt c.raw 256) n a (c.arg 48 8)) (exec (.regionMap fn q) s) ∧
      (∀ r u, b.commitEffect t (.mapPages (bitAt c.raw 256) n a (c.arg 48 8)) 0 = .ok (r, u) → r = 0 ∧ u.mem = s.mem ∧ u.holms = s.holms)) ∧
    (∀ adm, s.starts 0x0204 fn q c →
      let dst := c.arg 48 8
      let len := c.arg 56 8
      (s.argMapped (some t) a = false ∨ s.argMapped (some t) dst = false → ends (.copy fn q adm) b .badAddress 0) ∧
      (s.argMapped (some t) a = true → s.argMapped (some t) dst = true → len % 32 ≠ 0 → ends (.copy fn q adm) b .badCommand 0) ∧
      (∀ bs u, s.argMapped (some t) a = true → s.argMapped (some t) dst = true → len % 32 = 0 → c.bounded = false →
        b.argRead (some t) a len = .ok bs → b.argWrite (some t) dst bs = .ok u → ends (.copy fn q adm) u (b.doneOr t [(a, len), (dst, len)]) 0) ∧
      (∀ e, s.argMapped (some t) a = true → s.argMapped (some t) dst = true → len % 32 = 0 → c.bounded = false →
        b.argRead (some t) a len = .error e → ends (.copy fn q adm) b e 0)) ∧
    (∀ adm x ps, s.starts 0x0205 fn q c → mapped a regionSize → 1 ≤ c.arg 32 1 → c.arg 32 1 ≤ 3 → n ≠ 0 → s.tenant? t = some x →
      State.pageRange a n = some ps → (∀ i ∈ ps, (x.table.get? i).isSome = true) →
      let roots := (ps.map fun i => s.rootPage t i).eraseDups.filter fun i => (x.table.get? i).any fun e => e.tier != c.arg 32 1
      (∀ i ∈ roots, ∀ e, x.table.get? i = some e → e.mig = false) → s.pagesIn t (c.arg 32 1) + roots.length ≤ State.quotaOf x.quotas (c.arg 32 1) →
      c.bounded = false →
        (roots = [] → ends (.migrate fn q adm) b .done (2 ^ 64 * s.storedIn t a n)) ∧
        (∀ u, roots ≠ [] → b.wakeCodec.beginMoves t (c.arg 32 1) c.name c.since roots = some u → exec (.migrate fn q adm) s = .next u ∧
          u.mem.moves.length = s.mem.moves.length + roots.length ∧ u.holms = s.holms ∧ u.kv = s.kv ∧ u.net = s.net)) ∧
    (∀ u st, s.starts 0x0301 fn q c → s.argMapped (some t) a = true → mapped (c.arg 48 8) 1 → c.arg 56 8 ≠ 0 →
      s.inTier1 t (c.arg 48 8) (c.arg 56 8) = true → b.copyOp t a (c.arg 48 8) (c.arg 56 8) = (u, st) →
        (st.isDone = false → ends (.modelLoad fn q) u st 0) ∧
        (st.isDone = true → s.hasPlan t = false → ∃ h v, ends (.modelLoad fn q) v st h ∧ v.mem = u.mem ∧ v.holms = s.holms ∧
          v.isth.models = s.isth.models.set h ⟨t, c.arg 48 8, c.arg 56 8⟩)) ∧
    (s.starts 0x0303 fn q c → s.changeEnds c t (.unlock (c.arg 32 4)) (exec (.modelFree fn q) s) ∧
      (∀ r u, b.commitEffect t (.unlock (c.arg 32 4)) 0 = .ok (r, u) → r = 0 ∧ u.isth.models = s.isth.models.del (c.arg 32 4) ∧ u.mem = s.mem)) ∧
    (s.starts 0x0302 fn q c →
      let l := c.arg 32 1
      let lgs := (List.range (c.arg 36 2)).map (c.arg 34 2 + ·)
      l ≤ 15 → c.arg 36 2 ≠ 0 → c.arg 34 2 + c.arg 36 2 ≤ 256 → (∀ lg ∈ lgs, s.tenantOfLg lg = some t ∧ s.holmPlanned lg = false) →
      (l = 0 ∨ (mapped a 1 ∧ ∀ i, i < c.arg 36 2 → a + i * c.arg 48 8 < 2 ^ 48 ∧ s.inTier1 t (a + i * c.arg 48 8) (262144 * l) = true)) →
      ∃ u, ends (.lagoonSet fn q) u .done 0 ∧ u.mem = s.mem ∧ u.net = s.net ∧ u.kv = s.kv ∧
        (∀ lg ∈ lgs, ∀ p, s.physOf? lg = some p →
          ((s.holm p).inv = none → (u.holm p).lagoon = l) ∧
          ((s.holm p).inv ≠ none → (u.holm p).lagoon = (s.holm p).lagoon ∧ (u.holm p).staged.lagoon.map (·.1) = some l)) ∧
        ∀ p, (∀ lg ∈ lgs, s.physOf? lg ≠ some p) → u.holm p = s.holm p)

/-- POOL_CREATE keeps a pool of the shape it names with all pages and blocks free, and POOL_FREE forgets one that no sequence uses. SEQ_CREATE, SEQ_FORK,
SEQ_TRUNCATE and SEQ_FREE take effect at once or at a commit point: a new sequence is empty, a fork has the length it asks for, a truncation sets it, and a
freed index starts its next generation. SEQ_APPEND commits its rows at its end (R238, R241 to R245, R255, R259, R261 to R264, R439, R596). -/
def Obligations.SequenceCommands : Prop :=
  ∀ (s : State) (fn q : Nat) (c : Cmd) (t : Nat), s.boundTo fn = some t →
    let b := s.begun c
    let ends (i : Instr) (u : State) (st : Status) (r : Nat) : Prop := exec i s = .next (u.endCmd c.name st r false)
    let h := c.arg 32 4
    let buf := s.argMapped (some t) (c.arg 40 8) = true
    (∀ kf vf x, s.starts 0x0401 fn q c → s.tenantMapped t (c.arg 48 8) 4096 = true → s.tenantMapped t (c.arg 56 8) 4096 = true →
      EFmt.ofCode? (c.arg 36 1) = some kf → EFmt.ofCode? (c.arg 37 1) = some vf → s.tenant? t = some x →
      let new : Pool := { tenant := t, p := 2 ^ min (c.arg 33 1) 16, h := c.arg 34 1, d := 16 * c.arg 35 1, kf := kf, vf := vf, layers := c.arg 38 1
                          cap := c.arg 40 4, sums := bitAt c.raw 312, region := c.arg 48 8, arena := c.arg 56 8, blocks := c.arg 44 4
                          freePages := [(0, c.arg 40 4 - 1)], freeBlocks := [(0, c.arg 44 4 - 1)], refs := [], sumOne := [], waiting := [], taint := [] }
      (64 ≤ c.arg 32 1 ∨ new.rangesOk = false → ends (.poolCreate fn q) b .badCommand 0) ∧
      (c.arg 32 1 < 64 → new.rangesOk = true → new.pageBytes ≤ 524288 → s.kv.pools.get? (c.arg 32 1) = none → s.kv.pools.length < 64 →
        (s.kv.pools.filter fun y => y.2.tenant == t).length < x.quotas.pools → s.rangeMapped t new.region (new.cap * new.stride) = true →
        s.rangeMapped t new.arena (new.blocks * 4096) = true →
        ends (.poolCreate fn q) { b with kv := { s.kv with pools := s.kv.pools.set (c.arg 32 1) new } } .done 0)) ∧
    (s.starts 0x0402 fn q c →
      let op : CommitOp := .seq (.create (c.arg 32 1) (c.arg 36 4) (c.arg 48 4) (c.arg 52 4) (c.arg 56 4) (bitAt c.raw 264) (c.arg 40 8))
      (¬ buf → ends (.seqCreate fn q) b .badAddress 0) ∧ (buf → s.changeEnds c t op (exec (.seqCreate fn q) s)) ∧
      (∀ r u, b.commitEffect t op 0 = .ok (r, u) → ∃ k d, u.kv.descs.get? k = some d ∧ r = (k + 2 ^ 20 * d.gen) % 2 ^ 32 ∧ d.tenant = t ∧
        d.pool = c.arg 32 1 ∧ d.len = 0 ∧ d.max = c.arg 36 4 ∧ d.shard = bitAt c.raw 264 ∧ u.holms = s.holms)) ∧
    (∀ k d, s.starts 0x0403 fn q c → s.kv.validDesc t h = some (k, d) → buf →
      let op : CommitOp := .seq (.fork h (c.arg 36 4) (c.arg 40 8))
      (d.len < c.arg 36 4 → ends (.seqFork fn q) b .limit 0) ∧ (c.arg 36 4 ≤ d.len → s.changeEnds c t op (exec (.seqFork fn q) s)) ∧
      (∀ r u, b.commitEffect t op 0 = .ok (r, u) → ∃ j e, u.kv.descs.get? j = some e ∧ r = (j + 2 ^ 20 * e.gen) % 2 ^ 32 ∧ e.tenant = t ∧
        e.pool = d.pool ∧ e.len = c.arg 36 4 ∧ u.holms = s.holms)) ∧
    (∀ k d, s.starts 0x0405 fn q c → s.kv.validDesc t h = some (k, d) → buf →
      let op : CommitOp := .seq (.truncate h (c.arg 36 4) (c.arg 40 8))
      s.changeEnds c t op (exec (.seqTruncate fn q) s) ∧
      (∀ r u, b.commitEffect t op 0 = .ok (r, u) → r = 0 ∧ ∃ e, u.kv.descs.get? k = some e ∧ e.len = c.arg 36 4 ∧ e.gen = d.gen ∧ u.holms = s.holms)) ∧
    (∀ k d, s.starts 0x0406 fn q c → s.kv.validDesc t h = some (k, d) →
      s.changeEnds c t (.seq (.free h)) (exec (.seqFree fn q) s) ∧
      (∀ r u, b.commitEffect t (.seq (.free h)) 0 = .ok (r, u) → r = 0 ∧ u.kv.descs.get? k = none ∧
        u.kv.gens.get? k = some ((d.gen + 1) % 4096) ∧ u.holms = s.holms ∧ u.mem = s.mem)) ∧
    (s.starts 0x0407 fn q c →
      (∀ x, s.kv.pools.get? (c.arg 32 1) = some x → x.tenant = t →
        ((∃ e ∈ s.kv.descs, e.2.pool = c.arg 32 1) → ends (.poolFree fn q) b .limit 0) ∧
        ((∀ e ∈ s.kv.descs, e.2.pool ≠ c.arg 32 1) →
          ends (.poolFree fn q) { b with kv := { s.kv with pools := s.kv.pools.del (c.arg 32 1) } } .done 0)) ∧
      ((∀ x, s.kv.pools.get? (c.arg 32 1) = some x → x.tenant ≠ t) → ends (.poolFree fn q) b .noPermission 0)) ∧
    (∀ adm x k d p bs, s.starts 0x0404 fn q c → buf → s.kvCtx t = some x → s.kv.validDesc t h = some (k, d) → s.kv.pools.get? d.pool = some p →
      c.arg 36 2 ≠ 0 → c.bounded = false →
      s.argRead (some t) (c.arg 40 8) (p.layers * p.h * c.arg 36 2 * 32 * (p.rk + p.rv)) = .ok bs →
      let pairs := (List.range p.layers).flatMap fun y => (List.range p.h).map fun g => (y, g)
      let unit := 2 ^ 40 + c.id
      let rows := pairs.map fun e => State.appendRows p (c.arg 36 2) bs e.1 e.2
      (∀ e, x.append unit h (c.arg 38 2) (c.arg 36 2) rows = .error e → ends (.seqAppend fn q adm) b e 0) ∧
      (∀ y, x.append unit h (c.arg 38 2) (c.arg 36 2) rows = .ok y → ((y.commitUnit unit true).unitRecs unit) = [] →
        ∃ st, st.isDone = true ∧ ends (.seqAppend fn q adm) (b.putKv (y.commitUnit unit true)) st
          (State.lengthWord (((y.commitUnit unit true).kv.descs.get? k).elim 0 (·.len)))))

/-- PLAN_SUBMIT reads and checks its image and, where admission finds no reason against it, keeps a plan that has not started and answers its handle and
its earliest S0; refused, it answers the failing term. PLAN_START gives the plan its S0, and ends there; PLAN_STOP marks it to stop at a slack; PLAN_FREE
forgets one that has not started; PLAN_STAGE_UPDATE replaces sections at a slack, or at once before the start. NATIVE_LOAD keeps an image, NATIVE_RUN
begins its work on holms that are idle, NATIVE_FREE forgets it (R234 to R236, R439, R442 to R445, R476, R477, R518, R597). -/
def Obligations.PlanCommands : Prop :=
  ∀ (s : State) (fn q : Nat) (c : Cmd) (t : Nat), s.boundTo fn = some t →
    let b := s.begun c
    let ends (i : Instr) (u : State) (st : Status) (r : Nat) : Prop := exec i s = .next (u.endCmd c.name st r false)
    let minor := ((s.que? c.fn c.q).map (·.minor)).getD 4
    let k := c.arg 32 4
    (∀ adm e, s.starts 0x0501 fn q c →
      b.indirect c.fn c.raw = .error e ∨ (∃ bs, b.indirect c.fn c.raw = .ok bs ∧ b.readImage t minor false bs = .error e) →
      ends (.planSubmit fn q adm) b e 0) ∧
    (∀ adm bs h stages, s.starts 0x0501 fn q c → b.indirect c.fn c.raw = .ok bs → b.readImage t minor false bs = .ok (h, stages) →
      let terms := b.stateTerms h.arch adm.power h.exportPerm stages
      (adm.refusal = none → terms = [] → ∃ k w u, ends (.planSubmit fn q adm) u .done (k + 2 ^ 64 * (adm.earliest % 2 ^ 64)) ∧
        u.isth.works = s.isth.works.set s.isth.nextWork w ∧ u.isth.nextWork = s.isth.nextWork + 1 ∧ w.kind = .plan ∧ w.handle = k ∧ w.tenant = t ∧
        w.fn = c.fn ∧ w.q = c.q ∧ w.tag = c.tag ∧ w.arch = h.arch ∧ w.period = 1000 * h.period ∧ w.earliest = adm.earliest ∧ w.power = adm.power ∧
        w.started = false ∧ w.startCmd = none ∧ w.running = false ∧ w.stages = State.withCkpts stages adm ∧
        u.holms = s.holms ∧ u.mem = s.mem ∧ u.net = s.net ∧ u.kv = s.kv ∧ u.ten = s.ten) ∧
      (∀ v, adm.refusal = some v → terms = [] →
        ends (.planSubmit fn q adm) { b with free := s.free + 1 } .refusedAdmission (State.refusal v v.period)) ∧
      (adm.refusal ≠ none ∨ terms ≠ [] → ∃ r, ends (.planSubmit fn q adm) { b with free := s.free + 1 } .refusedAdmission r)) ∧
    (s.planOf? t k = none → (s.starts 0x0502 fn q c → ends (.planStart fn q) b .badAddress 0) ∧
      (s.starts 0x0503 fn q c → ends (.planStop fn q) b .badAddress 0) ∧ (s.starts 0x0505 fn q c → ends (.planFree fn q) b .badAddress 0)) ∧
    (∀ i w, s.planOf? t k = some (i, w) →
      (s.starts 0x0502 fn q c →
        let s0 := c.arg 40 8
        let fits := w.started = false ∧ w.startCmd = none ∧ w.earliest ≤ s0 ∧ c.since + 2000 ≤ s.slackAt { w with s0 := s0 } 0 ∧
          ∀ lg ∈ s.workHolms w, s.holmPlanned lg = false
        (s0 % 1000 ≠ 0 → ends (.planStart fn q) b .badCommand 0) ∧
        (s0 % 1000 = 0 → s.stagesStand t w.stages = false → ends (.planStart fn q) b .noPermission 0) ∧
        (s0 % 1000 = 0 → s.stagesStand t w.stages = true → ¬ fits → ends (.planStart fn q) b .limit 0) ∧
        (s0 % 1000 = 0 → s.stagesStand t w.stages = true → fits → exec (.planStart fn q) s = .next
          (b.modWork i fun x => { x with s0 := s0, startCmd := some c.name, stopping := false }))) ∧
      (s.starts 0x0503 fn q c →
        (w.started = false → w.startCmd = none → ends (.planStop fn q) b .limit 0) ∧
        (w.started = true ∨ w.startCmd ≠ none → exec (.planStop fn q) s = .next
          (b.modWork i fun x => { x with stopping := true, stopCmds := x.stopCmds ++ [c.name] }))) ∧
      (s.starts 0x0505 fn q c →
        (w.started = true ∨ w.startCmd ≠ none → ends (.planFree fn q) b .limit 0) ∧
        (w.started = false → w.startCmd = none → ∃ u, ends (.planFree fn q) u .done 0 ∧ u.isth.works = s.isth.works.del i ∧ u.holms = s.holms ∧
          u.mem = s.mem ∧ u.net = s.net ∧ u.kv = s.kv ∧ u.ten = s.ten ∧ (s.pow.excess = none → u.pow = s.pow))) ∧
      (∀ adm bs secs l, s.starts 0x0504 fn q c → b.indirect c.fn c.raw = .ok bs → sectionsAt bs true (bs.length / 16 + 1) 0 = (secs, true) →
        secs ≠ [] → (∀ x ∈ secs, x.foreign = false) → b.addSections t false (w.update.getD w.stages) secs = .ok l →
        b.stagesErr t w.arch minor l = none → adm.refusal = none →
        b.stateTerms w.arch (adm.power - w.power) false
          [{ Stage.bare 0 [] with colls := (l.flatMap (·.colls)).diff (w.stages.flatMap (·.colls)) }] = [] →
        let u := b.modWork i fun x => { x with power := adm.power, admitted := adm.quads }
        (w.started = true → exec (.planStageUpdate fn q adm) s = .next
          (u.modWork i fun x => { x with update := some (State.withCkpts l adm), updateCmds := x.updateCmds ++ [c.name] })) ∧
        (w.started = false → ends (.planStageUpdate fn q adm) (u.modWork i fun x => { x with stages := State.withCkpts l adm }) .done 0))) ∧
    (∀ bs h stages, s.starts 0x0901 fn q c → b.indirect c.fn c.raw = .ok bs → b.readImage t minor true bs = .ok (h, stages) →
      (∀ st ∈ stages, ∀ raw ∈ st.colls, s.collFull (State.collView t st.part h.arch raw) = false) →
      ∃ j u, ends (.nativeLoad fn q) u .done j ∧ u.isth.natives = s.isth.natives.set j ⟨t, stages, h.exportPerm, h.arch⟩ ∧
        u.isth.works = s.isth.works ∧ u.mem = s.mem ∧ u.net = s.net ∧ u.kv = s.kv ∧ u.ten = s.ten ∧
        ∀ p, (∀ st ∈ stages, ∀ lg ∈ st.holms, s.physOf? lg ≠ some p) → u.holm p = s.holm p) ∧
    (∀ n, s.starts 0x0902 fn q c → s.isth.natives.get? k = some n → n.tenant = t → s.stagesStand t n.stages = true →
      let lgs := n.stages.flatMap (·.holms)
      ((∃ lg ∈ lgs, s.holmInUse lg = true) → ends (.nativeRun fn q) b .limit 0) ∧
      ((∀ lg ∈ lgs, s.holmInUse lg = false ∧ s.partPending lg = false) → ∃ u w, exec (.nativeRun fn q) s = .next u ∧
        u.work? s.isth.nextWork = some w ∧ w.kind = .native ∧ w.running = true ∧ w.tenant = t ∧ w.stages = n.stages ∧ w.cmd = some c.name ∧
        w.waves.map (·.kind) = [.start] ∧ (∀ j, j ≠ s.isth.nextWork → u.work? j = s.work? j) ∧ u.holms = s.holms ∧ u.mem = s.mem ∧ u.kv = s.kv)) ∧
    (∀ n, s.starts 0x0903 fn q c → s.isth.natives.get? k = some n → n.tenant = t →
      (∀ d ∈ s.isth.cmds, d.opc = 0x0902 → d.live = true → d.arg 32 4 = k → c.id ≤ d.id) →
      (∀ e ∈ s.isth.works, e.2.kind = .native → e.2.handle ≠ k) →
      ends (.nativeFree fn q) { b with isth := { b.isth with natives := s.isth.natives.del k } } .done 0)

/-- A best-effort ATTEND, GEMM or BATCH waits for an idle holm of its tenant and then runs whole: a GEMM reads its operands and writes every element of C
as one chain over K; a BATCH runs its entries in order up to the first that fails, and none where an entry fails its checks. A COLLECTIVE becomes
active as one-shot work of its own. What fails its checks has no effect (R20, R402 to R404, R434, R439, R441). -/
def Obligations.WorkCommands : Prop :=
  ∀ (s : State) (fn q : Nat) (c : Cmd) (t : Nat) (adm : Option Verdict), s.boundTo fn = some t →
    let b := s.begun c
    let ends (i : Instr) (u : State) (st : Status) (r : Nat) : Prop := exec i s = .next (u.endCmd c.name st r false)
    let waits (i : Instr) : Prop := ∃ u, exec i s = .next u ∧ u = { s with isth := { s.isth with cmds := u.isth.cmds } } ∧
      ∃ d ∈ u.isth.cmds, d.name = c.name ∧ d.st = .accepted
    (s.starts 0x0602 fn q c →
      (∀ e, s.gemmErr t c.raw = some e → ends (.gemm fn q adm) b e 0) ∧
      (s.gemmErr t c.raw = none → c.bounded = false → s.needsHolm c t = true → waits (.gemm fn q adm)) ∧
      (∀ g xs ys zs u, s.gemmErr t c.raw = none → c.bounded = false → s.needsHolm c t = false → Gemm.mk? c.raw = some g →
        s.argRead (some t) g.a (g.m * g.k * g.aFmt.width / 8) = .ok xs → s.argRead (some t) g.b (g.n * g.k * g.bFmt.width / 8) = .ok ys →
        (g.init = 0 → zs = []) → (g.init ≠ 0 → s.argRead (some t) g.init (4 * g.m * g.n) = .ok zs) →
        b.argWrite (some t) g.c ((List.range g.m).flatMap fun r => (List.range g.n).flatMap fun j =>
          toBytes (toCode g.cFmt g.sat (g.val xs ys zs r j)) (g.cFmt.width / 8)) = .ok u →
        ∃ st, st.isDone = true ∧ ends (.gemm fn q adm) u st 0)) ∧
    (s.starts 0x0601 fn q c →
      (∀ e, s.attendErr t c.raw = some e → ends (.attend fn q adm) b e 0) ∧
      (s.attendErr t c.raw = none → c.bounded = false → s.needsHolm c t = true → waits (.attend fn q adm)) ∧
      (∀ a u st, s.attendErr t c.raw = none → c.bounded = false → s.needsHolm c t = false → Attend.mk? c.raw = some a →
        b.attendOp t a = (u, st) → ends (.attend fn q adm) u st 0)) ∧
    (s.starts 0x0603 fn q c →
      (∀ e, b.indirect c.fn c.raw = .error e → ends (.batch fn q adm) b e 0xFFFF) ∧
      (∀ bs, b.indirect c.fn c.raw = .ok bs →
        let es := (chunks 128 bs).map ofBytes
        let minor := ((s.que? c.fn c.q).map (·.minor)).getD 4
        (bs = [] ∨ bs.length % 128 ≠ 0 ∨ 32768 < bs.length → ends (.batch fn q adm) b .badCommand 0xFFFF) ∧
        (bs ≠ [] → bs.length % 128 = 0 → bs.length ≤ 32768 →
          (∀ i e, b.batchErr t minor (fld c.raw 18 2) es 0 = some (i, e) → ends (.batch fn q adm) b e i) ∧
          (b.batchErr t minor (fld c.raw 18 2) es 0 = none → c.bounded = false → s.needsHolm c t = false →
            (∀ u st, es.head?.map (b.runEntry t) = some (u, st) → st.isDone = false → ends (.batch fn q adm) u st 0) ∧
            (∀ u st, es.length = 1 → es.head?.map (b.runEntry t) = some (u, st) → st.isDone = true → ends (.batch fn q adm) u st 0xFFFF) ∧
            (∀ u st v z, es.length = 2 → es.head?.map (b.runEntry t) = some (u, st) → st.isDone = true →
              es.getLast?.map (u.runEntry t) = some (v, z) → z.isDone = false → ends (.batch fn q adm) v z 1))))) ∧
    (s.starts 0x0704 fn q c → ∀ bs, b.indirect c.fn c.raw = .ok bs →
      let raw := ofBytes bs
      let part := b.collPart t
      let v := State.collView t part (b.collArch t raw) raw
      let mode (line : Nat) : Nat := match ((s.ten.parts.get? part).bind fun p => p.holms[v.srcHolm]?).bind s.physOf? with
        | some p => (s.holm p).modeOf line
        | none => 0
      (bs.length ≠ 128 → ends (.collective fn q adm) b .badCommand 0) ∧
      (∀ e, bs.length = 128 → collIsNew raw = false → b.collErr mode v = some e → ends (.collective fn q adm) b e 0) ∧
      (bs.length = 128 → collIsNew raw = false → b.collErr mode v = none → s.collFull v = true → ends (.collective fn q adm) b .limit 0) ∧
      (bs.length = 128 → collIsNew raw = false → b.collErr mode v = none → s.collFull v = false → c.bounded = false →
        ∃ u w x, exec (.collective fn q adm) s = .next u ∧ u.work? s.isth.nextWork = some w ∧ w.kind = .abstract ∧ w.tenant = t ∧ w.cmd = some c.name ∧
          w.running = true ∧ u.net.colls.get? (State.unitKey s.isth.nextWork 0 State.opOrd) = some x ∧ x.active = true ∧ x.raw = raw ∧ x.done = false ∧
          ∀ j, j ≠ State.unitKey s.isth.nextWork 0 State.opOrd → (u.net.colls.get? j).isSome = (s.net.colls.get? j).isSome))

/-- WINDOW_OPEN opens a window on a memory range, or on a line range of 1 to 16 holms, of an archipelago that the tenant has joined, and answers its handle
and a fresh key; WINDOW_CLOSE ends it and starts the next generation of its index. SLICE_DEFINE makes a member table current, SLICE_JOIN binds the
tenant to the archipelago and opens its transit window, SLICE_LEAVE ends that. LINK_ENABLE enables or withdraws the ports of its mask and sets their hold
time; a port of another archipelago refuses it whole (R91, R373, R382, R392, R393, R408, R439, R463). -/
def Obligations.WindowCommands : Prop :=
  ∀ (s : State) (fn q : Nat) (c : Cmd),
    let b := s.begun c
    let ends (i : Instr) (u : State) (st : Status) (r : Nat) : Prop := exec i s = .next (u.endCmd c.name st r false)
    let fresh (i : Nat) (f : Nat → Nat → Window) : Prop :=
      let g := s.net.winGens.getD i 0
      let key := Config.freeNat .random s.net.nextKey 64 % 2 ^ 64
      ends (.windowOpen fn q) { b with free := s.free + 1, net := { s.net with nextKey := s.net.nextKey + 1, windows := s.net.windows.set i (f g key) } }
        .done (i + 2 ^ 14 * g + 2 ^ 64 * key)
    (∀ t, s.boundTo fn = some t → s.starts 0x0701 fn q c →
      let a := c.arg 48 8
      let n := c.arg 56 8
      (∀ i, c.arg 32 1 = 0 → s.tenantMapped t a 4096 = true → c.arg 33 1 ≠ 0 → c.arg 34 1 = 0 → c.arg 64 16 = 0 → n ≠ 0 → n % 4096 = 0 → n ≤ 2 ^ 40 →
        s.joinedArch t (c.arg 40 8) = true → s.windowRoom t = true → s.freeWindow = some i →
        fresh i fun g key => ⟨t, true, bitAt c.raw 264, bitAt c.raw 265, a, n, [], c.arg 40 8, g, key⟩) ∧
      (c.arg 32 1 = 0 → s.tenantMapped t a 4096 = false → ends (.windowOpen fn q) b .badAddress 0) ∧
      (∀ i part p, c.arg 32 1 = 1 → c.arg 33 1 ≠ 0 → 1 ≤ c.arg 34 1 → c.arg 34 1 ≤ 16 → a = fld a 0 17 + 2 ^ 32 * fld a 32 17 → fld a 0 17 ≤ fld a 32 17 →
        n = 0 → c.arg 64 16 < 2 ^ (8 * c.arg 34 1) → s.joinedArch t (c.arg 40 8) = true →
        let ixs := (List.range (c.arg 34 1)).map fun j => c.arg (64 + j) 1
        let lgs := ixs.filterMap fun j => p.holms[j]?
        s.windowPart t ixs = some part → s.ten.parts.get? part = some p →
        (∀ lg ∈ lgs, s.windowLines lg (fld a 0 17) (fld a 32 17) = true) → s.windowRoom t = true → s.freeWindow = some i →
        fresh i fun g key => ⟨t, false, bitAt c.raw 264, bitAt c.raw 265, 32 * fld a 0 17, 32 * (fld a 32 17 - fld a 0 17 + 1),
          (ixs.zip lgs).map fun (j, lg) => (part, j, s.epochOf lg), c.arg 40 8, g, key⟩) ∧
      (2 ≤ c.arg 32 1 → ends (.windowOpen fn q) b .badCommand 0)) ∧
    (∀ t, s.boundTo fn = some t → s.starts 0x0702 fn q c →
      let h := c.arg 32 4
      let mine (w : Window) : Prop := w.gen = h / 2 ^ 14 ∧ w.tenant = t
      let left := s.net.windows.del (h % 2 ^ 14)
      let gens := s.net.winGens.set (h % 2 ^ 14) ((s.net.winGens.getD (h % 2 ^ 14) 0 + 1) % 2 ^ 18)
      (∀ w, s.net.windows.get? (h % 2 ^ 14) = some w → mine w →
        ends (.windowClose fn q) { b with net := { s.net with windows := left, winGens := gens } } .done 0) ∧
      ((∀ w, s.net.windows.get? (h % 2 ^ 14) = some w → ¬ mine w) → ends (.windowClose fn q) b .badAddress 0)) ∧
    (∀ t, s.boundTo fn = some t → s.starts 0x0703 fn q c → ∀ a, s.net.archs.get? (c.arg 32 8) = some a →
      (a.tenant ≠ t → ends (.sliceJoin fn q) b .noPermission 0) ∧ (a.tenant = t → a.joined = true → ends (.sliceJoin fn q) b .done a.own) ∧
      (∀ i, a.tenant = t → a.joined = false → s.freeWindow = some i →
        let w := (i + 2 ^ 14 * s.net.winGens.getD i 0, Config.freeNat .random s.net.nextKey 64 % 2 ^ 64)
        let joined := s.net.archs.modify (c.arg 32 8) fun x => { x with joined := true, transit := some w }
        ends (.sliceJoin fn q) { b with free := s.free + 1, net := { s.net with nextKey := s.net.nextKey + 1, archs := joined } } .done a.own)) ∧
    (∀ t, s.boundTo fn = some t → s.starts 0x0705 fn q c →
      let id := c.arg 32 8
      (s.joinedArch t id = false → ends (.sliceLeave fn q) b .noPermission 0) ∧
      (s.joinedArch t id = true → s.archUsed id = true → ends (.sliceLeave fn q) b .limit 0) ∧
      (∀ a, s.joinedArch t id = true → s.archUsed id = false → s.net.archs.get? id = some a → ∃ u, ends (.sliceLeave fn q) u .done 0 ∧
        u.net.archs.get? id = some { a with joined := false, transit := none } ∧ (∀ j, j ≠ id → u.net.archs.get? j = s.net.archs.get? j) ∧
        (∀ w, a.transit = some w → u.net.windows.get? (w.1 % 2 ^ 14) = none) ∧ u.holms = s.holms ∧ u.mem = s.mem ∧ u.net.ports = s.net.ports)) ∧
    (s.starts 0x0F04 fn q c → ∀ bs, b.indirect c.fn c.raw = .ok bs →
      let id := c.arg 32 8
      let t := c.arg 40 2
      let own := c.arg 42 2
      (∀ ms, id ≠ 0 → (s.tenant? t).isSome = true → own ≤ 1023 → s.memberTable own bs = some ms →
        (s.net.archs.get? id = none → 64 ≤ s.net.archs.length → ends (.sliceDefine fn q) b .limit 0) ∧
        (∀ a, s.net.archs.get? id = some a → a.tenant ≠ t → ends (.sliceDefine fn q) b .badCommand 0) ∧
        (∀ a, s.net.archs.get? id = some a → a.tenant = t → s.archPlanned id = true → ends (.sliceDefine fn q) b .limit 0) ∧
        (∀ a, s.net.archs.get? id = some a → a.tenant = t → s.archPlanned id = false → ∃ u, ends (.sliceDefine fn q) u .done 0 ∧
          u.net.archs.get? id = some { a with own := own, members := ms } ∧ u.holms = s.holms ∧ u.mem = s.mem ∧ u.kv = s.kv ∧ u.ten = s.ten) ∧
        (s.net.archs.get? id = none → s.net.archs.length < 64 → ∃ u, ends (.sliceDefine fn q) u .done 0 ∧
          u.net.archs.get? id = some ⟨t, own, ms, false, none⟩ ∧ u.holms = s.holms ∧ u.mem = s.mem ∧ u.kv = s.kv ∧ u.ten = s.ten)) ∧
      (id = 0 ∨ s.tenant? t = none ∨ 1023 < own ∨ s.memberTable own bs = none → ends (.sliceDefine fn q) b .badCommand 0)) ∧
    (s.starts 0x0F05 fn q c → s.net.ports.length = 32 →
      let mask := c.arg 32 4
      let id := c.arg 40 8
      (c.arg 36 2 = 0 ∨ 10000 < c.arg 36 2 ∨ s.net.archs.get? id = none ∨
        (∃ i a, i < 32 ∧ bitAt mask i = true ∧ (s.port i).enabled = some a ∧ a ≠ id) → ends (.linkEnable fn q) b .badCommand 0) ∧
      (1 ≤ c.arg 36 2 → c.arg 36 2 ≤ 10000 → (s.net.archs.get? id).isSome = true →
        (∀ i a, i < 32 → bitAt mask i = true → (s.port i).enabled = some a → a = id) → ∃ u, ends (.linkEnable fn q) u .done 0 ∧
        (∀ i, i < 32 → bitAt mask i = true → (u.port i).holdMs = c.arg 36 2 ∧ (u.port i).enabled = (if bitAt c.raw 304 then some id else none)) ∧
        (∀ i, i < 32 → bitAt mask i = false → (u.port i).holdMs = (s.port i).holdMs ∧ (u.port i).enabled = (s.port i).enabled) ∧
        u.net.archs = s.net.archs ∧ u.ten = s.ten))

/-- CAP_SET takes a cap and a window in range and says whether the need exceeds it. ENERGY_READ answers a counter and the rack time. TENANT_CREATE binds a
tenant to its function with its quotas and a key of its own, TENANT_DESTROY ends one that holds nothing. PARTITION_SET waits for its slack, or for its
holms to be idle, and then gives the partition and raises the role epochs. PARITY_SET sets what the next cold reset uses; TIER3_REGISTER adds backing; REGION_MAP
of PF0 gives a tenant free regions (R332, R349, R440, R452 to R457, R460, R516, R530). -/
def Obligations.TenantManagement : Prop :=
  ∀ (s : State) (fn q : Nat) (c : Cmd),
    let b := s.begun c
    let ends (i : Instr) (u : State) (st : Status) (r : Nat) : Prop := exec i s = .next (u.endCmd c.name st r false)
    let frame (u : State) : Prop := u.mem = s.mem ∧ u.net.ports = s.net.ports ∧ u.kv = s.kv
    (s.starts 0x0801 fn q c →
      (c.arg 32 2 < 400 ∨ 2500 < c.arg 32 2 ∨ c.arg 36 2 < 1000 ∨ 10000 < c.arg 36 2 → ends (.capSet fn q) b .badCommand 0) ∧
      (400 ≤ c.arg 32 2 → c.arg 32 2 ≤ 2500 → 1000 ≤ c.arg 36 2 → c.arg 36 2 ≤ 10000 →
        ∃ u, ends (.capSet fn q) u .done (if c.arg 32 2 < s.need then 1 else 0) ∧ u.pow.cap = c.arg 32 2 ∧ u.pow.window = c.arg 36 2 ∧
          u.pow.energy = s.pow.energy ∧ u.holms = s.holms ∧ u.ten = s.ten ∧ frame u)) ∧
    (s.starts 0x0802 fn q c →
      let i := c.arg 34 2
      let read (e : Nat) : Prop := ends (.energyRead fn q) b .done (e % 2 ^ 64 + 2 ^ 64 * (s.now % 2 ^ 64))
      let own (t : Nat) : Prop := c.fn = 0 ∨ s.boundTo c.fn = some t
      (c.arg 32 1 = 0 → (s.tenant? i).isSome = true → own i → read (s.pow.eTenant.getD i 0)) ∧
      (c.arg 32 1 = 1 → i < 8 → (s.que? c.fn i).isSome = true → read (s.pow.eQueue.getD (8 * c.fn + i) 0)) ∧
      (∀ p, c.arg 32 1 = 2 → s.ten.parts.get? i = some p → own p.tenant → read (s.pow.ePart.getD i 0)) ∧
      (c.arg 32 1 = 3 → read s.pow.energy) ∧
      ((c.arg 32 1 = 0 ∧ ¬ own i) ∨ (c.arg 32 1 = 2 ∧ s.ten.parts.get? i = none) → ends (.energyRead fn q) b .noPermission 0) ∧
      (3 < c.arg 32 1 → ends (.energyRead fn q) b .badCommand 0)) ∧
    (s.starts 0x0F01 fn q c →
      let t := c.arg 32 2
      let vf := c.arg 34 2
      let quotas : Quotas := ⟨c.arg 40 4, c.arg 44 4, c.arg 48 4, c.arg 52 4, c.arg 56 1, c.arg 58 2⟩
      (1023 < t ∨ vf = 0 ∨ 1024 < vf → ends (.tenantCreate fn q) b .badCommand 0) ∧
      (∀ x, t ≤ 1023 → 1 ≤ vf → vf ≤ 1024 → s.tenant? t = some x →
        (x.vf ≠ vf → ends (.tenantCreate fn q) b .badCommand 0) ∧ (x.vf = vf → quotas.below (s.usage t) = true → ends (.tenantCreate fn q) b .limit 0) ∧
        (x.vf = vf → quotas.below (s.usage t) = false → ends (.tenantCreate fn q)
          { b with ten := { s.ten with tenants := s.ten.tenants.set t { x with quotas := quotas } } } .done 0)) ∧
      (t ≤ 1023 → 1 ≤ vf → vf ≤ 1024 → s.tenant? t = none →
        ((s.boundTo vf).isSome = true → ends (.tenantCreate fn q) b .badCommand 0) ∧
        (s.boundTo vf = none → ∃ u, ends (.tenantCreate fn q) u .done 0 ∧
          u.ten.tenants = s.ten.tenants.set t ⟨vf, quotas, [], Config.freeNat .random s.net.nextKey 0⟩ ∧ u.pow.eTenant.get? t = some 0 ∧
          u.net.nextKey = s.net.nextKey + 1 ∧ u.pow.deepIdle = false ∧ u.pow.gated = [] ∧ frame u))) ∧
    (s.starts 0x0F02 fn q c →
      let t := c.arg 32 2
      (s.tenant? t = none → ends (.tenantDestroy fn q) b .badCommand 0) ∧
      ((s.tenant? t).isSome = true → s.holdsAny t = true → ends (.tenantDestroy fn q) b .limit 0) ∧
      ((s.tenant? t).isSome = true → s.holdsAny t = false → ∃ u, ends (.tenantDestroy fn q) u .done 0 ∧ u.ten.tenants = s.ten.tenants.del t ∧
        u.pow.unattr = (s.pow.unattr + s.pow.eTenant.getD t 0) % 2 ^ 64 ∧ u.pow.eTenant.get? t = none ∧ (∀ p, (u.holm p).owner ≠ some t) ∧
        (∀ p, (s.holm p).owner ≠ some t → u.holm p = s.holm p) ∧ frame u)) ∧
    (s.starts 0x0F03 fn q c →
      let n := c.arg 32 1
      let t := c.arg 34 2
      let bits := c.arg 40 32
      let x : PartChange := ⟨n, t, bits, c.since, c.name⟩
      (s.tenant? t = none → ends (.partitionSet fn q) b .badCommand 0) ∧
      ((s.tenant? t).isSome = true → s.bitmapTaken n bits = true ∨ s.partBreaks x = true → ends (.partitionSet fn q) b .limit 0) ∧
      ((s.tenant? t).isSome = true → s.bitmapTaken n bits = false → s.partBreaks x = false → s.ten.changes = [] →
        ((∃ y ∈ s.partTenants x, s.hasPlan y = true) → exec (.partitionSet fn q) s = .next { b with ten := { s.ten with changes := [x] } }) ∧
        ((∀ y ∈ s.partTenants x, s.hasPlan y = false) → (∀ lg ∈ s.partTouched x, ∀ p, s.physOf? lg = some p → (s.holm p).inv = none) →
          ∃ u, exec (.partitionSet fn q) s = .next u ∧ u.ten.changes = [] ∧
            u.ten.parts.get? n = (if bits = 0 then none else some ⟨t, BitVec.ofNat 256 bits⟩) ∧
            (∀ lg ∈ s.partTouched x, (s.remap.get? lg).isSome = true → u.epochOf lg = (s.epochOf lg + 1) % 2 ^ 24) ∧
            (∀ lg, lg ∉ s.partTouched x → u.epochOf lg = s.epochOf lg) ∧
            (∀ d ∈ u.isth.cmds, d.name = c.name → d.st = .ended .done 0 false s.isth.nextEnd) ∧ frame u))) ∧
    (s.starts 0x0F08 fn q c →
      ends (.paritySet fn q) { b with mem := { s.mem with hbmParityNext := bitAt c.raw 256, lpdParityNext := bitAt c.raw 257 } } .done 0) ∧
    (s.starts 0x0F09 fn q c →
      let a := c.arg 40 8
      let n := c.arg 48 8
      let total := (s.mem.backing.map fun e => e.2).sum
      (bitAt a 63 = false ∨ s.argMapped none a = false → ends (.tier3Register fn q) b .badAddress 0) ∧
      (bitAt a 63 = true → s.argMapped none a = true →
        (n = 0 ∨ n % regionSize ≠ 0 ∨ 2 ^ 40 < n → ends (.tier3Register fn q) b .badCommand 0) ∧
        (n ≠ 0 → n % regionSize = 0 → n ≤ 2 ^ 40 → 2 ^ 40 < n + total → ends (.tier3Register fn q) b .limit 0) ∧
        (n ≠ 0 → n % regionSize = 0 → n + total ≤ 2 ^ 40 →
          ends (.tier3Register fn q) { b with mem := { s.mem with backing := s.mem.backing ++ [(a % 2 ^ 63, n)] } } .done 0))) ∧
    (∀ x, s.starts 0x0203 fn q c → c.arg 33 1 = 1 → c.arg 48 8 < 2 ^ 48 → c.arg 48 8 % regionSize = 0 → c.arg 40 8 < 2 ^ 44 →
      c.arg 40 8 % regionSize = 0 → c.arg 32 1 = 0 → s.tenant? (c.arg 34 2) = some x → c.arg 36 4 ≠ 0 →
      s.changeEnds c (c.arg 34 2) (.mapDpa (c.arg 36 4) (c.arg 40 8) (c.arg 48 8)) (exec (.regionMap fn q) s))

/-- FIRMWARE_STAGE writes an authentic image of this generation, not revoked and not below the minimum version, into the flash slot that is not active and
logs it; it waits while an activation is under way. FIRMWARE_ACTIVATE begins the handover of a staged image that serves every queue's version; the
handover swaps the slots and the release and ends the command, or a faulted attempt is abandoned, and the sixteenth ends it ABORTED. No state of
work changes (R449 to R451, R538, R539, R574). -/
def Obligations.FirmwareCommands : Prop :=
  ∀ (s : State) (fn q : Nat) (c : Cmd),
    let b := s.begun c
    let ends (i : Instr) (u : State) (st : Status) (r : Nat) : Prop := exec i s = .next (u.endCmd c.name st r false)
    let logged (u : State) : Prop := u.boot.moduleLog.next = (s.boot.moduleLog.next + 1) % 2 ^ 32
    let frame (u : State) : Prop := u.holms = s.holms ∧ u.mem = s.mem ∧ u.net = s.net ∧ u.kv = s.kv ∧ u.ten = s.ten ∧ u.isth.queues = s.isth.queues ∧
      u.isth.works = s.isth.works
    (∀ ok, s.starts 0x0F06 fn q c →
      (s.isth.activate.isSome = true → ∃ u, exec (.firmwareStage fn q ok) s = .next u ∧ u = { s with isth := { s.isth with cmds := u.isth.cmds } }) ∧
      (∀ bs m, s.isth.activate = none → b.indirect c.fn c.raw = .ok bs → s.imageOf? (ofBytes (bs.take 256)) ok = some m →
        let len := fld (ofBytes (bs.take 256)) 128 26
        (bs.length ≠ 256 + len → ends (.firmwareStage fn q ok) b .badCommand 0) ∧
        (bs.length = 256 + len → m.gen ≠ 2 → ends (.firmwareStage fn q ok) b .version 0) ∧
        (bs.length = 256 + len → m.gen = 2 → m.authentic = false ∨ m.keyIndex ∈ s.boot.revoked ∨ m.svn < s.boot.minSvn →
          ends (.firmwareStage fn q ok) b .noPermission 0) ∧
        (bs.length = 256 + len → m.gen = 2 → m.authentic = true → m.keyIndex ∉ s.boot.revoked → s.boot.minSvn ≤ m.svn →
          ∃ u, ends (.firmwareStage fn q ok) u .done (2 ^ 64 * (m.release % 2 ^ 64)) ∧ u.isth.slots = setAt s.isth.slots (1 - s.isth.active) m ∧
            u.isth.staged = true ∧ u.isth.active = s.isth.active ∧ logged u ∧ frame u)) ∧
      (∀ bs, s.isth.activate = none → b.indirect c.fn c.raw = .ok bs → s.imageOf? (ofBytes (bs.take 256)) ok = none →
        ends (.firmwareStage fn q ok) b .badCommand 0)) ∧
    (s.starts 0x0F07 fn q c →
      (s.stagedImage = none ∨ s.isth.activate.isSome = true → ends (.firmwareActivate fn q) b .limit 0) ∧
      (∀ m, s.stagedImage = some m → s.isth.activate = none →
        ((∃ e ∈ s.isth.queues, e.2.minor < m.loMinor ∨ m.hiMinor < e.2.minor) → ends (.firmwareActivate fn q) b .version 0) ∧
        ((∀ e ∈ s.isth.queues, m.loMinor ≤ e.2.minor ∧ e.2.minor ≤ m.hiMinor) →
          exec (.firmwareActivate fn q) s = .next { b with isth := { b.isth with activate := some (c.name, 0) } }))) ∧
    (∀ id n m k, s.isth.activate = some (id, n) → s.stagedImage = some m → s.flt.spareCore = some k → s.boot.phase = .ready →
      (n < 15 → ∃ u, exec (.firmwareHandover true) s = .next u ∧ u.isth = { s.isth with activate := some (id, n + 1) } ∧
        u.boot.release = s.boot.release ∧ logged u ∧ frame u) ∧
      (15 ≤ n → ∃ u, exec (.firmwareHandover true) s = .next u ∧ u.isth.activate = none ∧ u.isth.active = s.isth.active ∧ u.isth.staged = s.isth.staged ∧
        (∀ d ∈ u.isth.cmds, d.name = id → d.st = .ended .aborted 0 false s.isth.nextEnd) ∧ u.boot.release = s.boot.release ∧ logged u ∧ frame u) ∧
      (∃ u, exec (.firmwareHandover false) s = .next u ∧ u.isth.activate = none ∧ u.isth.active = 1 - s.isth.active ∧ u.isth.staged = false ∧
        u.isth.slots = s.isth.slots ∧ u.boot.release = m.release ∧ logged u ∧
        (∀ d ∈ u.isth.cmds, d.name = id → d.st = .ended .done (s.now % 2 ^ 64 + 2 ^ 64 * (m.release % 2 ^ 64)) false s.isth.nextEnd) ∧ frame u)) ∧
    (∀ f, s.isth.activate = none ∨ s.stagedImage = none ∨ s.flt.spareCore = none ∨ s.boot.phase ≠ .ready →
      exec (.firmwareHandover f) s = .next s)

/-- A slack has an effect only on a plan, with the time synchronised and no failed holm of its own still to be replaced. The first one begins tide 0 at its
scheduled instant, or ends the start where the plan is to stop; a later one, once the tide has closed, goes to the next tide, or stops the plan. A
checkpoint spill writes the harbour copy that is not the latest complete one. At the recovery slack a failed holm's role moves to a spare, or is lost; then
its stage replays; a failing row gets a spare row (R231 to R236, R485, R486, R489, R492, R493). -/
def Obligations.SlackAndRecovery : Prop :=
  ∀ s : State,
    (∀ w, s.work? w = none → exec (.slack w) s = .next s) ∧
    (∀ w wk, s.work? w = some wk →
      let ready := wk.kind = .plan ∧ s.net.time.sync ≠ .unsync ∧ ∀ c ∈ s.flt.recovery, c.work = w → c.swapped = true
      (¬ ready → exec (.slack w) s = .next s) ∧
      (wk.started = false → wk.startCmd = none → exec (.slack w) s = .next s) ∧
      (wk.started = true → wk.closeAt = none → exec (.slack w) s = .next s) ∧
      (ready → wk.started = false → wk.startCmd ≠ none → wk.stopping = true → ∃ t, exec (.slack w) s = .next t ∧
        t.work? w = some { wk with startCmd := none, stopping := false, stopCmds := [] } ∧
        t.holms = s.holms ∧ t.mem = s.mem ∧ t.kv = s.kv ∧ t.ten = s.ten) ∧
      (ready → wk.started = false → wk.startCmd ≠ none → wk.stopping = false → ∃ t x, exec (.slack w) s = .next t ∧
        t.work? w = some x ∧ x.started = true ∧ x.running = true ∧ x.startCmd = none ∧ x.closeAt = none ∧ x.tide = 0 ∧
        x.lastSlack = s.slackAt wk 0 ∧ x.waves.map (·.kind) = [.start] ∧ x.stages = wk.stages ∧ ∀ j, j ≠ w → t.work? j = s.work? j) ∧
      (∀ c, ready → wk.started = true → wk.closeAt = some c → ∃ t x, exec (.slack w) s = .next t ∧ t.work? w = some x ∧
        x.tide = wk.tide + 1 ∧ x.lastSlack = max (s.slackAt wk (wk.tide + 1)) (c + 250) ∧ x.closeAt = none ∧ x.started = x.running ∧
        (wk.stopping = true → x.running = false))) ∧
    (∀ p carried i, p < 272 → s.live = true → (s.holm p).inv = some i →
      let h := s.holm p
      let k := s.flt.complete.getD p 0
      let due := h.st = .running ∧ h.fault = none ∧ (∃ a ∈ h.arrivals, a.bar ∈ s.ckptBars i) ∧ s.flt.spilled.getD p 0 = k ∧
        (∀ e ∈ h.scoreboard, e.kind = .declared) ∧ State.carriedOk h carried = true
      (¬ due → exec (.checkpointSpill p carried) s = .next s) ∧
      (due → ∃ ck : Ckpt, exec (.checkpointSpill p carried) s = .next { s with flt := { s.flt with
          harbour := s.flt.harbour.set (2 * p + (k + 1) % 2) ck, spilled := s.flt.spilled.set p (k + 1) } } ∧
        ck.pc = h.pc ∧ ck.g = h.g ∧ ck.arrivals = h.arrivals.filter (fun a => !(s.ckptBars i).contains a.bar) ∧
        ck.carried = carried.map fun (a, b) => (a, b, h.bytes (32 * a) (32 * (b + 1 - a))))) ∧
    ((∀ c ∈ s.flt.recovery, c.row = 0 → c.swapped = true) → exec .recoverySlack s = .next s) ∧
    (∀ c, s.flt.recovery.filter (fun c => c.row == 0 && !c.swapped) = [c] → (s.holm c.phys).st ≠ .spare →
      (∀ q, s.spareOf? (c.phys / 68) = some q → ∃ t r, exec .recoverySlack s = .next t ∧ t.remap.get? c.lg = some r ∧
        r.valid = true ∧ r.phys = q % 68 ∧ r.epoch = (s.epochOf c.lg + 1) % 2 ^ 24 ∧ (t.holm c.phys).st = .fusedOut ∧
        (∀ i, (s.holm c.phys).inv = some i → (t.holm q).st = .faulted ∧ ((t.holm q).inv.map fun x => x.work) = some i.work) ∧
        t.flt.recovery = s.flt.recovery.map fun x => if x = c then { x with swapped := true } else x) ∧
      (s.spareOf? (c.phys / 68) = none → ∃ t r, exec .recoverySlack s = .next t ∧ t.remap.get? c.lg = some r ∧ r.valid = false ∧
        (t.holm c.phys).st = .fusedOut ∧ t.flt.recovery = s.flt.recovery.filter fun x => x != c)) ∧
    ((∀ c ∈ s.flt.recovery, c.row = 0 → c.swapped = false) → exec .stageReplay s = .next s) ∧
    (∀ c, s.flt.recovery.filter (fun c => c.row == 0 && c.swapped) = [c] → ∃ t, exec .stageReplay s = .next t ∧
      t.flt.recovery = s.flt.recovery.filter (fun x => x != c) ∧ (∀ x, t.work? c.work = some x → x.degraded = true) ∧
      t.mem = s.mem ∧ t.ten = s.ten ∧ t.remap = s.remap) ∧
    ((∀ c ∈ s.flt.recovery, c.row ≠ 1) → exec .rowFaultRecovery s = .next s) ∧
    (∀ c, s.flt.recovery.find? (fun c => c.row == 1) = some c → ∃ t, exec .rowFaultRecovery s = .next t ∧
      t.flt.recovery = s.flt.recovery.filter (fun x => x != c) ∧ (∀ x, t.work? c.work = some x → x.degraded = true) ∧
      t.mem = s.mem ∧ t.ten = s.ten ∧ t.remap = s.remap ∧
      ∀ k, State.spareRow? (s.holm c.phys) c.bank = some k → (c.bank, c.line, k) ∈ (t.holm c.phys).repairs)

/-- A page request that has neither landed nor failed is served whole: its rows land in the scratchpad and its header is kept, or it fails and keeps the
status. A landed one then writes its header and counts its tile where it is the next in order; a failed one stops its channel. An append of a running
holm is taken into its pending record, or is a deferred fault. Freed pages rejoin their pool's free list (R217, R224, R249 to R256, R265). -/
def Obligations.WalkerCommands : Prop :=
  ∀ s : State,
    (∀ i lost, s.walk? i = none → exec (.walkerRequest i lost) s = .next s ∧ exec (.walkerTileComplete i) s = .next s ∧
      exec (.walkerFailure i) s = .next s) ∧
    (∀ i w, s.walk? i = some w →
      let h := s.holm w.phys
      let put (h : Holm) (rs : List (Nat × List Nat)) : Holm := rs.foldl (fun (h : Holm) (a, bs) => h.putBytes a bs) h
      let gone : KvState := { s.kv with walks := s.kv.walks.filter fun x => x.id != i }
      (∀ lost, w.landed = true ∨ w.failed ≠ none ∨ h.st ≠ .running → exec (.walkerRequest i lost) s = .next s) ∧
      (∀ lost c, w.landed = false → w.failed = none → h.st = .running → s.kvCtx (s.tenantOfHolm w.phys) = some c →
        (∀ o, w.run c h.rd lost = .ok o → ∃ t, exec (.walkerRequest i lost) s = .next t ∧
          t.walk? i = some { w with landed := true, header := o.header } ∧ (o.undef = [] → t.holm w.phys = put h o.rows) ∧
          (∀ p, p ≠ w.phys → t.holm p = s.holm p) ∧ t.mem = s.mem ∧ t.net = s.net ∧ t.kv.pools = s.kv.pools ∧ t.kv.descs = s.kv.descs) ∧
        (∀ e, w.run c h.rd lost = .error e → ∃ t, exec (.walkerRequest i lost) s = .next t ∧
          t.walk? i = some { w with failed := some e } ∧ (e ≠ .memoryError → e ≠ .badAddress → t.holms = s.holms) ∧
          (∀ p, p ≠ w.phys → t.holm p = s.holm p) ∧ t.mem = s.mem ∧ t.net = s.net ∧ t.kv.pools = s.kv.pools ∧ t.kv.descs = s.kv.descs)) ∧
      (w.landed = false ∨ h.st ≠ .running → exec (.walkerTileComplete i) s = .next s) ∧
      (w.landed = true → h.st = .running →
        let h1 := (put h w.header).modChan w.ch fun c => c.modTile w.tile fun t => { t with walker := false }
        let c := h1.chan w.ch
        (∀ tl, c.nextDone = some tl → tl.num = w.tile → c.failed = none → exec (.walkerTileComplete i) s = .next
          { s.setHolm w.phys (h1.setChan w.ch { c.modTile tl.num (fun t => { t with counted := true }) with count := c.count + 1 }) with kv := gone }) ∧
        ((∀ tl, c.nextDone = some tl → tl.num ≠ w.tile ∨ c.failed ≠ none) →
          exec (.walkerTileComplete i) s = .next { s.setHolm w.phys h1 with kv := gone })) ∧
      (w.failed = none → exec (.walkerFailure i) s = .next s) ∧
      (∀ st, w.failed = some st → exec (.walkerFailure i) s = .next
        { s.setHolm w.phys (h.modChan w.ch fun c => { c with failed := c.failed.or (some (st, w.pc, w.tile)) }) with kv := gone })) ∧
    (∀ p ch, p < 272 → s.live = true →
      let h := s.holm p
      ((h.chan ch).kva = none ∨ h.inv = none ∨ h.st ≠ .running ∨ h.fault ≠ none → exec (.kvAppendAccept p ch) s = .next s) ∧
      (∀ j i c q, (h.chan ch).kva = some j → h.inv = some i → h.st = .running → h.fault = none → s.kvCtx (s.tenantOfHolm p) = some c →
        s.poolOfHandle (s.tenantOfHolm p) j.handle = some q →
        h.poisonedIn (j.src / 8) (j.src / 8 + j.hcnt * j.tokens * (q.rk + q.rv) - 1) = false →
        (∀ st, c.append i.work j.handle j.off j.tokens (State.kvaRows h q j) = .error st →
          exec (.kvAppendAccept p ch) s = .next (s.setHolm p (h.deferred j.pc 0x31 ch st 0))) ∧
        (∀ c1, c.append i.work j.handle j.off j.tokens (State.kvaRows h q j) = .ok c1 → ∃ t, exec (.kvAppendAccept p ch) s = .next t ∧
          t.mem = c1.mem ∧ t.kv.pools = c1.kv.pools ∧ t.kv.descs = c1.kv.descs ∧ t.net = s.net ∧
          t.holm p = ((h.retire [j.entry]).modChan ch fun x => { x with kva := none }).pump ∧ ∀ x, x ≠ p → t.holm x = s.holm x))) ∧
    (∀ n, exec (.pageFreeReturn n) s = .next { s with kv := { s.kv with pools := s.kv.pools.modify n fun q => q.returnPages s.kv.walks } })

/-- The shuttle of a ring: the walker fetches its next origin block when every destination runs and its slots are granted; the next block in order
leaves for the next rank when it is at hand and a credit is held, own blocks by one command, received ones and returning accumulators by the other;
slots are granted once. A block that has come is answered exactly once, and one the ring expects has landed. A ring-abort or a failure stops the ring
(R281 to R286, R295, R296). -/
def Obligations.ShuttleCommands : Prop :=
  ∀ (s : State) (i : Nat),
    (s.ring? i = none → (∀ lost, exec (.originBlockFetch i lost) s = .next s) ∧ (∀ l, exec (.shuttleBlockSend i l) s = .next s) ∧
      (∀ l, exec (.shuttleForward i l) s = .next s) ∧ exec (.slotCreditGrant i) s = .next s ∧ ∀ v, exec (.ringFailure i v) s = .next s) ∧
    (∀ r, s.ring? i = some r →
      let k := r.origin.length
      let b := (k / max 1 r.blocks, 0, k % max 1 r.blocks)
      let due := r.orig = false ∧ r.stopped = none ∧ s.ringUp r = true ∧ b.1 < r.rounds ∧ r.granted = true ∧ r.mayUse r.given b = true
      (∀ lost, ¬ due → exec (.originBlockFetch i lost) s = .next s) ∧
      (∀ lost, due → s.kvCtx (s.ringTenant r) = none → ∃ t, exec (.originBlockFetch i lost) s = .next t ∧
        ∀ x, t.ring? i = some x → x.stopped = some .badAddress) ∧
      (∀ lost c o, due → r.mem = false → s.kvCtx (s.ringTenant r) = some c →
        Walk.run c (fun _ => 0) { id := 0, phys := 0, ch := 0, tile := 0, walker := r.quad, handle := r.handle, sel := 2 ^ 2 * r.head + 2 ^ 6 * r.hcnt, sreg := 0, treg := r.token0 + b.2.2 * r.tokens, tokens := r.tokens, layer := r.layer + (if r.lstep then b.1 else 0), incT := 0, pc := 0, landed := false, header := [], failed := none } lost = .ok o →
        ∃ t x, exec (.originBlockFetch i lost) s = .next t ∧ t.ring? i = some x ∧ x.origin = r.origin ++ [(b.1, b.2.2)] ∧
          x.landed = r.landed ++ [b] ∧ t.mem = s.mem ∧ t.kv = s.kv) ∧
      (r.granted = true ∨ r.stopped ≠ none ∨ s.ringUp r = false → exec (.slotCreditGrant i) s = .next s) ∧
      (r.granted = false → r.stopped = none → s.ringUp r = true → ∃ t x, exec (.slotCreditGrant i) s = .next t ∧
        t = { s with net := { s.net with rings := t.net.rings } } ∧ t.ring? i = some x ∧
        x = { r with granted := true, returned := r.returned ++ List.range r.slots } ∧ ∀ j, j ≠ i → t.ring? j = s.ring? j) ∧
      (∀ v, Status.ofCode? v = none ∨ (∀ wk, s.work? r.work = some wk → wk.running = false) → exec (.ringFailure i v) s = .next s) ∧
      (∀ v st wk, Status.ofCode? v = some st → s.work? r.work = some wk → wk.running = true →
        (st.isDone = true → exec (.ringFailure i v) s = .next s) ∧
        (st.isDone = false → r.stopped = none → wk.closeAt = none → ∃ t, exec (.ringFailure i v) s = .next t ∧
          (∀ x, t.ring? i = some x → x.stopped = some st) ∧
          ∀ x, t.work? r.work = some x → x.status = if wk.status.isDone then st else wk.status))) ∧
    (∀ l r, (s.takeCredits i l).ring? i = some r →
      let u := s.takeCredits i l
      let b := r.outBlock r.next
      let ret := (r.nextRet / max 1 r.blocks, r.n - 1, r.nextRet % max 1 r.blocks)
      let may := r.stopped = none ∧ u.ringUp r = true ∧ b.1 < r.rounds ∧ b ∈ r.landed ∧
        r.mayUse r.credits (b.1, b.2.1 + 1, b.2.2) = true ∧ u.backReady r b = true
      let mayRet := r.stopped = none ∧ r.bwd = true ∧ u.ringUp r = true ∧ ret.1 < r.rounds ∧ ret ∈ r.landed ∧ u.backReady r ret = true
      let open_ := (∃ a m, u.net.archs.get? (u.ringArch r) = some a ∧ a.members.get? r.nextIx = some m) ∧
        (∀ d, u.memberGone (u.ringArch r) d = false) ∧ u.allLost r.ports = false
      let leaves (c : Instr) (q : Nat) (data : List Nat) (own : Nat) (back : Nat) : Prop := ∃ t x y, exec c s = .next t ∧ t.ring? i = some x ∧
        x.next = r.next + own ∧ x.nextRet = r.nextRet + back ∧ x.outstanding = r.outstanding + 1 ∧ t.net.sent = u.net.sent ++ [y] ∧
        y.owner = .ring i q ∧ y.x.data = data ∧ y.arch = u.ringArch r ∧ y.chan = 4
      (¬ may ∨ b.2.1 ≠ 0 → exec (.shuttleBlockSend i l) s = .next u) ∧
      (∀ bs, may → b.2.1 = 0 → open_ → u.readSlot r (r.slotOf b) = .ok bs →
        leaves (.shuttleBlockSend i l) (r.seq (b.1, b.2.1 + 1, b.2.2)) bs 1 0) ∧
      (¬ may ∨ b.2.1 = 0 → ¬ mayRet → exec (.shuttleForward i l) s = .next u) ∧
      (∀ bs, may → b.2.1 ≠ 0 → r.bwd = false → open_ → u.readSlot r (r.slotOf b) = .ok bs →
        leaves (.shuttleForward i l) (r.seq (b.1, b.2.1 + 1, b.2.2)) bs 1 0) ∧
      (∀ bs, ¬ may ∨ b.2.1 = 0 → mayRet → open_ → u.readSlot r (r.slotOf ret) = .ok bs →
        leaves (.shuttleForward i l) (r.total + r.nextRet) (bs.drop (bs.length - 32 * r.accLines)) 0 1)) ∧
    ((∀ e ∈ s.net.shuttleIn, s.landsIn i e = false) → exec (.shuttleBlockLanding i) s = .next s) ∧
    (∀ port arch x, s.net.shuttleIn.find? (s.landsIn i) = some (port, arch, x) →
      let u : State := { s with net := { s.net with shuttleIn := s.net.shuttleIn.erase (port, arch, x) } }
      ∃ t y, exec (.shuttleBlockLanding i) s = .next t ∧ t.net.shuttleIn = u.net.shuttleIn ∧ t.net.replies = s.net.replies ++ [y] ∧
        y.port = port ∧ y.arch = arch ∧
        ∀ tg r k b, u.checkXfer port x = .ok tg → u.ringFor arch x tg = some (i, r, some k) → State.expectedIn r k = some b → r.mem = false →
          r.stopped = none → b.2.1 ≠ 0 → r.mayUse r.given b = true → ∀ z, t.ring? i = some z → b ∈ z.landed) ∧
    (s.popAbort 1 = none → exec .ringAbortReceive s = .next s) ∧
    (∀ x u, s.popAbort 1 = some (none, x, u) → exec .ringAbortReceive s = .next u) ∧
    (∀ arch x u, s.popAbort 1 = some (some arch, x, u) →
      let hit := u.net.rings.find? fun ((_, r) : Nat × Ring) =>
        u.ringArch r == arch && r.num == fld (ofBytes x.data) 32 8 && (r.nextIx == x.src || r.prevIx == x.src) && r.stopped.isNone
          && fld (ofBytes x.data) 0 4 == 1 && fld (ofBytes x.data) 64 64 == ((u.work? r.work).map (·.tide)).getD 0 % 2 ^ 64
      (hit = none → exec .ringAbortReceive s = .next u) ∧
      (∀ j r, hit = some (j, r) → u.ring? j = some r → ∃ t, exec .ringAbortReceive s = .next t ∧
        ∀ z, t.ring? j = some z → z.stopped = some .aborted))

/-- The collective engine takes the pieces told to it in turn: one in transit takes a transit slot and is later sent on; DATA is written to the output or
held for the collector; CREDIT, COUNT and GRANT are entered for their source; a wrong piece is a failure toward its source. The collector consumes held
pieces, a chunk that an MMA has written is handed over once, an ABORT is recorded for the failed rank, and a collective that is through completes
(R307, R407 to R410, R412, R414, R416, R418 to R421). -/
def Obligations.CollectiveCommands : Prop :=
  ∀ s : State,
    let fData := fun (arch : Nat) (p : Piece) => s.inTransit arch p || p.kind == 1 || p.kind == 0 || 4 < p.kind
    let fKind := fun (k arch : Nat) (p : Piece) => !s.inTransit arch p && p.kind == k
    let used (c : Nat) : Nat := (s.net.transit.filter fun ((_, t) : Nat × Transit) => t.cls == c).length
    (∀ idx, s.popPiece fData = none → exec (.collectivePieceArrival idx) s = .next s) ∧
    (s.popPiece (fKind 4) = none → exec .collectiveCreditReceive s = .next s) ∧
    (s.popPiece (fKind 2) = none → exec .alltoallCountReceive s = .next s) ∧
    (s.popPiece (fKind 3) = none → exec .alltoallGrantReceive s = .next s) ∧
    (∀ idx port arch p u, s.popPiece fData = some (port, arch, p, u) →
      let takes (cls : Nat) : Prop := exec (.collectivePieceArrival idx) s = .next
        { u with net := { u.net with transit := u.net.transit.set (AMap.freeKey s.net.transit 128 0) ⟨arch, cls, p, port⟩ } }
      (s.inTransit arch p = true →
        (used 0 < 64 → takes 0) ∧ (64 ≤ used 0 → used 1 < 64 → takes 1) ∧
        (64 ≤ used 0 → 64 ≤ used 1 → exec (.collectivePieceArrival idx) s = .next s)) ∧
      (s.inTransit arch p = false → s.collOf arch p = none → exec (.collectivePieceArrival idx) s = .next u) ∧
      (∀ i c, s.inTransit arch p = false → s.collOf arch p = some (i, c) →
        let good := p.kind = 1 ∧ u.pieceOk c p = true ∧ c.agrees (u.streams c) p = true ∧ p.bytes ≤ p.data.length
        (¬ good → exec (.collectivePieceArrival idx) s = .next (u.collFail i p.src .badCommand)) ∧
        (good → c.failed p.src = true → exec (.collectivePieceArrival idx) s = .next u) ∧
        (good → c.failed p.src = false → (c.reduces = true ∧ c.op ≠ 3) ∨ c.routed = true →
          ((c.held.filter fun q => q.src == p.src).length < c.slots → exec (.collectivePieceArrival idx) s = .next
            (u.modColl i fun c => { c with held := c.held ++ [{ p with idx := idx }] })) ∧
          (c.slots ≤ (c.held.filter fun q => q.src == p.src).length →
            exec (.collectivePieceArrival idx) s = .next (u.collFail i p.src .badCommand))) ∧
        (good → c.failed p.src = false → c.reduces = false → c.routed = false → c.indexed = false →
          (∀ st, u.putOut c p.off p.body = .error st → exec (.collectivePieceArrival idx) s = .next (u.collFail i p.src st)) ∧
          (∀ v, u.putOut c p.off p.body = .ok v → ∃ t, exec (.collectivePieceArrival idx) s = .next t ∧ t.mem = v.mem ∧ t.holms = v.holms ∧
            ∀ x, v.coll? i = some x → ∃ y, t.coll? i = some y ∧
              y.entries = modAt x.entries p.src fun e => { e with landed := e.landed + 1 })))) ∧
    (∀ cid piece, s.coll? cid = none → exec (.collectorCombine cid piece) s = .next s) ∧
    (∀ cid piece c, s.coll? cid = some c →
      (c.active = false ∨ c.done = true → exec (.collectorCombine cid piece) s = .next s) ∧
      (c.active = true → c.done = false → ∃ t x, exec (.collectorCombine cid piece) s = .next t ∧ t.coll? cid = some x ∧
        x.held = c.held.filter (fun p => p.num != piece) ∧ x.done = false ∧ ∀ j, j ≠ cid → t.coll? j = s.coll? j)) ∧
    (∀ port arch p u, s.popPiece (fKind 4) = some (port, arch, p, u) →
      (s.collOf arch p = none → exec .collectiveCreditReceive s = .next u) ∧
      (∀ i c, s.collOf arch p = some (i, c) →
        (s.pieceOk c p = false ∨ p.bytes ≠ 0 → exec .collectiveCreditReceive s = .next (u.collFail i p.src .badCommand)) ∧
        (s.pieceOk c p = true → p.bytes = 0 → exec .collectiveCreditReceive s = .next
          ((u.modColl i fun c => { c with credits := c.credits.set p.src (c.credits.getD p.src 0 + p.num) }).pumpColl i)))) ∧
    (∀ port arch p u, s.popPiece (fKind 2) = some (port, arch, p, u) →
      (s.collOf arch p = none → exec .alltoallCountReceive s = .next u) ∧
      (∀ i c, s.collOf arch p = some (i, c) →
        let good := s.pieceOk c p = true ∧ c.routed = true ∧ p.bytes = 256 ∧ c.counts.get? p.src = none
        (¬ good → exec .alltoallCountReceive s = .next (u.collFail i p.src .badCommand)) ∧
        (good → ∃ t x, exec .alltoallCountReceive s = .next t ∧ t.coll? i = some x ∧
          x.counts.get? p.src = some ((chunks 4 p.body).map ofBytes)))) ∧
    (∀ port arch p u, s.popPiece (fKind 3) = some (port, arch, p, u) →
      (s.collOf arch p = none → exec .alltoallGrantReceive s = .next u) ∧
      (∀ i c, s.collOf arch p = some (i, c) →
        let good := s.pieceOk c p = true ∧ c.routed = true ∧ p.bytes = 256 ∧ c.grants.get? p.src = none
        (¬ good → exec .alltoallGrantReceive s = .next (u.collFail i p.src .badCommand)) ∧
        (good → ∃ t x, exec .alltoallGrantReceive s = .next t ∧ t.coll? i = some x ∧
          x.grants.get? p.src = some ((chunks 4 p.body).map fun b => (ofBytes (b.take 2), ofBytes (b.drop 2)))))) ∧
    (∀ slot, s.net.transit.get? slot = none → exec (.transitForward slot) s = .next s) ∧
    (∀ slot e, s.net.transit.get? slot = some e →
      let u : State := { s with net := { s.net with transit := s.net.transit.del slot } }
      (∀ st, u.sendPieceOn e.arch e.piece (.transit slot) = .error st → exec (.transitForward slot) s = .next u) ∧
      (∀ v, u.sendPieceOn e.arch e.piece (.transit slot) = .ok v → exec (.transitForward slot) s = .next v ∧ v.net.transit = u.net.transit)) ∧
    (∀ cid row chunk, s.coll? cid = none → exec (.mmaEmitChunk cid row chunk) s = .next s) ∧
    (∀ cid row chunk c, s.coll? cid = some c →
      (s.emitter c = none → exec (.mmaEmitChunk cid row chunk) s = .next s) ∧
      (∀ p, s.emitter c = some p →
        let h := s.holm p
        let hit := h.inFlight.find? fun f => f.emits.contains (row, chunk) && (s.boundColl h f.cslot).map (·.ord) == some c.ord
        (hit = none → exec (.mmaEmitChunk cid row chunk) s = .next s) ∧
        (∀ f, hit = some f →
          let n := f.emitAt.2.2.2
          let w := f.emitAt.2.2.1
          let k := row * ((n + 63) / 64) + chunk
          let e := row * n + 64 * chunk
          let bs := h.bytes (4 * (f.emitAt.1 + f.emitAt.2.1 * row) + 64 * chunk * w / 8) (min 64 (n - 64 * chunk) * w / 8)
          let u := s.setHolm p { h with inFlight := h.inFlight.map fun g => if g = f then { g with emits := g.emits.erase (row, chunk) } else g }
          let seen := ∃ z, (k, e, z) ∈ c.emitted
          (c.active = false ∨ c.done = true ∨ seen → exec (.mmaEmitChunk cid row chunk) s = .next u) ∧
          (c.active = true → c.done = false → ¬ seen → ∃ t x, exec (.mmaEmitChunk cid row chunk) s = .next t ∧ t.coll? cid = some x ∧
            x.emitted = c.emitted ++ [(k, e, bs)])))) ∧
    (s.popAbort 2 = none → exec .collectiveAbortReceive s = .next s) ∧
    (∀ x u, s.popAbort 2 = some (none, x, u) → exec .collectiveAbortReceive s = .next u) ∧
    (∀ arch x u, s.popAbort 2 = some (some arch, x, u) →
      let b := ofBytes x.data
      let hit := u.net.colls.find? fun ((_, c) : Nat × Coll) => c.id == fld b 32 32 && c.arch == arch && c.active && !c.done && c.tide % 2 ^ 64 == fld b 64 64
      (hit = none → exec .collectiveAbortReceive s = .next u) ∧
      (∀ i c st, hit = some (i, c) → Status.ofCode? (fld b 8 8) = some st → st.isDone = false → fld b 16 10 < c.n →
        ∃ t z, exec .collectiveAbortReceive s = .next t ∧ t.coll? i = some z ∧ (c.reduces = true ∨ c.routed = true → z.held = []) ∧
          (fld b 16 10 < z.entries.length → z.failed (fld b 16 10) = true))) ∧
    (∀ cid, s.coll? cid = none → exec (.collectiveComplete cid) s = .next s) ∧
    (∀ cid c, s.coll? cid = some c →
      (s.collThrough c = false → exec (.collectiveComplete cid) s = .next s) ∧
      (s.collThrough c = true → ∃ t, exec (.collectiveComplete cid) s = .next t ∧
        ∀ x, t.coll? cid = some x → x.done = true ∧ x.held = []))

/-- A port takes a link block: a bad one is discarded and asked for again, a good one is taken in, a protocol error fails the port. On a timeout
everything unacknowledged is sent again; a NAK is repeated while the receiver discards. A flit-slot table with legal codes waits for the next slot 0.
LINK_INIT gives the credits that the peer announces, or is answered with PORT_DOWN where its version or its buffers do not do (R363 to R370, R383). -/
def Obligations.LinkCommands : Prop :=
  ∀ (s : State) (i : Nat), i < 32 → s.live = true → s.net.ports.length = 32 →
    let q := s.port i
    (∀ d fl ctl, q.sends = false → exec (.linkBlockReceive i d fl ctl) s = .next s) ∧
    (∀ d fl ctl q1, q.sends = true → q.receive d fl ctl.toNat = (q1, false) → exec (.linkBlockReceive i d fl ctl) s = .next (s.setPort i q1)) ∧
    (∀ d fl ctl q1, q.sends = true → q.receive d fl ctl.toNat = (q1, true) → ∃ t, exec (.linkBlockReceive i d fl ctl) s = .next t ∧
      (t.port i).st = .failed ∧ portDownFlit 0 ∈ (t.port i).mgtOut ∧ ∀ j, j < 32 → j ≠ i → (t.port j).st = (s.port j).st) ∧
    (∀ fl ctl, q.sends = true → q.badAt = none → exec (.linkBlockReceive i false fl ctl) s = .next
      (s.setPort i { q with badAt := some q.rxIndex, nakDue := true, rxIndex := (q.rxIndex + 1) % 65536 })) ∧
    (q.unacked = [] ∨ q.sends = false → exec (.replayTimeout i) s = .next s) ∧
    (∀ x fl rest, q.unacked = (x, fl) :: rest → q.sends = true → exec (.replayTimeout i) s = .next (s.setPort i (q.replayAt x))) ∧
    (q.badAt = none → exec (.nakRepeatTimer i) s = .next s) ∧
    (q.badAt ≠ none → exec (.nakRepeatTimer i) s = .next (s.setPort i { q with nakDue := true })) ∧
    (∀ tab, fstOk tab = false → exec (.flitSlotTableSwap i tab) s = .next s) ∧
    (∀ tab, fstOk tab = true → exec (.flitSlotTableSwap i tab) s = .next (s.setPort i { q with fstShadow := some tab })) ∧
    (q.popMgt (fun v => fld v 0 8 == 0x01) = none → exec (.linkInit i) s = .next s) ∧
    (∀ v q1, q.popMgt (fun v => fld v 0 8 == 0x01) = some (v, q1) →
      let enough := fld v 8 8 = 1 ∧ ∀ c n, (c, n) ∈ State.leastBuffers → n ≤ (State.announcedBy v).getD c 0
      (q1.st ≠ .train → exec (.linkInit i) s = .next (s.setPort i q1)) ∧
      (q1.st = .train → ¬ enough → exec (.linkInit i) s = .next (s.setPort i { q1 with mgtOut := q1.mgtOut ++ [portDownFlit 0] })) ∧
      (q1.st = .train → enough → exec (.linkInit i) s = .next (s.setPort i { q1 with credits := State.announcedBy v, announced := State.announcedBy v, initRcvd := true, st := if q1.initSent then .chart else .train })))

/-- HELLO names the peer and may better the coordinate claim; with its echo and its cabling right, the port has charted. ENABLE gives what the peer has
enabled, and its withdrawal brings the port back to CHARTED. TIME keeps the peer's stamp. A CHART flit that is not well formed fails the port. The timers
send HELLO and TIME and fix the claim. Pulses shift bits into the frame; a lost pulse train means HOLDOVER where the time was locked, two bad clocks FREE; a
path to a reference rack that is lost is kept as lost (R388 to R400). -/
def Obligations.ChartingAndTime : Prop :=
  ∀ s : State,
    (∀ i, i < 32 → s.live = true → s.net.ports.length = 32 →
      let pop (k : Nat) := (s.port i).popMgt fun v => isChart v && (chtKind v == k || chtKind v == 0 || 3 < chtKind v)
      let charting (q : Port) : Prop := q.st = .chart ∨ q.st = .charted ∨ q.st = .up
      (∀ c k, (c, k) ∈ [(Instr.hello i, 1), (Instr.chartEnable i, 2), (Instr.chartTime i, 3)] →
        (pop k = none → exec c s = .next s) ∧
        (∀ v q1, pop k = some (v, q1) → chartOk v = false → ∃ t, exec c s = .next t ∧ (t.port i).st = .failed ∧ portDownFlit 0 ∈ (t.port i).mgtOut) ∧
        (∀ v q1, pop k = some (v, q1) → chartOk v = true → ¬ charting q1 → exec c s = .next (s.setPort i q1))) ∧
      (∀ v q1, pop 1 = some (v, q1) → chartOk v = true → charting q1 →
        let p : Peer := ⟨fld v 32 64, fld v 96 64, fld v 16 5, fld v 160 32⟩
        let other := q1.peerFixed = true ∧ ∃ o, q1.peer = some o ∧ (o.serial ≠ p.serial ∨ o.inc ≠ p.inc)
        let m := if i < 30 ∧ bitAt v 198 then State.mergeClaim s.net.claim (State.candidate i v) else (s.net.claim, false)
        (other → ∃ t, exec (.hello i) s = .next t ∧ (t.port i).st = .failed ∧ portDownFlit 0 ∈ (t.port i).mgtOut) ∧
        (¬ other → ∃ t, exec (.hello i) s = .next t ∧ (t.port i).peer = some p ∧ (t.port i).peerFixed = true ∧
          (t.port i).conflict = m.2 ∧ t.net.claim = m.1 ∧ t.net.archs = s.net.archs ∧ t.net.windows = s.net.windows ∧
          (q1.st ≠ .chart → (t.port i).st = q1.st) ∧
          (q1.st = .chart → (s.cabled i p = false ∨ m.2 = true) → (t.port i).st = .chart) ∧
          (q1.st = .chart → s.cabled i p = true → m.2 = false → bitAt v 397 = true → fld v 264 64 = s.net.serial % 2 ^ 64 →
            fld v 328 64 = s.net.inc % 2 ^ 64 → fld v 392 5 = i →
            (t.port i).charted = true ∧ ((t.port i).st = .charted ∨ (t.port i).st = .up)))) ∧
      (∀ v q1, pop 2 = some (v, q1) → chartOk v = true → charting q1 →
        (bitAt v 474 = true → q1.st = .up → exec (.chartEnable i) s = .next (s.setPort i q1)) ∧
        (bitAt v 474 = true → q1.st ≠ .up → ∃ t, exec (.chartEnable i) s = .next t ∧ (t.port i).peerEn = some (fld v 400 64, fld v 464 10) ∧
          ((t.port i).st = q1.st ∨ (q1.st = .charted ∧ q1.enabled = some (fld v 400 64) ∧ (t.port i).st = .up)) ∧
          t.net.claim = s.net.claim ∧ t.net.archs = s.net.archs ∧ t.holms = s.holms) ∧
        (bitAt v 474 = false → q1.st ≠ .up → exec (.chartEnable i) s = .next (s.setPort i { q1 with peerEn := none })) ∧
        (bitAt v 474 = false → q1.st = .up → ∃ t, exec (.chartEnable i) s = .next t ∧ (t.port i).st = .charted ∧
          (t.port i).peerEn = none ∧ (t.port i).offer = none)) ∧
      (∀ v q1, pop 3 = some (v, q1) → chartOk v = true → charting q1 → ∃ t, exec (.chartTime i) s = .next t ∧
        (t.port i).lastTx = fld v 480 64 ∧ (t.port i).lastRx = s.now ∧ (t.port i).st = q1.st ∧ t.holms = s.holms ∧ t.mem = s.mem ∧
        (q1.st ≠ .up ∨ 7 ≤ fld v 704 3 → (t.port i).offer = none)) ∧
      ((s.port i).charted = true →
        exec (.helloTimer i) s = .next (s.setPort i { s.port i with mgtOut := (s.port i).mgtOut ++ [helloFlit s i] })) ∧
      ((s.port i).charted = false → exec (.helloTimer i) s = .next s) ∧
      (let due := (s.port i).st = .up ∧ ∃ n a, s.archOfPort i = some (n, a) ∧ a.spansRacks = true
       (due → exec (.timeFlitTimer i) s = .next (s.setPort i { s.port i with mgtOut := (s.port i).mgtOut ++ [timeFlit s i] })) ∧
       (¬ due → exec (.timeFlitTimer i) s = .next s))) ∧
    exec .claimFixTimer s = .next { s with net := { s.net with claim := { s.net.claim with fixed := true } } } ∧
    (s.boot.phase = .off → (∀ w, exec (.rtpEdge w) s = .next s) ∧ exec .rtpLoss s = .next s ∧ (∀ b, exec (.refclkBad b) s = .next s) ∧
      (∀ b, exec (.refclkGood b) s = .next s) ∧ exec .timeDepthLost s = .next s) ∧
    (s.boot.phase ≠ .off →
      let t0 := s.net.time
      let still := t0.sync ≠ .locked ∨ t0.edgeError = 0
      let time (f : RackTime) : State := { s with net := { s.net with time := f } }
      (∀ w, w < 60 ∨ 900 < w → exec (.rtpEdge w) s = .next (time { t0 with frame := none, agreed := 0, nextMark := none })) ∧
      (∀ w, 60 ≤ w → w < 450 → still → exec (.rtpEdge w) s = .next (time { t0 with frame := t0.frame.bind fun (v, n) => if n < 64 then some (2 * v + (if w < 200 then 0 else 1), n + 1) else none })) ∧
      (∀ w, 450 ≤ w → w ≤ 900 → still → (∀ v, t0.frame ≠ some (v, 64)) →
        exec (.rtpEdge w) s = .next (time { t0 with frame := some (0, 0), agreed := 0, nextMark := none })) ∧
      (∀ w v, 450 ≤ w → w ≤ 900 → t0.sync = .unsync → t0.frame = some (v, 64) → ∃ t, exec (.rtpEdge w) s = .next t ∧
        t.net.time.frame = some (0, 0) ∧ t.net.time.nextMark = some (v + 65) ∧
        (t0.nextMark = some v → 1 ≤ t0.agreed → t.net.time.sync = .locked ∧ t.net.time.agreed = t0.agreed + 1 ∧
          (t0.now ≤ 1000 * v → t.net.time.now = 1000 * v)) ∧
        (t0.nextMark ≠ some v → t.net.time.sync = .unsync ∧ t.net.time.agreed = 1 ∧ t.net.time.now = t0.now)) ∧
      (∃ t, exec .rtpLoss s = .next t ∧ t.net.time.frame = none ∧ t.net.time.nextMark = none ∧ t.net.time.agreed = 0 ∧
        t.net.time.sync = (if t0.sync = .locked then .holdover else t0.sync) ∧ t.net.time.now = t0.now ∧ t.holms = s.holms ∧ t.mem = s.mem) ∧
      (∀ b, let bad := (if b then t0.goodB else t0.goodA) = false
        let other := if b then t0.goodA else t0.goodB
        (bad → exec (.refclkBad b) s = .next s) ∧
        (¬ bad → ∃ t, exec (.refclkBad b) s = .next t ∧ (if b then t.net.time.goodB else t.net.time.goodA) = false ∧
          t.net.time.sync = (if other then t0.sync else .free) ∧
          t.net.time.clockB = (if other ∧ t0.clockB = b then !b else t0.clockB) ∧ t.holms = s.holms ∧ t.mem = s.mem) ∧
        ∃ t, exec (.refclkGood b) s = .next t ∧ (if b then t.net.time.goodB else t.net.time.goodA) = true ∧
          t.net.time.sync = (if t0.sync = .free then .holdover else t0.sync) ∧
          t.net.time.clockB = (if t0.sync = .free then b else t0.clockB) ∧ t.holms = s.holms ∧ t.mem = s.mem) ∧
      (let gone := (s.spanning none).filter fun a => (s.pathOf a).depth == 7 && !(s.pathOf a).lost
       (gone = [] → exec .timeDepthLost s = .next s) ∧
       (gone ≠ [] → ∃ t, exec .timeDepthLost s = .next t ∧ (∀ a ∈ gone, ∃ p, t.net.time.paths.get? a = some p ∧ p.lost = true ∧ p.depth = 7) ∧
         t.net.time.now = t0.now ∧ t.net.time.sync = t0.sync ∧ t.holms = s.holms ∧ t.mem = s.mem)))

/-- A receive lane that fails first takes the port out of service and names a block at which both ends move to the spare lane; a second one leaves the port
failed. LANE_FAIL and LANE_SWAP agree the block for the other direction, and at it the spare carries the lane. PORT_DOWN and a failure fail a port. Loss of
signal means HOLD and the end of what is unanswered; its hold time or its training over, the port is DOWN; signal trains it anew (R376, R378, R379, R382 to R384). -/
def Obligations.LaneAndPortEvents : Prop :=
  ∀ (s : State) (i : Nat), i < 32 → s.live = true → s.net.ports.length = 32 →
    let q := s.port i
    let dead (q : Port) : Prop := q.st = .down ∨ q.st = .hold
    (∀ c k, (c, k) ∈ [(Instr.laneFail i, 0x04), (Instr.laneSwap i, 0x05), (Instr.portDown i, 0x06)] →
      q.popMgt (fun v => fld v 0 8 == k) = none → exec c s = .next s) ∧
    (∀ v q1, q.popMgt (fun v => fld v 0 8 == 0x04) = some (v, q1) →
      let lane := fld v 16 8
      (5 ≤ lane ∨ dead q1 → exec (.laneFail i) s = .next (s.setPort i q1)) ∧
      (lane < 5 → ¬ dead q1 → ∃ t, exec (.laneFail i) s = .next t ∧ (t.port i).st = .failed ∧ (t.port i).txLaneLost = true ∧
        (lane ∈ q1.txMap → q1.txLaneLost = false →
          (t.port i).swapAt = some (lane, fld v 32 16, true) ∧ laneSwap lane (fld v 32 16) ∈ (t.port i).mgtOut) ∧
        (lane ∉ q1.txMap ∨ q1.txLaneLost = true → (t.port i).swapAt = q1.swapAt ∧ (t.port i).mgtOut = q1.mgtOut))) ∧
    (∀ v q1, q.popMgt (fun v => fld v 0 8 == 0x05) = some (v, q1) →
      (∀ b, q1.swapAt = some (fld v 16 8, b, false) →
        exec (.laneSwap i) s = .next (s.setPort i { q1 with swapAt := some (fld v 16 8, fld v 32 16, false) })) ∧
      ((∀ b, q1.swapAt ≠ some (fld v 16 8, b, false)) → exec (.laneSwap i) s = .next (s.setPort i q1))) ∧
    (∀ v q1, q.popMgt (fun v => fld v 0 8 == 0x06) = some (v, q1) →
      (q1.sends = false → exec (.portDown i) s = .next (s.setPort i q1)) ∧
      (q1.sends = true → ∃ t, exec (.portDown i) s = .next t ∧ (t.port i).st = .failed ∧ (t.port i).mgtOut = q1.mgtOut ∧
        (t.port i).partialIn = [])) ∧
    (∀ lane,
      (5 ≤ lane ∨ dead q → exec (.laneFailureDetect i lane) s = .next s) ∧
      (lane < 5 → ¬ dead q →
        (q.rxLaneLost = true → lane ∉ q.rxMap → exec (.laneFailureDetect i lane) s = .next s) ∧
        (q.rxLaneLost = true → lane ∈ q.rxMap → ∃ t, exec (.laneFailureDetect i lane) s = .next t ∧ (t.port i).st = .failed ∧
          (t.port i).lanesGone = true ∧ portDownFlit 1 ∈ (t.port i).mgtOut) ∧
        (q.rxLaneLost = false → lane ∉ q.rxMap → exec (.laneFailureDetect i lane) s = .next (s.setPort i { q with rxLaneLost := true })) ∧
        (q.rxLaneLost = false → lane ∈ q.rxMap → ∃ t, exec (.laneFailureDetect i lane) s = .next t ∧ (t.port i).st = .failed ∧
          (t.port i).rxLaneLost = true ∧ (t.port i).swapAt = some (lane, (q.rxIndex + 64) % 65536, false) ∧
          laneFail lane ((q.rxIndex + 64) % 65536) ∈ (t.port i).mgtOut))) ∧
    (q.swapAt = none → exec (.laneRemap i) s = .next s) ∧
    (∀ lane b tx, q.swapAt = some (lane, b, tx) →
      let moved (m : List Nat) : List Nat := m.map fun k => if k = lane then 4 else k
      ∃ t, exec (.laneRemap i) s = .next t ∧ (t.port i).swapAt = none ∧
        (t.port i).txMap = (if tx then moved q.txMap else q.txMap) ∧ (t.port i).rxMap = (if tx then q.rxMap else moved q.rxMap) ∧
        (t.port i).st = (if q.st = .failed then .train else q.st) ∧
        t.boot.repairsDue = (if tx then s.boot.repairsDue else s.boot.repairsDue ++ [.straitLane i lane]) ∧
        (∀ j, j ≠ i → t.port j = s.port j) ∧ t.holms = s.holms ∧ t.mem = s.mem ∧ t.net.sent = s.net.sent) ∧
    (let up := q.st = .up ∨ q.st = .chart ∨ q.st = .charted
     (¬ up → exec (.portFailure i) s = .next s) ∧
     (up → ∃ t, exec (.portFailure i) s = .next t ∧ (t.port i).st = .failed ∧
       (t.port i).mgtOut = q.mgtOut ++ (if 64 ≤ q.retries then [portDownFlit 2] else []) ∧ (t.port i).partialIn = []) ∧
     (¬ (up ∨ q.st = .failed) → exec (.lossOfSignal i) s = .next s) ∧
     (up ∨ q.st = .failed → ∃ t, exec (.lossOfSignal i) s = .next t ∧ (t.port i).st = .hold ∧ (t.port i).peerFixed = false ∧
       (t.port i).unacked = [] ∧ (t.port i).partialIn = [] ∧ ∀ x ∈ t.net.sent, x.port ≠ i)) ∧
    (s.linksLive = false → exec (.signalDetect i) s = .next s) ∧
    (s.linksLive = true →
      (dead q → exec (.signalDetect i) s = .next ((s.wakeStrait i).setPort i (q.linkUp.freshMaps (s.badLanes i)))) ∧
      (q.st = .failed → q.swapAt = none → q.lanesGone = false → exec (.signalDetect i) s = .next (s.setPort i q.linkUp)) ∧
      (q.st = .failed → q.swapAt ≠ none ∨ q.lanesGone = true → exec (.signalDetect i) s = .next s) ∧
      (¬ dead q → q.st ≠ .failed → exec (.signalDetect i) s = .next s)) ∧
    (q.st ≠ .train → exec (.trainTimeout i) s = .next s) ∧
    (q.st = .train → ∃ t, exec (.trainTimeout i) s = .next t ∧ (t.port i).st = .down ∧ (t.port i).peerFixed = false) ∧
    (q.st ≠ .hold → exec (.holdTimerExpiry i) s = .next s) ∧
    (q.st = .hold → ∃ t, exec (.holdTimerExpiry i) s = .next t ∧ (t.port i).st = .down ∧ (t.port i).peerFixed = false ∧
      (t.port i).peer = q.peer)

/-- A WRITE at its target is answered with its kept reply, with what its check finds, or, once it has landed, with DONE; one for the collective engine is
told to it and one for the shuttle is handed over unanswered. A READ is answered with its bytes. The oldest reply leaves on a port. A reply ends its
transfer, or has it sent again where it redirects. A relay forwards what is for another member, and counts what it discards (R372 to R376, R379, R381). -/
def Obligations.StraitCommands : Prop :=
  ∀ s : State,
    (∀ i, i < 32 → s.live = true →
      let popW := s.popArrived i fun _ x => s.forMe i x && !(x.ty == 2 || x.ty == 3 || x.ty == 4 || x.ty == 5)
      let popR := s.popArrived i fun _ x => s.forMe i x && x.ty == 2
      let popA := s.popArrived i fun _ x => s.forMe i x && (x.ty == 3 || x.ty == 4)
      let popF := s.popArrived i fun _ x => !s.forMe i x
      let answers (c : Instr) (u : State) (y : Reply) : Prop := ∃ t, exec c s = .next t ∧ t.net.replies = u.net.replies ++ [y]
      (popW = none → exec (.straitWriteArrival i) s = .next s) ∧ (popR = none → exec (.straitReadArrival i) s = .next s) ∧
      (popA = none → exec (.straitResponseArrival i) s = .next s) ∧ (popF = none → exec (.relayForward i) s = .next s) ∧
      (∀ c x u, popW = some (c, x, u) →
        (u.archOfPort i = none → exec (.straitWriteArrival i) s = .next u) ∧
        (∀ arch a, u.archOfPort i = some (arch, a) →
          let told (st : Status) (rd : Bool) : Reply := ⟨u.replyOf arch x st rd [], i, arch⟩
          (∀ k, u.keptOf arch x = some k → exec (.straitWriteArrival i) s = .next
            { u with net := { u.net with replies := u.net.replies ++ [⟨k.reply, i, arch⟩] } }) ∧
          (∀ st rd, u.keptOf arch x = none → u.checkXfer i x = .error (st, rd) → answers (.straitWriteArrival i) u (told st rd)) ∧
          (∀ tg, u.keptOf arch x = none → u.checkXfer i x = .ok tg →
            (x.eng = 2 → ∃ t, exec (.straitWriteArrival i) s = .next t ∧ t.net.replies = u.net.replies ++ [told .done false] ∧
              t.net.pieceIn = u.net.pieceIn ++ [(i, arch, State.pieceOf x)] ∧ t.holms = s.holms ∧ t.mem = s.mem) ∧
            (x.eng = 1 → tg ≠ .transit → exec (.straitWriteArrival i) s = .next
              { u with net := { u.net with shuttleIn := u.net.shuttleIn ++ [(i, arch, x)] } }) ∧
            (x.eng = 0 → ∀ st, u.land tg x.data = .error st → answers (.straitWriteArrival i) u (told st false)) ∧
            (x.eng = 0 → ∀ v, u.land tg x.data = .ok v → ∃ t, exec (.straitWriteArrival i) s = .next t ∧
              t.net.replies = u.net.replies ++ [told .done false] ∧ t.mem = v.mem ∧ t.kv = v.kv)))) ∧
      (∀ c x u, popR = some (c, x, u) →
        (u.archOfPort i = none → exec (.straitReadArrival i) s = .next u) ∧
        (∀ arch a, u.archOfPort i = some (arch, a) →
          (∀ k, u.keptOf arch x = some k → exec (.straitReadArrival i) s = .next
            { u with net := { u.net with replies := u.net.replies ++ [⟨k.reply, i, arch⟩] } }) ∧
          (∀ st rd, u.keptOf arch x = none → u.checkXfer i x = .error (st, rd) →
            answers (.straitReadArrival i) u ⟨u.replyOf arch x st rd [], i, arch⟩) ∧
          (∀ tg bs, u.keptOf arch x = none → u.checkXfer i x = .ok tg → u.fetch tg x.len = .ok bs →
            ∃ t, exec (.straitReadArrival i) s = .next t ∧ t.net.replies = u.net.replies ++ [⟨u.replyOf arch x .done false bs, i, arch⟩] ∧
              t.holms = s.holms ∧ t.mem = s.mem ∧ t.kv = s.kv))) ∧
      (∀ c x u, popA = some (c, x, u) →
        let hit := u.net.sent.find? fun t => t.x.xid == x.xid && t.x.dst == x.src && t.x.src == x.dst && some t.arch == (u.archOfPort i).map (·.1)
        (hit = none → exec (.straitResponseArrival i) s = .next u) ∧
        (∀ e, hit = some e →
          (x.ty = 3 → ∃ t, exec (.straitResponseArrival i) s = .next t ∧ t.net.sent = u.net.sent.erase e) ∧
          (x.ty = 4 → Status.ofCode? x.status = none → exec (.straitResponseArrival i) s = .next u) ∧
          (∀ st, x.ty = 4 → Status.ofCode? x.status = some st →
            let again := st = .staleRole ∧ x.redirect = true ∧ e.redirects + 1 < 16
            (again → exec (.straitResponseArrival i) s = .next (u.modSent e { e with redirects := e.redirects + 1, degraded := true })) ∧
            (¬ again → ∃ t, exec (.straitResponseArrival i) s = .next t ∧ t.net.sent = u.net.sent.erase e)))) ∧
      (∀ c x u, popF = some (c, x, u) →
        let drops : Prop := ∃ t, exec (.relayForward i) s = .next t ∧ t.net.relayDrops = s.net.relayDrops + 1 ∧ t.net.sent = s.net.sent ∧
          t.holms = s.holms ∧ t.mem = s.mem
        (u.archOfPort i = none → drops) ∧
        (∀ arch a, u.archOfPort i = some (arch, a) →
          let fit := x.relay ≠ 0 ∧ a.members.get? x.src ≠ none ∧ a.members.get? x.dst ≠ none
          (¬ fit → drops) ∧ (fit → u.relayPort i arch a x = none → drops) ∧
          (∀ j, fit → u.relayPort i arch a x = some j → exec (.relayForward i) s = .next
            (({ u with free := u.free + 1 } : State).leave j c (State.withRelay x (x.relay - 1))))))) ∧
    (s.net.replies = [] → exec .transferReplySend s = .next s) ∧
    (∀ r rest, s.net.replies = r :: rest →
      let u : State := { s with net := { s.net with replies := rest } }
      (u.portFor r.arch [r.port] 0 = none → exec .transferReplySend s = .next u) ∧
      (∀ j v, u.portFor r.arch [r.port] 0 = some (j, v) → exec .transferReplySend s = .next (u.leave j 2 (State.withRelay r.x v)))) ∧
    (∀ xid,
      let hit := s.net.sent.find? fun t => t.x.xid == xid && t.redirects != 0
      (hit = none → exec (.redirectResend xid) s = .next s) ∧
      (∀ e, hit = some e →
        let here := ∃ q ∈ s.net.ports, ∃ l ∈ q.leaving, l.x = e.x
        (here → exec (.redirectResend xid) s = .next s) ∧
        (¬ here → s.portFor e.arch e.ports 0 = none → exec (.redirectResend xid) s = .next (s.modSent e { e with port := 32 })) ∧
        (∀ j v, ¬ here → s.portFor e.arch e.ports 0 = some (j, v) → exec (.redirectResend xid) s = .next
          (({ s.modSent e { e with x := State.withRelay e.x v, port := j } with free := s.free + 1 } : State).leave j e.chan (State.withRelay e.x v)))))
end

