-- ==== Sys2Proof/Laws/Maps.lean ====
section
/-! SUPPORT. What the containers do: a map read after a write, and byte memory's canonical form, which every operation keeps. -/

namespace Sys2Proof.Machine

namespace AMap

variable {α : Type}

theorem get?_set_self (m : AMap α) (k : Nat) (v : α) : (m.set k v).get? k = some v := by
  induction m with
  | nil => simp [set, get?]
  | cons x t ih =>
    obtain ⟨a, w⟩ := x
    simp only [set]
    split
    · simp [get?]
    · split
      · simp [get?]
      · rename_i h
        have : ¬ a = k := fun e => h e.symm
        simp [get?, this, ih]

theorem get?_set_ne (m : AMap α) {k j : Nat} (v : α) (h : j ≠ k) : (m.set k v).get? j = m.get? j := by
  induction m with
  | nil => simp [set, get?, Ne.symm h]
  | cons x t ih =>
    obtain ⟨a, w⟩ := x
    simp only [set]
    split
    · simp [get?, Ne.symm h]
    · split
      · rename_i e
        subst e
        simp [get?, Ne.symm h]
      · simp only [get?, ih]

/-- Reading a map after one write. -/
theorem get?_set (m : AMap α) (k j : Nat) (v : α) : (m.set k v).get? j = if j = k then some v else m.get? j := by
  split
  · rename_i h
    rw [h, get?_set_self]
  · rename_i h
    rw [get?_set_ne m v h]

@[simp] theorem getD_set_self (m : AMap α) (k : Nat) (v d : α) : (m.set k v).getD k d = v := by
  simp [AMap.getD, get?_set_self]

theorem getD_set_ne (m : AMap α) {k j : Nat} (v d : α) (h : j ≠ k) : (m.set k v).getD j d = m.getD j d := by
  simp [AMap.getD, get?_set_ne m v h]

/-- The second of two writes of one key stands. -/
theorem set_set (m : AMap α) (k : Nat) (v w : α) : (m.set k v).set k w = m.set k w := by
  induction m with
  | nil => simp [set]
  | cons x t ih =>
    obtain ⟨a, u⟩ := x
    by_cases h1 : k < a
    · simp [set, h1]
    · by_cases h2 : k = a
      · subst h2
        simp [set]
      · simp [set, h1, h2, ih]

/-- Reading a map after one entry has changed. -/
theorem get?_modify (m : AMap α) (k j : Nat) (f : α → α) :
    (m.modify k f).get? j = if j = k then (m.get? j).map f else m.get? j := by
  induction m with
  | nil => simp [modify, get?]
  | cons x t ih =>
    obtain ⟨a, w⟩ := x
    simp only [modify, List.map_cons, get?] at ih ⊢
    by_cases h1 : a = k
    · subst h1
      by_cases h2 : a = j
      · subst h2
        simp
      · simp only [if_true, h2, if_false] at ih ⊢
        exact ih
    · by_cases h2 : a = j
      · subst h2
        simp [h1]
      · simp only [h1, h2, if_false] at ih ⊢
        exact ih

/-- An entry deleted is gone; the others stay. -/
theorem get?_del (m : AMap α) (k j : Nat) : (m.del k).get? j = if j = k then none else m.get? j := by
  induction m with
  | nil => simp [del, get?]
  | cons x t ih =>
    obtain ⟨a, w⟩ := x
    simp only [del]
    by_cases h1 : a = k
    · subst h1
      simp only [if_true, ih, get?]
      by_cases h2 : j = a
      · simp [h2]
      · simp [h2, Ne.symm h2]
    · simp only [h1, if_false, get?, ih]
      by_cases h2 : a = j
      · subst h2
        simp [h1]
      · simp [h2]

end AMap

theorem setAt_length {α : Type} (l : List α) (i : Nat) (v : α) : (setAt l i v).length = l.length := by
  induction l generalizing i with
  | nil => simp [setAt]
  | cons x t ih => cases i <;> simp [setAt, ih]

theorem modAt_length {α : Type} (l : List α) (i : Nat) (f : α → α) : (modAt l i f).length = l.length := by
  induction l generalizing i with
  | nil => simp [modAt]
  | cons x t ih => cases i <;> simp [modAt, ih]

/-- An element of a list after one has been replaced. -/
theorem getD_setAt {α : Type} (l : List α) (i j : Nat) (v d : α) :
    (setAt l i v).getD j d = if j = i ∧ i < l.length then v else l.getD j d := by
  induction l generalizing i j with
  | nil => simp [setAt]
  | cons x t ih =>
    cases i with
    | zero => cases j <;> simp [setAt]
    | succ i =>
      cases j with
      | zero => simp [setAt]
      | succ j =>
        have := ih i j
        simp only [List.getD_cons_succ, setAt, List.length_cons, Nat.add_right_cancel_iff, Nat.add_lt_add_iff_right] at this ⊢
        exact this

/-- An element of a list after one has changed. -/
theorem getD_modAt {α : Type} (l : List α) (i j : Nat) (f : α → α) (d : α) :
    (modAt l i f).getD j d = if j = i ∧ i < l.length then f (l.getD j d) else l.getD j d := by
  induction l generalizing i j with
  | nil => simp [modAt]
  | cons x t ih =>
    cases i with
    | zero => cases j <;> simp [modAt]
    | succ i =>
      cases j with
      | zero => simp [modAt]
      | succ j =>
        have := ih i j
        simp only [List.getD_cons_succ, modAt, List.length_cons, Nat.add_right_cancel_iff, Nat.add_lt_add_iff_right] at this ⊢
        exact this

namespace Mem

/-! ### Reading after writing -/

theorem wfFrom_mono {m : Mem} {lo hi : Nat} (h : lo ≤ hi) : wfFrom hi m = true → wfFrom lo m = true := by
  cases m with
  | nil => simp [wfFrom]
  | cons x t =>
    obtain ⟨k, v⟩ := x
    simp only [wfFrom, Bool.and_eq_true, decide_eq_true_eq]
    rintro ⟨⟨h1, h2⟩, h3⟩
    exact ⟨⟨by omega, h2⟩, h3⟩

theorem get_below {m : Mem} {lo a : Nat} (h : wfFrom lo m = true) (ha : a < lo) : m.get a = blank := by
  induction m generalizing lo with
  | nil => rfl
  | cons x t ih =>
    obtain ⟨k, v⟩ := x
    simp only [wfFrom, Bool.and_eq_true, decide_eq_true_eq] at h
    have hk : ¬ k = a := by omega
    simp only [get, hk, if_false]
    exact ih h.2 (by omega)

theorem wfFrom_set {m : Mem} {lo a : Nat} (v : BitVec 8) (h : wfFrom lo m = true) (ha : lo ≤ a) : wfFrom lo (m.set a v) = true := by
  induction m generalizing lo with
  | nil =>
    simp only [set]
    split
    · rfl
    · rename_i hv
      simp [wfFrom, ha, hv]
  | cons x t ih =>
    obtain ⟨k, w⟩ := x
    simp only [wfFrom, Bool.and_eq_true, decide_eq_true_eq] at h
    obtain ⟨⟨h1, h2⟩, h3⟩ := h
    simp only [set]
    split
    · rename_i hak
      split
      · simp only [wfFrom, Bool.and_eq_true, decide_eq_true_eq]
        exact ⟨⟨h1, h2⟩, h3⟩
      · rename_i hv
        simp only [wfFrom, Bool.and_eq_true, decide_eq_true_eq]
        exact ⟨⟨ha, hv⟩, ⟨by omega, h2⟩, h3⟩
    · split
      · rename_i hak
        subst hak
        split
        · exact wfFrom_mono (by omega) h3
        · rename_i hv
          simp only [wfFrom, Bool.and_eq_true, decide_eq_true_eq]
          exact ⟨⟨ha, hv⟩, h3⟩
      · rename_i h4 h5
        simp only [wfFrom, Bool.and_eq_true, decide_eq_true_eq]
        exact ⟨⟨h1, h2⟩, ih h3 (by omega)⟩

/-- A written byte reads back, and every other byte reads as before. -/
theorem get_set {m : Mem} (hm : m.wf = true) (a b : Nat) (v : BitVec 8) :
    (m.set a v).get b = if b = a then v else m.get b := by
  have main : ∀ (m : Mem) (lo : Nat), wfFrom lo m = true → (m.set a v).get b = if b = a then v else m.get b := by
    intro m
    induction m with
    | nil =>
      intro lo _
      by_cases hv : v = blank
      · subst hv
        simp [set, get]
      · simp only [set, hv, if_false, get]
        by_cases e : a = b
        · simp [e]
        · simp [e, Ne.symm e]
    | cons x t ih =>
      obtain ⟨k, w⟩ := x
      intro lo h
      have h' := h
      simp only [wfFrom, Bool.and_eq_true, decide_eq_true_eq] at h
      obtain ⟨⟨h1, h2⟩, h3⟩ := h
      simp only [set]
      by_cases hak : a < k
      · simp only [hak, if_true]
        by_cases hv : v = blank
        · simp only [hv, if_true]
          by_cases e : b = a
          · subst e
            rw [if_pos rfl]
            have hk : wfFrom k ((k, w) :: t) = true := by
              simp only [wfFrom, Bool.and_eq_true, decide_eq_true_eq]
              exact ⟨⟨Nat.le_refl _, h2⟩, h3⟩
            exact get_below hk hak
          · simp [e]
        · simp only [hv, if_false, get]
          by_cases e : a = b
          · simp [e]
          · simp [e, Ne.symm e]
      · simp only [hak, if_false]
        by_cases hka : a = k
        · subst hka
          simp only [if_true]
          by_cases hv : v = blank
          · simp only [hv, if_true, get]
            by_cases e : b = a
            · subst e
              rw [if_pos rfl]
              exact get_below h3 (by omega)
            · simp [e, Ne.symm e]
          · simp only [hv, if_false, get]
            by_cases e : a = b
            · simp [e]
            · simp [e, Ne.symm e]
        · simp only [hka, if_false, get]
          by_cases e : k = b
          · subst e
            simp [Ne.symm hka]
          · simp only [e, if_false]
            exact ih _ h3
  exact main m 0 hm

/-! ### The canonical form -/

theorem wf_nil : wf [] = true := rfl

theorem wf_set {m : Mem} (h : m.wf = true) (a : Nat) (v : BitVec 8) : (m.set a v).wf = true := wfFrom_set v h (Nat.zero_le _)

theorem wf_write {m : Mem} (h : m.wf = true) (a : Nat) (bs : List Nat) : (m.write a bs).wf = true := by
  induction bs generalizing m a with
  | nil => exact h
  | cons b bs ih => exact ih (wf_set h a _) _

theorem wf_writeLE {m : Mem} (h : m.wf = true) (a v n : Nat) : (m.writeLE a v n).wf = true := by
  induction n generalizing m a v with
  | zero => exact h
  | succ n ih => exact ih (wf_set h a _) _ _

theorem wfFrom_filter {m : Mem} {lo : Nat} (f : Host.Cell → Bool) (h : wfFrom lo m = true) : wfFrom lo (m.filter f) = true := by
  induction m generalizing lo with
  | nil => exact h
  | cons x t ih =>
    obtain ⟨k, v⟩ := x
    simp only [wfFrom, Bool.and_eq_true, decide_eq_true_eq] at h
    obtain ⟨⟨h1, h2⟩, h3⟩ := h
    simp only [List.filter_cons]
    split
    · simp only [wfFrom, Bool.and_eq_true, decide_eq_true_eq]
      exact ⟨⟨h1, h2⟩, ih h3⟩
    · exact wfFrom_mono (by omega) (ih h3)

theorem wf_clear {m : Mem} (h : m.wf = true) (lo hi : Nat) : (m.clear lo hi).wf = true := wfFrom_filter _ h

/-- Bytes stored leave every byte outside their range as it was. -/
theorem get_write_outside {m : Mem} (h : m.wf = true) (a b : Nat) (bs : List Nat) (hb : b < a ∨ a + bs.length ≤ b) :
    (m.write a bs).get b = m.get b := by
  induction bs generalizing m a with
  | nil => rfl
  | cons x bs ih =>
    have hl : (x :: bs).length = bs.length + 1 := rfl
    have e : b ≠ a := by omega
    simp only [write]
    rw [ih (wf_set h a _) (a + 1) (by omega), get_set h, if_neg e]

/-- A number stored leaves every byte outside its range as it was. -/
theorem get_writeLE_outside {m : Mem} (h : m.wf = true) (a b v n : Nat) (hb : b < a ∨ a + n ≤ b) :
    (m.writeLE a v n).get b = m.get b := by
  induction n generalizing m a v with
  | zero => rfl
  | succ n ih =>
    have e : b ≠ a := by omega
    simp only [writeLE]
    rw [ih (wf_set h a _) (a + 1) (v / 256) (by omega), get_set h, if_neg e]

/-- Bytes stored read back. -/
theorem read_write {m : Mem} (h : m.wf = true) (a : Nat) (bs : List Nat) (hb : ∀ x ∈ bs, x < 256) :
    (m.write a bs).read a bs.length = bs := by
  induction bs generalizing m a with
  | nil => rfl
  | cons x bs ih =>
    have hx : x < 256 := hb x (by simp)
    simp only [write, List.length_cons, read]
    rw [get_write_outside (wf_set h a _) (a + 1) a bs (by omega), get_set h, if_pos rfl,
      ih (wf_set h a _) (a + 1) fun y hy => hb y (by simp [hy])]
    simp [Nat.mod_eq_of_lt hx]

end Mem

end Sys2Proof.Machine
end

