-- ==== Sys2Proof/Laws/State.lean ====
section
/-! SUPPORT. What each named update leaves of the state: one lemma for each field it does not write, and what a unit reads as after it. -/

namespace Sys2Proof.Machine

namespace State

/-! ### setHolm -/

@[simp] theorem setHolm_part (s : State) (p : Nat) (h : Holm) : (s.setHolm p h).part = s.part := rfl
@[simp] theorem setHolm_remap (s : State) (p : Nat) (h : Holm) : (s.setHolm p h).remap = s.remap := rfl
@[simp] theorem setHolm_roleCause (s : State) (p : Nat) (h : Holm) : (s.setHolm p h).roleCause = s.roleCause := rfl
@[simp] theorem setHolm_reqs (s : State) (p : Nat) (h : Holm) : (s.setHolm p h).reqs = s.reqs := rfl
@[simp] theorem setHolm_nextReq (s : State) (p : Nat) (h : Holm) : (s.setHolm p h).nextReq = s.nextReq := rfl
@[simp] theorem setHolm_mem (s : State) (p : Nat) (h : Holm) : (s.setHolm p h).mem = s.mem := rfl
@[simp] theorem setHolm_ten (s : State) (p : Nat) (h : Holm) : (s.setHolm p h).ten = s.ten := rfl
@[simp] theorem setHolm_kv (s : State) (p : Nat) (h : Holm) : (s.setHolm p h).kv = s.kv := rfl
@[simp] theorem setHolm_net (s : State) (p : Nat) (h : Holm) : (s.setHolm p h).net = s.net := rfl
@[simp] theorem setHolm_isth (s : State) (p : Nat) (h : Holm) : (s.setHolm p h).isth = s.isth := rfl
@[simp] theorem setHolm_flt (s : State) (p : Nat) (h : Holm) : (s.setHolm p h).flt = s.flt := rfl
@[simp] theorem setHolm_pow (s : State) (p : Nat) (h : Holm) : (s.setHolm p h).pow = s.pow := rfl
@[simp] theorem setHolm_boot (s : State) (p : Nat) (h : Holm) : (s.setHolm p h).boot = s.boot := rfl
@[simp] theorem setHolm_free (s : State) (p : Nat) (h : Holm) : (s.setHolm p h).free = s.free := rfl
@[simp] theorem setHolm_pending (s : State) (p : Nat) (h : Holm) : (s.setHolm p h).pending = s.pending := rfl

/-! ### modHolm -/

@[simp] theorem modHolm_part (s : State) (p : Nat) (f : Holm → Holm) : (s.modHolm p f).part = s.part := rfl
@[simp] theorem modHolm_remap (s : State) (p : Nat) (f : Holm → Holm) : (s.modHolm p f).remap = s.remap := rfl
@[simp] theorem modHolm_roleCause (s : State) (p : Nat) (f : Holm → Holm) : (s.modHolm p f).roleCause = s.roleCause := rfl
@[simp] theorem modHolm_reqs (s : State) (p : Nat) (f : Holm → Holm) : (s.modHolm p f).reqs = s.reqs := rfl
@[simp] theorem modHolm_nextReq (s : State) (p : Nat) (f : Holm → Holm) : (s.modHolm p f).nextReq = s.nextReq := rfl
@[simp] theorem modHolm_mem (s : State) (p : Nat) (f : Holm → Holm) : (s.modHolm p f).mem = s.mem := rfl
@[simp] theorem modHolm_ten (s : State) (p : Nat) (f : Holm → Holm) : (s.modHolm p f).ten = s.ten := rfl
@[simp] theorem modHolm_kv (s : State) (p : Nat) (f : Holm → Holm) : (s.modHolm p f).kv = s.kv := rfl
@[simp] theorem modHolm_net (s : State) (p : Nat) (f : Holm → Holm) : (s.modHolm p f).net = s.net := rfl
@[simp] theorem modHolm_isth (s : State) (p : Nat) (f : Holm → Holm) : (s.modHolm p f).isth = s.isth := rfl
@[simp] theorem modHolm_flt (s : State) (p : Nat) (f : Holm → Holm) : (s.modHolm p f).flt = s.flt := rfl
@[simp] theorem modHolm_pow (s : State) (p : Nat) (f : Holm → Holm) : (s.modHolm p f).pow = s.pow := rfl
@[simp] theorem modHolm_boot (s : State) (p : Nat) (f : Holm → Holm) : (s.modHolm p f).boot = s.boot := rfl
@[simp] theorem modHolm_free (s : State) (p : Nat) (f : Holm → Holm) : (s.modHolm p f).free = s.free := rfl
@[simp] theorem modHolm_pending (s : State) (p : Nat) (f : Holm → Holm) : (s.modHolm p f).pending = s.pending := rfl

/-! ### setPort -/

@[simp] theorem setPort_part (s : State) (i : Nat) (q : Port) : (s.setPort i q).part = s.part := rfl
@[simp] theorem setPort_holms (s : State) (i : Nat) (q : Port) : (s.setPort i q).holms = s.holms := rfl
@[simp] theorem setPort_remap (s : State) (i : Nat) (q : Port) : (s.setPort i q).remap = s.remap := rfl
@[simp] theorem setPort_roleCause (s : State) (i : Nat) (q : Port) : (s.setPort i q).roleCause = s.roleCause := rfl
@[simp] theorem setPort_reqs (s : State) (i : Nat) (q : Port) : (s.setPort i q).reqs = s.reqs := rfl
@[simp] theorem setPort_nextReq (s : State) (i : Nat) (q : Port) : (s.setPort i q).nextReq = s.nextReq := rfl
@[simp] theorem setPort_mem (s : State) (i : Nat) (q : Port) : (s.setPort i q).mem = s.mem := rfl
@[simp] theorem setPort_ten (s : State) (i : Nat) (q : Port) : (s.setPort i q).ten = s.ten := rfl
@[simp] theorem setPort_kv (s : State) (i : Nat) (q : Port) : (s.setPort i q).kv = s.kv := rfl
@[simp] theorem setPort_isth (s : State) (i : Nat) (q : Port) : (s.setPort i q).isth = s.isth := rfl
@[simp] theorem setPort_flt (s : State) (i : Nat) (q : Port) : (s.setPort i q).flt = s.flt := rfl
@[simp] theorem setPort_pow (s : State) (i : Nat) (q : Port) : (s.setPort i q).pow = s.pow := rfl
@[simp] theorem setPort_boot (s : State) (i : Nat) (q : Port) : (s.setPort i q).boot = s.boot := rfl
@[simp] theorem setPort_free (s : State) (i : Nat) (q : Port) : (s.setPort i q).free = s.free := rfl
@[simp] theorem setPort_pending (s : State) (i : Nat) (q : Port) : (s.setPort i q).pending = s.pending := rfl

/-! ### modPort -/

@[simp] theorem modPort_part (s : State) (i : Nat) (f : Port → Port) : (s.modPort i f).part = s.part := rfl
@[simp] theorem modPort_holms (s : State) (i : Nat) (f : Port → Port) : (s.modPort i f).holms = s.holms := rfl
@[simp] theorem modPort_remap (s : State) (i : Nat) (f : Port → Port) : (s.modPort i f).remap = s.remap := rfl
@[simp] theorem modPort_roleCause (s : State) (i : Nat) (f : Port → Port) : (s.modPort i f).roleCause = s.roleCause := rfl
@[simp] theorem modPort_reqs (s : State) (i : Nat) (f : Port → Port) : (s.modPort i f).reqs = s.reqs := rfl
@[simp] theorem modPort_nextReq (s : State) (i : Nat) (f : Port → Port) : (s.modPort i f).nextReq = s.nextReq := rfl
@[simp] theorem modPort_mem (s : State) (i : Nat) (f : Port → Port) : (s.modPort i f).mem = s.mem := rfl
@[simp] theorem modPort_ten (s : State) (i : Nat) (f : Port → Port) : (s.modPort i f).ten = s.ten := rfl
@[simp] theorem modPort_kv (s : State) (i : Nat) (f : Port → Port) : (s.modPort i f).kv = s.kv := rfl
@[simp] theorem modPort_isth (s : State) (i : Nat) (f : Port → Port) : (s.modPort i f).isth = s.isth := rfl
@[simp] theorem modPort_flt (s : State) (i : Nat) (f : Port → Port) : (s.modPort i f).flt = s.flt := rfl
@[simp] theorem modPort_pow (s : State) (i : Nat) (f : Port → Port) : (s.modPort i f).pow = s.pow := rfl
@[simp] theorem modPort_boot (s : State) (i : Nat) (f : Port → Port) : (s.modPort i f).boot = s.boot := rfl
@[simp] theorem modPort_free (s : State) (i : Nat) (f : Port → Port) : (s.modPort i f).free = s.free := rfl
@[simp] theorem modPort_pending (s : State) (i : Nat) (f : Port → Port) : (s.modPort i f).pending = s.pending := rfl

/-! ### modWork -/

@[simp] theorem modWork_part (s : State) (w : Nat) (f : Work → Work) : (s.modWork w f).part = s.part := rfl
@[simp] theorem modWork_holms (s : State) (w : Nat) (f : Work → Work) : (s.modWork w f).holms = s.holms := rfl
@[simp] theorem modWork_remap (s : State) (w : Nat) (f : Work → Work) : (s.modWork w f).remap = s.remap := rfl
@[simp] theorem modWork_roleCause (s : State) (w : Nat) (f : Work → Work) : (s.modWork w f).roleCause = s.roleCause := rfl
@[simp] theorem modWork_reqs (s : State) (w : Nat) (f : Work → Work) : (s.modWork w f).reqs = s.reqs := rfl
@[simp] theorem modWork_nextReq (s : State) (w : Nat) (f : Work → Work) : (s.modWork w f).nextReq = s.nextReq := rfl
@[simp] theorem modWork_mem (s : State) (w : Nat) (f : Work → Work) : (s.modWork w f).mem = s.mem := rfl
@[simp] theorem modWork_ten (s : State) (w : Nat) (f : Work → Work) : (s.modWork w f).ten = s.ten := rfl
@[simp] theorem modWork_kv (s : State) (w : Nat) (f : Work → Work) : (s.modWork w f).kv = s.kv := rfl
@[simp] theorem modWork_net (s : State) (w : Nat) (f : Work → Work) : (s.modWork w f).net = s.net := rfl
@[simp] theorem modWork_flt (s : State) (w : Nat) (f : Work → Work) : (s.modWork w f).flt = s.flt := rfl
@[simp] theorem modWork_pow (s : State) (w : Nat) (f : Work → Work) : (s.modWork w f).pow = s.pow := rfl
@[simp] theorem modWork_boot (s : State) (w : Nat) (f : Work → Work) : (s.modWork w f).boot = s.boot := rfl
@[simp] theorem modWork_free (s : State) (w : Nat) (f : Work → Work) : (s.modWork w f).free = s.free := rfl
@[simp] theorem modWork_pending (s : State) (w : Nat) (f : Work → Work) : (s.modWork w f).pending = s.pending := rfl

/-! ### setQue -/

@[simp] theorem setQue_part (s : State) (fn q : Nat) (x : Que) : (s.setQue fn q x).part = s.part := rfl
@[simp] theorem setQue_holms (s : State) (fn q : Nat) (x : Que) : (s.setQue fn q x).holms = s.holms := rfl
@[simp] theorem setQue_remap (s : State) (fn q : Nat) (x : Que) : (s.setQue fn q x).remap = s.remap := rfl
@[simp] theorem setQue_roleCause (s : State) (fn q : Nat) (x : Que) : (s.setQue fn q x).roleCause = s.roleCause := rfl
@[simp] theorem setQue_reqs (s : State) (fn q : Nat) (x : Que) : (s.setQue fn q x).reqs = s.reqs := rfl
@[simp] theorem setQue_nextReq (s : State) (fn q : Nat) (x : Que) : (s.setQue fn q x).nextReq = s.nextReq := rfl
@[simp] theorem setQue_mem (s : State) (fn q : Nat) (x : Que) : (s.setQue fn q x).mem = s.mem := rfl
@[simp] theorem setQue_ten (s : State) (fn q : Nat) (x : Que) : (s.setQue fn q x).ten = s.ten := rfl
@[simp] theorem setQue_kv (s : State) (fn q : Nat) (x : Que) : (s.setQue fn q x).kv = s.kv := rfl
@[simp] theorem setQue_net (s : State) (fn q : Nat) (x : Que) : (s.setQue fn q x).net = s.net := rfl
@[simp] theorem setQue_flt (s : State) (fn q : Nat) (x : Que) : (s.setQue fn q x).flt = s.flt := rfl
@[simp] theorem setQue_pow (s : State) (fn q : Nat) (x : Que) : (s.setQue fn q x).pow = s.pow := rfl
@[simp] theorem setQue_boot (s : State) (fn q : Nat) (x : Que) : (s.setQue fn q x).boot = s.boot := rfl
@[simp] theorem setQue_free (s : State) (fn q : Nat) (x : Que) : (s.setQue fn q x).free = s.free := rfl
@[simp] theorem setQue_pending (s : State) (fn q : Nat) (x : Que) : (s.setQue fn q x).pending = s.pending := rfl

/-! ### modReq -/

@[simp] theorem modReq_part (s : State) (i : Nat) (f : NetReq → NetReq) : (s.modReq i f).part = s.part := rfl
@[simp] theorem modReq_holms (s : State) (i : Nat) (f : NetReq → NetReq) : (s.modReq i f).holms = s.holms := rfl
@[simp] theorem modReq_remap (s : State) (i : Nat) (f : NetReq → NetReq) : (s.modReq i f).remap = s.remap := rfl
@[simp] theorem modReq_roleCause (s : State) (i : Nat) (f : NetReq → NetReq) : (s.modReq i f).roleCause = s.roleCause := rfl
@[simp] theorem modReq_nextReq (s : State) (i : Nat) (f : NetReq → NetReq) : (s.modReq i f).nextReq = s.nextReq := rfl
@[simp] theorem modReq_mem (s : State) (i : Nat) (f : NetReq → NetReq) : (s.modReq i f).mem = s.mem := rfl
@[simp] theorem modReq_ten (s : State) (i : Nat) (f : NetReq → NetReq) : (s.modReq i f).ten = s.ten := rfl
@[simp] theorem modReq_kv (s : State) (i : Nat) (f : NetReq → NetReq) : (s.modReq i f).kv = s.kv := rfl
@[simp] theorem modReq_net (s : State) (i : Nat) (f : NetReq → NetReq) : (s.modReq i f).net = s.net := rfl
@[simp] theorem modReq_isth (s : State) (i : Nat) (f : NetReq → NetReq) : (s.modReq i f).isth = s.isth := rfl
@[simp] theorem modReq_flt (s : State) (i : Nat) (f : NetReq → NetReq) : (s.modReq i f).flt = s.flt := rfl
@[simp] theorem modReq_pow (s : State) (i : Nat) (f : NetReq → NetReq) : (s.modReq i f).pow = s.pow := rfl
@[simp] theorem modReq_boot (s : State) (i : Nat) (f : NetReq → NetReq) : (s.modReq i f).boot = s.boot := rfl
@[simp] theorem modReq_free (s : State) (i : Nat) (f : NetReq → NetReq) : (s.modReq i f).free = s.free := rfl
@[simp] theorem modReq_pending (s : State) (i : Nat) (f : NetReq → NetReq) : (s.modReq i f).pending = s.pending := rfl

/-! ### modPow -/

@[simp] theorem modPow_part (s : State) (f : PowerState → PowerState) : (s.modPow f).part = s.part := rfl
@[simp] theorem modPow_holms (s : State) (f : PowerState → PowerState) : (s.modPow f).holms = s.holms := rfl
@[simp] theorem modPow_remap (s : State) (f : PowerState → PowerState) : (s.modPow f).remap = s.remap := rfl
@[simp] theorem modPow_roleCause (s : State) (f : PowerState → PowerState) : (s.modPow f).roleCause = s.roleCause := rfl
@[simp] theorem modPow_reqs (s : State) (f : PowerState → PowerState) : (s.modPow f).reqs = s.reqs := rfl
@[simp] theorem modPow_nextReq (s : State) (f : PowerState → PowerState) : (s.modPow f).nextReq = s.nextReq := rfl
@[simp] theorem modPow_mem (s : State) (f : PowerState → PowerState) : (s.modPow f).mem = s.mem := rfl
@[simp] theorem modPow_ten (s : State) (f : PowerState → PowerState) : (s.modPow f).ten = s.ten := rfl
@[simp] theorem modPow_kv (s : State) (f : PowerState → PowerState) : (s.modPow f).kv = s.kv := rfl
@[simp] theorem modPow_net (s : State) (f : PowerState → PowerState) : (s.modPow f).net = s.net := rfl
@[simp] theorem modPow_isth (s : State) (f : PowerState → PowerState) : (s.modPow f).isth = s.isth := rfl
@[simp] theorem modPow_flt (s : State) (f : PowerState → PowerState) : (s.modPow f).flt = s.flt := rfl
@[simp] theorem modPow_boot (s : State) (f : PowerState → PowerState) : (s.modPow f).boot = s.boot := rfl
@[simp] theorem modPow_free (s : State) (f : PowerState → PowerState) : (s.modPow f).free = s.free := rfl
@[simp] theorem modPow_pending (s : State) (f : PowerState → PowerState) : (s.modPow f).pending = s.pending := rfl

/-! ### modBoot -/

@[simp] theorem modBoot_part (s : State) (f : BootState → BootState) : (s.modBoot f).part = s.part := rfl
@[simp] theorem modBoot_holms (s : State) (f : BootState → BootState) : (s.modBoot f).holms = s.holms := rfl
@[simp] theorem modBoot_remap (s : State) (f : BootState → BootState) : (s.modBoot f).remap = s.remap := rfl
@[simp] theorem modBoot_roleCause (s : State) (f : BootState → BootState) : (s.modBoot f).roleCause = s.roleCause := rfl
@[simp] theorem modBoot_reqs (s : State) (f : BootState → BootState) : (s.modBoot f).reqs = s.reqs := rfl
@[simp] theorem modBoot_nextReq (s : State) (f : BootState → BootState) : (s.modBoot f).nextReq = s.nextReq := rfl
@[simp] theorem modBoot_mem (s : State) (f : BootState → BootState) : (s.modBoot f).mem = s.mem := rfl
@[simp] theorem modBoot_ten (s : State) (f : BootState → BootState) : (s.modBoot f).ten = s.ten := rfl
@[simp] theorem modBoot_kv (s : State) (f : BootState → BootState) : (s.modBoot f).kv = s.kv := rfl
@[simp] theorem modBoot_net (s : State) (f : BootState → BootState) : (s.modBoot f).net = s.net := rfl
@[simp] theorem modBoot_isth (s : State) (f : BootState → BootState) : (s.modBoot f).isth = s.isth := rfl
@[simp] theorem modBoot_flt (s : State) (f : BootState → BootState) : (s.modBoot f).flt = s.flt := rfl
@[simp] theorem modBoot_pow (s : State) (f : BootState → BootState) : (s.modBoot f).pow = s.pow := rfl
@[simp] theorem modBoot_free (s : State) (f : BootState → BootState) : (s.modBoot f).free = s.free := rfl
@[simp] theorem modBoot_pending (s : State) (f : BootState → BootState) : (s.modBoot f).pending = s.pending := rfl

/-! ### modTime -/

@[simp] theorem modTime_part (s : State) (f : RackTime → RackTime) : (s.modTime f).part = s.part := rfl
@[simp] theorem modTime_holms (s : State) (f : RackTime → RackTime) : (s.modTime f).holms = s.holms := rfl
@[simp] theorem modTime_remap (s : State) (f : RackTime → RackTime) : (s.modTime f).remap = s.remap := rfl
@[simp] theorem modTime_roleCause (s : State) (f : RackTime → RackTime) : (s.modTime f).roleCause = s.roleCause := rfl
@[simp] theorem modTime_reqs (s : State) (f : RackTime → RackTime) : (s.modTime f).reqs = s.reqs := rfl
@[simp] theorem modTime_nextReq (s : State) (f : RackTime → RackTime) : (s.modTime f).nextReq = s.nextReq := rfl
@[simp] theorem modTime_mem (s : State) (f : RackTime → RackTime) : (s.modTime f).mem = s.mem := rfl
@[simp] theorem modTime_ten (s : State) (f : RackTime → RackTime) : (s.modTime f).ten = s.ten := rfl
@[simp] theorem modTime_kv (s : State) (f : RackTime → RackTime) : (s.modTime f).kv = s.kv := rfl
@[simp] theorem modTime_isth (s : State) (f : RackTime → RackTime) : (s.modTime f).isth = s.isth := rfl
@[simp] theorem modTime_flt (s : State) (f : RackTime → RackTime) : (s.modTime f).flt = s.flt := rfl
@[simp] theorem modTime_pow (s : State) (f : RackTime → RackTime) : (s.modTime f).pow = s.pow := rfl
@[simp] theorem modTime_boot (s : State) (f : RackTime → RackTime) : (s.modTime f).boot = s.boot := rfl
@[simp] theorem modTime_free (s : State) (f : RackTime → RackTime) : (s.modTime f).free = s.free := rfl
@[simp] theorem modTime_pending (s : State) (f : RackTime → RackTime) : (s.modTime f).pending = s.pending := rfl

/-! ### modColl -/

@[simp] theorem modColl_part (s : State) (i : Nat) (f : Coll → Coll) : (s.modColl i f).part = s.part := rfl
@[simp] theorem modColl_holms (s : State) (i : Nat) (f : Coll → Coll) : (s.modColl i f).holms = s.holms := rfl
@[simp] theorem modColl_remap (s : State) (i : Nat) (f : Coll → Coll) : (s.modColl i f).remap = s.remap := rfl
@[simp] theorem modColl_roleCause (s : State) (i : Nat) (f : Coll → Coll) : (s.modColl i f).roleCause = s.roleCause := rfl
@[simp] theorem modColl_reqs (s : State) (i : Nat) (f : Coll → Coll) : (s.modColl i f).reqs = s.reqs := rfl
@[simp] theorem modColl_nextReq (s : State) (i : Nat) (f : Coll → Coll) : (s.modColl i f).nextReq = s.nextReq := rfl
@[simp] theorem modColl_mem (s : State) (i : Nat) (f : Coll → Coll) : (s.modColl i f).mem = s.mem := rfl
@[simp] theorem modColl_ten (s : State) (i : Nat) (f : Coll → Coll) : (s.modColl i f).ten = s.ten := rfl
@[simp] theorem modColl_kv (s : State) (i : Nat) (f : Coll → Coll) : (s.modColl i f).kv = s.kv := rfl
@[simp] theorem modColl_isth (s : State) (i : Nat) (f : Coll → Coll) : (s.modColl i f).isth = s.isth := rfl
@[simp] theorem modColl_flt (s : State) (i : Nat) (f : Coll → Coll) : (s.modColl i f).flt = s.flt := rfl
@[simp] theorem modColl_pow (s : State) (i : Nat) (f : Coll → Coll) : (s.modColl i f).pow = s.pow := rfl
@[simp] theorem modColl_boot (s : State) (i : Nat) (f : Coll → Coll) : (s.modColl i f).boot = s.boot := rfl
@[simp] theorem modColl_free (s : State) (i : Nat) (f : Coll → Coll) : (s.modColl i f).free = s.free := rfl
@[simp] theorem modColl_pending (s : State) (i : Nat) (f : Coll → Coll) : (s.modColl i f).pending = s.pending := rfl

/-! ### modRing -/

@[simp] theorem modRing_part (s : State) (i : Nat) (f : Ring → Ring) : (s.modRing i f).part = s.part := rfl
@[simp] theorem modRing_holms (s : State) (i : Nat) (f : Ring → Ring) : (s.modRing i f).holms = s.holms := rfl
@[simp] theorem modRing_remap (s : State) (i : Nat) (f : Ring → Ring) : (s.modRing i f).remap = s.remap := rfl
@[simp] theorem modRing_roleCause (s : State) (i : Nat) (f : Ring → Ring) : (s.modRing i f).roleCause = s.roleCause := rfl
@[simp] theorem modRing_reqs (s : State) (i : Nat) (f : Ring → Ring) : (s.modRing i f).reqs = s.reqs := rfl
@[simp] theorem modRing_nextReq (s : State) (i : Nat) (f : Ring → Ring) : (s.modRing i f).nextReq = s.nextReq := rfl
@[simp] theorem modRing_mem (s : State) (i : Nat) (f : Ring → Ring) : (s.modRing i f).mem = s.mem := rfl
@[simp] theorem modRing_ten (s : State) (i : Nat) (f : Ring → Ring) : (s.modRing i f).ten = s.ten := rfl
@[simp] theorem modRing_kv (s : State) (i : Nat) (f : Ring → Ring) : (s.modRing i f).kv = s.kv := rfl
@[simp] theorem modRing_isth (s : State) (i : Nat) (f : Ring → Ring) : (s.modRing i f).isth = s.isth := rfl
@[simp] theorem modRing_flt (s : State) (i : Nat) (f : Ring → Ring) : (s.modRing i f).flt = s.flt := rfl
@[simp] theorem modRing_pow (s : State) (i : Nat) (f : Ring → Ring) : (s.modRing i f).pow = s.pow := rfl
@[simp] theorem modRing_boot (s : State) (i : Nat) (f : Ring → Ring) : (s.modRing i f).boot = s.boot := rfl
@[simp] theorem modRing_free (s : State) (i : Nat) (f : Ring → Ring) : (s.modRing i f).free = s.free := rfl
@[simp] theorem modRing_pending (s : State) (i : Nat) (f : Ring → Ring) : (s.modRing i f).pending = s.pending := rfl

/-! ### modArch -/

@[simp] theorem modArch_part (s : State) (i : Nat) (f : Arch → Arch) : (s.modArch i f).part = s.part := rfl
@[simp] theorem modArch_holms (s : State) (i : Nat) (f : Arch → Arch) : (s.modArch i f).holms = s.holms := rfl
@[simp] theorem modArch_remap (s : State) (i : Nat) (f : Arch → Arch) : (s.modArch i f).remap = s.remap := rfl
@[simp] theorem modArch_roleCause (s : State) (i : Nat) (f : Arch → Arch) : (s.modArch i f).roleCause = s.roleCause := rfl
@[simp] theorem modArch_reqs (s : State) (i : Nat) (f : Arch → Arch) : (s.modArch i f).reqs = s.reqs := rfl
@[simp] theorem modArch_nextReq (s : State) (i : Nat) (f : Arch → Arch) : (s.modArch i f).nextReq = s.nextReq := rfl
@[simp] theorem modArch_mem (s : State) (i : Nat) (f : Arch → Arch) : (s.modArch i f).mem = s.mem := rfl
@[simp] theorem modArch_ten (s : State) (i : Nat) (f : Arch → Arch) : (s.modArch i f).ten = s.ten := rfl
@[simp] theorem modArch_kv (s : State) (i : Nat) (f : Arch → Arch) : (s.modArch i f).kv = s.kv := rfl
@[simp] theorem modArch_isth (s : State) (i : Nat) (f : Arch → Arch) : (s.modArch i f).isth = s.isth := rfl
@[simp] theorem modArch_flt (s : State) (i : Nat) (f : Arch → Arch) : (s.modArch i f).flt = s.flt := rfl
@[simp] theorem modArch_pow (s : State) (i : Nat) (f : Arch → Arch) : (s.modArch i f).pow = s.pow := rfl
@[simp] theorem modArch_boot (s : State) (i : Nat) (f : Arch → Arch) : (s.modArch i f).boot = s.boot := rfl
@[simp] theorem modArch_free (s : State) (i : Nat) (f : Arch → Arch) : (s.modArch i f).free = s.free := rfl
@[simp] theorem modArch_pending (s : State) (i : Nat) (f : Arch → Arch) : (s.modArch i f).pending = s.pending := rfl

/-! ### bumpEpochs -/

@[simp] theorem bumpEpochs_part (s : State) (l : List Nat) : (s.bumpEpochs l).part = s.part := rfl
@[simp] theorem bumpEpochs_holms (s : State) (l : List Nat) : (s.bumpEpochs l).holms = s.holms := rfl
@[simp] theorem bumpEpochs_roleCause (s : State) (l : List Nat) : (s.bumpEpochs l).roleCause = s.roleCause := rfl
@[simp] theorem bumpEpochs_reqs (s : State) (l : List Nat) : (s.bumpEpochs l).reqs = s.reqs := rfl
@[simp] theorem bumpEpochs_nextReq (s : State) (l : List Nat) : (s.bumpEpochs l).nextReq = s.nextReq := rfl
@[simp] theorem bumpEpochs_mem (s : State) (l : List Nat) : (s.bumpEpochs l).mem = s.mem := rfl
@[simp] theorem bumpEpochs_ten (s : State) (l : List Nat) : (s.bumpEpochs l).ten = s.ten := rfl
@[simp] theorem bumpEpochs_kv (s : State) (l : List Nat) : (s.bumpEpochs l).kv = s.kv := rfl
@[simp] theorem bumpEpochs_net (s : State) (l : List Nat) : (s.bumpEpochs l).net = s.net := rfl
@[simp] theorem bumpEpochs_isth (s : State) (l : List Nat) : (s.bumpEpochs l).isth = s.isth := rfl
@[simp] theorem bumpEpochs_flt (s : State) (l : List Nat) : (s.bumpEpochs l).flt = s.flt := rfl
@[simp] theorem bumpEpochs_pow (s : State) (l : List Nat) : (s.bumpEpochs l).pow = s.pow := rfl
@[simp] theorem bumpEpochs_boot (s : State) (l : List Nat) : (s.bumpEpochs l).boot = s.boot := rfl
@[simp] theorem bumpEpochs_free (s : State) (l : List Nat) : (s.bumpEpochs l).free = s.free := rfl
@[simp] theorem bumpEpochs_pending (s : State) (l : List Nat) : (s.bumpEpochs l).pending = s.pending := rfl

/-! ### setCause -/

@[simp] theorem setCause_part (s : State) (l : List Nat) (c : RoleCause) : (s.setCause l c).part = s.part := rfl
@[simp] theorem setCause_holms (s : State) (l : List Nat) (c : RoleCause) : (s.setCause l c).holms = s.holms := rfl
@[simp] theorem setCause_remap (s : State) (l : List Nat) (c : RoleCause) : (s.setCause l c).remap = s.remap := rfl
@[simp] theorem setCause_reqs (s : State) (l : List Nat) (c : RoleCause) : (s.setCause l c).reqs = s.reqs := rfl
@[simp] theorem setCause_nextReq (s : State) (l : List Nat) (c : RoleCause) : (s.setCause l c).nextReq = s.nextReq := rfl
@[simp] theorem setCause_mem (s : State) (l : List Nat) (c : RoleCause) : (s.setCause l c).mem = s.mem := rfl
@[simp] theorem setCause_ten (s : State) (l : List Nat) (c : RoleCause) : (s.setCause l c).ten = s.ten := rfl
@[simp] theorem setCause_kv (s : State) (l : List Nat) (c : RoleCause) : (s.setCause l c).kv = s.kv := rfl
@[simp] theorem setCause_net (s : State) (l : List Nat) (c : RoleCause) : (s.setCause l c).net = s.net := rfl
@[simp] theorem setCause_isth (s : State) (l : List Nat) (c : RoleCause) : (s.setCause l c).isth = s.isth := rfl
@[simp] theorem setCause_flt (s : State) (l : List Nat) (c : RoleCause) : (s.setCause l c).flt = s.flt := rfl
@[simp] theorem setCause_pow (s : State) (l : List Nat) (c : RoleCause) : (s.setCause l c).pow = s.pow := rfl
@[simp] theorem setCause_boot (s : State) (l : List Nat) (c : RoleCause) : (s.setCause l c).boot = s.boot := rfl
@[simp] theorem setCause_free (s : State) (l : List Nat) (c : RoleCause) : (s.setCause l c).free = s.free := rfl
@[simp] theorem setCause_pending (s : State) (l : List Nat) (c : RoleCause) : (s.setCause l c).pending = s.pending := rfl

/-! ### endCmd -/

@[simp] theorem endCmd_part (s : State) (id : CmdId) (st : Status) (r : Nat) (b : Bool) : (s.endCmd id st r b).part = s.part := rfl
@[simp] theorem endCmd_holms (s : State) (id : CmdId) (st : Status) (r : Nat) (b : Bool) : (s.endCmd id st r b).holms = s.holms := rfl
@[simp] theorem endCmd_remap (s : State) (id : CmdId) (st : Status) (r : Nat) (b : Bool) : (s.endCmd id st r b).remap = s.remap := rfl
@[simp] theorem endCmd_roleCause (s : State) (id : CmdId) (st : Status) (r : Nat) (b : Bool) : (s.endCmd id st r b).roleCause = s.roleCause := rfl
@[simp] theorem endCmd_reqs (s : State) (id : CmdId) (st : Status) (r : Nat) (b : Bool) : (s.endCmd id st r b).reqs = s.reqs := rfl
@[simp] theorem endCmd_nextReq (s : State) (id : CmdId) (st : Status) (r : Nat) (b : Bool) : (s.endCmd id st r b).nextReq = s.nextReq := rfl
@[simp] theorem endCmd_mem (s : State) (id : CmdId) (st : Status) (r : Nat) (b : Bool) : (s.endCmd id st r b).mem = s.mem := rfl
@[simp] theorem endCmd_ten (s : State) (id : CmdId) (st : Status) (r : Nat) (b : Bool) : (s.endCmd id st r b).ten = s.ten := rfl
@[simp] theorem endCmd_kv (s : State) (id : CmdId) (st : Status) (r : Nat) (b : Bool) : (s.endCmd id st r b).kv = s.kv := rfl
@[simp] theorem endCmd_net (s : State) (id : CmdId) (st : Status) (r : Nat) (b : Bool) : (s.endCmd id st r b).net = s.net := rfl
@[simp] theorem endCmd_flt (s : State) (id : CmdId) (st : Status) (r : Nat) (b : Bool) : (s.endCmd id st r b).flt = s.flt := rfl
@[simp] theorem endCmd_pow (s : State) (id : CmdId) (st : Status) (r : Nat) (b : Bool) : (s.endCmd id st r b).pow = s.pow := rfl
@[simp] theorem endCmd_boot (s : State) (id : CmdId) (st : Status) (r : Nat) (b : Bool) : (s.endCmd id st r b).boot = s.boot := rfl
@[simp] theorem endCmd_free (s : State) (id : CmdId) (st : Status) (r : Nat) (b : Bool) : (s.endCmd id st r b).free = s.free := rfl
@[simp] theorem endCmd_pending (s : State) (id : CmdId) (st : Status) (r : Nat) (b : Bool) : (s.endCmd id st r b).pending = s.pending := rfl

/-! ### putKv -/

@[simp] theorem putKv_part (s : State) (c : KvCtx) : (s.putKv c).part = s.part := rfl
@[simp] theorem putKv_holms (s : State) (c : KvCtx) : (s.putKv c).holms = s.holms := rfl
@[simp] theorem putKv_remap (s : State) (c : KvCtx) : (s.putKv c).remap = s.remap := rfl
@[simp] theorem putKv_roleCause (s : State) (c : KvCtx) : (s.putKv c).roleCause = s.roleCause := rfl
@[simp] theorem putKv_reqs (s : State) (c : KvCtx) : (s.putKv c).reqs = s.reqs := rfl
@[simp] theorem putKv_nextReq (s : State) (c : KvCtx) : (s.putKv c).nextReq = s.nextReq := rfl
@[simp] theorem putKv_ten (s : State) (c : KvCtx) : (s.putKv c).ten = s.ten := rfl
@[simp] theorem putKv_net (s : State) (c : KvCtx) : (s.putKv c).net = s.net := rfl
@[simp] theorem putKv_isth (s : State) (c : KvCtx) : (s.putKv c).isth = s.isth := rfl
@[simp] theorem putKv_flt (s : State) (c : KvCtx) : (s.putKv c).flt = s.flt := rfl
@[simp] theorem putKv_pow (s : State) (c : KvCtx) : (s.putKv c).pow = s.pow := rfl
@[simp] theorem putKv_boot (s : State) (c : KvCtx) : (s.putKv c).boot = s.boot := rfl
@[simp] theorem putKv_pending (s : State) (c : KvCtx) : (s.putKv c).pending = s.pending := rfl

/-! ### Units read after an update -/

/-- A holm after one has been written. -/
@[simp] theorem holm_setHolm (s : State) (p q : Nat) (h : Holm) : (s.setHolm p h).holm q = if q = p then h else s.holm q := by
  unfold State.holm State.setHolm AMap.getD
  rw [AMap.get?_set]
  split <;> rfl

@[simp] theorem holm_modHolm (s : State) (p q : Nat) (f : Holm → Holm) : (s.modHolm p f).holm q = if q = p then f (s.holm p) else s.holm q :=
  holm_setHolm s p q _

/-- The second of two writes of one holm stands. -/
@[simp] theorem setHolm_setHolm (s : State) (p : Nat) (h k : Holm) : (s.setHolm p h).setHolm p k = s.setHolm p k := by
  unfold State.setHolm
  simp only [AMap.set_set]

/-- A port after one has been written; a number past the ports names none. -/
@[simp] theorem port_setPort (s : State) (i j : Nat) (q : Port) :
    (s.setPort i q).port j = if j = i ∧ i < s.net.ports.length then q else s.port j := getD_setAt _ _ _ _ _

@[simp] theorem port_modPort (s : State) (i j : Nat) (f : Port → Port) :
    (s.modPort i f).port j = if j = i ∧ i < s.net.ports.length then f (s.port j) else s.port j := getD_modAt _ _ _ _ _

/-- A unit of work after one has changed. -/
@[simp] theorem work_modWork (s : State) (w v : Nat) (f : Work → Work) :
    (s.modWork w f).work? v = if v = w then (s.work? v).map f else s.work? v := AMap.get?_modify _ _ _ _

/-- A queue after one has been written. -/
@[simp] theorem que_setQue (s : State) (fn q gn r : Nat) (x : Que) :
    (s.setQue fn q x).que? gn r = if queKey gn r = queKey fn q then some x else s.que? gn r := AMap.get?_set _ _ _ _

/-- A network request after one has changed. -/
@[simp] theorem req_modReq (s : State) (i j : Nat) (f : NetReq → NetReq) :
    (s.modReq i f).reqs.get? j = if j = i then (s.reqs.get? j).map f else s.reqs.get? j := AMap.get?_modify _ _ _ _

@[simp] theorem modPow_pow (s : State) (f : PowerState → PowerState) : (s.modPow f).pow = f s.pow := rfl
@[simp] theorem modBoot_boot (s : State) (f : BootState → BootState) : (s.modBoot f).boot = f s.boot := rfl
@[simp] theorem modTime_time (s : State) (f : RackTime → RackTime) : (s.modTime f).net.time = f s.net.time := rfl
@[simp] theorem setHolm_live (s : State) (p : Nat) (h : Holm) : (s.setHolm p h).live = s.live := rfl

end State

/-! ### What a command of a unit answers -/

/-- A command of a holm that exists, on a live module, answers its effect. -/
theorem onHolm_next {p : Nat} {s : State} (h1 : p < 272) (h2 : s.live = true) (f : Holm → State → State) :
    onHolm p s f = .next (f (s.holm p) s) := by
  simp [onHolm, h1, h2]

/-- A command of a port that exists, on a live module, answers its effect. -/
theorem onPort_next {i : Nat} {s : State} (h1 : i < 32) (h2 : s.live = true) (f : Port → State → State) :
    onPort i s f = .next (f (s.port i) s) := by
  simp [onPort, h1, h2]

theorem onLive_next {s : State} (h : s.live = true) (f : State → State) : onLive s f = .next (f s) := by
  simp [onLive, h]

/-- The head instruction of an issuing holm runs where it has the opcode and form asked for (R37, R300). -/
theorem issueRow_next {s : State} {p : Nat} {w : BitVec 128} (h : s.atWord p w) {opc : Nat} {form : Nat → Bool} {f : Holm → Nat → State → State}
    (ho : fld w.toNat 0 8 = opc) (hf : form w.toNat = true) : issueRow p opc form s f = .next (f (s.holm p) w.toNat s) := by
  obtain ⟨h1, h2, h3, h4⟩ := h
  simp [issueRow, onHolm, h1, h2, h3, h4, ho, hf]

end Sys2Proof.Machine
end

