-- ==== Sys2Proof/Laws/Ops.lean ====
section
/-! SUPPORT. What each shared operation can do: the parts of the state it may write, said once. -/

namespace Sys2Proof.Machine

namespace State

/-! ### Host memory, messages and notices: only the Isthmus state (R431, R433, R576) -/

/-- A write of host memory that the host takes stores its bytes and nothing else. -/
theorem hostWrite_some {s t : State} {a : Nat} {vs : List Nat} (h : s.hostWrite a vs = some t) :
    s.hostOk a vs.length = true ∧ t = { s with isth := { s.isth with host := s.isth.host.write a vs } } := by
  unfold hostWrite at h
  split at h
  · exact ⟨‹_›, (Option.some.inj h).symm⟩
  · cases h

/-- A message of a vector writes only the Isthmus state. -/
theorem signal_isth (s : State) (fn v : Nat) : s.signal fn v = { s with isth := (s.signal fn v).isth } := by
  unfold signal
  dsimp only
  split
  · rfl
  · cases h : s.hostWrite _ _ with
    | none => rfl
    | some t =>
      rw [(hostWrite_some h).2]
      rfl

/-- A notice writes only the Isthmus state. -/
theorem notice_isth (s : State) (fn code body : Nat) : s.notice fn code body = { s with isth := (s.notice fn code body).isth } := by
  unfold notice
  dsimp only
  split
  · rfl
  · split
    · rfl
    · split
      · rfl
      · rename_i h
        rw [signal_isth, (hostWrite_some h).2]

theorem noticeTenant_isth (s : State) (t code body : Nat) :
    s.noticeTenant t code body = { s with isth := (s.noticeTenant t code body).isth } := by
  unfold noticeTenant
  split
  · exact notice_isth _ _ _ _
  · rfl

theorem noticeTenants_isth (s : State) (ts : List Nat) (code body : Nat) :
    s.noticeTenants ts code body = { s with isth := (s.noticeTenants ts code body).isth } := by
  unfold noticeTenants
  induction ts generalizing s with
  | nil => rfl
  | cons t ts ih =>
    simp only [List.foldl_cons]
    rw [ih (s.noticeTenant t code body), noticeTenant_isth s t code body]

/-! ### The error log: only the start-up state (R572, R573) -/

/-- An entry of the error log writes only the logs. -/
theorem log_boot (s : State) (cls st : Nat) (t : Option Nat) (u r : Nat) :
    s.log cls st t u r = { s with boot := (s.log cls st t u r).boot } := by
  unfold log
  dsimp only
  split <;> rfl

/-- The newest entry of the module log is the one just made, under the next sequence number, and 1,024 are kept (R572). -/
theorem log_moduleLog (s : State) (cls st : Nat) (t : Option Nat) (u r : Nat) :
    (s.log cls st t u r).boot.moduleLog =
      ⟨(s.boot.moduleLog.next + 1) % 2 ^ 32,
       (⟨s.boot.moduleLog.next, cls, st, t, s.now, u, r⟩ :: s.boot.moduleLog.entries).take 1024⟩ := by
  unfold log
  dsimp only
  split <;> rfl

theorem busError_boot (s : State) (fn off size v : Nat) (w : Bool) :
    s.busError fn off size v w = { s with boot := (s.busError fn off size v w).boot } := rfl

/-- A masked fault writes only the log and the Isthmus state. -/
theorem masked_eq (s : State) (k u d n : Nat) :
    s.masked k u d n = { s with isth := (s.masked k u d n).isth, boot := (s.masked k u d n).boot } := by
  unfold masked
  rw [notice_isth, log_boot]

/-! ### Queues and completions: only the Isthmus state (R424 to R429) -/

theorem queueError_isth (s : State) (fn q : Nat) (st : Status) (src v : Nat) :
    s.queueError fn q st src v = { s with isth := (s.queueError fn q st src v).isth } := by
  unfold queueError
  split
  · rfl
  · dsimp only
    rw [notice_isth]
    split <;> rfl

theorem postCpl_isth (s : State) (fn q : Nat) (c : Cpl) (b : Bool) :
    (s.postCpl fn q c b).1 = { s with isth := (s.postCpl fn q c b).1.isth } := by
  unfold postCpl
  split
  · rfl
  · split
    · rfl
    · split
      · exact queueError_isth _ _ _ _ _ _
      · rename_i h
        have key : ∀ (t : State) (c : Bool) (f v : Nat), t = { s with isth := t.isth } →
            (if c = true then t.signal f v else t) = { s with isth := (if c = true then t.signal f v else t).isth } := by
          intro t c f v ht
          cases c
          · exact ht
          · show t.signal f v = { s with isth := (t.signal f v).isth }
            rw [signal_isth, ht]
        refine key _ _ _ _ ?_
        rw [(hostWrite_some h).2]
        rfl

/-! ### Tenant memory (R459) -/

/-- A write of tenant memory writes only memory, the record of what sequences hold, and the count of free values. -/
theorem memWrite_ok {s t : State} {tn a : Nat} {vs : List Nat} (h : s.memWrite tn a vs = .ok t) :
    t = { s with mem := t.mem, kv := t.kv, free := s.free + 65536 } := by
  unfold memWrite at h
  split at h
  · cases h
  · split at h
    · cases h
    · cases h
      rfl

/-! ### Holms (R66, R83, R325) -/

/-- A holm that stops changes no other holm. -/
theorem holm_stopHolm (s : State) (p q : Nat) (st : HState) (h : q ≠ p) : (s.stopHolm p st).holm q = s.holm q := by
  unfold stopHolm
  exact (holm_setHolm _ _ _ _).trans (if_neg h)

/-- A holm that leaves its invocation changes no other holm. -/
theorem holm_leaveHolm (s : State) (p q : Nat) (st : HState) (h : q ≠ p) : (s.leaveHolm p st).holm q = s.holm q := by
  unfold leaveHolm
  exact (holm_modHolm _ _ _ _).trans ((if_neg h).trans (holm_stopHolm _ _ _ _ h))

/-- Ranges that become undefined leave everything of a holm but its scratchpad. -/
theorem spoil_st (h : Holm) (a b t : Nat) : (h.spoil a b t).st = h.st := rfl

/-- What a holm is after it has stopped: in the state given, with nothing under way, its record and its invocation kept (R325). -/
theorem stopHolm_self (s : State) (p : Nat) (st : HState) :
    ((s.stopHolm p st).holm p).st = st ∧ ((s.stopHolm p st).holm p).scoreboard = [] ∧ ((s.stopHolm p st).holm p).inFlight = []
      ∧ ((s.stopHolm p st).holm p).bobq = [] ∧ ((s.stopHolm p st).holm p).arrivals = [] ∧ ((s.stopHolm p st).holm p).held = []
      ∧ ((s.stopHolm p st).holm p).fault = none := by
  unfold stopHolm
  dsimp only
  have e : ∀ (t : State) (k : Holm) (r : AMap NetReq) (v : KvState),
      ({ t.setHolm p k with reqs := r, kv := v } : State).holm p = k := fun t k _ _ => (holm_setHolm t p p k).trans (if_pos rfl)
  rw [e]
  exact ⟨rfl, rfl, rfl, rfl, rfl, rfl, rfl⟩

/-- The end of one-shot work or the close of a tide changes no holm. -/
theorem settle_holms (s : State) (w : Nat) : (s.settle w).holms = s.holms := by
  unfold settle
  split
  · rfl
  · split
    · rfl
    · split
      · rfl
      · unfold finishOneShot
        split
        · rfl
        · have h1 : ∀ (t : Nat) (b : Bool), (s.commitAppends w t b).1.holms = s.holms := by
            intro t b
            unfold commitAppends
            split <;> rfl
          dsimp only
          split
          · exact h1 _ _
          · exact h1 _ _

end State

end Sys2Proof.Machine
end

