-- ==== Sys2Proof/Laws/Fields.lean ====
section
/-! SUPPORT. What a log entry, a notice, an interrupt message, a masked fault and a queue error leave as they were, field by field. -/

namespace Sys2Proof.Machine.State

@[simp] theorem log_part (s : State) (cls st : Nat) (t : Option Nat) (u r : Nat) : (s.log cls st t u r).part = s.part := (congrArg State.part (log_boot s cls st t u r)).trans rfl
@[simp] theorem log_holms (s : State) (cls st : Nat) (t : Option Nat) (u r : Nat) : (s.log cls st t u r).holms = s.holms := (congrArg State.holms (log_boot s cls st t u r)).trans rfl
@[simp] theorem log_remap (s : State) (cls st : Nat) (t : Option Nat) (u r : Nat) : (s.log cls st t u r).remap = s.remap := (congrArg State.remap (log_boot s cls st t u r)).trans rfl
@[simp] theorem log_roleCause (s : State) (cls st : Nat) (t : Option Nat) (u r : Nat) : (s.log cls st t u r).roleCause = s.roleCause := (congrArg State.roleCause (log_boot s cls st t u r)).trans rfl
@[simp] theorem log_reqs (s : State) (cls st : Nat) (t : Option Nat) (u r : Nat) : (s.log cls st t u r).reqs = s.reqs := (congrArg State.reqs (log_boot s cls st t u r)).trans rfl
@[simp] theorem log_nextReq (s : State) (cls st : Nat) (t : Option Nat) (u r : Nat) : (s.log cls st t u r).nextReq = s.nextReq := (congrArg State.nextReq (log_boot s cls st t u r)).trans rfl
@[simp] theorem log_mem (s : State) (cls st : Nat) (t : Option Nat) (u r : Nat) : (s.log cls st t u r).mem = s.mem := (congrArg State.mem (log_boot s cls st t u r)).trans rfl
@[simp] theorem log_ten (s : State) (cls st : Nat) (t : Option Nat) (u r : Nat) : (s.log cls st t u r).ten = s.ten := (congrArg State.ten (log_boot s cls st t u r)).trans rfl
@[simp] theorem log_kv (s : State) (cls st : Nat) (t : Option Nat) (u r : Nat) : (s.log cls st t u r).kv = s.kv := (congrArg State.kv (log_boot s cls st t u r)).trans rfl
@[simp] theorem log_net (s : State) (cls st : Nat) (t : Option Nat) (u r : Nat) : (s.log cls st t u r).net = s.net := (congrArg State.net (log_boot s cls st t u r)).trans rfl
@[simp] theorem log_isth (s : State) (cls st : Nat) (t : Option Nat) (u r : Nat) : (s.log cls st t u r).isth = s.isth := (congrArg State.isth (log_boot s cls st t u r)).trans rfl
@[simp] theorem log_flt (s : State) (cls st : Nat) (t : Option Nat) (u r : Nat) : (s.log cls st t u r).flt = s.flt := (congrArg State.flt (log_boot s cls st t u r)).trans rfl
@[simp] theorem log_pow (s : State) (cls st : Nat) (t : Option Nat) (u r : Nat) : (s.log cls st t u r).pow = s.pow := (congrArg State.pow (log_boot s cls st t u r)).trans rfl
@[simp] theorem log_free (s : State) (cls st : Nat) (t : Option Nat) (u r : Nat) : (s.log cls st t u r).free = s.free := (congrArg State.free (log_boot s cls st t u r)).trans rfl
@[simp] theorem log_pending (s : State) (cls st : Nat) (t : Option Nat) (u r : Nat) : (s.log cls st t u r).pending = s.pending := (congrArg State.pending (log_boot s cls st t u r)).trans rfl
@[simp] theorem log_holm (s : State) (cls st : Nat) (t : Option Nat) (u r : Nat) (p : Nat) : (s.log cls st t u r).holm p = s.holm p   := (congrArg (fun x : State => x.holm p) (log_boot s cls st t u r)).trans rfl
@[simp] theorem log_port (s : State) (cls st : Nat) (t : Option Nat) (u r : Nat) (p : Nat) : (s.log cls st t u r).port p = s.port p   := (congrArg (fun x : State => x.port p) (log_boot s cls st t u r)).trans rfl
@[simp] theorem log_work (s : State) (cls st : Nat) (t : Option Nat) (u r : Nat) (p : Nat) : (s.log cls st t u r).work? p = s.work? p   := (congrArg (fun x : State => x.work? p) (log_boot s cls st t u r)).trans rfl

@[simp] theorem signal_part (s : State) (fn v : Nat) : (s.signal fn v).part = s.part := (congrArg State.part (signal_isth s fn v)).trans rfl
@[simp] theorem signal_holms (s : State) (fn v : Nat) : (s.signal fn v).holms = s.holms := (congrArg State.holms (signal_isth s fn v)).trans rfl
@[simp] theorem signal_remap (s : State) (fn v : Nat) : (s.signal fn v).remap = s.remap := (congrArg State.remap (signal_isth s fn v)).trans rfl
@[simp] theorem signal_roleCause (s : State) (fn v : Nat) : (s.signal fn v).roleCause = s.roleCause := (congrArg State.roleCause (signal_isth s fn v)).trans rfl
@[simp] theorem signal_reqs (s : State) (fn v : Nat) : (s.signal fn v).reqs = s.reqs := (congrArg State.reqs (signal_isth s fn v)).trans rfl
@[simp] theorem signal_nextReq (s : State) (fn v : Nat) : (s.signal fn v).nextReq = s.nextReq := (congrArg State.nextReq (signal_isth s fn v)).trans rfl
@[simp] theorem signal_mem (s : State) (fn v : Nat) : (s.signal fn v).mem = s.mem := (congrArg State.mem (signal_isth s fn v)).trans rfl
@[simp] theorem signal_ten (s : State) (fn v : Nat) : (s.signal fn v).ten = s.ten := (congrArg State.ten (signal_isth s fn v)).trans rfl
@[simp] theorem signal_kv (s : State) (fn v : Nat) : (s.signal fn v).kv = s.kv := (congrArg State.kv (signal_isth s fn v)).trans rfl
@[simp] theorem signal_net (s : State) (fn v : Nat) : (s.signal fn v).net = s.net := (congrArg State.net (signal_isth s fn v)).trans rfl
@[simp] theorem signal_flt (s : State) (fn v : Nat) : (s.signal fn v).flt = s.flt := (congrArg State.flt (signal_isth s fn v)).trans rfl
@[simp] theorem signal_pow (s : State) (fn v : Nat) : (s.signal fn v).pow = s.pow := (congrArg State.pow (signal_isth s fn v)).trans rfl
@[simp] theorem signal_boot (s : State) (fn v : Nat) : (s.signal fn v).boot = s.boot := (congrArg State.boot (signal_isth s fn v)).trans rfl
@[simp] theorem signal_free (s : State) (fn v : Nat) : (s.signal fn v).free = s.free := (congrArg State.free (signal_isth s fn v)).trans rfl
@[simp] theorem signal_pending (s : State) (fn v : Nat) : (s.signal fn v).pending = s.pending := (congrArg State.pending (signal_isth s fn v)).trans rfl
@[simp] theorem signal_holm (s : State) (fn v : Nat) (p : Nat) : (s.signal fn v).holm p = s.holm p   := (congrArg (fun x : State => x.holm p) (signal_isth s fn v)).trans rfl
@[simp] theorem signal_port (s : State) (fn v : Nat) (p : Nat) : (s.signal fn v).port p = s.port p   := (congrArg (fun x : State => x.port p) (signal_isth s fn v)).trans rfl

@[simp] theorem notice_part (s : State) (fn code body : Nat) : (s.notice fn code body).part = s.part := (congrArg State.part (notice_isth s fn code body)).trans rfl
@[simp] theorem notice_holms (s : State) (fn code body : Nat) : (s.notice fn code body).holms = s.holms := (congrArg State.holms (notice_isth s fn code body)).trans rfl
@[simp] theorem notice_remap (s : State) (fn code body : Nat) : (s.notice fn code body).remap = s.remap := (congrArg State.remap (notice_isth s fn code body)).trans rfl
@[simp] theorem notice_roleCause (s : State) (fn code body : Nat) : (s.notice fn code body).roleCause = s.roleCause := (congrArg State.roleCause (notice_isth s fn code body)).trans rfl
@[simp] theorem notice_reqs (s : State) (fn code body : Nat) : (s.notice fn code body).reqs = s.reqs := (congrArg State.reqs (notice_isth s fn code body)).trans rfl
@[simp] theorem notice_nextReq (s : State) (fn code body : Nat) : (s.notice fn code body).nextReq = s.nextReq := (congrArg State.nextReq (notice_isth s fn code body)).trans rfl
@[simp] theorem notice_mem (s : State) (fn code body : Nat) : (s.notice fn code body).mem = s.mem := (congrArg State.mem (notice_isth s fn code body)).trans rfl
@[simp] theorem notice_ten (s : State) (fn code body : Nat) : (s.notice fn code body).ten = s.ten := (congrArg State.ten (notice_isth s fn code body)).trans rfl
@[simp] theorem notice_kv (s : State) (fn code body : Nat) : (s.notice fn code body).kv = s.kv := (congrArg State.kv (notice_isth s fn code body)).trans rfl
@[simp] theorem notice_net (s : State) (fn code body : Nat) : (s.notice fn code body).net = s.net := (congrArg State.net (notice_isth s fn code body)).trans rfl
@[simp] theorem notice_flt (s : State) (fn code body : Nat) : (s.notice fn code body).flt = s.flt := (congrArg State.flt (notice_isth s fn code body)).trans rfl
@[simp] theorem notice_pow (s : State) (fn code body : Nat) : (s.notice fn code body).pow = s.pow := (congrArg State.pow (notice_isth s fn code body)).trans rfl
@[simp] theorem notice_boot (s : State) (fn code body : Nat) : (s.notice fn code body).boot = s.boot := (congrArg State.boot (notice_isth s fn code body)).trans rfl
@[simp] theorem notice_free (s : State) (fn code body : Nat) : (s.notice fn code body).free = s.free := (congrArg State.free (notice_isth s fn code body)).trans rfl
@[simp] theorem notice_pending (s : State) (fn code body : Nat) : (s.notice fn code body).pending = s.pending := (congrArg State.pending (notice_isth s fn code body)).trans rfl
@[simp] theorem notice_holm (s : State) (fn code body : Nat) (p : Nat) : (s.notice fn code body).holm p = s.holm p   := (congrArg (fun x : State => x.holm p) (notice_isth s fn code body)).trans rfl
@[simp] theorem notice_port (s : State) (fn code body : Nat) (p : Nat) : (s.notice fn code body).port p = s.port p   := (congrArg (fun x : State => x.port p) (notice_isth s fn code body)).trans rfl

@[simp] theorem noticeTenant_part (s : State) (t code body : Nat) : (s.noticeTenant t code body).part = s.part := (congrArg State.part (noticeTenant_isth s t code body)).trans rfl
@[simp] theorem noticeTenant_holms (s : State) (t code body : Nat) : (s.noticeTenant t code body).holms = s.holms := (congrArg State.holms (noticeTenant_isth s t code body)).trans rfl
@[simp] theorem noticeTenant_remap (s : State) (t code body : Nat) : (s.noticeTenant t code body).remap = s.remap := (congrArg State.remap (noticeTenant_isth s t code body)).trans rfl
@[simp] theorem noticeTenant_roleCause (s : State) (t code body : Nat) : (s.noticeTenant t code body).roleCause = s.roleCause := (congrArg State.roleCause (noticeTenant_isth s t code body)).trans rfl
@[simp] theorem noticeTenant_reqs (s : State) (t code body : Nat) : (s.noticeTenant t code body).reqs = s.reqs := (congrArg State.reqs (noticeTenant_isth s t code body)).trans rfl
@[simp] theorem noticeTenant_nextReq (s : State) (t code body : Nat) : (s.noticeTenant t code body).nextReq = s.nextReq := (congrArg State.nextReq (noticeTenant_isth s t code body)).trans rfl
@[simp] theorem noticeTenant_mem (s : State) (t code body : Nat) : (s.noticeTenant t code body).mem = s.mem := (congrArg State.mem (noticeTenant_isth s t code body)).trans rfl
@[simp] theorem noticeTenant_ten (s : State) (t code body : Nat) : (s.noticeTenant t code body).ten = s.ten := (congrArg State.ten (noticeTenant_isth s t code body)).trans rfl
@[simp] theorem noticeTenant_kv (s : State) (t code body : Nat) : (s.noticeTenant t code body).kv = s.kv := (congrArg State.kv (noticeTenant_isth s t code body)).trans rfl
@[simp] theorem noticeTenant_net (s : State) (t code body : Nat) : (s.noticeTenant t code body).net = s.net := (congrArg State.net (noticeTenant_isth s t code body)).trans rfl
@[simp] theorem noticeTenant_flt (s : State) (t code body : Nat) : (s.noticeTenant t code body).flt = s.flt := (congrArg State.flt (noticeTenant_isth s t code body)).trans rfl
@[simp] theorem noticeTenant_pow (s : State) (t code body : Nat) : (s.noticeTenant t code body).pow = s.pow := (congrArg State.pow (noticeTenant_isth s t code body)).trans rfl
@[simp] theorem noticeTenant_boot (s : State) (t code body : Nat) : (s.noticeTenant t code body).boot = s.boot := (congrArg State.boot (noticeTenant_isth s t code body)).trans rfl
@[simp] theorem noticeTenant_free (s : State) (t code body : Nat) : (s.noticeTenant t code body).free = s.free := (congrArg State.free (noticeTenant_isth s t code body)).trans rfl
@[simp] theorem noticeTenant_pending (s : State) (t code body : Nat) : (s.noticeTenant t code body).pending = s.pending := (congrArg State.pending (noticeTenant_isth s t code body)).trans rfl
@[simp] theorem noticeTenant_holm (s : State) (t code body : Nat) (p : Nat) : (s.noticeTenant t code body).holm p = s.holm p   := (congrArg (fun x : State => x.holm p) (noticeTenant_isth s t code body)).trans rfl
@[simp] theorem noticeTenant_port (s : State) (t code body : Nat) (p : Nat) : (s.noticeTenant t code body).port p = s.port p   := (congrArg (fun x : State => x.port p) (noticeTenant_isth s t code body)).trans rfl

@[simp] theorem noticeTenants_part (s : State) (ts : List Nat) (code body : Nat) : (s.noticeTenants ts code body).part = s.part := (congrArg State.part (noticeTenants_isth s ts code body)).trans rfl
@[simp] theorem noticeTenants_holms (s : State) (ts : List Nat) (code body : Nat) : (s.noticeTenants ts code body).holms = s.holms := (congrArg State.holms (noticeTenants_isth s ts code body)).trans rfl
@[simp] theorem noticeTenants_remap (s : State) (ts : List Nat) (code body : Nat) : (s.noticeTenants ts code body).remap = s.remap := (congrArg State.remap (noticeTenants_isth s ts code body)).trans rfl
@[simp] theorem noticeTenants_roleCause (s : State) (ts : List Nat) (code body : Nat) : (s.noticeTenants ts code body).roleCause = s.roleCause := (congrArg State.roleCause (noticeTenants_isth s ts code body)).trans rfl
@[simp] theorem noticeTenants_reqs (s : State) (ts : List Nat) (code body : Nat) : (s.noticeTenants ts code body).reqs = s.reqs := (congrArg State.reqs (noticeTenants_isth s ts code body)).trans rfl
@[simp] theorem noticeTenants_nextReq (s : State) (ts : List Nat) (code body : Nat) : (s.noticeTenants ts code body).nextReq = s.nextReq := (congrArg State.nextReq (noticeTenants_isth s ts code body)).trans rfl
@[simp] theorem noticeTenants_mem (s : State) (ts : List Nat) (code body : Nat) : (s.noticeTenants ts code body).mem = s.mem := (congrArg State.mem (noticeTenants_isth s ts code body)).trans rfl
@[simp] theorem noticeTenants_ten (s : State) (ts : List Nat) (code body : Nat) : (s.noticeTenants ts code body).ten = s.ten := (congrArg State.ten (noticeTenants_isth s ts code body)).trans rfl
@[simp] theorem noticeTenants_kv (s : State) (ts : List Nat) (code body : Nat) : (s.noticeTenants ts code body).kv = s.kv := (congrArg State.kv (noticeTenants_isth s ts code body)).trans rfl
@[simp] theorem noticeTenants_net (s : State) (ts : List Nat) (code body : Nat) : (s.noticeTenants ts code body).net = s.net := (congrArg State.net (noticeTenants_isth s ts code body)).trans rfl
@[simp] theorem noticeTenants_flt (s : State) (ts : List Nat) (code body : Nat) : (s.noticeTenants ts code body).flt = s.flt := (congrArg State.flt (noticeTenants_isth s ts code body)).trans rfl
@[simp] theorem noticeTenants_pow (s : State) (ts : List Nat) (code body : Nat) : (s.noticeTenants ts code body).pow = s.pow := (congrArg State.pow (noticeTenants_isth s ts code body)).trans rfl
@[simp] theorem noticeTenants_boot (s : State) (ts : List Nat) (code body : Nat) : (s.noticeTenants ts code body).boot = s.boot := (congrArg State.boot (noticeTenants_isth s ts code body)).trans rfl
@[simp] theorem noticeTenants_free (s : State) (ts : List Nat) (code body : Nat) : (s.noticeTenants ts code body).free = s.free := (congrArg State.free (noticeTenants_isth s ts code body)).trans rfl
@[simp] theorem noticeTenants_pending (s : State) (ts : List Nat) (code body : Nat) : (s.noticeTenants ts code body).pending = s.pending := (congrArg State.pending (noticeTenants_isth s ts code body)).trans rfl
@[simp] theorem noticeTenants_holm (s : State) (ts : List Nat) (code body : Nat) (p : Nat) : (s.noticeTenants ts code body).holm p = s.holm p   := (congrArg (fun x : State => x.holm p) (noticeTenants_isth s ts code body)).trans rfl
@[simp] theorem noticeTenants_port (s : State) (ts : List Nat) (code body : Nat) (p : Nat) : (s.noticeTenants ts code body).port p = s.port p   := (congrArg (fun x : State => x.port p) (noticeTenants_isth s ts code body)).trans rfl

@[simp] theorem masked_part (s : State) (k u d n : Nat) : (s.masked k u d n).part = s.part := (congrArg State.part (masked_eq s k u d n)).trans rfl
@[simp] theorem masked_holms (s : State) (k u d n : Nat) : (s.masked k u d n).holms = s.holms := (congrArg State.holms (masked_eq s k u d n)).trans rfl
@[simp] theorem masked_remap (s : State) (k u d n : Nat) : (s.masked k u d n).remap = s.remap := (congrArg State.remap (masked_eq s k u d n)).trans rfl
@[simp] theorem masked_roleCause (s : State) (k u d n : Nat) : (s.masked k u d n).roleCause = s.roleCause := (congrArg State.roleCause (masked_eq s k u d n)).trans rfl
@[simp] theorem masked_reqs (s : State) (k u d n : Nat) : (s.masked k u d n).reqs = s.reqs := (congrArg State.reqs (masked_eq s k u d n)).trans rfl
@[simp] theorem masked_nextReq (s : State) (k u d n : Nat) : (s.masked k u d n).nextReq = s.nextReq := (congrArg State.nextReq (masked_eq s k u d n)).trans rfl
@[simp] theorem masked_mem (s : State) (k u d n : Nat) : (s.masked k u d n).mem = s.mem := (congrArg State.mem (masked_eq s k u d n)).trans rfl
@[simp] theorem masked_ten (s : State) (k u d n : Nat) : (s.masked k u d n).ten = s.ten := (congrArg State.ten (masked_eq s k u d n)).trans rfl
@[simp] theorem masked_kv (s : State) (k u d n : Nat) : (s.masked k u d n).kv = s.kv := (congrArg State.kv (masked_eq s k u d n)).trans rfl
@[simp] theorem masked_net (s : State) (k u d n : Nat) : (s.masked k u d n).net = s.net := (congrArg State.net (masked_eq s k u d n)).trans rfl
@[simp] theorem masked_flt (s : State) (k u d n : Nat) : (s.masked k u d n).flt = s.flt := (congrArg State.flt (masked_eq s k u d n)).trans rfl
@[simp] theorem masked_pow (s : State) (k u d n : Nat) : (s.masked k u d n).pow = s.pow := (congrArg State.pow (masked_eq s k u d n)).trans rfl
@[simp] theorem masked_free (s : State) (k u d n : Nat) : (s.masked k u d n).free = s.free := (congrArg State.free (masked_eq s k u d n)).trans rfl
@[simp] theorem masked_pending (s : State) (k u d n : Nat) : (s.masked k u d n).pending = s.pending := (congrArg State.pending (masked_eq s k u d n)).trans rfl
@[simp] theorem masked_holm (s : State) (k u d n : Nat) (p : Nat) : (s.masked k u d n).holm p = s.holm p   := (congrArg (fun x : State => x.holm p) (masked_eq s k u d n)).trans rfl
@[simp] theorem masked_port (s : State) (k u d n : Nat) (p : Nat) : (s.masked k u d n).port p = s.port p   := (congrArg (fun x : State => x.port p) (masked_eq s k u d n)).trans rfl

@[simp] theorem busError_part (s : State) (fn off size v : Nat) (w : Bool) : (s.busError fn off size v w).part = s.part := (congrArg State.part (busError_boot s fn off size v w)).trans rfl
@[simp] theorem busError_holms (s : State) (fn off size v : Nat) (w : Bool) : (s.busError fn off size v w).holms = s.holms := (congrArg State.holms (busError_boot s fn off size v w)).trans rfl
@[simp] theorem busError_remap (s : State) (fn off size v : Nat) (w : Bool) : (s.busError fn off size v w).remap = s.remap := (congrArg State.remap (busError_boot s fn off size v w)).trans rfl
@[simp] theorem busError_roleCause (s : State) (fn off size v : Nat) (w : Bool) : (s.busError fn off size v w).roleCause = s.roleCause := (congrArg State.roleCause (busError_boot s fn off size v w)).trans rfl
@[simp] theorem busError_reqs (s : State) (fn off size v : Nat) (w : Bool) : (s.busError fn off size v w).reqs = s.reqs := (congrArg State.reqs (busError_boot s fn off size v w)).trans rfl
@[simp] theorem busError_nextReq (s : State) (fn off size v : Nat) (w : Bool) : (s.busError fn off size v w).nextReq = s.nextReq := (congrArg State.nextReq (busError_boot s fn off size v w)).trans rfl
@[simp] theorem busError_mem (s : State) (fn off size v : Nat) (w : Bool) : (s.busError fn off size v w).mem = s.mem := (congrArg State.mem (busError_boot s fn off size v w)).trans rfl
@[simp] theorem busError_ten (s : State) (fn off size v : Nat) (w : Bool) : (s.busError fn off size v w).ten = s.ten := (congrArg State.ten (busError_boot s fn off size v w)).trans rfl
@[simp] theorem busError_kv (s : State) (fn off size v : Nat) (w : Bool) : (s.busError fn off size v w).kv = s.kv := (congrArg State.kv (busError_boot s fn off size v w)).trans rfl
@[simp] theorem busError_net (s : State) (fn off size v : Nat) (w : Bool) : (s.busError fn off size v w).net = s.net := (congrArg State.net (busError_boot s fn off size v w)).trans rfl
@[simp] theorem busError_isth (s : State) (fn off size v : Nat) (w : Bool) : (s.busError fn off size v w).isth = s.isth := (congrArg State.isth (busError_boot s fn off size v w)).trans rfl
@[simp] theorem busError_flt (s : State) (fn off size v : Nat) (w : Bool) : (s.busError fn off size v w).flt = s.flt := (congrArg State.flt (busError_boot s fn off size v w)).trans rfl
@[simp] theorem busError_pow (s : State) (fn off size v : Nat) (w : Bool) : (s.busError fn off size v w).pow = s.pow := (congrArg State.pow (busError_boot s fn off size v w)).trans rfl
@[simp] theorem busError_free (s : State) (fn off size v : Nat) (w : Bool) : (s.busError fn off size v w).free = s.free := (congrArg State.free (busError_boot s fn off size v w)).trans rfl
@[simp] theorem busError_pending (s : State) (fn off size v : Nat) (w : Bool) : (s.busError fn off size v w).pending = s.pending := (congrArg State.pending (busError_boot s fn off size v w)).trans rfl
@[simp] theorem busError_holm (s : State) (fn off size v : Nat) (w : Bool) (p : Nat) : (s.busError fn off size v w).holm p = s.holm p   := (congrArg (fun x : State => x.holm p) (busError_boot s fn off size v w)).trans rfl
@[simp] theorem busError_port (s : State) (fn off size v : Nat) (w : Bool) (p : Nat) : (s.busError fn off size v w).port p = s.port p   := (congrArg (fun x : State => x.port p) (busError_boot s fn off size v w)).trans rfl
@[simp] theorem busError_work (s : State) (fn off size v : Nat) (w : Bool) (p : Nat) : (s.busError fn off size v w).work? p = s.work? p   := (congrArg (fun x : State => x.work? p) (busError_boot s fn off size v w)).trans rfl

@[simp] theorem queueError_part (s : State) (fn q : Nat) (st : Status) (src v : Nat) : (s.queueError fn q st src v).part = s.part := (congrArg State.part (queueError_isth s fn q st src v)).trans rfl
@[simp] theorem queueError_holms (s : State) (fn q : Nat) (st : Status) (src v : Nat) : (s.queueError fn q st src v).holms = s.holms := (congrArg State.holms (queueError_isth s fn q st src v)).trans rfl
@[simp] theorem queueError_remap (s : State) (fn q : Nat) (st : Status) (src v : Nat) : (s.queueError fn q st src v).remap = s.remap := (congrArg State.remap (queueError_isth s fn q st src v)).trans rfl
@[simp] theorem queueError_roleCause (s : State) (fn q : Nat) (st : Status) (src v : Nat) : (s.queueError fn q st src v).roleCause = s.roleCause := (congrArg State.roleCause (queueError_isth s fn q st src v)).trans rfl
@[simp] theorem queueError_reqs (s : State) (fn q : Nat) (st : Status) (src v : Nat) : (s.queueError fn q st src v).reqs = s.reqs := (congrArg State.reqs (queueError_isth s fn q st src v)).trans rfl
@[simp] theorem queueError_nextReq (s : State) (fn q : Nat) (st : Status) (src v : Nat) : (s.queueError fn q st src v).nextReq = s.nextReq := (congrArg State.nextReq (queueError_isth s fn q st src v)).trans rfl
@[simp] theorem queueError_mem (s : State) (fn q : Nat) (st : Status) (src v : Nat) : (s.queueError fn q st src v).mem = s.mem := (congrArg State.mem (queueError_isth s fn q st src v)).trans rfl
@[simp] theorem queueError_ten (s : State) (fn q : Nat) (st : Status) (src v : Nat) : (s.queueError fn q st src v).ten = s.ten := (congrArg State.ten (queueError_isth s fn q st src v)).trans rfl
@[simp] theorem queueError_kv (s : State) (fn q : Nat) (st : Status) (src v : Nat) : (s.queueError fn q st src v).kv = s.kv := (congrArg State.kv (queueError_isth s fn q st src v)).trans rfl
@[simp] theorem queueError_net (s : State) (fn q : Nat) (st : Status) (src v : Nat) : (s.queueError fn q st src v).net = s.net := (congrArg State.net (queueError_isth s fn q st src v)).trans rfl
@[simp] theorem queueError_flt (s : State) (fn q : Nat) (st : Status) (src v : Nat) : (s.queueError fn q st src v).flt = s.flt := (congrArg State.flt (queueError_isth s fn q st src v)).trans rfl
@[simp] theorem queueError_pow (s : State) (fn q : Nat) (st : Status) (src v : Nat) : (s.queueError fn q st src v).pow = s.pow := (congrArg State.pow (queueError_isth s fn q st src v)).trans rfl
@[simp] theorem queueError_boot (s : State) (fn q : Nat) (st : Status) (src v : Nat) : (s.queueError fn q st src v).boot = s.boot := (congrArg State.boot (queueError_isth s fn q st src v)).trans rfl
@[simp] theorem queueError_free (s : State) (fn q : Nat) (st : Status) (src v : Nat) : (s.queueError fn q st src v).free = s.free := (congrArg State.free (queueError_isth s fn q st src v)).trans rfl
@[simp] theorem queueError_pending (s : State) (fn q : Nat) (st : Status) (src v : Nat) : (s.queueError fn q st src v).pending = s.pending := (congrArg State.pending (queueError_isth s fn q st src v)).trans rfl
@[simp] theorem queueError_holm (s : State) (fn q : Nat) (st : Status) (src v : Nat) (p : Nat) : (s.queueError fn q st src v).holm p = s.holm p   := (congrArg (fun x : State => x.holm p) (queueError_isth s fn q st src v)).trans rfl
@[simp] theorem queueError_port (s : State) (fn q : Nat) (st : Status) (src v : Nat) (p : Nat) : (s.queueError fn q st src v).port p = s.port p   := (congrArg (fun x : State => x.port p) (queueError_isth s fn q st src v)).trans rfl

theorem modHolm_setHolm (s : State) (p : Nat) (h : Holm) (f : Holm → Holm) : (s.setHolm p h).modHolm p f = s.setHolm p (f h) := by
  unfold modHolm
  rw [holm_setHolm, if_pos rfl, setHolm_setHolm]

end Sys2Proof.Machine.State
end

