-- ==== Sys2Proof/Laws/PerInstr.lean ====
section
/-! SUPPORT. One lemma per command: a well-formed one names only holms, ports and rails that exist. -/

namespace Sys2Proof.Laws.Row

/-- A well-formed command names only units that exist (R14, R360, R502). -/
def Statement (i : Instr) : Prop :=
  i.wellFormed = true → (∀ p, i.holm? = some p → p < 272) ∧ (∀ k, i.port? = some k → k < 32) ∧ (∀ r, i.rail? = some r → r < 8)

/-- Every command (by the form of `Instr.wellFormed`). -/
theorem names (i : Instr) : Statement i := by
  unfold Statement
  cases i <;> simp +contextual [Instr.wellFormed, Instr.holm?, Instr.port?, Instr.rail?, isHolm, isPort, isRail]

theorem nop (p : Nat) : Statement (.nop p) := names _
theorem halt (p : Nat) : Statement (.halt p) := names _
theorem tide (p : Nat) : Statement (.tide p) := names _
theorem br (p : Nat) : Statement (.br p) := names _
theorem loopSet (p : Nat) : Statement (.loopSet p) := names _
theorem loopAdd (p : Nat) : Statement (.loopAdd p) := names _
theorem loopMul (p : Nat) : Statement (.loopMul p) := names _
theorem loopBack (p : Nat) : Statement (.loopBack p) := names _
theorem barArrive (p : Nat) : Statement (.barArrive p) := names _
theorem barWait (p : Nat) : Statement (.barWait p) := names _
theorem barArriveWait (p : Nat) : Statement (.barArriveWait p) := names _
theorem barrierArrivalEffect (p : Nat) (bar : Nat) : Statement (.barrierArrivalEffect p bar) := names _
theorem waveRelease (work : Nat) : Statement (.waveRelease work) := names _
theorem rng (p : Nat) : Statement (.rng p) := names _
theorem msgSend (p : Nat) : Statement (.msgSend p) := names _
theorem msgRecv (p : Nat) : Statement (.msgRecv p) := names _
theorem mma (p : Nat) : Statement (.mma p) := names _
theorem mmap (p : Nat) : Statement (.mmap p) := names _
theorem ats (p : Nat) : Statement (.ats p) := names _
theorem atf (p : Nat) : Statement (.atf p) := names _
theorem atb (p : Nat) : Statement (.atb p) := names _
theorem vop (p : Nat) : Statement (.vop p) := names _
theorem cvt (p : Nat) : Statement (.cvt p) := names _
theorem sfn (p : Nat) : Statement (.sfn p) := names _
theorem bobStart (p : Nat) : Statement (.bobStart p) := names _
theorem bobStop (p : Nat) : Statement (.bobStop p) := names _
theorem bobPost (p : Nat) : Statement (.bobPost p) := names _
theorem bobRelease (p : Nat) : Statement (.bobRelease p) := names _
theorem kva (p : Nat) : Statement (.kva p) := names _
theorem scoreboardRetire (p : Nat) (id : Nat) : Statement (.scoreboardRetire p id) := names _
theorem declaredEntryRetire (p : Nat) (id : Nat) : Statement (.declaredEntryRetire p id) := names _
theorem invocationComplete (p : Nat) : Statement (.invocationComplete p) := names _
theorem holmFault (p : Nat) (hw : Bool) : Statement (.holmFault p hw) := names _
theorem segmentWatchdog (p : Nat) : Statement (.segmentWatchdog p) := names _
theorem prickingEmit (p : Nat) (ch : Nat) : Statement (.prickingEmit p ch) := names _
theorem prickingAdd (p : Nat) (ch : Nat) : Statement (.prickingAdd p ch) := names _
theorem prickingSeta (p : Nat) (ch : Nat) : Statement (.prickingSeta p ch) := names _
theorem prickingSetl (p : Nat) (ch : Nat) : Statement (.prickingSetl p ch) := names _
theorem prickingLoop (p : Nat) (ch : Nat) : Statement (.prickingLoop p ch) := names _
theorem cwait (p : Nat) (ch : Nat) : Statement (.cwait p ch) := names _
theorem pemit (p : Nat) (ch : Nat) : Statement (.pemit p ch) := names _
theorem prickingEnd (p : Nat) (ch : Nat) : Statement (.prickingEnd p ch) := names _
theorem bobbinParamBlockRead (p : Nat) (ch : Nat) : Statement (.bobbinParamBlockRead p ch) := names _
theorem tileLanded (p : Nat) (ch : Nat) : Statement (.tileLanded p ch) := names _
theorem tileDrained (p : Nat) (ch : Nat) : Statement (.tileDrained p ch) := names _
theorem channelEnded (p : Nat) (ch : Nat) : Statement (.channelEnded p ch) := names _
theorem bobbinFault (p : Nat) (ch : Nat) : Statement (.bobbinFault p ch) := names _
theorem remoteAccessArrival (i : Nat) : Statement (.remoteAccessArrival i) := names _
theorem remoteResponseArrival (i : Nat) : Statement (.remoteResponseArrival i) := names _
theorem remoteRequestHeld (i : Nat) : Statement (.remoteRequestHeld i) := names _
theorem msgArrival (i : Nat) : Statement (.msgArrival i) := names _
theorem msgInboxEnter (i : Nat) : Statement (.msgInboxEnter i) := names _
theorem staleRoleReissue (i : Nat) : Statement (.staleRoleReissue i) := names _
theorem scrubVisit (p : Nat) (line : Nat) (errs : List (Nat × Bool)) : Statement (.scrubVisit p line errs) := names _
theorem rowRepairCopy (p : Nat) (bank : Nat) (row : Nat) : Statement (.rowRepairCopy p bank row) := names _
theorem repairTableWrite (p : Nat) : Statement (.repairTableWrite p) := names _
theorem lagoonImageLoad (p : Nat) : Statement (.lagoonImageLoad p) := names _
theorem ratedFloorCheck (p : Nat) (pass : Bool) (needsMore : Bool) : Statement (.ratedFloorCheck p pass needsMore) := names _
theorem slack (work : Nat) : Statement (.slack work) := names _
theorem checkpointSpill (p : Nat) (carried : List (Nat × Nat)) : Statement (.checkpointSpill p carried) := names _
theorem walkerRequest (i : Nat) (lost : Bool) : Statement (.walkerRequest i lost) := names _
theorem walkerTileComplete (i : Nat) : Statement (.walkerTileComplete i) := names _
theorem walkerFailure (i : Nat) : Statement (.walkerFailure i) := names _
theorem kvAppendAccept (p : Nat) (ch : Nat) : Statement (.kvAppendAccept p ch) := names _
theorem pageFreeReturn (pool : Nat) : Statement (.pageFreeReturn pool) := names _
theorem originBlockFetch (rid : Nat) (lost : Bool) : Statement (.originBlockFetch rid lost) := names _
theorem shuttleBlockSend (rid : Nat) (arrived : List Nat) : Statement (.shuttleBlockSend rid arrived) := names _
theorem shuttleBlockLanding (rid : Nat) : Statement (.shuttleBlockLanding rid) := names _
theorem shuttleForward (rid : Nat) (arrived : List Nat) : Statement (.shuttleForward rid arrived) := names _
theorem slotCreditGrant (rid : Nat) : Statement (.slotCreditGrant rid) := names _
theorem ringAbortReceive : Statement (.ringAbortReceive) := names _
theorem ringFailure (rid : Nat) (status : Nat) : Statement (.ringFailure rid status) := names _
theorem collectivePieceArrival (idx : List Nat) : Statement (.collectivePieceArrival idx) := names _
theorem collectorCombine (cid : Nat) (piece : Nat) : Statement (.collectorCombine cid piece) := names _
theorem collectiveCreditReceive : Statement (.collectiveCreditReceive) := names _
theorem alltoallCountReceive : Statement (.alltoallCountReceive) := names _
theorem alltoallGrantReceive : Statement (.alltoallGrantReceive) := names _
theorem transitForward (slot : Nat) : Statement (.transitForward slot) := names _
theorem mmaEmitChunk (cid : Nat) (row : Nat) (chunk : Nat) : Statement (.mmaEmitChunk cid row chunk) := names _
theorem collectiveAbortReceive : Statement (.collectiveAbortReceive) := names _
theorem collectiveComplete (cid : Nat) : Statement (.collectiveComplete cid) := names _
theorem hbmRead (dpa : Nat) (n : Nat) : Statement (.hbmRead dpa n) := names _
theorem hbmWrite (dpa : Nat) (data : List Nat) : Statement (.hbmWrite dpa data) := names _
theorem codecRead (extent : Nat) (off : Nat) (n : Nat) : Statement (.codecRead extent off n) := names _
theorem codecRewrite (extent : Nat) (off : Nat) (data : List Nat) : Statement (.codecRewrite extent off data) := names _
theorem elementFailureDeclare (e : Element) : Statement (.elementFailureDeclare e) := names _
theorem patrolScrub (dpa : Nat) (found : Nat) : Statement (.patrolScrub dpa found) := names _
theorem balanceWindow : Statement (.balanceWindow) := names _
theorem regionRekey (region : Nat) : Statement (.regionRekey region) := names _
theorem migrationUnitCopy (i : Nat) : Statement (.migrationUnitCopy i) := names _
theorem segmentCompaction (seg : Nat) : Statement (.segmentCompaction seg) := names _
theorem regionZeroing (i : Nat) : Statement (.regionZeroing i) := names _
theorem slotTableSwap (ch : Nat) (table : BitVec 1024) : Statement (.slotTableSwap ch table) := names _
theorem flitSlotTableSwap (port : Nat) (table : BitVec 1024) : Statement (.flitSlotTableSwap port table) := names _
theorem linkBlockReceive (port : Nat) (decoded : Bool) (flits : List (List Nat)) (ctl : BitVec 40) : Statement (.linkBlockReceive port decoded flits ctl) := names _
theorem replayTimeout (port : Nat) : Statement (.replayTimeout port) := names _
theorem nakRepeatTimer (port : Nat) : Statement (.nakRepeatTimer port) := names _
theorem linkInit (port : Nat) : Statement (.linkInit port) := names _
theorem hello (port : Nat) : Statement (.hello port) := names _
theorem chartEnable (port : Nat) : Statement (.chartEnable port) := names _
theorem chartTime (port : Nat) : Statement (.chartTime port) := names _
theorem laneFail (port : Nat) : Statement (.laneFail port) := names _
theorem laneSwap (port : Nat) : Statement (.laneSwap port) := names _
theorem portDown (port : Nat) : Statement (.portDown port) := names _
theorem helloTimer (port : Nat) : Statement (.helloTimer port) := names _
theorem timeFlitTimer (port : Nat) : Statement (.timeFlitTimer port) := names _
theorem claimFixTimer : Statement (.claimFixTimer) := names _
theorem laneFailureDetect (port : Nat) (lane : Nat) : Statement (.laneFailureDetect port lane) := names _
theorem laneRemap (port : Nat) : Statement (.laneRemap port) := names _
theorem portFailure (port : Nat) : Statement (.portFailure port) := names _
theorem lossOfSignal (port : Nat) : Statement (.lossOfSignal port) := names _
theorem signalDetect (port : Nat) : Statement (.signalDetect port) := names _
theorem trainTimeout (port : Nat) : Statement (.trainTimeout port) := names _
theorem holdTimerExpiry (port : Nat) : Statement (.holdTimerExpiry port) := names _
theorem straitWriteArrival (port : Nat) : Statement (.straitWriteArrival port) := names _
theorem straitReadArrival (port : Nat) : Statement (.straitReadArrival port) := names _
theorem transferReplySend : Statement (.transferReplySend) := names _
theorem straitResponseArrival (port : Nat) : Statement (.straitResponseArrival port) := names _
theorem redirectResend (xid : Nat) : Statement (.redirectResend xid) := names _
theorem relayForward (port : Nat) : Statement (.relayForward port) := names _
theorem rtpEdge (width : Nat) : Statement (.rtpEdge width) := names _
theorem rtpLoss : Statement (.rtpLoss) := names _
theorem refclkBad (b : Bool) : Statement (.refclkBad b) := names _
theorem timeDepthLost : Statement (.timeDepthLost) := names _
theorem dbCmdTail (fn : Nat) (q : Nat) (value : Nat) (host : List (Nat × List Nat)) : Statement (.dbCmdTail fn q value host) := names _
theorem dbCplHead (fn : Nat) (q : Nat) (value : Nat) : Statement (.dbCplHead fn q value) := names _
theorem ntcDbHead (fn : Nat) (value : Nat) : Statement (.ntcDbHead fn value) := names _
theorem queCfgCommit (fn : Nat) (value : Nat) : Statement (.queCfgCommit fn value) := names _
theorem rstReqCold (fn : Nat) (value : Nat) : Statement (.rstReqCold fn value) := names _
theorem rstReqWarm (fn : Nat) (value : Nat) : Statement (.rstReqWarm fn value) := names _
theorem rstReqSoft (fn : Nat) (value : Nat) : Statement (.rstReqSoft fn value) := names _
theorem registerWrite (fn : Nat) (off : Nat) (size : Nat) (value : Nat) : Statement (.registerWrite fn off size value) := names _
theorem commandFetch (fn : Nat) (q : Nat) : Statement (.commandFetch fn q) := names _
theorem commandCompletionPost (fn : Nat) (q : Nat) : Statement (.commandCompletionPost fn q) := names _
theorem heldCompletionPost (work : Nat) : Statement (.heldCompletionPost work) := names _
theorem interruptCoalesceTimer (fn : Nat) (q : Nat) : Statement (.interruptCoalesceTimer fn q) := names _
theorem iciVersion (fn : Nat) (q : Nat) : Statement (.iciVersion fn q) := names _
theorem queryCaps (fn : Nat) (q : Nat) : Statement (.queryCaps fn q) := names _
theorem queueCreate (fn : Nat) (q : Nat) : Statement (.queueCreate fn q) := names _
theorem queueDelete (fn : Nat) (q : Nat) : Statement (.queueDelete fn q) := names _
theorem noticeRingSet (fn : Nat) (q : Nat) : Statement (.noticeRingSet fn q) := names _
theorem regionAlloc (fn : Nat) (q : Nat) : Statement (.regionAlloc fn q) := names _
theorem regionFree (fn : Nat) (q : Nat) : Statement (.regionFree fn q) := names _
theorem regionMap (fn : Nat) (q : Nat) : Statement (.regionMap fn q) := names _
theorem copy (fn : Nat) (q : Nat) (adm : Option Verdict) : Statement (.copy fn q adm) := names _
theorem migrate (fn : Nat) (q : Nat) (adm : Option Verdict) : Statement (.migrate fn q adm) := names _
theorem modelLoad (fn : Nat) (q : Nat) : Statement (.modelLoad fn q) := names _
theorem lagoonSet (fn : Nat) (q : Nat) : Statement (.lagoonSet fn q) := names _
theorem modelFree (fn : Nat) (q : Nat) : Statement (.modelFree fn q) := names _
theorem poolCreate (fn : Nat) (q : Nat) : Statement (.poolCreate fn q) := names _
theorem seqCreate (fn : Nat) (q : Nat) : Statement (.seqCreate fn q) := names _
theorem seqFork (fn : Nat) (q : Nat) : Statement (.seqFork fn q) := names _
theorem seqAppend (fn : Nat) (q : Nat) (adm : Option Verdict) : Statement (.seqAppend fn q adm) := names _
theorem seqTruncate (fn : Nat) (q : Nat) : Statement (.seqTruncate fn q) := names _
theorem seqFree (fn : Nat) (q : Nat) : Statement (.seqFree fn q) := names _
theorem poolFree (fn : Nat) (q : Nat) : Statement (.poolFree fn q) := names _
theorem planSubmit (fn : Nat) (q : Nat) (adm : Admission) : Statement (.planSubmit fn q adm) := names _
theorem planStart (fn : Nat) (q : Nat) : Statement (.planStart fn q) := names _
theorem planStop (fn : Nat) (q : Nat) : Statement (.planStop fn q) := names _
theorem planStageUpdate (fn : Nat) (q : Nat) (adm : Admission) : Statement (.planStageUpdate fn q adm) := names _
theorem planFree (fn : Nat) (q : Nat) : Statement (.planFree fn q) := names _
theorem attend (fn : Nat) (q : Nat) (adm : Option Verdict) : Statement (.attend fn q adm) := names _
theorem gemm (fn : Nat) (q : Nat) (adm : Option Verdict) : Statement (.gemm fn q adm) := names _
theorem batch (fn : Nat) (q : Nat) (adm : Option Verdict) : Statement (.batch fn q adm) := names _
theorem windowOpen (fn : Nat) (q : Nat) : Statement (.windowOpen fn q) := names _
theorem windowClose (fn : Nat) (q : Nat) : Statement (.windowClose fn q) := names _
theorem sliceJoin (fn : Nat) (q : Nat) : Statement (.sliceJoin fn q) := names _
theorem collective (fn : Nat) (q : Nat) (adm : Option Verdict) : Statement (.collective fn q adm) := names _
theorem sliceLeave (fn : Nat) (q : Nat) : Statement (.sliceLeave fn q) := names _
theorem capSet (fn : Nat) (q : Nat) : Statement (.capSet fn q) := names _
theorem energyRead (fn : Nat) (q : Nat) : Statement (.energyRead fn q) := names _
theorem nativeLoad (fn : Nat) (q : Nat) : Statement (.nativeLoad fn q) := names _
theorem nativeRun (fn : Nat) (q : Nat) : Statement (.nativeRun fn q) := names _
theorem nativeFree (fn : Nat) (q : Nat) : Statement (.nativeFree fn q) := names _
theorem tenantCreate (fn : Nat) (q : Nat) : Statement (.tenantCreate fn q) := names _
theorem tenantDestroy (fn : Nat) (q : Nat) : Statement (.tenantDestroy fn q) := names _
theorem partitionSet (fn : Nat) (q : Nat) : Statement (.partitionSet fn q) := names _
theorem sliceDefine (fn : Nat) (q : Nat) : Statement (.sliceDefine fn q) := names _
theorem linkEnable (fn : Nat) (q : Nat) : Statement (.linkEnable fn q) := names _
theorem firmwareStage (fn : Nat) (q : Nat) (authentic : Bool) : Statement (.firmwareStage fn q authentic) := names _
theorem firmwareActivate (fn : Nat) (q : Nat) : Statement (.firmwareActivate fn q) := names _
theorem firmwareHandover (faulted : Bool) : Statement (.firmwareHandover faulted) := names _
theorem paritySet (fn : Nat) (q : Nat) : Statement (.paritySet fn q) := names _
theorem tier3Register (fn : Nat) (q : Nat) : Statement (.tier3Register fn q) := names _
theorem powerEstimateTick (estimate : Nat) (measured : Nat) (shares : List Share) (plans : List (Nat × Nat × Nat)) : Statement (.powerEstimateTick estimate measured shares plans) := names _
theorem energyCorrection (estimated : Nat) (measured : Nat) : Statement (.energyCorrection estimated measured) := names _
theorem capCheck (avg : Nat) : Statement (.capCheck avg) := names _
theorem capEnforcementInstant : Statement (.capEnforcementInstant) := names _
theorem railCurrentLimit (rail : Nat) (sustained : Bool) : Statement (.railCurrentLimit rail sustained) := names _
theorem vrAlert (cause : Nat) : Statement (.vrAlert cause) := names _
theorem pwrBrakeN : Statement (.pwrBrakeN) := names _
theorem lowestStateExit : Statement (.lowestStateExit) := names _
theorem phaseFailOpen (rail : Nat) (phase : Nat) : Statement (.phaseFailOpen rail phase) := names _
theorem sparePhaseInService (rail : Nat) : Statement (.sparePhaseInService rail) := names _
theorem currentSenseCheck (rail : Nat) (phase : Nat) (reading : Sense) : Statement (.currentSenseCheck rail phase reading) := names _
theorem droopStretch (p : Nat) : Statement (.droopStretch p) := names _
theorem thermalRead (temps : List Nat) (alarm : Bool) : Statement (.thermalRead temps alarm) := names _
theorem powerReportSend (avg : Nat) : Statement (.powerReportSend avg) := names _
theorem powerReportReceive (group : Nat) (report : Nat) : Statement (.powerReportReceive group report) := names _
theorem loanTimeout (group : Nat) (lender : Bool) : Statement (.loanTimeout group lender) := names _
theorem holmQuadGate (q : Nat) (c : Nat) : Statement (.holmQuadGate q c) := names _
theorem holmQuadWake (q : Nat) (c : Nat) : Statement (.holmQuadWake q c) := names _
theorem deepIdleEnter : Statement (.deepIdleEnter) := names _
theorem straitGroupGate (g : Nat) : Statement (.straitGroupGate g) := names _
theorem codecDomainGate : Statement (.codecDomainGate) := names _
theorem powerUp : Statement (.powerUp) := names _
theorem bootStageComplete (stage : Nat) (found : BootFound) : Statement (.bootStageComplete stage found) := names _
theorem powerFailure : Statement (.powerFailure) := names _
theorem perstAssert : Statement (.perstAssert) := names _
theorem perstDeassert : Statement (.perstDeassert) := names _
theorem warmResetEntry : Statement (.warmResetEntry) := names _
theorem flrVf (v : Nat) : Statement (.flrVf v) := names _
theorem flrPf0 : Statement (.flrPf0) := names _
theorem pldmRackIdentity (value : Nat) : Statement (.pldmRackIdentity value) := names _
theorem pldmResetRequest (code : Nat) : Statement (.pldmResetRequest code) := names _
theorem pldmFirmwareUpdate (header : Nat) (authentic : Bool) : Statement (.pldmFirmwareUpdate header authentic) := names _
theorem spdmGetMeasurements : Statement (.spdmGetMeasurements) := names _
theorem jtagExtestExit : Statement (.jtagExtestExit) := names _
theorem thermalTripClear : Statement (.thermalTripClear) := names _
theorem hostLinkDown : Statement (.hostLinkDown) := names _
theorem holmPulseLoss (p : Nat) : Statement (.holmPulseLoss p) := names _
theorem recoverySlack : Statement (.recoverySlack) := names _
theorem stageReplay : Statement (.stageReplay) := names _
theorem rowFaultRecovery : Statement (.rowFaultRecovery) := names _
theorem mgmtCoreFault (survivor : Option Nat) : Statement (.mgmtCoreFault survivor) := names _
theorem refclkGood (b : Bool) : Statement (.refclkGood b) := names _
theorem pwrBrakeNDeassert : Statement (.pwrBrakeNDeassert) := names _
theorem dieToDieLaneFailure (link : Nat) (lane : Nat) : Statement (.dieToDieLaneFailure link lane) := names _
theorem droopStretchEnd (p : Nat) : Statement (.droopStretchEnd p) := names _
theorem registerRead (fn : Nat) (off : Nat) (size : Nat) : Statement (.registerRead fn off size) := names _
theorem vfEnableWrite (on : Bool) (num : Nat) : Statement (.vfEnableWrite on num) := names _
theorem unconfinedFault : Statement (.unconfinedFault) := names _
theorem hostLinkUp : Statement (.hostLinkUp) := names _
theorem coldResetOffEnd : Statement (.coldResetOffEnd) := names _
theorem jtagExtestSelect : Statement (.jtagExtestSelect) := names _

end Sys2Proof.Laws.Row
end

