-- ==== Sys2Proof/Tests/Slice0.lean ====
section
/-! SUPPORT. Tests: what the well-formedness checks refuse, single commands on small states, and for every statement with hypotheses a state
that meets them. Expected results are read off the rules of the spec that the names or comments cite. -/

namespace Sys2Proof.Tests

open Sys2Proof Sys2Proof.Machine

set_option Elab.async false

/-! ### Ill-formed commands -/

theorem test_wf_holm : (Instr.nop 271).wellFormed = true ∧ (Instr.nop 272).wellFormed = false := by decide
theorem test_wf_barrier : (Instr.barrierArrivalEffect 0 63).wellFormed = true ∧ (Instr.barrierArrivalEffect 0 64).wellFormed = false := by decide
theorem test_wf_channel : (Instr.cwait 0 7).wellFormed = true ∧ (Instr.cwait 0 8).wellFormed = false := by decide
theorem test_wf_line : (Instr.scrubVisit 0 131071 []).wellFormed = true ∧ (Instr.scrubVisit 0 131072 []).wellFormed = false := by decide
theorem test_wf_row : (Instr.rowRepairCopy 0 63 2047).wellFormed = true ∧ (Instr.rowRepairCopy 0 64 0).wellFormed = false ∧
    (Instr.rowRepairCopy 0 0 2048).wellFormed = false := by decide
theorem test_wf_bytes : (Instr.hbmWrite 0 [255]).wellFormed = true ∧ (Instr.hbmWrite 0 [256]).wellFormed = false ∧
    (Instr.codecRewrite 0 0 [256]).wellFormed = false := by decide
theorem test_wf_scrub : (Instr.patrolScrub 0 2).wellFormed = true ∧ (Instr.patrolScrub 0 3).wellFormed = false := by decide
theorem test_wf_port : (Instr.hello 31).wellFormed = true ∧ (Instr.hello 32).wellFormed = false := by decide
theorem test_wf_lane : (Instr.laneFailureDetect 0 4).wellFormed = true ∧ (Instr.laneFailureDetect 0 5).wellFormed = false := by decide
theorem test_wf_queue : (Instr.commandFetch 1024 7).wellFormed = true ∧ (Instr.commandFetch 1025 0).wellFormed = false ∧
    (Instr.commandFetch 0 8).wellFormed = false := by decide
theorem test_wf_function : (Instr.ntcDbHead 1025 0).wellFormed = false ∧ (Instr.flrVf 0).wellFormed = false := by decide
theorem test_wf_rail : (Instr.sparePhaseInService 7).wellFormed = true ∧ (Instr.sparePhaseInService 8).wellFormed = false := by decide
theorem test_wf_group : (Instr.powerReportReceive 6 0).wellFormed = false ∧ (Instr.loanTimeout 6 true).wellFormed = false := by decide
theorem test_wf_domain : (Instr.holmQuadGate 4 0).wellFormed = false ∧ (Instr.holmQuadWake 0 17).wellFormed = false ∧
    (Instr.straitGroupGate 8).wellFormed = false := by decide
theorem test_wf_die_link : (Instr.dieToDieLaneFailure 8 0).wellFormed = false ∧ (Instr.dieToDieLaneFailure 0 512).wellFormed = false := by decide
theorem test_wf_vfs : (Instr.vfEnableWrite true 1025).wellFormed = false := by decide

/-! ### Small states -/

def tInv : Invocation :=
  { work := 1, tidal := true, exportPerm := true, lg := 0, index := 0, size := 64, epoch := 0, tide := 0, stage := 0, part := 0, ending := false }

/-- A running holm with a program, one matrix and one vector shape of no rows, and a pricking in slot 0. -/
def tHolm (w : Nat) : Holm :=
  { Holm.reset .running with
    program := ⟨[BitVec.ofNat 128 w], [BitVec.ofNat 256 (2 ^ 254), BitVec.ofNat 256 (2 ^ 255)], false⟩
    inv := some tInv, prickings := [(0, ⟨false, []⟩)] }

/-- A module after reset with one holm of interest. -/
def tState (h : Holm) : State := { State.reset with holms := [(0, h)] }

def tAt (w : Nat) : State := tState (tHolm w)

/-- The next state of an outcome. -/
def after (o : Out) : State := match o with | .next t => t | .fault _ => State.reset | .refused _ => State.reset

theorem tAt_word (w : Nat) : (tAt w).atWord 0 (BitVec.ofNat 128 w) := ⟨by decide, rfl, rfl, rfl⟩

/-! ### Holm instructions -/

/-- NOP goes on (R300). -/
theorem test_nop : ((after (exec (.nop 0) (tAt 0))).holm 0).pc = 1 := by decide +kernel
/-- In a tidal invocation TIDE ends it and HALT is a fault (R323). -/
theorem test_tide : (((after (exec (.tide 0) (tAt 2))).holm 0).inv.map (·.ending)) = some true := by decide +kernel
theorem test_halt_tidal : (((after (exec (.halt 0) (tAt 1))).holm 0).fault.map (·.status)) = some .badCommand := by decide +kernel
/-- LOOP SET of register 3 with immediate 7 (R322). -/
theorem test_loop_set : (((after (exec (.loopSet 0) (tAt (0x04 + 2 ^ 10 * 3 + 2 ^ 32 * 7)))).holm 0).g.getD 3 0) = 7 := by decide +kernel

theorem witness_ControlWords : (tAt 0).atWord 0 0 ∧ (tAt 2).atWord 0 2 ∧ (tAt 1).atWord 0 1 ∧ (tAt 3).atWord 0 3 ∧
    fld 3 0 8 = 0x03 ∧ fld 3 8 4 ≤ 4 ∧ fld 3 29 3 = 0 ∧ fld 3 64 64 = 0 ∧ fld 3 12 5 < 0x18 ∧ fld 3 17 12 < ((tAt 3).holm 0).program.words.length :=
  ⟨tAt_word 0, tAt_word 2, tAt_word 1, tAt_word 3, by decide +kernel⟩

theorem witness_LoopWords : (tAt 0x304).atWord 0 0x304 ∧ fld 0x304 0 8 = 0x04 ∧ bitAt 0x304 31 = false ∧ fld 0x304 64 64 = 0 ∧
    fld 0x304 8 2 = 3 ∧ fld 0x304 14 5 = 0 ∧ fld 0x304 32 32 = 0 ∧ fld 0x304 19 12 ≤ ((tAt 0x304).holm 0).pc :=
  ⟨tAt_word 0x304, by decide +kernel⟩

/-- The work of `tInv`: one stage on logical holm 0 that declares barrier 0 of rank 0 with two participants. -/
def tStage : Stage :=
  { part := 0, holms := [0], lagoon := 0, tamio := false, lagImg := 0, lagStride := 0, program := none, picots := [], prickings := []
    wheel := .general, exposure := [], barriers := [(0, 0, 2)], rings := [], colls := [], cslots := [], oplist := [], ckpts := [] }

def tWork : Work :=
  { kind := .plan, handle := 9, tenant := 5, fn := 1, q := 0, tag := 0, arch := 0, exportPerm := true, shapeInv := false, stages := [tStage]
    period := 1000000, s0 := 0, earliest := 0, started := true, startCmd := none, stopCmds := [], stopping := false, update := none
    updateCmds := [], cmd := none, tide := 0, running := true, closeAt := none, lastSlack := 0, status := .done, degraded := false
    faults := [], barriers := [(barKey 0 0, ⟨0, 2, 0, 0, [], []⟩)], waves := [], landPos := [], keep := [], ckptAt := [], ckptCounts := []
    opAt := [], held := [], power := 0, suspended := none, restoreDue := false, demoted := false, seg := 0, learned := [], observed := []
    admitted := [0, 0, 0, 0], energy := 0, stopped := false, order := 0 }

/-- A module with that work. -/
def tWorks (h : Holm) (w : Work) : State := { tState h with isth := { IsthState.reset with works := [(1, w)] } }

theorem witness_BarrierWords : (tWorks (tHolm 0x08) tWork).atWord 0 0x08 ∧ fld 0x08 0 8 = 0x08 ∧ fld 0x08 8 2 = 0 ∧
    lookBar ((tWorks (tHolm 0x08) tWork).lookCtx (tHolm 0x08)) (tHolm 0x08).look 0x08 = .ok ⟨0, 0, 0⟩ ∧
    lookBar ((tWorks (tHolm 0x08) tWork).lookCtx (tHolm 0x08)) (tHolm 0x08).look 0x108 = .ok ⟨1, 0, 0⟩ ∧
    (tWorks (tHolm 0x08) tWork).ringBar (tHolm 0x08) 0 = false :=
  ⟨⟨by decide, rfl, rfl, rfl⟩, by decide +kernel, by decide +kernel, by rfl, by rfl, by decide +kernel⟩

def tArriving : Holm := { tHolm 0 with arrivals := [⟨0, [], []⟩] }

theorem witness_ArrivalsAndWaves :
    let s := tWorks tArriving tWork
    s.liveHolm 0 ∧ (s.holm 0).inv = some tInv ∧ s.readyArrival 0 0 (s.holm 0) = some ⟨0, [], []⟩ ∧ s.work? 1 = some tWork ∧
      tWork.barriers.get? (barKey 0 0) = some ⟨0, 2, 0, 0, [], []⟩ ∧ s.physOf? 0 = some 0 :=
  ⟨⟨by decide, rfl⟩, by decide +kernel, by decide +kernel, by decide +kernel, by decide +kernel, by decide +kernel⟩

theorem witness_ArrivalsAndWaves_wave :
    let v : Wave := ⟨.release (barKey 0 0) 1, [0], 0, 0⟩
    let s := tWorks (tHolm 0) { tWork with waves := [v] }
    s.work? 1 = some { tWork with waves := [v] } ∧ sortBy (fun (a b : Wave) => decide (a.due < b.due)) [v] = [v] := by decide +kernel

/-- An RNG over line 0 that waits for the first arrival (R320). -/
def rngWord : Nat := 0x109 + 2 ^ 57

theorem witness_ScoreboardEntries : (tAt rngWord).liveHolm 0 ∧ (tAt rngWord).atWord 0 (BitVec.ofNat 128 rngWord) ∧ fld rngWord 0 8 = 0x09 ∧
    lookRng ((tAt rngWord).lookCtx (tHolm rngWord)) (tHolm rngWord).look rngWord = .ok ⟨1, 0, 0, 0, 0, 1⟩ ∧
    (tAt rngWord).eventHolds (tHolm rngWord) (.arrivals 1) = false :=
  ⟨⟨by decide, rfl⟩, tAt_word rngWord, by decide +kernel, by rfl, by decide +kernel⟩

/-- A DECLARED entry whose event has occurred retires (R45). -/
theorem test_declared_retires :
    ((after (exec (.declaredEntryRetire 0 4) (tState { tHolm 0 with scoreboard := [⟨4, .declared, 0, 0, [], .arrivals 0⟩] }))).holm 0).scoreboard = [] := by
  decide +kernel

def tTen : TenState := ⟨[(5, ⟨1, ⟨9, 9, 9, 9, 9, 9⟩, [(0, ⟨1, true, false, none, false, 3⟩)], 0⟩)], [(0, ⟨5, 3⟩)], []⟩

/-- Two holms of one partition, of a tenant with one page of tier 1. -/
def tPair (h : Holm) : State := { State.reset with holms := [(0, h), (1, Holm.reset .idle)], ten := tTen, isth := { IsthState.reset with works := [(1, tWork)] } }

theorem witness_Messages :
    let w := 0x0A + 2 ^ 9
    (tPair (tHolm w)).atWord 0 (BitVec.ofNat 128 w) ∧ fld w 0 8 = 0x0A ∧ bitAt w 8 = false ∧ lookMsg (tHolm w).look w = .ok ⟨false, 1, 0⟩ ∧
      (tHolm w).canIssue [.msg] [(0, 1)] [] = true ∧ (tPair (tHolm w)).peerLg? (tHolm w) 1 = some 1 ∧ (tPair (tHolm w)).physOf? 1 = some 1 :=
  ⟨⟨by decide, rfl, rfl, rfl⟩, by decide +kernel, by decide +kernel, by rfl, by decide +kernel, by decide +kernel, by decide +kernel⟩

def tMsg : NetReq :=
  { kind := .msg, src := 0, srcLg := 0, seq := 0, ch := 0, pc := 0, tile := 0, tgtLg := 1, tgtPhys := 1, epoch := 0, addr := 0, lines := 2, local_ := 0
    data := List.replicate 64 7, accepted := false, arrived := 0, resp := none, held := false }

theorem witness_Messages_arrival :
    let s := { tPair (tHolm 0) with reqs := [(0, tMsg)] }
    s.reqs.get? 0 = some tMsg ∧ s.roleOk tMsg = true := by decide +kernel

theorem witness_MatrixWords : (tAt 0x10).atWord 0 0x10 ∧ fld 0x10 0 8 = 0x10 ∧ (tHolm 0x10).canIssue [.mxe] [] [] = true ∧
    (match lookMma ((tAt 0x10).lookCtx (tHolm 0x10)) (tHolm 0x10).look 0x10 with
      | .ok m => m.emit = false ∧ m.prob.m = 0 ∧ (tHolm 0x10).poison.any m.prob.reads = false
      | .error _ => False) :=
  ⟨tAt_word 0x10, by decide +kernel, by decide +kernel, ⟨rfl, rfl, rfl⟩⟩

theorem witness_AttentionWords : (tAt 0x18).atWord 0 0x18 ∧ fld 0x18 0 8 = 0x18 ∧ lookAts (tHolm 0x18).look 0x18 8 = .ok 0 ∧
    cbFree (tHolm 0x18) [] 0 256 = true ∧ cbPoisoned (tHolm 0x18) 0 8 = false ∧
    (⟨rdLE (tHolm 0x18).rd 0 256⟩ : Acb).check 0 (fun i => ((tHolm 0x18).picots.get? i).isSome) (tHolm 0x18).mayExport = some .badCommand :=
  ⟨tAt_word 0x18, by decide +kernel, by rfl, by decide +kernel, by decide +kernel, by decide +kernel⟩

theorem witness_VectorWords : (tAt 0x120).atWord 0 0x120 ∧ fld 0x120 0 8 = 0x20 ∧ (tHolm 0x120).canIssue [.vec] [] [] = true ∧
    (match lookVop ((tAt 0x120).lookCtx (tHolm 0x120)) (tHolm 0x120).look 0x120 with | .ok v => v.rows = 0 | .error _ => False) ∧
    (match lookCvt ((tAt 0x121).lookCtx (tHolm 0x121)) (tHolm 0x121).look 0x121 with | .ok v => v.rows = 0 | .error _ => False) ∧
    (match lookSfn ((tAt 0x128).lookCtx (tHolm 0x128)) (tHolm 0x128).look 0x128 with | .ok v => v.rows = 0 | .error _ => False) :=
  ⟨tAt_word 0x120, by decide +kernel, by decide +kernel, rfl, rfl, rfl⟩

theorem witness_BobbinCommands : (tAt 0x30).atWord 0 0x30 ∧ ((tAt 0x30).holm 0).bobq = [] ∧ fld 0x30 0 8 = 0x30 ∧ fld 0x30 8 3 = 0 ∧
    lookBob ((tAt 0x30).lookCtx (tHolm 0x30)) (tHolm 0x30).look 0x30 = .ok (.start 0 0 1 0) ∧ (tHolm 0x30).canIssue [.bob] [(0, 1)] [] = true ∧
    ((tHolm 0x30).chan 0).idle = true ∧ lookBob ((tAt 0x30).lookCtx (tHolm 0x30)) (tHolm 0x30).look 0x130 = .ok (.stop 0) :=
  ⟨tAt_word 0x30, rfl, by decide +kernel, by decide +kernel, by rfl, by decide +kernel, by decide +kernel, by rfl⟩

/-- A holm whose in-channel 0 has come to a pricking instruction. -/
def tPrick (w : Nat) : Holm :=
  { tHolm 0 with
    prickings := [(0, ⟨false, [BitVec.ofNat 64 w]⟩)]
    chans := setAt (List.replicate 8 Chan.reset) 0 { Chan.reset with active := true, loaded := true, depth := 2 } }

theorem tPrick_at (w : Nat) : (tPrick w).prickWord 0 = some (w % 2 ^ 64) := by
  simp [tPrick, Holm.prickWord, Holm.chan, setAt, AMap.get?, Chan.reset, tHolm, Holm.reset]

theorem witness_PrickingRegisters : (tState (tPrick (2 ^ 61))).atPrick 0 0 (2 ^ 61) ∧ fld (2 ^ 61) 60 4 = 0x2 ∧ fld (2 ^ 61 * 3) 60 4 = 0x6 :=
  ⟨⟨⟨by decide, rfl⟩, by decide +kernel⟩, by decide +kernel, by decide +kernel⟩

/-- ADD of the immediate −1 to address register 0 wraps (R217). -/
theorem test_pricking_add :
    ((((after (exec (.prickingAdd 0 0) (tState (tPrick (2 ^ 61 + 2 ^ 40 - 1))))).holm 0).chan 0).ar.getD 0 0).toNat = 2 ^ 48 - 1 := by decide +kernel

theorem witness_PrickingRequests :
    let w := 2 ^ 60
    let s := { tPair (tPrick w) with ten := tTen }
    s.atPrick 0 0 w ∧ fld w 60 4 = 0x1 ∧ (emitOf w).kind = 0 ∧ ((tPrick w).chan 0).tileOpen = false ∧ ((tPrick w).chan 0).unfreed < ((tPrick w).chan 0).depth ∧
      s.memRead (s.tenantOfHolm 0) 0 32 = .ok (List.replicate 32 0) ∧ fld (7 * 2 ^ 60) 60 4 = 0x7 :=
  ⟨⟨⟨by decide, rfl⟩, by decide +kernel⟩, by decide +kernel, by decide +kernel, by decide +kernel, by decide +kernel, by rfl, by decide +kernel⟩

def tChan (c : Chan) : State := tState { tHolm 0 with chans := setAt (List.replicate 8 Chan.reset) 0 c }

theorem witness_ChannelEvents :
    let s := tChan { Chan.reset with active := true, paramEntry := some 3 }
    let d := tChan { Chan.reset with active := true, ended := true, failed := some (.badAddress, 0, 0) }
    s.liveHolm 0 ∧ ((s.holm 0).chan 0).paramEntry = some 3 ∧ (s.holm 0).st = .running ∧ (s.holm 0).poisonedIn 0 1 = false ∧
      ((d.holm 0).chan 0).failed = some (.badAddress, 0, 0) ∧ (d.holm 0).fault = none :=
  ⟨⟨by decide, rfl⟩, by decide +kernel⟩

theorem witness_RemoteAccesses :
    let r := { tMsg with kind := .write, data := List.replicate 32 1, lines := 1 }
    let s := { tPair (tHolm 0) with reqs := [(0, r)], holms := [(0, tHolm 0), (1, { Holm.reset .idle with exposure := [⟨0, 0, 2⟩] })] }
    s.reqs.get? 0 = some r ∧ r.kind ≠ .msg ∧ r.resp = none ∧ (s.holm 1).st ≠ .gated ∧ s.roleOk r = true ∧ s.samePart r = true ∧
      (s.holm 1).exposed 0 0 1 = true := by decide +kernel

theorem witness_HolmEvents :
    let s := { State.reset with holms := [(0, tHolm 0), (64, Holm.reset .spare)], isth := { IsthState.reset with works := [(1, tWork)] } }
    let e := tWorks { tHolm 2 with inv := some { tInv with ending := true } } tWork
    s.liveHolm 0 ∧ (s.holm 0).st = .running ∧ (s.holm 0).inv = some tInv ∧ (s.holm 0).fault = none ∧ s.spareOf? 0 = some 64 ∧
      tWork.stages[0]? = some tStage ∧ tStage.oplist = [] ∧ e.quiet 0 (e.holm 0) = true ∧ s.lgOf? 0 = some 0 :=
  ⟨⟨by decide, rfl⟩, by decide +kernel⟩

theorem witness_HolmUpkeep :
    let h := { Holm.reset .idle with written := [(0, 0)] }
    (tState h).liveHolm 0 ∧ h.st ≠ .fusedOut ∧ h.st ≠ .gated ∧ h.written.has 0 = true ∧ State.spareRow? h 0 = some 0 ∧
      State.rowTaken h 0 0 = false ∧ (tState h).lgOf? 0 = some 0 :=
  ⟨⟨by decide, rfl⟩, by decide +kernel⟩

/-- A corrected error of a written line is counted (R94). -/
theorem test_scrub_counts : ((after (exec (.scrubVisit 0 0 [(3, false)]) (tState { Holm.reset .idle with written := [(0, 0)] }))).holm 0).ceCount = 1 := by
  decide +kernel

/-! ### The queue, resets, registers -/

theorem witness_StepRunsFrontCommand :
    let s := State.reset
    let at_ (f : RackTime) : State := { s with net := { s.net with time := f } }
    s.pending = [] ∧ s.boot.phase ≠ .off ∧ s.ten.changes = [] ∧ s.kv.commits = [] ∧ s.mem.moves = [] ∧ s.net.time.hold = 0 ∧
      (s.net.time.now % 1000 ≠ 999 ∨ s.net.time.slew = 0) ∧ 5 * s.net.time.ticks / 64 = 5 * (s.net.time.ticks + 1) / 64 ∧
      (at_ { RackTime.reset with hold := 1 }).net.time.hold ≠ 0 ∧ 0 < (at_ { RackTime.reset with now := 999, slew := 1 }).net.time.slew ∧
      (at_ { RackTime.reset with now := 999, slew := -1 }).net.time.slew < 0 := by decide +kernel

/-- The front command runs, and the rest of the queue waits. -/
theorem test_step_front : (after (step { State.reset with pending := [.claimFixTimer, .deepIdleEnter] })).pending = [.deepIdleEnter] := by decide +kernel

/-- An idle nanosecond counts one (R396). -/
theorem test_idle_tick : (after (step State.reset)).net.time.now = 1 := by decide +kernel

theorem witness_QuadrantsServeThemselves :
    State.reset.remapOk ∧ (∃ t, step { State.reset with pending := [.claimFixTimer] } = .next t) ∧ State.reset.physOf? 255 = some 267 := by
  refine ⟨?_, ⟨_, rfl⟩, by decide +kernel⟩
  unfold State.remapOk
  decide +kernel

theorem witness_MemoryStaysCanonical : State.reset.memOk ∧ ∃ t, step { State.reset with pending := [.hbmWrite 0 [1]] } = .next t := by
  refine ⟨?_, ⟨_, rfl⟩⟩
  unfold State.memOk
  decide +kernel

theorem witness_CommandsRunToTheEnd :
    let s := { State.reset with pending := [Instr.nop 271, .hello 31, .sparePhaseInService 7] }
    (∀ c ∈ s.pending, c.wellFormed = true) ∧ s.pending.length = 3 := by decide +kernel

theorem witness_NoSuchUnit : exec (.nop 272) State.reset = .fault .noSuchHolm ∧ exec (.hello 32) State.reset = .fault .noSuchPort ∧
    exec (.sparePhaseInService 8) State.reset = .fault .noSuchRail := ⟨rfl, rfl, rfl⟩

/-- PF0 has a notice ring of 64 entries with two posted. -/
def tRing : State := { State.reset with isth := { IsthState.reset with rings := [(0, ⟨0x1000, 6, 0, 2, 0⟩)] } }

theorem witness_NoticeDoorbell :
    let r : NtcRing := ⟨0x1000, 6, 0, 2, 0⟩
    tRing.reachable 0 = true ∧ tRing.boot.phase = .ready ∧ State.reset.isth.rings.get? 0 = none ∧ tRing.isth.rings.get? 0 = some r ∧
      ((r.head + 2) % 2 ^ r.log2 = 2 ∧ r.head + 2 ≤ r.tail) ∧ ((r.head + 3) % 2 ^ r.log2 = 3 ∧ r.tail < r.head + 3) ∧ 2 ^ r.log2 ≤ 64 := by decide +kernel

/-- The head moves to the value written; the last entry not posted is refused (R567). -/
theorem test_notice_head : (((after (exec (.ntcDbHead 0 2) tRing)).isth.rings.get? 0).map (·.head)) = some 2 ∧
    (((after (exec (.ntcDbHead 0 3) tRing)).isth.rings.get? 0).map (·.head)) = some 0 := by decide +kernel

theorem witness_ResetRequest :
    let s := State.reset
    s.reachable 0 = true ∧ s.boot.phase = .ready ∧ 0x4C4D0003 < 2 ^ 32 ∧ fld 0x4C4D0001 16 16 = 0x4C4D ∧ fld 0x4C4D0001 2 14 = 0 ∧
      0x4C4D0001 % 4 = 1 ∧ 0x4C4D0002 % 4 = 2 ∧ 0x4C4D0003 % 4 = 3 ∧ 0x4C4D0000 % 4 = 0 ∧ fld 0x4C4C0001 16 16 ≠ 0x4C4D := by decide +kernel

/-- A cold reset switches the rails off; a wrong confirmation does nothing but a bus error (R571). -/
theorem test_reset_request : (after (exec (.rstReqCold 0 0x4C4D0001) State.reset)).boot.phase = .railsOff ∧
    (after (exec (.rstReqCold 0 0x4C4C0001) State.reset)).boot.phase = .ready := by decide +kernel

/-- PF0's queue 0 setup block with a ring of 64 entries and the words' low half written; and queue 0 itself. -/
def tQue (base cfg : Nat) (qs : AMap Que) : State :=
  { State.reset with isth := { IsthState.reset with regs := [(0, { QueRegs.reset with cmdBase := base, cplBase := 0x2000, cfg := cfg })], queues := qs } }

def tQ : Que := Que.armed 0x1000 0x2000 6 4 0 1 0

theorem witness_QueueZeroSetup :
    let v := 2 ^ 31 + 2 ^ 8 * 4
    let cfg (b : Nat) : Nat := ((tQue b 6 []).queRegs 0).cfg % 2 ^ 32 + 2 ^ 32 * v
    let s := tQue 0x1000 6 []
    s.reachable 0 = true ∧ s.bootFailed = false ∧ v < 2 ^ 32 ∧
      (fld (cfg 0x1000) 5 3 = 0 ∧ fld (cfg 0x1000) 11 5 = 0 ∧ fld (cfg 0x1000) 34 6 = 0 ∧ fld (cfg 0x1000) 48 15 = 0 ∧ fld (cfg 0x1000) 0 5 = 6) ∧
      bitAt (cfg 0x1000) 63 = true ∧ (s.queRegs 0).cmdBase % 4096 = 0 ∧ ((tQue 0x1001 6 []).queRegs 0).cmdBase % 4096 ≠ 0 ∧
      s.minors.1 ≤ fld (cfg 0x1000) 40 8 ∧ fld (cfg 0x1000) 40 8 ≤ s.minors.2 ∧ s.que? 0 0 = none ∧ fld (((tQue 0 5 []).queRegs 0).cfg) 0 5 < 6 ∧
      (tQue 0x1000 6 [(0, tQ)]).que? 0 0 = some tQ ∧ tQ.stopFetch = false ∧ tQ.err = false ∧ (tQue 0x1000 6 [(0, tQ)]).planOn 0 0 = false ∧
      (tQue 0x1000 6 [(0, tQ)]).inProgress 0 0 = 0 := by decide +kernel

/-- The commit sets queue 0 up with empty rings; a base that is not aligned is BAD_ADDRESS, 3 (R564, R434). -/
theorem test_queue_setup : (((after (exec (.queCfgCommit 0 (2 ^ 31 + 2 ^ 8 * 4)) (tQue 0x1000 6 []))).que? 0 0).map (·.size)) = some 64 ∧
    ((after (exec (.queCfgCommit 0 (2 ^ 31 + 2 ^ 8 * 4)) (tQue 0x1001 6 []))).que? 0 0) = none := by decide +kernel

theorem witness_Doorbells :
    let s := tQue 0x1000 6 [(0, { tQ with cplTail := 2 })]
    s.reachable 0 = true ∧ s.bootFailed = false ∧ s.boot.phase = .ready ∧ s.que? 0 7 = none ∧ s.que? 0 0 = some { tQ with cplTail := 2 } ∧ tQ.size = 64 ∧
      ((0 + 2) % 64 = 2 ∧ 0 + 2 ≤ 2) ∧ ((0 + 3) % 64 = 3 ∧ 2 < 0 + 3) := by decide +kernel

/-- A tail at the ring's size puts the queue into ERROR, one below it moves the tail (R425). -/
theorem test_doorbell : (((after (exec (.dbCmdTail 0 0 63 []) (tQue 0x1000 6 [(0, tQ)]))).que? 0 0).map (·.tail)) = some 63 ∧
    (((after (exec (.dbCmdTail 0 0 64 []) (tQue 0x1000 6 [(0, tQ)]))).que? 0 0).map (·.err)) = some true := by decide +kernel

theorem witness_RegisterAccesses :
    State.reset.reachable 1 = false ∧ State.reset.reachable 0 = true ∧ State.reset.bootFailed = false ∧ (findReg 0 0x9000 4).isSome = true ∧
      findReg 0 0x9001 4 = none ∧ findReg 0 0x9000 2 = none ∧ (findReg 0 0x1C 4).map (·.1) = some .coord := by decide +kernel

/-- One access to a location that is not implemented is counted (R13, R557). -/
theorem test_bus_error : (after (exec (.registerRead 0 0x9001 4) State.reset)).boot.busErrors = 1 := by decide +kernel

def tPhase (p : BootPhase) (k : StartKind) (stages : List Nat) : State :=
  { State.reset with boot := { BootState.reset with phase := p, kind := k, stages := stages } }

theorem witness_StartsAndResets :
    (tPhase .off .powerUp []).pow.trip = false ∧ (tPhase .off .powerUp []).boot.phase = .off ∧ (tPhase .entryDue .warm []).boot.kind = .warm ∧
      (tPhase .entryDue .soft []).boot.phase = .entryDue ∧ (tPhase .railsOff .cold []).boot.phase = .railsOff := by decide +kernel

def tFound (ok : Bool) : BootFound := ⟨ok, [true, true], [], [], [], [], []⟩

theorem witness_BootStages :
    let at_ (k : Nat) : State := tPhase .booting .powerUp ((List.range k).filter (· != 0))
    (∀ k ∈ [1, 2, 3, 4, 5, 6, 7, 8, 9, 10], (at_ k).boot.phase = .booting ∧ k ∉ (at_ k).boot.stages ∧ ∀ j, 1 ≤ j → j < k → j ∈ (at_ k).boot.stages) ∧
      (at_ 2).slotOk (tFound true).authentic 0 = true ∧ (at_ 2).slotOk [false, false] 0 = false ∧ (at_ 2).slotOk [false, false] 1 = false ∧
      (at_ 3).boot.repairs = [] ∧ (at_ 7).mem.failedStacks = [] ∧ (at_ 9).boot.pins.perstN = true ∧
      ∀ q ∈ (at_ 8).net.ports, q.st ∈ [PortSt.down, .charted, .failed, .chart] := by
  refine ⟨?_, by decide +kernel⟩
  intro k hk
  fin_cases hk <;> (refine ⟨rfl, by decide, ?_⟩; intro j h1 h2; interval_cases j <;> decide)

/-- READY ends the boot; a failed check of RAILS is cause 1 (R533). -/
theorem test_boot : (after (exec (.bootStageComplete 10 (tFound true)) (tPhase .booting .powerUp [1, 2, 3, 4, 5, 6, 7, 8, 9]))).boot.phase = .ready ∧
    (after (exec (.bootStageComplete 3 (tFound false)) (tPhase .booting .powerUp [1, 2]))).boot.phase = .failed 1 := by decide +kernel

def tMove : Move := ⟨5, 0, 1, 3, 3, 0x10000000, 0, none, none, 0⟩

theorem witness_HostLinkAndPins :
    let s := { State.reset with mem := { MemState.reset with moves := [tMove] } }
    State.reset.controlled = true ∧ State.reset.boot.phase = .ready ∧ State.reset.mem.moves = [] ∧ (tPhase .off .cold []).controlled = false ∧
      s.mem.moves = [tMove] ∧ tMove.dstTier = 3 ∧ State.reset.boot.pins.perstN = true := by decide +kernel

theorem witness_PartFaults :
    let s := State.reset
    let f (x : FaultState) : State := { s with flt := x }
    s.live = true ∧ s.flt.spareCore = some 2 ∧ s.flt.pair = [0, 1] ∧ (f { FaultState.reset with spareCore := none }).flt.spareCore = none ∧
      0 < s.flt.laneSpares.getD 15 8 ∧ (f { FaultState.reset with laneSpares := [(15, 0)] }).flt.laneSpares.getD (2 * 7 + 511 / 256) 8 = 0 ∧
      s.pow.trip = false ∧ (∃ x ∈ [119, 120], 120 ≤ x) := by decide +kernel

/-- The spare core takes over with no effect on the module; 120 degrees switch it off (R500, R529). -/
theorem test_faults : (after (exec (.mgmtCoreFault (some 0)) State.reset)).flt.pair = [2, 0] ∧
    (after (exec (.thermalRead [119, 119, 119, 119, 119] false) State.reset)).boot.phase = .ready ∧
    (after (exec (.thermalRead [0, 0, 0, 0, 120] false) State.reset)).boot.phase = .off := by decide +kernel

theorem witness_SidebandRequests :
    let s := State.reset
    let r := tPhase .recovery .powerUp [1]
    s.smbusUp = true ∧ s.net.rackId = 0 ∧ { s with net := { s.net with rackId := 1 } }.net.rackId ≠ 2 ∧ s.resetting = false ∧
      (tPhase .entryDue .warm []).smbusUp = true ∧ (tPhase .entryDue .warm []).resetting = true ∧ s.boot.phase ≠ .recovery ∧
      r.smbusUp = true ∧ r.boot.phase = .recovery ∧ s.boot.phase = .ready ∧ s.boot.pins.perstN = true ∧ s.boot.extest = false ∧
      { s with boot := { s.boot with extest := true } }.smbusUp = true ∧ (r.imageOf? 2 true).isSome = true ∧ (r.imageOf? 2 false).isSome = true ∧
      fld 2 0 16 = 2 ∧ fld 2 16 2 ∉ r.boot.revoked ∧ r.boot.minSvn ≤ fld 2 24 6 := by decide +kernel

def tVf : State := { State.reset with boot := { BootState.reset with vfEnable := true, numVfs := 1024 } }

theorem witness_FunctionResets :
    tVf.reachable 1024 = true ∧ tVf.boundTo 1024 = none ∧ tVf.mem.moves = [] ∧ State.reset.reachable 0 = true ∧ State.reset.boot.vfEnable = false ∧
      State.reset.mem.moves = [] ∧ tVf.reachable 0 = true ∧ tVf.boot.vfEnable = true ∧ tVf.reachable 1025 = false := by decide +kernel

/-! ### Power -/

def tPow (p : PowerState) : State := { State.reset with pow := p }

theorem witness_PowerTicks :
    let s := { State.reset with ten := tTen }
    let e (x : PowerState) : State := tPow x
    s.controlled = true ∧ (s.tenant? 5).isSome = true ∧ s.pow.enforcing = false ∧
      (e { PowerState.reset with enforcing := true }).pow.effCap = 2500 ∧ s.pow.excess = none ∧ s.pow.enforceFrom ≤ s.now ∧
      (e { PowerState.reset with excess := some 9 }).pow.excess = some 9 ∧ s.pow.factor * 9 / 10 = 900 ∧ s.pow.factor * 11 / 10 = 1100 ∧
      s.pow.factor * 8 / 10 < 900 := by decide +kernel

/-- A factor below 0.900 is held there and logged (R503). -/
theorem test_energy_factor : (after (exec (.energyCorrection 10 9) State.reset)).pow.factor = 900 ∧
    (after (exec (.energyCorrection 10 8) State.reset)).pow.factor = 900 ∧ (after (exec (.energyCorrection 10 8) State.reset)).boot.moduleLog.next = 1 := by
  decide +kernel

theorem witness_LowestOperatingState :
    let s := State.reset
    let l (c : List LowCause) : State := tPow { PowerState.reset with lowest := true, lowCauses := c }
    let d (h : Holm) : State := tState h
    let i := { tHolm 0 with stretched := true, inv := some tInv }
    s.controlled = true ∧ s.live = true ∧ s.pow.lowest = false ∧ (l []).pow.lowest = true ∧ (LowCause.pwrBrake ∉ (l [.vrAlert]).pow.lowCauses) ∧
      LowCause.pwrBrake ∈ (l [.pwrBrake]).pow.lowCauses ∧ (s.holm 271).stretched = false ∧ (s.holm 0).st = .idle ∧
      ((d { Holm.reset .idle with stretched := true }).holm 0).inv = none ∧ ((tWorks i { tWork with period := 100 }).holm 0).inv = some tInv ∧
      ((tWorks i { tWork with period := 100 }).holm 0).stretchTime = 0 ∧ s.pow.guard_.getD 0 50 < 50 ∧ 0 / 68 < s.pow.guard_.length := by decide +kernel

/-- The brake puts every holm at 1,000 MHz and pulls the pin low (R525, R584). -/
theorem test_brake : (((after (exec .pwrBrakeN (tAt 0))).holm 0).freq) = 1000 ∧ (after (exec .pwrBrakeN (tAt 0))).boot.pins.pwrBrakeN = false := by decide +kernel

theorem witness_RegulatorPhases :
    let s := State.reset
    s.controlled = true ∧ s.pow.rails.length = 8 ∧ 20 ∉ (s.rail 0).active ∧ 19 ∈ (s.rail 0).active ∧ 6 ∈ (s.rail 4).active ∧ 19 ∉ (s.rail 0).unsensed ∧
      (s.rail 4).spare = [] ∧ (s.rail 0).rated ≤ (s.rail 0).active.length ∧
      let t := after (exec (.phaseFailOpen 0 19) s)
      (t.rail 0).spare = [20, 21, 22, 23] ∧ (t.rail 0).active.length < (t.rail 0).rated := by decide +kernel

/-- 40 A less for a phase that is lost, restored by a spare one (R502, R527). -/
theorem test_phases :
    ((after (exec (.phaseFailOpen 0 19) State.reset)).rail 0).limit = 760 ∧
      ((after (exec (.sparePhaseInService 0) (after (exec (.phaseFailOpen 0 19) State.reset)))).rail 0).limit = 800 := by decide +kernel

def tPorts (f : Nat → Port) : State := { State.reset with net := { NetState.reset 1 1 with ports := (List.range 32).map f } }

theorem witness_PowerLoans :
    let s := State.reset
    let u := tPorts fun i => if i = 29 then { Port.reset with st := .up } else .reset
    let r : Loan := ⟨0, 0, some (Report.ofBits 0)⟩
    let k := { u with pow := { PowerState.reset with loans := [(5, r)] } }
    s.controlled = true ∧ (∀ g, g < 6 → s.loanPeer g = none) ∧ (u.port (5 * 5 + 4)).st = .up ∧ u.pow.loans.get? 5 = none ∧
      k.pow.loans.get? 5 = some r ∧ r.report = some (Report.ofBits 0) ∧ (∀ j, j < 5 → (s.port (5 * 5 + j)).st ≠ .up) := by decide +kernel

theorem witness_PowerDomains :
    let s := State.reset
    let g := tPow { PowerState.reset with gated := [22 * 3 + 16] }
    s.controlled = true ∧ 22 * 3 + 16 ∉ s.pow.gated ∧ s.mayGate 3 16 = true ∧ 22 * 3 + 16 ∈ g.pow.gated ∧ (tAt 0).mayGate 0 0 = false ∧
      straitDomain 7 ∉ s.pow.gated ∧ (∀ k, k < 4 → (s.port (4 * 7 + k)).st = .down) ∧ 92 ∉ s.pow.gated ∧ s.codecIdle = true ∧ s.ten.tenants = [] ∧
      s.pow.deepIdle = false ∧ { s with ten := tTen }.ten.tenants ≠ [] := by decide +kernel

/-- A gated quad's idle holms are gated and wake IDLE (R506). -/
theorem test_gate : ((after (exec (.holmQuadGate 0 0) State.reset)).holm 3).st = .gated ∧
    ((after (exec (.holmQuadWake 0 0) (after (exec (.holmQuadGate 0 0) State.reset)))).holm 3).st = .idle := by decide +kernel

/-! ### Memory -/

def tMem (m : MemState) : State := { State.reset with mem := m }

/-- A codec extent whose first unit is stored. -/
def tExt : Extent := ⟨2, 5, [(0, 7)], [(0, ⟨0, 0, 1, false⟩)]⟩

theorem witness_MemoryRequests :
    let s := State.reset
    let e := tMem { MemState.reset with extents := [(9, tExt)] }
    s.live = true ∧ s.mem.hbmRead 0 2 = some [0, 0] ∧ (tMem { MemState.reset with hbmParity := false, badBlocks := [0] }).mem.hbmRead 0 1 = none ∧
      0 + 2 ≤ hbmEnd s.mem.hbmParity ∧ hbmEnd s.mem.hbmParity < hbmEnd s.mem.hbmParity + 1 ∧ regionSize < regionSize + 1 ∧
      e.mem.extents.get? 9 = some tExt ∧ tExt.tier = 2 ∧ e.mem.failedPkgs = [] ∧ (∀ u ∈ tExt.units, u.2.poisoned = false) ∧ s.mem.extents.get? 0 = none ∧
      4095 % 4096 + 1 ≤ 4096 ∧ (∀ n, 1 ≤ n → n ≤ 16 → (MemState.takeStored e.part e.mem 2 n 64).isSome = true) := by
  refine ⟨by decide +kernel, by decide +kernel, by decide +kernel, by decide +kernel, by decide +kernel, by decide +kernel, by decide +kernel, by decide +kernel, by decide +kernel, by decide +kernel, by decide +kernel, by decide +kernel, ?_⟩
  intro n h1 h2
  interval_cases n <;> decide +kernel

/-- A byte written is read back; the answer of a read past the end is BAD_ADDRESS (R26, R334). -/
theorem test_hbm : (after (exec (.hbmRead 5 1) (after (exec (.hbmWrite 5 [7]) State.reset)))).mem.reply = (.done, [7]) ∧
    (after (exec (.hbmRead (hbmEnd true) 1) State.reset)).mem.reply = (.badAddress, []) := by decide +kernel

theorem witness_MemoryEvents :
    let s := State.reset
    let z : Zeroing := ⟨2, 9⟩
    let p := { State.reset with ten := tTen, mem := { MemState.reset with skewReported := true, issued := [(3, 5)] } }
    let v := tMem { MemState.reset with moves := [tMove] }
    s.live = true ∧ 7 ∉ s.mem.failedStacks ∧ 11 ∉ s.mem.failedPkgs ∧ s.mem.hbmParity = true ∧ 0 ∈ (tMem { MemState.reset with failedStacks := [0] }).mem.failedStacks ∧
      dpaKind s.part s.mem 0 = .hbm ∧ s.mem.scrubRows.getD 0 0 ≠ 1 ∧ (tMem { MemState.reset with scrubRows := [(0, 1)] }).mem.scrubRows.getD 0 0 = 1 ∧
      s.mem.pcBytes = [] ∧ s.pageOfRegion 3 = none ∧ p.pageOfRegion 3 = some (5, 0) ∧ (p.mem.takePlace 1 5 0).isSome = true ∧ p.mem.rekeys = [] ∧
      v.mem.moves[0]? = some tMove ∧ tMove.next < 511 ∧ s.mem.moves[0]? = none ∧ (tMem { MemState.reset with zeroing := [z] }).mem.zeroing[0]? = some z ∧
      slotTableOk 539 (s.mem.slotTable 539) = true ∧ slotTableOk 0 0 = false := by decide +kernel

/-- Compaction and the failure of a stack leave what memory holds; the failure is kept (R340, R346). -/
theorem test_stack_failure : (after (exec (.elementFailureDeclare (.stack 7)) State.reset)).mem.failedStacks = [7] := by decide +kernel

/-! ### Commands of the isthmus queues -/

/-- A 128-byte entry: its code, and arguments by byte offset. -/
def tEntry (code : Nat) (args : List (Nat × Nat)) : Nat := code + (args.map fun (o, v) => v * 2 ^ (8 * o)).sum

def tCmd (fn raw : Nat) : Cmd := ⟨fn, 0, 0, raw, .accepted, 0, 0, [], []⟩

/-- Queue 0 of a function in service, with one command accepted; VF 1 is bound to tenant 5. -/
def tCmds (fn raw : Nat) : State :=
  { State.reset with ten := tTen, isth := { IsthState.reset with queues := [(8 * fn, tQ)], cmds := [tCmd fn raw], nextCmd := 1 } }

theorem starts_of {s : State} {code fn q : Nat} {c : Cmd}
    (h : (s.waiting? fn q == some c && c.opc == code && s.isReady && s.mayStart c) = true) : s.starts code fn q c := by
  simpa [State.starts, and_assoc] using h

theorem pickOne_isSome {α : Type} (k : Nat) {l : List α} (h : l ≠ []) : (pickOne k l).isSome = true := by
  match l with
  | [] => exact absurd rfl h
  | [_] => rfl
  | a :: b :: r =>
    have hlt : Config.freeNat .choice k (a :: b :: r).length % (a :: b :: r).length < (a :: b :: r).length := Nat.mod_lt _ (by simp)
    simp only [pickOne, List.getElem?_eq_getElem hlt, Option.isSome_some]

/-- How the command of the test ended: its status and result. -/
def ended (o : Out) : Option (Status × Nat) :=
  ((after o).isth.cmds.find? fun c => c.id == 0).bind fun c => match c.st with | .ended st r _ _ => some (st, r) | _ => none

theorem witness_FetchAndPost :
    let s := { State.reset with isth := { IsthState.reset with queues := [(0, { tQ with tail := 1 })] } }
    let x : Que := { tQ with tail := 1 }
    let e : Cmd := { tCmd 0 0x0101 with st := .ended .done 7 false 0 }
    let p := { State.reset with isth := { IsthState.reset with queues := [(0, tQ)], cmds := [e] } }
    let u := { State.reset with isth := { IsthState.reset with queues := [(0, { tQ with unsignalled := 1 })], msix := [(0, ⟨0x3000, 1, false, false⟩)] } }
    let cpl : TideCpl := ⟨.done, 0, 0, 0, 0, none⟩
    let h := { State.reset with isth := { IsthState.reset with queues := [(8, tQ)], works := [(1, { tWork with held := [cpl] })] } }
    State.reset.que? 0 0 = none ∧ s.que? 0 0 = some x ∧ s.boot.phase = .ready ∧ s.mem.hostLinkUp = true ∧ x.err = false ∧ x.stopFetch = false ∧
      x.head ≠ x.tail ∧ s.inProgress 0 0 < 256 ∧ s.inProgress 0 0 + (if 256 ≤ x.size then 64 else x.size / 4) < x.size - (x.cplTail - x.cplHead) ∧
      (s.hostRead (x.cmdBase + 128 * x.head) 128).isSome = true ∧ acceptCheck 0 4 false 0x0101 = none ∧ acceptCheck 0 4 false 0 = some .badCommand ∧
      ({ s with isth := { s.isth with refused := [(1, 1)] } } : State).hostRead 0x1000 128 = none ∧
      p.firstEnded 0 0 = some (e, .done, 7, false, 0) ∧ p.hostOk 0x2000 32 = true ∧ s.firstEnded 0 0 = none ∧
      u.isth.msix.getD (8 * 0 + 0) ⟨0, 0, true, false⟩ = ⟨0x3000, 1, false, false⟩ ∧ u.hostOk 0x3000 4 = true ∧ s.isth.msix.getD 0 ⟨0, 0, true, false⟩ = ⟨0, 0, true, false⟩ ∧
      State.reset.work? 1 = none ∧ (h.work? 1).map (·.held) = some [cpl] ∧ h.que? 1 0 = some tQ ∧
      h.inProgress 1 0 < tQ.size - (tQ.cplTail - tQ.cplHead) := by decide +kernel

/-- An entry of zeros is fetched and ends BAD_COMMAND; the completion entry is 32 bytes with its phase (R424, R434, R435). -/
theorem test_fetch_post :
    let s := { State.reset with isth := { IsthState.reset with queues := [(0, { tQ with tail := 1 })] } }
    let t := after (exec (.commandFetch 0 0) s)
    ended (.next t) = some (.badCommand, 0) ∧ ((after (exec (.commandCompletionPost 0 0) t)).que? 0 0).map (·.cplTail) = some 1 := by decide +kernel

theorem witness_CommandsWait :
    let codes := [0x0101, 0x0102, 0x0103, 0x0104, 0x0105, 0x0201, 0x0202, 0x0203, 0x0204, 0x0205, 0x0301, 0x0302, 0x0303, 0x0401, 0x0402, 0x0403,
      0x0404, 0x0405, 0x0406, 0x0407, 0x0501, 0x0502, 0x0503, 0x0504, 0x0505, 0x0601, 0x0602, 0x0603, 0x0701, 0x0702, 0x0703, 0x0704, 0x0705, 0x0801,
      0x0802, 0x0901, 0x0902, 0x0903, 0x0F01, 0x0F02, 0x0F03, 0x0F04, 0x0F05, 0x0F06, 0x0F07, 0x0F08, 0x0F09]
    (∀ k ∈ codes, (tCmds 2 k).starts k 2 0 (tCmd 2 k)) ∧ (∀ k ∈ codes, State.reset.waiting? 0 0 = none) ∧ (tCmds 2 0).boundTo 2 = none := by
  refine ⟨?_, fun _ _ => by decide, by decide +kernel⟩
  intro k hk
  apply starts_of
  revert k
  decide +kernel

/-- Without a tenant a tenant's command ends NO_PERMISSION (R440). -/
theorem test_no_tenant : ended (exec (.regionAlloc 2 0) (tCmds 2 0x0201)) = some (.noPermission, 0) := by decide +kernel

/-- A host address whose page the host lets the module use. -/
def tHost : Nat := 2 ^ 63 + 0x8000

theorem witness_QueueCommands :
    let ver := tEntry 0x0101 []
    let caps := tEntry 0x0102 [(32, tHost)]
    let new := tEntry 0x0103 [(32, 7), (38, 6), (39, 4), (40, tHost), (48, tHost)]
    let del := tEntry 0x0104 [(32, 7)]
    let ring := tEntry 0x0105 [(32, 6), (33, 7), (40, tHost)]
    (tCmds 1 ver).starts 0x0101 1 0 (tCmd 1 ver) ∧ (tCmds 1 caps).starts 0x0102 1 0 (tCmd 1 caps) ∧ (tCmds 1 new).starts 0x0103 1 0 (tCmd 1 new) ∧
      (tCmds 1 del).starts 0x0104 1 0 (tCmd 1 del) ∧ (tCmds 1 ring).starts 0x0105 1 0 (tCmd 1 ring) ∧
      ((tCmds 1 caps).argMapped (some 5) ((tCmd 1 caps).arg 32 8) = true ∧ (tCmds 1 0).argMapped (some 5) (2 ^ 62) = false ∧
      (bitAt ((tCmd 1 new).arg 40 8) 63 = true ∧ (tCmd 1 new).arg 40 8 % 4096 = 0 ∧ (tCmds 1 new).argMapped none ((tCmd 1 new).arg 48 8) = true) ∧
      (tCmd 1 new).arg 32 1 = 7 ∧ (tCmd 1 new).arg 38 1 = 6 ∧ (tCmd 1 new).arg 39 1 = 4 ∧ (tCmds 1 new).minors.1 ≤ 4 ∧ 4 ≤ (tCmds 1 new).minors.2 ∧
      (tCmds 1 new).que? 1 7 = none ∧ (tCmds 1 del).planOn 1 7 = false ∧ (tCmds 1 del).inProgress 1 7 = 0 ∧ (tCmd 1 ring).arg 32 1 = 6 ∧
      (tCmd 1 ring).arg 33 1 = 7) :=
  ⟨starts_of (by decide +kernel), starts_of (by decide +kernel), starts_of (by decide +kernel), starts_of (by decide +kernel),
    starts_of (by decide +kernel), by decide +kernel⟩

/-- QUEUE_CREATE of queue 7 ends DONE, of queue 8 BAD_COMMAND (R439). -/
theorem test_queue_create :
    ended (exec (.queueCreate 1 0) (tCmds 1 (tEntry 0x0103 [(32, 7), (38, 6), (39, 4), (40, tHost), (48, tHost)]))) = some (.done, 0) ∧
      ended (exec (.queueCreate 1 0) (tCmds 1 (tEntry 0x0103 [(32, 8), (38, 6), (39, 4), (40, tHost), (48, tHost)]))) = some (.badCommand, 0) := by
  decide +kernel

theorem witness_RegionCommands :
    let alloc := tEntry 0x0201 [(32, 1), (36, 1), (40, 2 ^ 21)]
    let free := tEntry 0x0202 [(36, 1), (40, 0)]
    let map := tEntry 0x0203 [(36, 1), (40, 0), (48, 2 ^ 21)]
    let copy := tEntry 0x0204 [(40, 0), (48, 32), (56, 32)]
    let mig := tEntry 0x0205 [(32, 1), (36, 1), (40, 0)]
    let load := tEntry 0x0301 [(40, 0), (48, 64), (56, 32)]
    let lag := tEntry 0x0302 [(32, 0), (34, 0), (36, 1)]
    let unl := tEntry 0x0303 [(32, 0)]
    let s := tCmds 1 alloc
    s.boundTo 1 = some 5 ∧ s.starts 0x0201 1 0 (tCmd 1 alloc) ∧ (tCmds 1 free).starts 0x0202 1 0 (tCmd 1 free) ∧
      (tCmds 1 map).starts 0x0203 1 0 (tCmd 1 map) ∧ (tCmds 1 copy).starts 0x0204 1 0 (tCmd 1 copy) ∧ (tCmds 1 mig).starts 0x0205 1 0 (tCmd 1 mig) ∧
      (tCmds 1 load).starts 0x0301 1 0 (tCmd 1 load) ∧ (tCmds 1 lag).starts 0x0302 1 0 (tCmd 1 lag) ∧ (tCmds 1 unl).starts 0x0303 1 0 (tCmd 1 unl) ∧
      ((tCmd 1 alloc).arg 40 8 % regionSize = 0 ∧ (tCmd 1 alloc).arg 32 1 = 1 ∧ (tCmd 1 alloc).arg 36 4 = 1 ∧ s.argMapped (some 5) 0 = true ∧
      s.argMapped (some 5) 32 = true ∧ s.argMapped (some 5) (2 ^ 22) = false ∧ (tCmd 1 copy).arg 56 8 % 32 = 0 ∧ (tCmd 1 copy).bounded = false ∧
      (tCmd 1 map).arg 33 1 = 0 ∧ (tCmd 1 map).arg 34 2 = 0 ∧ (tCmd 1 map).arg 48 8 % regionSize = 0 ∧ State.pageRange 0 1 = some [0] ∧
      s.inTier1 5 64 32 = true ∧ s.hasPlan 5 = false ∧ (tCmd 1 lag).arg 36 2 = 1 ∧
      (∃ p, { s with ten := { tTen with parts := [(0, ⟨5, 3⟩)] } }.physOf? 0 = some p) ∧ s.tenantOfLg 0 = some 5 ∧ s.holmPlanned 0 = false) :=
  ⟨by decide +kernel, starts_of (by decide +kernel), starts_of (by decide +kernel), starts_of (by decide +kernel), starts_of (by decide +kernel),
    starts_of (by decide +kernel), starts_of (by decide +kernel), starts_of (by decide +kernel), starts_of (by decide +kernel),
    by decide +kernel, by decide +kernel, by decide +kernel, by decide +kernel, by decide +kernel, by decide +kernel, by decide +kernel, by decide +kernel,
    by decide +kernel, by decide +kernel, by decide +kernel, by decide +kernel, by decide +kernel, by decide +kernel, by decide +kernel,
    ⟨0, by decide +kernel⟩, by decide +kernel, by decide +kernel⟩

/-- An allocation of one page ends DONE and maps it; a target that is not aligned is BAD_ADDRESS (R439, R460). -/
theorem test_region_alloc :
    ended (exec (.regionAlloc 1 0) (tCmds 1 (tEntry 0x0201 [(32, 1), (36, 1), (40, 2 ^ 21)]))) = some (.done, 0) ∧
      ended (exec (.regionAlloc 1 0) (tCmds 1 (tEntry 0x0201 [(32, 1), (36, 1), (40, 2 ^ 20)]))) = some (.badAddress, 0) := by decide +kernel

/-- COPY moves 32 bytes within the tenant's page (R439). -/
theorem test_copy :
    let s := tCmds 1 (tEntry 0x0204 [(40, 0), (48, 32), (56, 32)])
    ended (exec (.copy 1 0 none) s) = some (.done, 0) := by decide +kernel

/-- A pool of one page of 16 tokens, one head and one layer of 16 BF16 elements. -/
def tPool : Pool :=
  { tenant := 5, p := 16, h := 1, d := 16, kf := .bf16, vf := .bf16, layers := 1, cap := 1, sums := false, region := 0, arena := 4096, blocks := 1
    freePages := [(0, 0)], freeBlocks := [(0, 0)], refs := [], sumOne := [], waiting := [], taint := [] }

def tDesc : Desc :=
  { gen := 0, tenant := 5, pool := 2, lfmt := 0, shard := false, len := 0, max := 16, list := 0, split := 0xFFFFFFFF, pos0 := 0, pos1 := 0
    inl := List.replicate 8 0, leaves := 0, taint := false }

def tSeqs (raw : Nat) : State := { tCmds 1 raw with kv := { KvState.reset with pools := [(2, tPool)], descs := [(3, tDesc)], nextIndex := 4 } }

theorem witness_SequenceCommands :
    let pool := tEntry 0x0401 [(32, 63), (33, 4), (34, 1), (35, 1), (36, 2), (37, 2), (38, 1), (40, 1), (44, 1), (48, 0), (56, 4096)]
    let new := tEntry 0x0402 [(32, 2), (36, 16), (40, tHost), (48, 0xFFFFFFFF)]
    let fork := tEntry 0x0403 [(32, 3), (36, 0), (40, tHost)]
    let app := tEntry 0x0404 [(32, 3), (36, 1), (38, 0), (40, tHost)]
    let tru := tEntry 0x0405 [(32, 3), (36, 0), (40, tHost)]
    let free := tEntry 0x0406 [(32, 3)]
    let gone := tEntry 0x0407 [(32, 2)]
    let s := tSeqs new
    s.boundTo 1 = some 5 ∧ (tSeqs pool).starts 0x0401 1 0 (tCmd 1 pool) ∧ s.starts 0x0402 1 0 (tCmd 1 new) ∧ (tSeqs fork).starts 0x0403 1 0 (tCmd 1 fork) ∧
      (tSeqs app).starts 0x0404 1 0 (tCmd 1 app) ∧ (tSeqs tru).starts 0x0405 1 0 (tCmd 1 tru) ∧ (tSeqs free).starts 0x0406 1 0 (tCmd 1 free) ∧
      (tSeqs gone).starts 0x0407 1 0 (tCmd 1 gone) ∧
      (s.tenantMapped 5 ((tCmd 1 pool).arg 48 8) 4096 = true ∧ s.tenantMapped 5 ((tCmd 1 pool).arg 56 8) 4096 = true ∧
      EFmt.ofCode? ((tCmd 1 pool).arg 36 1) = some .bf16 ∧ tPool.rangesOk = true ∧ tPool.pageBytes ≤ 524288 ∧ s.kv.pools.get? 63 = none ∧
      (s.kv.pools.filter fun y => y.2.tenant == 5).length < 9 ∧ s.rangeMapped 5 0 (1 * tPool.stride) = true ∧ s.rangeMapped 5 4096 (1 * 4096) = true ∧
      s.argMapped (some 5) ((tCmd 1 new).arg 40 8) = true ∧ s.kv.validDesc 5 ((tCmd 1 fork).arg 32 4) = some (3, tDesc) ∧ (tCmd 1 fork).arg 36 4 ≤ tDesc.len ∧
      s.kv.pools.get? 2 = some tPool ∧ (s.kvCtx 5).isSome = true ∧ (tCmd 1 app).arg 36 2 = 1 ∧ (tCmd 1 app).bounded = false ∧
      s.kv.pools.get? ((tCmd 1 gone).arg 32 1) = some tPool) :=
  ⟨by decide +kernel, starts_of (by decide +kernel), starts_of (by decide +kernel), starts_of (by decide +kernel), starts_of (by decide +kernel),
    starts_of (by decide +kernel), starts_of (by decide +kernel), starts_of (by decide +kernel), by decide +kernel⟩

/-- POOL_CREATE of pool 63 ends DONE; POOL_FREE of a pool in use is LIMIT (R439, R596). -/
theorem test_pools :
    ended (exec (.poolCreate 1 0) (tSeqs (tEntry 0x0401 [(32, 63), (33, 4), (34, 1), (35, 1), (36, 2), (37, 2), (38, 1), (40, 1), (44, 1), (48, 0), (56, 4096)])))
      = some (.done, 0) ∧ ended (exec (.poolFree 1 0) (tSeqs (tEntry 0x0407 [(32, 2)]))) = some (.limit, 0) := by decide +kernel

/-- One plan of tenant 5, not started. -/
def tPlans (raw : Nat) (w : Work) : State :=
  let s := tCmds 1 raw
  { s with isth := { s.isth with works := [(1, w)], nextWork := 2, natives := [(4, ⟨5, [tStage], true, 0⟩)] } }

def tIdle : Work := { tWork with started := false, running := false }

theorem witness_PlanCommands :
    let sub := tEntry 0x0501 [(8, tHost), (16, 64)]
    let start := tEntry 0x0502 [(32, 9), (40, 1000000)]
    let stop := tEntry 0x0503 [(32, 9)]
    let upd := tEntry 0x0504 [(8, tHost), (16, 16), (32, 9)]
    let free := tEntry 0x0505 [(32, 9)]
    let load := tEntry 0x0901 [(8, tHost), (16, 64)]
    let go := tEntry 0x0902 [(32, 4)]
    let del := tEntry 0x0903 [(32, 4)]
    let s := tPlans start tIdle
    s.boundTo 1 = some 5 ∧ (tPlans sub tIdle).starts 0x0501 1 0 (tCmd 1 sub) ∧ s.starts 0x0502 1 0 (tCmd 1 start) ∧
      (tPlans stop tIdle).starts 0x0503 1 0 (tCmd 1 stop) ∧ (tPlans upd tIdle).starts 0x0504 1 0 (tCmd 1 upd) ∧
      (tPlans free tIdle).starts 0x0505 1 0 (tCmd 1 free) ∧ (tPlans load tIdle).starts 0x0901 1 0 (tCmd 1 load) ∧
      (tPlans go tIdle).starts 0x0902 1 0 (tCmd 1 go) ∧ (tPlans del tIdle).starts 0x0903 1 0 (tCmd 1 del) ∧
      (s.planOf? 5 9 = some (1, tIdle) ∧ s.planOf? 5 8 = none ∧ tIdle.started = false ∧ tIdle.startCmd = none ∧ (tCmd 1 start).arg 40 8 % 1000 = 0 ∧
      s.stagesStand 5 tIdle.stages = true ∧ tIdle.earliest ≤ 1000000 ∧ 0 + 2000 ≤ s.slackAt { tIdle with s0 := 1000000 } 0 ∧
      (∀ lg ∈ s.workHolms tIdle, s.holmPlanned lg = false) ∧ tWork.started = true ∧ s.isth.natives.get? 4 = some ⟨5, [tStage], true, 0⟩ ∧
      (∀ lg ∈ tStage.holms, s.holmInUse lg = false ∧ s.partPending lg = false) ∧ (∀ e ∈ s.isth.works, e.2.kind = .native → e.2.handle ≠ 4)) :=
  ⟨by decide +kernel, starts_of (by decide +kernel), starts_of (by decide +kernel), starts_of (by decide +kernel), starts_of (by decide +kernel),
    starts_of (by decide +kernel), starts_of (by decide +kernel), starts_of (by decide +kernel), starts_of (by decide +kernel), by decide +kernel⟩

/-- A start off the microsecond is BAD_COMMAND, an unstarted plan can be freed and not stopped (R439). -/
theorem test_plans :
    ended (exec (.planStart 1 0) (tPlans (tEntry 0x0502 [(32, 9), (40, 1000001)]) tIdle)) = some (.badCommand, 0) ∧
      ended (exec (.planFree 1 0) (tPlans (tEntry 0x0505 [(32, 9)]) tIdle)) = some (.done, 0) ∧
      ended (exec (.planStop 1 0) (tPlans (tEntry 0x0503 [(32, 9)]) tIdle)) = some (.limit, 0) := by decide +kernel

/-- A GEMM of one element each: A at 0, B at 32 and C at 64, all INT8 to INT32. -/
def tGemm : Nat := tEntry 0x0602 [(32, 0), (40, 32), (48, 64), (64, 1), (68, 1), (72, 1), (76, 5), (77, 5), (78, 6)]

theorem witness_WorkCommands :
    let att := tEntry 0x0601 [(32, 3), (48, 0), (56, 0), (64, 0), (72, 0)]
    let bat := tEntry 0x0603 [(8, tHost), (16, 128)]
    let col := tEntry 0x0704 [(8, tHost), (16, 128)]
    let s := tCmds 1 tGemm
    s.boundTo 1 = some 5 ∧ s.starts 0x0602 1 0 (tCmd 1 tGemm) ∧ (tCmds 1 att).starts 0x0601 1 0 (tCmd 1 att) ∧
      (tCmds 1 bat).starts 0x0603 1 0 (tCmd 1 bat) ∧ (tCmds 1 col).starts 0x0704 1 0 (tCmd 1 col) ∧
      (s.gemmErr 5 tGemm = none ∧ (tCmd 1 tGemm).bounded = false ∧ s.needsHolm (tCmd 1 tGemm) 5 = false ∧ (Gemm.mk? tGemm).isSome = true ∧
      (tCmds 1 att).attendErr 5 att ≠ none ∧ s.gemmErr 5 (tEntry 0x0602 [(40, 2 ^ 22)]) = some .badAddress) :=
  ⟨by decide +kernel, starts_of (by decide +kernel), starts_of (by decide +kernel), starts_of (by decide +kernel), starts_of (by decide +kernel), by decide +kernel⟩

/-- The GEMM ends DONE; a BATCH whose one entry is of zeros runs nothing and fails at entry 0 (R441). -/
theorem test_work : ended (exec (.gemm 1 0 none) (tCmds 1 tGemm)) = some (.done, 0) ∧
    ended (exec (.batch 1 0 none) (tCmds 1 (tEntry 0x0603 [(8, tHost), (16, 128)]))) = some (.badCommand, 0) := by decide +kernel

/-- Archipelago 77 of tenant 5 with two members, of which the module is number 1. -/
def tArch : Arch := ⟨5, 1, [(1, 1, 1, 3), (2, 2, 9, 3)], true, none⟩

def tWin : Window := ⟨5, true, true, true, 0, 4096, [], 77, 0, 11⟩

/-- The tenant's state with that archipelago, one window, and the two holms' first line open to windows. -/
def tSlice (raw : Nat) : State :=
  let s := tCmds 1 raw
  { s with
    holms := [(0, { Holm.reset .idle with exposure := [⟨0, 0, 2⟩] }), (1, { Holm.reset .idle with exposure := [⟨0, 0, 2⟩] })]
    net := { s.net with archs := [(77, tArch)], windows := [(0, tWin)] } }

theorem freeWindow_some (s : State) (i : Nat) (h : i < 16384) (hi : i ∉ s.windowsUsed) : ∃ j, s.freeWindow = some j := by
  apply Option.isSome_iff_exists.mp
  apply pickOne_isSome
  apply List.ne_nil_of_mem (a := i)
  simpa [h] using hi

theorem witness_WindowCommands :
    let mem := tEntry 0x0701 [(32, 0), (33, 1), (40, 77), (48, 0), (56, 4096)]
    let lines := tEntry 0x0701 [(32, 1), (33, 1), (34, 1), (40, 77), (64, 1)]
    let close := tEntry 0x0702 [(32, 0)]
    let join := tEntry 0x0703 [(32, 77)]
    let leave := tEntry 0x0705 [(32, 77)]
    let def_ := tEntry 0x0F04 [(8, tHost), (16, 24), (32, 77), (40, 5), (42, 1)]
    let link := tEntry 0x0F05 [(32, 1), (36, 10000), (38, 1), (40, 77)]
    let s := tSlice mem
    (s.boundTo 1 = some 5 ∧ (tCmd 1 mem).arg 32 1 = 0 ∧ s.tenantMapped 5 0 4096 = true ∧ (tCmd 1 mem).arg 33 1 ≠ 0 ∧ (tCmd 1 mem).arg 34 1 = 0 ∧
      (tCmd 1 mem).arg 64 16 = 0 ∧ (tCmd 1 mem).arg 56 8 = 4096 ∧ s.joinedArch 5 77 = true ∧ s.windowRoom 5 = true ∧ s.tenantMapped 5 (2 ^ 21) 4096 = false ∧
      (tCmd 1 lines).arg 34 1 = 1 ∧ (tCmd 1 lines).arg 48 8 = 0 ∧ (tCmd 1 lines).arg 64 16 < 2 ^ 8 ∧ s.windowPart 5 [1] = some 0 ∧
      s.windowLines 1 0 0 = true ∧ s.net.windows.get? 0 = some tWin ∧ s.net.archs.get? 77 = some tArch ∧ tArch.tenant = 5 ∧ s.archPlanned 77 = false ∧
      s.tenant? 6 = none ∧ s.net.ports.length = 32 ∧ (tCmd 1 link).arg 36 2 = 10000 ∧ (∀ i a, i < 32 → (s.port i).enabled = some a → a = 77)) ∧
      (∃ j, s.freeWindow = some j) ∧ s.starts 0x0701 1 0 (tCmd 1 mem) ∧ (tSlice lines).starts 0x0701 1 0 (tCmd 1 lines) ∧
      (tSlice close).starts 0x0702 1 0 (tCmd 1 close) ∧ (tSlice join).starts 0x0703 1 0 (tCmd 1 join) ∧ (tSlice leave).starts 0x0705 1 0 (tCmd 1 leave) ∧
      (tCmds 0 def_).starts 0x0F04 0 0 (tCmd 0 def_) ∧ (tCmds 0 link).starts 0x0F05 0 0 (tCmd 0 link) := by
  intro mem lines close join leave def_ link s
  refine ⟨⟨by decide +kernel, by decide +kernel, by decide +kernel, by decide +kernel, by decide +kernel, by decide +kernel, by decide +kernel,
    by decide +kernel, by decide +kernel, by decide +kernel, by decide +kernel, by decide +kernel, by decide +kernel, by decide +kernel,
    by decide +kernel, by decide +kernel, by decide +kernel, by decide +kernel, by decide +kernel, by decide +kernel, by decide +kernel,
    by decide +kernel, ?_⟩, freeWindow_some s 1 (by decide) (by decide +kernel), starts_of (by decide +kernel), starts_of (by decide +kernel),
    starts_of (by decide +kernel), starts_of (by decide +kernel), starts_of (by decide +kernel), starts_of (by decide +kernel), starts_of (by decide +kernel)⟩
  intro i a hi h
  have all : ∀ i, i < 32 → (s.port i).enabled = none := by decide +kernel
  rw [all i hi] at h
  exact absurd h (by simp)

/-- A window's handle closes it, one of another generation does not (R373, R439). -/
theorem test_window_close : ended (exec (.windowClose 1 0) (tSlice (tEntry 0x0702 [(32, 0)]))) = some (.done, 0) ∧
    ended (exec (.windowClose 1 0) (tSlice (tEntry 0x0702 [(32, 2 ^ 14)]))) = some (.badAddress, 0) := by decide +kernel

theorem witness_TenantManagement :
    let cap := tEntry 0x0801 [(32, 400), (36, 1000)]
    let en := tEntry 0x0802 [(32, 0), (34, 5)]
    let new := tEntry 0x0F01 [(32, 1023), (34, 1024)]
    let del := tEntry 0x0F02 [(32, 5)]
    let part := tEntry 0x0F03 [(32, 1), (34, 5), (40, 4)]
    let par := tEntry 0x0F08 [(32, 3)]
    let back := tEntry 0x0F09 [(40, tHost), (48, 2 ^ 40)]
    let map := tEntry 0x0203 [(33, 1), (34, 5), (36, 1), (40, 0), (48, 2 ^ 21)]
    let s := tCmds 0 cap
    s.starts 0x0801 0 0 (tCmd 0 cap) ∧ (tCmds 0 en).starts 0x0802 0 0 (tCmd 0 en) ∧ (tCmds 0 new).starts 0x0F01 0 0 (tCmd 0 new) ∧
      (tCmds 0 del).starts 0x0F02 0 0 (tCmd 0 del) ∧ (tCmds 0 part).starts 0x0F03 0 0 (tCmd 0 part) ∧ (tCmds 0 par).starts 0x0F08 0 0 (tCmd 0 par) ∧
      (tCmds 0 back).starts 0x0F09 0 0 (tCmd 0 back) ∧ (tCmds 0 map).starts 0x0203 0 0 (tCmd 0 map) ∧
      ((tCmd 0 cap).arg 32 2 = 400 ∧ (tCmd 0 cap).arg 36 2 = 1000 ∧ (s.tenant? ((tCmd 0 en).arg 34 2)).isSome = true ∧ (tCmd 0 new).arg 32 2 = 1023 ∧
      (tCmd 0 new).arg 34 2 = 1024 ∧ s.tenant? 1023 = none ∧ s.boundTo 1024 = none ∧ s.holdsAny 5 = true ∧
      ({ s with ten := { tTen with parts := [], tenants := [(5, ⟨1, ⟨0, 0, 0, 0, 0, 0⟩, [], 0⟩)] } } : State).holdsAny 5 = false ∧
      s.bitmapTaken 1 4 = false ∧ s.bitmapTaken 1 1 = true ∧ s.partBreaks ⟨1, 5, 4, 0, (0, 0, 0)⟩ = false ∧ s.ten.changes = [] ∧
      (∀ y ∈ s.partTenants ⟨1, 5, 4, 0, (0, 0, 0)⟩, s.hasPlan y = false) ∧ s.mem.backing = [] ∧ (tCmd 0 back).arg 48 8 = 2 ^ 40 ∧
      (tCmd 0 map).arg 33 1 = 1 ∧ (tCmd 0 map).arg 48 8 % regionSize = 0 ∧ (tCmd 0 map).arg 36 4 = 1) :=
  ⟨starts_of (by decide +kernel), starts_of (by decide +kernel), starts_of (by decide +kernel), starts_of (by decide +kernel),
    starts_of (by decide +kernel), starts_of (by decide +kernel), starts_of (by decide +kernel), starts_of (by decide +kernel), by decide +kernel⟩

/-- The least cap and the least window are taken, one below is not (R516). -/
theorem test_cap_set : (ended (exec (.capSet 0 0) (tCmds 0 (tEntry 0x0801 [(32, 400), (36, 1000)])))).map (·.1) = some .done ∧
    ended (exec (.capSet 0 0) (tCmds 0 (tEntry 0x0801 [(32, 399), (36, 1000)]))) = some (.badCommand, 0) := by decide +kernel

/-- A new partition takes effect at once where its holms are idle, and their epochs go up by one (R457). -/
theorem test_partition :
    let t := after (exec (.partitionSet 0 0) (tCmds 0 (tEntry 0x0F03 [(32, 1), (34, 5), (40, 4)])))
    t.ten.parts.get? 1 = some ⟨5, 4⟩ ∧ t.epochOf 2 = 1 ∧ t.epochOf 3 = 0 := by decide +kernel

theorem witness_FirmwareCommands :
    let stage := tEntry 0x0F06 [(8, tHost), (16, 256)]
    let act := tEntry 0x0F07 []
    let s := tCmds 0 stage
    let m : FwImage := ⟨2, 2, 0, 0, 0, 4, true, false⟩
    let f (n : Nat) : State := { s with isth := { s.isth with slots := [m, m], staged := true, activate := some ((0, 0, 0), n) } }
    s.starts 0x0F06 0 0 (tCmd 0 stage) ∧ (tCmds 0 act).starts 0x0F07 0 0 (tCmd 0 act) ∧
      (s.isth.activate = none ∧ (s.imageOf? 2 true).isSome = true ∧ s.imageOf? (2 ^ 31) true = none ∧ s.stagedImage = none ∧ (f 14).stagedImage = some m ∧
      (f 15).isth.activate = some ((0, 0, 0), 15) ∧ (f 14).flt.spareCore = some 2 ∧ (f 14).boot.phase = .ready ∧
      (∀ e ∈ s.isth.queues, m.loMinor ≤ e.2.minor ∧ e.2.minor ≤ m.hiMinor)) :=
  ⟨starts_of (by decide +kernel), starts_of (by decide +kernel), by decide +kernel⟩

theorem test_activate_without_image : ended (exec (.firmwareActivate 0 0) (tCmds 0 (tEntry 0x0F07 []))) = some (.limit, 0) := by decide +kernel

/-! ### Plans' slacks, recovery, walkers -/

theorem witness_SlackAndRecovery :
    let sync (s : State) : State := { s with net := { s.net with time := { RackTime.reset with sync := .locked } } }
    let w := { tIdle with startCmd := some (1, 0, 0) }
    let a := sync (tWorks (tHolm 0) w)
    let b := sync (tWorks (tHolm 0) { tWork with closeAt := some 7 })
    let k := { tWork with stages := [{ tStage with ckpts := [0] }] }
    let p := tWorks tArriving k
    let c : Recovery := ⟨0, 1, 0, 0, 0, 0, 0, false, 0⟩
    let r (c : Recovery) (l : List (Nat × Holm)) : State := { State.reset with holms := l, flt := { FaultState.reset with recovery := [c] } }
    State.reset.work? 1 = none ∧ a.work? 1 = some w ∧ w.kind = .plan ∧ a.net.time.sync ≠ .unsync ∧ a.flt.recovery = [] ∧ w.startCmd ≠ none ∧
      w.stopping = false ∧ b.work? 1 = some { tWork with closeAt := some 7 } ∧ (p.holm 0).inv = some tInv ∧ p.live = true ∧ (p.holm 0).st = .running ∧
      (p.holm 0).fault = none ∧ (∃ x ∈ (p.holm 0).arrivals, x.bar ∈ p.ckptBars tInv) ∧ p.flt.spilled.getD 0 0 = p.flt.complete.getD 0 0 ∧
      (p.holm 0).scoreboard = [] ∧ State.carriedOk (p.holm 0) [(0, 0)] = true ∧
      (r c [(0, tHolm 0), (64, Holm.reset .spare)]).flt.recovery.filter (fun c => c.row == 0 && !c.swapped) = [c] ∧
      (r c [(0, tHolm 0), (64, Holm.reset .spare)]).spareOf? 0 = some 64 ∧ (r c [(0, tHolm 0)]).spareOf? 0 = none ∧
      (r { c with swapped := true } []).flt.recovery.filter (fun c => c.row == 0 && c.swapped) = [{ c with swapped := true }] ∧
      (r { c with row := 1 } [(0, tHolm 0)]).flt.recovery.find? (fun c => c.row == 1) = some { c with row := 1 } ∧
      State.spareRow? ((r { c with row := 1 } [(0, tHolm 0)]).holm 0) 0 = some 0 := by decide +kernel

/-- The role of a failed holm moves to the spare with the next epoch (R492). -/
theorem test_recovery :
    let c : Recovery := ⟨0, 1, 0, 0, 0, 0, 0, false, 0⟩
    let s := { State.reset with holms := [(0, tHolm 0), (64, Holm.reset .spare)], flt := { FaultState.reset with recovery := [c] } }
    (after (exec .recoverySlack s)).remap.get? 0 = some ⟨64, true, 1⟩ := by decide +kernel

def tWalk : Walk :=
  { id := 1, phys := 0, ch := 0, tile := 0, walker := 0, handle := 3, sel := 0, sreg := 0, treg := 0, tokens := 0, layer := 0, incT := 0, pc := 0
    landed := false, header := [], failed := none }

theorem witness_WalkerCommands :
    let k (w : Walk) (h : Holm) : State := { tSeqs 0 with holms := [(0, h)], kv := { (tSeqs 0).kv with walks := [w] }, isth := { IsthState.reset with works := [(1, tWork)] } }
    let d := { tWalk with landed := true }
    let f := { tWalk with failed := some Status.limit }
    let j := tHolm (0x31 + 2 ^ 10 + 2 ^ 40)
    State.reset.walk? 1 = none ∧ (k tWalk (tHolm 0)).walk? 1 = some tWalk ∧ ((k tWalk (tHolm 0)).holm 0).st = .running ∧
      ((k tWalk (tHolm 0)).kvCtx 5).isSome = true ∧ (k tWalk (tHolm 0)).tenantOfHolm 0 = 5 ∧ (k d (tHolm 0)).walk? 1 = some d ∧
      (k f (tHolm 0)).walk? 1 = some f ∧ (k tWalk j).live = true ∧ ((k tWalk j).holm 0).inv = some tInv ∧
      ((k tWalk (tHolm 0)).poolOfHandle 5 3).isSome = true := by decide +kernel

/-- A failed request stops its channel and is gone (R224). -/
theorem test_walker_failure :
    let s := { tAt 0 with kv := { KvState.reset with walks := [{ tWalk with failed := some .limit }] } }
    let t := after (exec (.walkerFailure 1) s)
    t.kv.walks = [] ∧ (((t.holm 0).chan 0).failed) = some (.limit, 0, 0) := by decide +kernel

theorem witness_WalkerCommands_append :
    let j : KvaJob := ⟨0, 3, 0, 1, 0, 0, 1, 0, 0⟩
    let h := { tHolm 0 with chans := setAt (List.replicate 8 Chan.reset) 0 { Chan.reset with kva := some j } }
    let s := { tSeqs 0 with holms := [(0, h)], isth := { IsthState.reset with works := [(1, tWork)] } }
    ((s.holm 0).chan 0).kva = some j ∧ (s.holm 0).inv = some tInv ∧ (s.holm 0).st = .running ∧ (s.holm 0).fault = none ∧ (s.kvCtx 5).isSome = true ∧
      s.poolOfHandle (s.tenantOfHolm 0) 3 = some tPool ∧ (s.holm 0).poisonedIn (0 / 8) (0 / 8 + 1 * 1 * (tPool.rk + tPool.rv) - 1) = false := by decide +kernel

/-! ### Rings and collectives -/

/-- A port that is UP in archipelago 77, with management flits and transfers that have come. -/
def tUp (mgt : List (List Nat)) (xs : List (Nat × Xfer)) : Port :=
  { Port.reset with st := .up, enabled := some 77, peer := some ⟨2, 9, 5, 3⟩, peerFixed := true, charted := true, mgtIn := mgt, arrived := xs }

/-- A module whose port 0 is UP, with one holm running the tenant's work in archipelago 77. -/
def tLinked (q : Port) (net : NetState → NetState) : State :=
  { State.reset with
    holms := [(0, tHolm 0)], ten := tTen, isth := { IsthState.reset with works := [(1, { tWork with arch := 77 })] }
    net := net { NetState.reset 1 1 with ports := q :: List.replicate 31 .reset, archs := [(77, tArch)], windows := [(0, tWin)] } }

/-- Rank 0 of 2, one block of nine lines, two slots, one destination, port 0 to member 2. -/
def tRingD : Ring :=
  Ring.fresh 1 0 0 0 (2 ^ 8 * 2 + 2 ^ 32 + 2 ^ 64 * 2 + 2 ^ 74 * 2 + 2 ^ 84 * 2 + 2 ^ 112 + 2 ^ 176 * 9 + 2 ^ 196 * 9 + 2 ^ 236)

theorem witness_ShuttleCommands :
    let s (r : Ring) : State := tLinked (tUp [] []) fun n => { n with rings := [(4, r)] }
    let due := { tRingD with granted := true, returned := [0, 1] }
    let send := { tRingD with landed := [(0, 0, 0)], credits := [0, 1] }
    State.reset.ring? 4 = none ∧ (s tRingD).ring? 4 = some tRingD ∧ tRingD.orig = false ∧ tRingD.stopped = none ∧ (s tRingD).ringUp tRingD = true ∧
      tRingD.granted = false ∧ due.rounds = 1 ∧ due.mayUse due.given (0, 0, 0) = true ∧ due.mem = false ∧ ((s due).kvCtx ((s due).ringTenant due)).isSome = true ∧
      Status.ofCode? 16 = none ∧ Status.ofCode? 6 = some .limit ∧ (((s tRingD).work? 1).map (·.running)) = some true ∧
      (send.outBlock send.next) = (0, 0, 0) ∧ (0, 0, 0) ∈ send.landed ∧ send.mayUse send.credits (0, 1, 0) = true ∧ (s send).backReady send (0, 0, 0) = true ∧
      (((s send).takeCredits 4 []).ring? 4).isSome = true ∧ (tArch.members.get? tRingD.nextIx).isSome = true ∧ (s send).memberGone 77 2 = false ∧
      (s send).allLost send.ports = false ∧ ((s send).readSlot send (send.slotOf (0, 0, 0))).toOption.map List.length = some 128 ∧
      (s tRingD).popAbort 1 = none := by decide +kernel

/-- A ring-abort from member 2 for ring 0, and a block for the ring from it. -/
def tAbort (kind : Nat) : Xfer := ⟨Xfer.header 5 0 0 0 0 2 1 0 0 32 0 0 0 1, toBytes kind 32⟩
def tBlock : Xfer := ⟨Xfer.header 1 0 0 0 0 2 1 0 1 128 0 11 288 1, List.replicate 128 0⟩

theorem witness_ShuttleCommands_arrivals :
    let r := { tRingD with landed := [(0, 0, 0)], returned := [0, 1] }
    let l := tLinked (tUp [] [(1, tAbort 1)]) fun n => { n with
      rings := [(4, r)], shuttleIn := [(0, 77, tBlock)], windows := [(0, ⟨5, false, true, true, 0, 4096, [(0, 0, 0)], 77, 0, 11⟩)] }
    let s := { l with holms := [(0, { tHolm 0 with exposure := [⟨0, 31, 2⟩] })] }
    (s.popAbort 1).map (fun e => (e.1, e.2.1)) = some (some 77, tAbort 1) ∧ s.net.shuttleIn.find? (s.landsIn 4) = some (0, 77, tBlock) ∧
      (s.checkXfer 0 tBlock).toOption = some (.scratch [0] 288) ∧ s.ringFor 77 tBlock (.scratch [0] 288) = some (4, r, some 1) ∧
      State.expectedIn r 1 = some (0, 1, 0) ∧ r.mayUse r.given (0, 1, 0) = true ∧ State.reset.net.shuttleIn = [] := by decide +kernel

/-- A grant is given once, for every slot (R284). -/
theorem test_grant :
    ((after (exec (.slotCreditGrant 4) (tLinked (tUp [] []) fun n => { n with rings := [(4, tRingD)] }))).ring? 4).map (·.returned) = some [0, 1] := by
  decide +kernel

/-- An active all-gather of two ranks, of which the module is rank 0, with 64 elements of one byte. -/
def tColl : Coll :=
  { Coll.fresh 1 0 0 5 0 77 (3 + 2 ^ 53 * 2 + 2 ^ 128 * 64 + 2 ^ 336 * 1024) 0 with active := true, entries := [⟨.done, 0, 0⟩, ⟨.done, 0, 0⟩] }

/-- A piece of a kind of that collective from rank 1 to this module. -/
def tPiece (kind dst bytes : Nat) : Piece := ⟨3 + 2 ^ 32 * kind + 2 ^ 52 + 2 ^ 74 * dst + 2 ^ 128 * bytes + 2 ^ 192 * 11, List.replicate bytes 1, []⟩

def tColls (c : Coll) (ps : List Piece) : State := tLinked (tUp [] []) fun n => { n with colls := [(8, c)], pieceIn := ps.map fun p => (0, 77, p) }

theorem witness_CollectiveCommands :
    let fData (s : State) (arch : Nat) (p : Piece) : Bool := s.inTransit arch p || p.kind == 1 || p.kind == 0 || 4 < p.kind
    let fKind (s : State) (k arch : Nat) (p : Piece) : Bool := !s.inTransit arch p && p.kind == k
    let d := tColls tColl [tPiece 1 1 64]
    let h := tColls tColl [tPiece 1 2 64]
    let r := tColls tColl [tPiece 4 1 0]
    let k := tColls tColl [tPiece 2 1 256]
    let g := tColls tColl [tPiece 3 1 256]
    d.popPiece (fKind d 4) = none ∧ (d.popPiece (fData d)).map (fun e => (e.1, e.2.1, e.2.2.1)) = some (0, 77, tPiece 1 1 64) ∧
      d.inTransit 77 (tPiece 1 1 64) = false ∧ h.inTransit 77 (tPiece 1 2 64) = true ∧ h.net.transit = [] ∧ d.collOf 77 (tPiece 1 1 64) = some (8, tColl) ∧
      d.pieceOk tColl (tPiece 1 1 64) = true ∧ (tPiece 1 1 64).bytes = 64 ∧ tColl.failed 1 = false ∧ d.collOf 78 (tPiece 1 1 64) = none ∧
      State.reset.coll? 8 = none ∧ d.coll? 8 = some tColl ∧ tColl.active = true ∧ tColl.done = false ∧
      (r.popPiece (fKind r 4)).map (fun e => (e.1, e.2.1, e.2.2.1)) = some (0, 77, tPiece 4 1 0) ∧ (tPiece 4 1 0).bytes = 0 ∧ r.pieceOk tColl (tPiece 4 1 0) = true ∧
      (k.popPiece (fKind k 2)).map (fun e => (e.1, e.2.1, e.2.2.1)) = some (0, 77, tPiece 2 1 256) ∧
      (g.popPiece (fKind g 3)).map (fun e => (e.1, e.2.1, e.2.2.1)) = some (0, 77, tPiece 3 1 256) ∧ State.reset.net.transit.get? 0 = none ∧
      (({ h with net := { h.net with transit := [(0, ⟨77, 0, tPiece 1 2 64, 0⟩)] } } : State).net.transit.get? 0).isSome = true ∧
      (d.emitter tColl).isSome = true ∧ d.collThrough tColl = false := by decide +kernel

theorem witness_CollectiveCommands_abort :
    let b := 2 + 2 ^ 8 * 10 + 2 ^ 16 + 2 ^ 32 * 3
    let s := tLinked (tUp [] [(1, tAbort b)]) fun n => { n with colls := [(8, tColl)] }
    (s.popAbort 2).map (fun e => (e.1, e.2.1)) = some (some 77, tAbort b) ∧
      (s.net.colls.find? fun ((_, c) : Nat × Coll) => c.id == fld b 32 32 && c.arch == 77 && c.active && !c.done && c.tide % 2 ^ 64 == fld b 64 64) = some (8, tColl) ∧
      Status.ofCode? (fld b 8 8) = some .aborted ∧ fld b 16 10 < tColl.n ∧ fld b 16 10 < tColl.entries.length ∧
      (s.popAbort 1).isNone = true := by decide +kernel

/-- A credit piece that names no collective is taken and dropped (R407). -/
theorem test_pieces : (after (exec .collectiveCreditReceive (tColls { tColl with done := true } [tPiece 4 1 0]))).net.pieceIn = [] := by decide +kernel

/-- A piece in transit takes a slot of the first class (R408). -/
theorem test_transit : ((after (exec (.collectivePieceArrival []) (tColls tColl [tPiece 1 2 64]))).net.transit.map fun e => e.2.cls) = [0] := by decide +kernel

/-! ### Strait ports -/

/-- A port in a state with one management flit. -/
def tPort (st : PortSt) (v : Nat) : State := tPorts fun i => if i = 31 then { Port.reset with st := st, mgtIn := [toBytes v 256] } else .reset

/-- LINK_INIT of version 1 that announces 65,535 flits on every channel and level. -/
def tInit : Nat := 0x01 + 2 ^ 8 + (2 ^ 208 - 1) * 2 ^ 16

theorem witness_LinkCommands :
    let s := tPort .train tInit
    let q := s.port 31
    let n := { q with mgtIn := [] }
    let u := tPorts fun _ => tUp [] []
    let k := tPorts fun _ => { tUp [] [] with unacked := [(7, [])] }
    s.live = true ∧ s.net.ports.length = 32 ∧ State.reset.linksLive = true ∧ (State.reset.port 31).sends = false ∧ (u.port 31).sends = true ∧
      (u.port 31).badAt = none ∧ ((u.port 31).receive false [] 0).2 = false ∧ (u.port 31).unacked = [] ∧ (k.port 31).unacked = [(7, [])] ∧
      (k.port 31).sends = true ∧ fstOk 0 = true ∧ fstOk (BitVec.ofNat 1024 5) = false ∧ fstOk (BitVec.ofNat 1024 4) = true ∧
      q.popMgt (fun v => fld v 0 8 == 0x01) = some (tInit, n) ∧ n.st = .train ∧ fld tInit 8 8 = 1 ∧
      (∀ e ∈ State.leastBuffers, e.2 ≤ (State.announcedBy tInit).getD e.1 0) ∧ (State.reset.port 31).popMgt (fun v => fld v 0 8 == 0x01) = none := by
  decide +kernel

/-- LINK_INIT gives the announced credits; a bad block is marked with its index (R364, R383). -/
theorem test_link :
    ((after (exec (.linkInit 31) (tPort .train tInit))).port 31).initRcvd = true ∧
      ((after (exec (.linkBlockReceive 31 false [] 0) (tPorts fun _ => tUp [] []))).port 31).badAt = some 0 := by decide +kernel

/-- HELLO of module 2, incarnation 9, port 5, with the echo of this module's port 0; the end of its link is cabled. -/
def tHello : Nat :=
  0x03 + 2 ^ 8 + 2 ^ 16 * 5 + 2 ^ 32 * 2 + 2 ^ 96 * 9 + 2 ^ 160 * 3 + 2 ^ 264 + 2 ^ 328 + 2 ^ 397

def tEnable : Nat := 0x03 + 2 ^ 8 * 2 + 2 ^ 16 * 5 + 2 ^ 32 * 2 + 2 ^ 96 * 9 + 2 ^ 160 * 3 + 2 ^ 400 * 77 + 2 ^ 474
def tWithdraw : Nat := 0x03 + 2 ^ 8 * 2 + 2 ^ 16 * 5 + 2 ^ 32 * 2 + 2 ^ 96 * 9 + 2 ^ 160 * 3
def tTime : Nat := 0x03 + 2 ^ 8 * 3 + 2 ^ 16 * 5 + 2 ^ 32 * 2 + 2 ^ 96 * 9 + 2 ^ 160 * 3 + 2 ^ 480 * 4

/-- A module of rack 3 whose port 0 has one CHART flit. -/
def tChart (st : PortSt) (v : Nat) : State :=
  { State.reset with net := { NetState.reset 1 1 with rackId := 3, ports := { Port.reset with st := st, mgtIn := [toBytes v 256] } :: List.replicate 31 .reset } }

theorem witness_ChartingAndTime :
    let pop (s : State) (k : Nat) := ((s.port 0).popMgt fun v => isChart v && (chtKind v == k || chtKind v == 0 || 3 < chtKind v)).map (·.1)
    let h := tChart .chart tHello
    let t (f : RackTime) : State := { State.reset with net := { NetState.reset 1 1 with time := f } }
    let two : Arch := ⟨5, 1, [(0, 9, 9, 4), (1, 1, 1, 3)], true, none⟩
    let g := { State.reset with net := { NetState.reset 1 1 with archs := [(77, two)], time := { RackTime.reset with paths := [(77, ⟨0, 7, false⟩)] } } }
    h.live = true ∧ h.net.ports.length = 32 ∧ pop h 1 = some tHello ∧ chartOk tHello = true ∧ h.cabled 0 ⟨2, 9, 5, 3⟩ = true ∧ h.net.claim.fixed = false ∧
      bitAt tHello 397 = true ∧ fld tHello 264 64 = h.net.serial ∧ fld tHello 328 64 = h.net.inc ∧ fld tHello 392 5 = 0 ∧ bitAt tHello 198 = false ∧
      pop (tChart .up tEnable) 2 = some tEnable ∧ chartOk tEnable = true ∧ bitAt tEnable 474 = true ∧ pop (tChart .up tWithdraw) 2 = some tWithdraw ∧
      chartOk tWithdraw = true ∧ bitAt tWithdraw 474 = false ∧ pop (tChart .up tTime) 3 = some tTime ∧ chartOk tTime = true ∧ fld tTime 704 3 < 7 ∧
      pop State.reset 1 = none ∧ pop (tChart .chart 0x03) 1 = some 0x03 ∧ chartOk 0x03 = false ∧ (State.reset.port 0).charted = false ∧
      (tPhase .off .powerUp []).boot.phase = .off ∧ State.reset.boot.phase ≠ .off ∧ State.reset.net.time.sync ≠ .locked ∧
      (t { RackTime.reset with frame := some (4, 64), nextMark := some 4, agreed := 1 }).net.time.now ≤ 1000 * 4 ∧
      ((g.spanning none).filter fun a => (g.pathOf a).depth == 7 && !(g.pathOf a).lost) = [77] ∧
      ((State.reset.spanning none).filter fun a => (State.reset.pathOf a).depth == 7 && !(State.reset.pathOf a).lost) = [] := by decide +kernel

/-- HELLO with its echo and the right cabling charts the port (R389, R391). -/
theorem test_hello : ((after (exec (.hello 0) (tChart .chart tHello))).port 0).charted = true ∧
    ((after (exec (.hello 0) (tChart .chart tHello))).port 0).peer = some ⟨2, 9, 5, 3⟩ := by decide +kernel

/-- A frame that decodes and agrees after another that did locks the time to its marker (R396, R397). -/
theorem test_rtp :
    let s := { State.reset with net := { NetState.reset 1 1 with time := { RackTime.reset with frame := some (4, 64), nextMark := some 4, agreed := 1 } } }
    (after (exec (.rtpEdge 450) s)).net.time.sync = .locked ∧ (after (exec (.rtpEdge 450) s)).net.time.now = 4000 := by decide +kernel

theorem witness_LaneAndPortEvents :
    let f := tPort .up (0x04 + 2 ^ 16 * 3)
    let w := tPort .up (0x05 + 2 ^ 16 * 3)
    let d := tPort .up 0x06
    let st (x : PortSt) : State := tPort x 0
    let swap := tPorts fun _ => { Port.reset with st := .failed, swapAt := some (3, 64, false) }
    f.live = true ∧ f.net.ports.length = 32 ∧ ((f.port 31).popMgt (fun v => fld v 0 8 == 0x04)).isSome = true ∧ fld (0x04 + 2 ^ 16 * 3) 16 8 = 3 ∧
      3 ∈ (f.port 31).txMap ∧ 4 ∉ (f.port 31).txMap ∧ (f.port 31).txLaneLost = false ∧ ((w.port 31).popMgt (fun v => fld v 0 8 == 0x05)).isSome = true ∧
      ((d.port 31).popMgt (fun v => fld v 0 8 == 0x06)).isSome = true ∧ (d.port 31).sends = true ∧ (st .up).linksLive = true ∧
      (State.reset.port 31).popMgt (fun v => fld v 0 8 == 0x04) = none ∧ ((st .up).port 31).rxLaneLost = false ∧ 3 ∈ ((st .up).port 31).rxMap ∧
      (swap.port 31).swapAt = some (3, 64, false) ∧ (swap.port 31).st = .failed ∧ ((st .train).port 31).st = .train ∧ ((st .hold).port 31).st = .hold ∧
      ((st .down).port 31).st = .down ∧ (tPhase .off .powerUp []).linksLive = false ∧ ((st .failed).port 31).swapAt = none ∧
      ((st .failed).port 31).lanesGone = false := by decide +kernel

/-- A first lane that fails asks for the spare at the sixty-fourth block from now; the remap puts lane 4 in its place (R378). -/
theorem test_lane :
    ((after (exec (.laneFailureDetect 31 3) (tPort .up 0))).port 31).swapAt = some (3, 64, false) ∧
      ((after (exec (.laneRemap 31) (tPorts fun _ => { Port.reset with st := .failed, swapAt := some (3, 64, false) }))).port 31).rxMap = [0, 1, 2, 4] := by
  decide +kernel

/-- A WRITE of 32 bytes to the window, a READ, and a COMPLETION from member 2. -/
def tWrite : Xfer := ⟨Xfer.header 1 0 0 0 0 2 1 6 0 32 0 11 0 1, List.replicate 32 7⟩
def tRead : Xfer := ⟨Xfer.header 2 0 0 0 0 2 1 6 0 32 0 11 0 1, []⟩
def tDone : Xfer := ⟨Xfer.header 4 0 0 0 0 2 1 6 0 0 0 0 0 1, []⟩
/-- What member 1 has sent to member 2 under number 6, and a transfer for member 2 that has a relay hop left. -/
def tSentX : Xfer := ⟨Xfer.header 1 0 0 0 0 1 2 6 0 32 0 11 0 9, List.replicate 32 7⟩
def tRelay : Xfer := ⟨Xfer.header 1 0 1 0 0 2 2 6 0 32 0 11 0 9, List.replicate 32 7⟩
def tSent (n : Nat) : Sent := ⟨tSentX, 77, 1, [0], 0, .none, n, false⟩

def tStrait (xs : List (Nat × Xfer)) (n : Nat) : State := tLinked (tUp [] xs) fun s => { s with sent := [tSent n] }

theorem witness_StraitCommands :
    let w := tStrait [(1, tWrite)] 0
    let r := tStrait [(1, tRead)] 0
    let a := tStrait [(2, tDone)] 1
    let f := tStrait [(1, tRelay)] 0
    let y : Reply := ⟨tDone, 0, 77⟩
    let o := { w with net := { w.net with replies := [y] } }
    w.live = true ∧ ((w.popArrived 0 fun _ x => w.forMe 0 x && !(x.ty == 2 || x.ty == 3 || x.ty == 4 || x.ty == 5)).map fun e => (e.1, e.2.1)) = some (1, tWrite) ∧
      ((r.popArrived 0 fun _ x => r.forMe 0 x && x.ty == 2).map fun e => (e.1, e.2.1)) = some (1, tRead) ∧
      ((a.popArrived 0 fun _ x => a.forMe 0 x && (x.ty == 3 || x.ty == 4)).map fun e => (e.1, e.2.1)) = some (2, tDone) ∧
      ((f.popArrived 0 fun _ x => !f.forMe 0 x).map fun e => (e.1, e.2.1)) = some (1, tRelay) ∧ w.archOfPort 0 = some (77, tArch) ∧ w.keptOf 77 tWrite = none ∧
      (w.checkXfer 0 tWrite).toOption = some (.memory 5 0) ∧ tWrite.eng = 0 ∧ (w.land (.memory 5 0) tWrite.data).toOption.isSome = true ∧
      (r.checkXfer 0 tRead).toOption = some (.memory 5 0) ∧ (r.fetch (.memory 5 0) 32).toOption = some (List.replicate 32 0) ∧
      (a.net.sent.find? fun t => t.x.xid == tDone.xid && t.x.dst == tDone.src && t.x.src == tDone.dst && some t.arch == (a.archOfPort 0).map (·.1)) = some (tSent 1) ∧
      Status.ofCode? tDone.status = some .done ∧ tRelay.relay ≠ 0 ∧ (tArch.members.get? tRelay.src).isSome = true ∧ (tArch.members.get? tRelay.dst).isSome = true ∧
      w.net.replies = [] ∧ o.net.replies = [y] ∧ o.portFor 77 [0] 0 = some (0, 0) ∧ o.portFor 78 [0] 0 = none ∧
      (a.net.sent.find? fun t => t.x.xid == 6 && t.redirects != 0) = some (tSent 1) ∧ (w.net.sent.find? fun t => t.x.xid == 6 && t.redirects != 0) = none := by
  decide +kernel

/-- A WRITE lands and is answered with DONE, 0; a READ is answered with the bytes (R371, R372). -/
theorem test_strait :
    ((after (exec (.straitWriteArrival 0) (tStrait [(1, tWrite)] 0))).net.replies.map fun r => (r.x.ty, r.x.status)) = [(4, 0)] ∧
      ((after (exec (.straitReadArrival 0) (tStrait [(1, tRead)] 0))).net.replies.map fun r => (r.x.ty, r.x.data)) = [(3, List.replicate 32 0)] := by
  decide +kernel


/-- A holm at one instruction whose attention control block at word 0 has 64 elements a row, no rows, and BF16 throughout. -/
def tAttn (w : Nat) : Holm :=
  { tHolm w with mem := (Mem.write [] 0 (toBytes (2 ^ 233 * 64 + 2 ^ 242 * 170) 256)), written := [(0, 15)] }

theorem tAttn_at (w : Nat) : (tState (tAttn w)).atWord 0 (BitVec.ofNat 128 w) := ⟨by decide, rfl, rfl, rfl⟩

theorem witness_AttentionWords_ends :
    let slots (i : Nat) : Bool := ((tAttn 0x18).picots.get? i).isSome
    let c : Acb := ⟨rdLE (tAttn 0x18).rd 0 256⟩
    let b : Bcb := ⟨⟨rdLE (tAttn 0x1A).rd 0 256⟩, rdLE (tAttn 0x1A).rd 256 128⟩
    (tState (tAttn 0x18)).atWord 0 0x18 ∧ lookAts (tAttn 0x18).look 0x18 8 = .ok 0 ∧ cbFree (tAttn 0x18) [] 0 256 = true ∧ cbPoisoned (tAttn 0x18) 0 8 = false ∧
      c.m = 0 ∧ c.check 0 slots (tAttn 0x18).mayExport = none ∧ (tAttn 0x18).canIssue [.mxe, .vec, .sfu] (hulls [Acb.hullSelf 0 256]) [] = true ∧
      (c.ats (tAttn 0x18).rd (State.picotOf (tAttn 0x18)) []).toOption.isSome = true ∧
      (tState (tAttn 0x1A)).atWord 0 0x1A ∧ lookAts (tAttn 0x1A).look 0x1A 12 = .ok 0 ∧ b.step.m = 0 ∧ b.step.n = 0 ∧ b.check 0 slots = none ∧
      (b.run (tAttn 0x1A).rd (State.picotOf (tAttn 0x1A)) [] 0).toOption.isSome = true :=
  ⟨tAttn_at 0x18, by rfl, by decide +kernel, by decide +kernel, by decide +kernel, by decide +kernel, by decide +kernel, by decide +kernel,
    tAttn_at 0x1A, by rfl, by decide +kernel, by decide +kernel, by decide +kernel, by decide +kernel⟩

/-- ATF from the block at word 0 to FP32 rows at word 4096. -/
def atfWord : Nat := 0x19 + 2 ^ 33 * 4096 + 2 ^ 75 * 4

theorem witness_AttentionWords_final :
    let slots (i : Nat) : Bool := ((tAttn atfWord).picots.get? i).isSome
    let c : Acb := ⟨rdLE (tAttn atfWord).rd 0 256⟩
    (tState (tAttn atfWord)).atWord 0 (BitVec.ofNat 128 atfWord) ∧ fld atfWord 0 8 = 0x19 ∧
      (match lookAtf (tAttn atfWord).look atfWord with
        | .ok (cb, y) => cb = 0 ∧ y.base = 4096 ∧ c.atfCheck 0 slots y = none
        | .error _ => False) ∧
      (tAttn atfWord).canIssue [.vec, .sfu] (hulls [Acb.hullSelf 0 256]) [] = true :=
  ⟨tAttn_at atfWord, by decide +kernel, ⟨rfl, rfl, by decide +kernel⟩, by decide +kernel⟩

/-! Further forms of the holm instructions -/

/-- MMAP of one problem at word 0, over the scratchpad's first lines. -/
def mmapWord : Nat := 0x11 + 2 ^ 53 * 2 + 2 ^ 70 * 3 + 2 ^ 87 * 8 + 2 ^ 104 * 9

theorem witness_MatrixWords_map :
    (tAt mmapWord).atWord 0 (BitVec.ofNat 128 mmapWord) ∧ fld mmapWord 0 8 = 0x11 ∧
      (match lookMmap (tHolm mmapWord).look mmapWord with
        | .ok m => m.count = 1 ∧ (tHolm mmapWord).canIssue [.mxe] (hulls [rowsHull m.list 0 1 64, some m.src]) [m.dst] = true ∧
            (∀ j, j < 16 → (tHolm mmapWord).poison.contains (m.list + j) = false) ∧ mapCheck m (rdLE (tHolm mmapWord).rd (4 * m.list) 64) = none
        | .error _ => False) :=
  ⟨tAt_word mmapWord, by decide +kernel, ⟨rfl, by decide +kernel, fun _ _ => rfl, by decide +kernel⟩⟩

/-- Words of the control queue: STOP, POST of one credit to an in-channel and to an out-channel, RELEASE of one tile of line 0, and a KVA. -/
def postWord : Nat := 0x230 + 2 ^ 14 + 2 ^ 52
def postOutWord : Nat := 0x230 + 2 ^ 11 * 4 + 2 ^ 14
def releaseWord : Nat := 0x330 + 2 ^ 14
def kvaWord : Nat := 0x31 + 2 ^ 10 + 2 ^ 40

def tBob (w ch : Nat) : Holm :=
  { tHolm w with chans := setAt (List.replicate 8 Chan.reset) ch { Chan.reset with active := true } }

theorem witness_BobbinCommands_forms :
    (fld 0x130 8 3 = 1 ∧ (tHolm 0x130).canIssue [.bob] [] [] = true) ∧ (tState (tBob postWord 0)).atWord 0 (BitVec.ofNat 128 postWord) ∧
      lookBob ((tState (tBob postWord 0)).lookCtx (tBob postWord 0)) (tBob postWord 0).look postWord = .ok (.post 0 1 none) ∧
      (((tBob postWord 0).chan 0).active = true ∧ ((tBob postWord 0).chan 0).credits + 1 ≤ 255) ∧
      lookBob ((tState (tBob postOutWord 4)).lookCtx (tBob postOutWord 4)) (tBob postOutWord 4).look postOutWord = .ok (.post 4 1 (some (0, 0))) ∧
      (tBob postOutWord 4).canIssue [.bob] [(0, 0)] [] = true ∧
      lookBob ((tAt releaseWord).lookCtx (tHolm releaseWord)) (tHolm releaseWord).look releaseWord = .ok (.release 0 1 (0, 0)) ∧
      ((tHolm releaseWord).conflicts [] [] [(0, 0)] = false ∧ (tHolm releaseWord).roomIn [.bob] = true ∧ ((tHolm releaseWord).chan 0).tiles.length < 1) ∧
      lookKva (tHolm kvaWord).look kvaWord = .ok ⟨4, 1, 0, 1, 0, 0, 1, 0⟩ ∧ rowsHull 0 0 1 (32 * 1 * 1 * (tPool.rk + tPool.rv)) = some (0, 1) ∧
      hullOk (some (0, 1)) = true :=
  ⟨by decide +kernel, ⟨by decide, rfl, rfl, rfl⟩, by rfl, by decide +kernel, by rfl, by decide +kernel, by rfl, by decide +kernel, by rfl, by decide +kernel,
    by decide +kernel⟩

/-- MSG RECV into words 0 to 15, with and without a message in the inbox. -/
theorem witness_Messages_receive :
    let w := 0x10A
    let h := { tHolm w with inbox := [List.replicate 64 7] }
    (tAt w).atWord 0 (BitVec.ofNat 128 w) ∧ bitAt w 8 = true ∧ (tHolm w).inbox = [] ∧ (tState h).atWord 0 (BitVec.ofNat 128 w) ∧
      h.canIssue [.msg] [] [(0, 1)] = true ∧ (match lookMsg h.look w with | .ok r => r.buf = 0 | .error _ => False) :=
  ⟨tAt_word 0x10A, by decide +kernel, rfl, ⟨by decide, rfl, rfl, rfl⟩, by decide +kernel, rfl⟩

/-- EMIT from holm 1 of the partition, from the first line that AR[0] names. -/
theorem witness_PrickingRequests_far :
    let w := 2 ^ 60 + 2 ^ 46
    let c : Chan := { Chan.reset with active := true, loaded := true, depth := 2, ar := [2 ^ 20, 0, 0, 0] }
    let h := { tPrick w with chans := setAt (List.replicate 8 Chan.reset) 0 c }
    let s := tPair h
    s.atPrick 0 0 w ∧ fld w 60 4 = 0x1 ∧ c.tileOpen = false ∧ c.unfreed < c.depth ∧ (emitOf w).kind ≠ 0 ∧ (c.begin_).ar_ (emitOf w).freg = 2 ^ 20 ∧
      s.peerLg? h (2 ^ 20 / 2 ^ 20) = some 1 ∧ s.inFlightLines 0 0 + (emitOf w).lines ≤ 1024 ∧ s.physOf? 1 = some 1 := by
  intro w c h s
  exact ⟨⟨⟨by decide, rfl⟩, by decide +kernel⟩, by decide +kernel, by decide +kernel, by decide +kernel, by decide +kernel, by decide +kernel,
    by decide +kernel, by decide +kernel, by decide +kernel⟩

end Sys2Proof.Tests
end

section
/-! SUPPORT. The registers of chapter 23 as the host reaches them: where an access lands, what a write of the notice doorbell, of
RST_REQ and of QUE_CFG does, row by row (R557, R564, R567, R571). -/

namespace Sys2Proof.Machine

/-! ### Where an access lands (R557, R559, R560) -/

@[simp] theorem findReg_ntcDb (fn : Nat) : findReg fn 0x9000 4 = some (.ntcDb, 0, 0) := rfl

@[simp] theorem findReg_queCfg_high (fn : Nat) : findReg fn 0x214 4 = some (.queCfg, 0, 4) := rfl

@[simp] theorem findReg_rstReq : findReg 0 0x12000 4 = some (.rstReq, 0, 0) := rfl

/-- A function that answers on the host link takes the access. -/
theorem onBar_reachable {fn : Nat} {s : State} (h : s.reachable fn = true) (f : State → State) : onBar fn s f = .next (f s) := by
  simp [onBar, h]

/-! ### Fields of a word (R7) -/

/-- A field is 0 where each of its bits is. -/
theorem fld_eq_zero_iff (x lo w : Nat) : fld x lo w = 0 ↔ ∀ i, lo ≤ i → i < lo + w → x.testBit i = false := by
  constructor
  · intro h i hlo hhi
    have hbit : (fld x lo w).testBit (i - lo) = false := by rw [h, Nat.zero_testBit]
    have hlt : i - lo < w := by omega
    simpa [fld, Nat.testBit_mod_two_pow, Nat.testBit_shiftRight, hlt, Nat.add_sub_cancel' hlo] using hbit
  · intro h
    refine Nat.eq_of_testBit_eq fun j => ?_
    rw [Nat.zero_testBit, fld, Nat.testBit_mod_two_pow, Nat.testBit_shiftRight]
    by_cases hj : j < w
    · simp [h (lo + j) (by omega) (by omega)]
    · simp [hj]

/-- The bits of QUE_CFG that the mask clears are those of its reserved fields (R563). -/
theorem queCfgMask_testBit : ∀ j < 64, Nat.testBit 0x8000FF03FFFF071F j = false ↔
    (5 ≤ j ∧ j < 8) ∨ (11 ≤ j ∧ j < 16) ∨ (34 ≤ j ∧ j < 40) ∨ (48 ≤ j ∧ j < 63) := by decide

/-- A word of QUE_CFG is unchanged by the mask where its reserved fields are 0 (R563). -/
theorem queCfg_masked_iff {x : Nat} (hx : x < 2 ^ 64) :
    x &&& 0x8000FF03FFFF071F = x ↔ fld x 5 3 = 0 ∧ fld x 11 5 = 0 ∧ fld x 34 6 = 0 ∧ fld x 48 15 = 0 := by
  simp only [fld_eq_zero_iff]
  constructor
  · intro h
    have clear : ∀ j < 64, (5 ≤ j ∧ j < 8) ∨ (11 ≤ j ∧ j < 16) ∨ (34 ≤ j ∧ j < 40) ∨ (48 ≤ j ∧ j < 63) → x.testBit j = false := by
      intro j hj hr
      rw [← h, Nat.testBit_and, (queCfgMask_testBit j hj).mpr hr, Bool.and_false]
    exact ⟨fun i _ _ => clear i (by omega) (by omega), fun i _ _ => clear i (by omega) (by omega),
      fun i _ _ => clear i (by omega) (by omega), fun i _ _ => clear i (by omega) (by omega)⟩
  · rintro ⟨h5, h11, h34, h48⟩
    refine Nat.eq_of_testBit_eq fun j => ?_
    rw [Nat.testBit_and]
    by_cases hj : j < 64
    · cases hm : Nat.testBit 0x8000FF03FFFF071F j with
      | true => rw [Bool.and_true]
      | false =>
        rcases (queCfgMask_testBit j hj).mp hm with ⟨hl, hu⟩ | ⟨hl, hu⟩ | ⟨hl, hu⟩ | ⟨hl, hu⟩
        · rw [h5 j hl hu, Bool.false_and]
        · rw [h11 j hl hu, Bool.false_and]
        · rw [h34 j hl hu, Bool.false_and]
        · rw [h48 j hl hu, Bool.false_and]
    · rw [Nat.testBit_lt_two_pow (hx.trans_le (Nat.pow_le_pow_right (by omega) (by omega))), Bool.false_and]

namespace State

/-! ### Reads and writes of a register that is there (R12, R557, R577) -/

theorem bootFailed_of_ready {s : State} (h : s.boot.phase = .ready) : s.bootFailed = false := by
  simp [bootFailed, h]

/-- A read of a register answers its value, unless the boot has failed. -/
theorem regRead_found {s : State} {fn off size i b : Nat} {n : RegName} (hr : findReg fn off size = some (n, i, b))
    (hb : s.bootFailed = false) :
    s.regRead fn off size =
      { s with boot := { s.boot with busReply := some (s.regValue fn n i / 2 ^ (8 * b) % 2 ^ (8 * size)) } } := by
  simp [regRead, hr, hb]

/-- A read of a register that holds 0 answers 0. -/
theorem regRead_zero {s : State} {fn off size i b : Nat} {n : RegName} (hr : findReg fn off size = some (n, i, b))
    (hb : s.bootFailed = false) (h0 : s.regValue fn n i = 0) :
    s.regRead fn off size = { s with boot := { s.boot with busReply := some 0 } } := by
  rw [regRead_found hr hb, h0, Nat.zero_div, Nat.zero_mod]

/-- A write of a word reaches its register, unless the boot has failed; RST_REQ is reached even then. -/
theorem regWrite_found {s : State} {fn off i b v : Nat} {n : RegName} (hr : findReg fn off 4 = some (n, i, b))
    (hb : n = .rstReq ∨ s.bootFailed = false) (hv : v < 2 ^ 32) : s.regWrite fn off 4 v = s.regStore fn n i b v := by
  rcases hb with rfl | hb
  · simp [regWrite, hr, Nat.mod_eq_of_lt hv, -Nat.reducePow]
  · simp [regWrite, hr, hb, Nat.mod_eq_of_lt hv, -Nat.reducePow]

/-! ### The notice doorbell (R431, R567) -/

theorem exec_ntcDbHead {s : State} {fn v : Nat} (hr : s.reachable fn = true) (hb : s.bootFailed = false) (hv : v < 2 ^ 32) :
    exec (.ntcDbHead fn v) s = .next (s.noticeDoorbell fn v) :=
  (onBar_reachable hr (·.regWrite fn 0x9000 4 v)).trans (congrArg Host.Outcome.next (regWrite_found (findReg_ntcDb fn) (.inr hb) hv))

/-- Without a ring the doorbell has no effect. -/
theorem noticeDoorbell_noRing {s : State} {fn : Nat} (v : Nat) (hr : s.isth.rings.get? fn = none) : s.noticeDoorbell fn v = s := by
  simp [noticeDoorbell, hr]

/-- A value past the ring is refused with a notice. -/
theorem noticeDoorbell_pastRing {s : State} {fn v : Nat} {r : NtcRing} (hready : s.boot.phase = .ready) (hv : v < 2 ^ 32)
    (hr : s.isth.rings.get? fn = some r) (hsize : 2 ^ r.log2 ≤ v) :
    s.noticeDoorbell fn v = s.notice fn 0x12 (0xFF + 2 ^ 32 * v) := by
  simp [noticeDoorbell, isReady, hready, hr, hsize, Nat.mod_eq_of_lt hv, -Nat.reducePow]

/-- The number of entries from a head to the index written, going up around the ring. -/
theorem ring_distance {head size k v : Nat} (hk : k < size) (hv : (head + k) % size = v) : (v + size - head % size) % size = k := by
  subst hv
  have hh : head % size < size := Nat.mod_lt _ (by omega)
  rw [Nat.add_mod, Nat.mod_eq_of_lt hk]
  rcases Nat.lt_or_ge (head % size + k) size with hlt | hge
  · rw [Nat.mod_eq_of_lt hlt, show head % size + k + size - head % size = k + size by omega, Nat.add_mod_right, Nat.mod_eq_of_lt hk]
  · rw [Nat.mod_eq_sub_mod hge, Nat.mod_eq_of_lt (by omega : head % size + k - size < size),
      show head % size + k - size + size - head % size = k by omega, Nat.mod_eq_of_lt hk]

/-- A value within the ring is k entries past the head: they are released where all have been posted, else the write is refused. -/
theorem noticeDoorbell_within {s : State} {fn v k : Nat} {r : NtcRing} (hready : s.boot.phase = .ready) (hv : v < 2 ^ 32)
    (hr : s.isth.rings.get? fn = some r) (hk : k < 2 ^ r.log2) (hkv : (r.head + k) % 2 ^ r.log2 = v) :
    s.noticeDoorbell fn v =
      if r.tail < r.head + k then s.notice fn 0x12 (0xFF + 2 ^ 32 * v)
      else { s with isth := { s.isth with rings := s.isth.rings.set fn { r with head := r.head + k } } } := by
  have hlt : ¬ 2 ^ r.log2 ≤ v := by
    rw [← hkv, not_le]
    exact Nat.mod_lt _ (by omega)
  simp [noticeDoorbell, isReady, hready, hr, hlt, ring_distance hk hkv, Nat.mod_eq_of_lt hv, -Nat.reducePow]

/-! ### The reset request (R571) -/

theorem exec_registerWrite_rstReq {s : State} {v : Nat} (hr : s.reachable 0 = true) (hv : v < 2 ^ 32) :
    exec (.registerWrite 0 0x12000 4 v) s = .next (s.resetRequest v) :=
  (onBar_reachable hr (·.regWrite 0 0x12000 4 v)).trans (congrArg Host.Outcome.next (regWrite_found findReg_rstReq (.inl rfl) hv))

/-- A row of RST_REQ writes its value with the row's kind, which here is the value's own. -/
theorem regWrite_rstReq_kind {s : State} {v k : Nat} (hr : s.reachable 0 = true) (hv : v < 2 ^ 32) (hk : v % 4 = k) :
    onBar 0 s (fun s => s.regWrite 0 0x12000 4 (v / 4 * 4 + k)) = .next (s.resetRequest v) := by
  rw [show v / 4 * 4 + k = v by omega]
  exact exec_registerWrite_rstReq hr hv

theorem exec_rstReqCold {s : State} {v : Nat} (hr : s.reachable 0 = true) (hv : v < 2 ^ 32) (hk : v % 4 = 1) :
    exec (.rstReqCold 0 v) s = .next (s.resetRequest v) := regWrite_rstReq_kind hr hv hk

theorem exec_rstReqWarm {s : State} {v : Nat} (hr : s.reachable 0 = true) (hv : v < 2 ^ 32) (hk : v % 4 = 2) :
    exec (.rstReqWarm 0 v) s = .next (s.resetRequest v) := regWrite_rstReq_kind hr hv hk

theorem exec_rstReqSoft {s : State} {v : Nat} (hr : s.reachable 0 = true) (hv : v < 2 ^ 32) (hk : v % 4 = 3) :
    exec (.rstReqSoft 0 v) s = .next (s.resetRequest v) := regWrite_rstReq_kind hr hv hk

theorem resetting_eq_false_iff (s : State) :
    s.resetting = false ↔ s.boot.phase ≠ .entryDue ∧ s.boot.phase ≠ .railsOff ∧ s.boot.phase ≠ .booting := by
  unfold resetting
  cases s.boot.phase <;> simp

/-- What R571 asks of a write but for its kind: the confirmation, reserved bits of 0, and no reset in progress. -/
def ResetConfirmed (s : State) (v : Nat) : Prop :=
  fld v 16 16 = 0x4C4D ∧ fld v 2 14 = 0 ∧ s.boot.phase ≠ .entryDue ∧ s.boot.phase ≠ .railsOff ∧ s.boot.phase ≠ .booting

theorem resetConfirmed_iff (s : State) {v : Nat} (hv : v < 2 ^ 32) :
    s.ResetConfirmed v ↔ v % 2 ^ 32 / 4 = 0x4C4D * 2 ^ 14 ∧ s.resetting = false := by
  have hword : v % 2 ^ 32 / 4 = 0x4C4D * 2 ^ 14 ↔ fld v 16 16 = 0x4C4D ∧ fld v 2 14 = 0 := by
    simp only [fld, Nat.shiftRight_eq_div_pow]
    omega
  rw [hword, resetting_eq_false_iff, ResetConfirmed, and_assoc]

/-- A request that is confirmed and names a reset that may start now starts it. -/
theorem resetRequest_starts {s : State} {v : Nat} (hv : v < 2 ^ 32) (hok : s.ResetConfirmed v) :
    (v % 4 = 1 → s.resetRequest v = s.startReset .cold) ∧ (v % 4 = 2 → s.resetRequest v = s.startReset .warm) ∧
      (v % 4 = 3 → s.boot.phase = .ready → s.resetRequest v = s.startReset .soft) := by
  obtain ⟨hword, hidle⟩ := (resetConfirmed_iff s hv).mp hok
  refine ⟨fun hk => ?_, fun hk => ?_, fun hk hready => ?_⟩
  · simp [resetRequest, hword, hidle, hk, -Nat.reducePow, -Nat.reduceMul]
  · simp [resetRequest, hword, hidle, hk, -Nat.reducePow, -Nat.reduceMul]
  · simp [resetRequest, hword, hidle, hk, isReady, hready, -Nat.reducePow, -Nat.reduceMul]

/-- Any other request is only logged. -/
theorem resetRequest_refused {s : State} {v : Nat} (hv : v < 2 ^ 32)
    (h : ¬ s.ResetConfirmed v ∨ v % 4 = 0 ∨ (v % 4 = 3 ∧ s.boot.phase ≠ .ready)) :
    s.resetRequest v = s.busError 0 0x12000 4 v true := by
  rw [resetConfirmed_iff s hv, not_and_or] at h
  rcases h with (hword | hbusy) | hkind | ⟨hkind, hready⟩
  · simp [resetRequest, hword, -Nat.reducePow, -Nat.reduceMul]
  · simp [resetRequest, hbusy]
  · simp [resetRequest, hkind]
  · simp [resetRequest, hkind, isReady, hready]

/-! ### The end of a queue (R430) -/

/-- Commands that end change the list of commands and the order of ending, and nothing else. -/
theorem endCmds_eq (s : State) (ids : List CmdId) (st : Status) (r : Nat) :
    s.endCmds ids st r = { s with isth := { s.isth with
      cmds := (s.endCmds ids st r).isth.cmds, nextEnd := (s.endCmds ids st r).isth.nextEnd } } := by
  unfold endCmds
  induction ids generalizing s with
  | nil => rfl
  | cons i ids ih =>
    rw [List.foldl_cons, ih]
    rfl

/-- A queue with commands in progress stops fetching. -/
theorem stopQueue_busy {s : State} {fn q : Nat} {x : Que} (hq : s.que? fn q = some x) (hn : s.inProgress fn q ≠ 0) :
    s.stopQueue fn q = s.setQue fn q { x with stopFetch := true } := by
  have hn' : (s.setQue fn q { x with stopFetch := true }).inProgress fn q ≠ 0 := hn
  simp [stopQueue, hq, queueStopped, hn']

/-- A queue without commands in progress is removed with its energy count, and commands that waited for its end are done. -/
theorem stopQueue_idle {s : State} {fn q : Nat} {x : Que} (hq : s.que? fn q = some x) (hn : s.inProgress fn q = 0) :
    ∃ cmds nextEnd, s.stopQueue fn q = { s with
      isth := { s.isth with
        queues := (s.isth.queues.set (queKey fn q) { x with stopFetch := true }).del (queKey fn q), cmds := cmds, nextEnd := nextEnd }
      pow := { s.pow with eQueue := s.pow.eQueue.del (queKey fn q) } } := by
  have hn' : (s.setQue fn q { x with stopFetch := true }).inProgress fn q = 0 := hn
  simp only [stopQueue, hq, queueStopped, que_setQue, hn', if_true, and_self]
  rw [endCmds_eq]
  exact ⟨_, _, rfl⟩

/-! ### The queue 0 setup block (R563, R564) -/

theorem exec_queCfgCommit {s : State} {fn v : Nat} (hr : s.reachable fn = true) (hb : s.bootFailed = false) (hv : v < 2 ^ 32) :
    exec (.queCfgCommit fn v) s =
      .next ((s.modQueRegs fn fun r => { r with cfg := r.cfg % 2 ^ 32 + 2 ^ 32 * v }).commitSetup fn) := by
  refine (onBar_reachable hr (·.regWrite fn 0x214 4 v)).trans (congrArg Host.Outcome.next ?_)
  rw [regWrite_found (findReg_queCfg_high fn) (.inr hb) hv]
  simp [regStore, writeCfg, Nat.mod_eq_of_lt hv, -Nat.reducePow]

@[simp] theorem queRegs_modQueRegs (s : State) (fn : Nat) (f : QueRegs → QueRegs) : (s.modQueRegs fn f).queRegs fn = f (s.queRegs fn) :=
  AMap.getD_set_self _ _ _ _

/-- The second of two changes of a setup block stands on the first. -/
theorem modQueRegs_modQueRegs (s : State) (fn : Nat) (f g : QueRegs → QueRegs) :
    (s.modQueRegs fn f).modQueRegs fn g = s.modQueRegs fn fun r => g (f r) := by
  rw [modQueRegs, queRegs_modQueRegs]
  simp [modQueRegs, AMap.set_set]

/-- The reserved fields of QUE_CFG are 0 and its ring size is within 6 to 16: the first row of R564 does not apply. -/
def CfgFormed (cfg : Nat) : Prop := cfg &&& 0x8000FF03FFFF071F = cfg ∧ 6 ≤ fld cfg 0 5 ∧ fld cfg 0 5 ≤ 16

/-- The block enables the queue with a base that is not 4 KiB-aligned. -/
def BaseRefused (r : QueRegs) : Prop := bitAt r.cfg 63 = true ∧ (r.cmdBase % 4096 ≠ 0 ∨ r.cplBase % 4096 ≠ 0)

/-- The block enables the queue with a minor version that the running image does not support. -/
def MinorRefused (s : State) (r : QueRegs) : Prop :=
  bitAt r.cfg 63 = true ∧ (fld r.cfg 40 8 < s.minors.1 ∨ s.minors.2 < fld r.cfg 40 8)

/-- The ring that a setup block describes, set up anew. -/
def ringOf (r : QueRegs) : Que :=
  Que.armed r.cmdBase r.cplBase (fld r.cfg 0 5) (fld r.cfg 40 8) (fld r.cfg 8 3) (fld r.cfg 16 8 + 1) (fld r.cfg 24 10)

/-- No row of R564 that stands for any state of the queue applies. -/
structure SetupSound (s : State) (fn : Nat) : Prop where
  formed : CfgFormed (s.queRegs fn).cfg
  bases : ¬ BaseRefused (s.queRegs fn)
  minor : ¬ s.MinorRefused (s.queRegs fn)

theorem cfgFormed_iff {cfg : Nat} (hx : cfg < 2 ^ 64) : CfgFormed cfg ↔
    ¬ (fld cfg 5 3 ≠ 0 ∨ fld cfg 11 5 ≠ 0 ∨ fld cfg 34 6 ≠ 0 ∨ fld cfg 48 15 ≠ 0 ∨ fld cfg 0 5 < 6 ∨ 16 < fld cfg 0 5) := by
  rw [CfgFormed, queCfg_masked_iff hx]
  simp only [not_or, not_not, not_lt, and_assoc]

theorem commitSetup_malformed {s : State} {fn : Nat} (h : ¬ CfgFormed (s.queRegs fn).cfg) : s.commitSetup fn = s.refuseSetup fn .badCommand :=
  if_pos (by simpa only [CfgFormed, not_and_or, not_le] using h)

/-- A formed block goes on to the rows after the first. -/
theorem not_malformed {cfg : Nat} (h : CfgFormed cfg) : ¬ (cfg &&& 0x8000FF03FFFF071F ≠ cfg ∨ fld cfg 0 5 < 6 ∨ 16 < fld cfg 0 5) := by
  simpa only [CfgFormed, not_or, not_not, not_lt] using h

theorem commitSetup_badBase {s : State} {fn : Nat} (hf : CfgFormed (s.queRegs fn).cfg) (hb : BaseRefused (s.queRegs fn)) :
    s.commitSetup fn = s.refuseSetup fn .badAddress :=
  (if_neg (not_malformed hf)).trans (if_pos hb)

theorem commitSetup_badMinor {s : State} {fn : Nat} (hf : CfgFormed (s.queRegs fn).cfg) (hb : ¬ BaseRefused (s.queRegs fn))
    (hm : s.MinorRefused (s.queRegs fn)) : s.commitSetup fn = s.refuseSetup fn .version :=
  (if_neg (not_malformed hf)).trans ((if_neg hb).trans (if_pos hm))

/-- The rows of a queue that is DISABLED. -/
theorem commitSetup_disabled {s : State} {fn : Nat} (h : s.SetupSound fn) (hq : s.que? fn 0 = none) :
    s.commitSetup fn =
      if bitAt (s.queRegs fn).cfg 63 then (s.clearSetup fn).setQue fn 0 (ringOf (s.queRegs fn)) else s.clearSetup fn := by
  refine (if_neg (not_malformed h.formed)).trans ((if_neg h.bases).trans ((if_neg h.minor).trans ?_))
  rw [hq]
  rfl

/-- The row of a queue that is STOPPING. -/
theorem commitSetup_stopping {s : State} {fn : Nat} {x : Que} (h : s.SetupSound fn) (hq : s.que? fn 0 = some x)
    (hstop : x.stopFetch = true) : s.commitSetup fn = s.refuseSetup fn .limit := by
  refine (if_neg (not_malformed h.formed)).trans ((if_neg h.bases).trans ((if_neg h.minor).trans ?_))
  rw [hq]
  exact if_pos hstop

/-- The rows of a queue in service or in ERROR that stays enabled. -/
theorem commitSetup_enabled {s : State} {fn : Nat} {x : Que} (h : s.SetupSound fn) (hq : s.que? fn 0 = some x)
    (hstop : x.stopFetch = false) (hon : bitAt (s.queRegs fn).cfg 63 = true) :
    s.commitSetup fn =
      let new := ringOf (s.queRegs fn)
      if x.err then (s.clearSetup fn).setQue fn 0 new
      else if x.cmdBase = new.cmdBase ∧ x.cplBase = new.cplBase ∧ x.log2 = new.log2 ∧ x.minor = new.minor then
        (s.clearSetup fn).setQue fn 0 { x with vector := new.vector, c := new.c, t := new.t }
      else s.refuseSetup fn .limit := by
  refine (if_neg (not_malformed h.formed)).trans ((if_neg h.bases).trans ((if_neg h.minor).trans ?_))
  rw [hq]
  exact (if_neg (Bool.eq_false_iff.mp hstop)).trans (if_pos hon)

/-- The rows of a queue in service or in ERROR that is disabled. -/
theorem commitSetup_off {s : State} {fn : Nat} {x : Que} (h : s.SetupSound fn) (hq : s.que? fn 0 = some x)
    (hstop : x.stopFetch = false) (hoff : ¬ bitAt (s.queRegs fn).cfg 63 = true) :
    s.commitSetup fn = if s.planOn fn 0 then s.refuseSetup fn .limit else (s.clearSetup fn).stopQueue fn 0 := by
  refine (if_neg (not_malformed h.formed)).trans ((if_neg h.bases).trans ((if_neg h.minor).trans ?_))
  rw [hq]
  exact (if_neg (Bool.eq_false_iff.mp hstop)).trans (if_neg hoff)

end State

end Sys2Proof.Machine

namespace Sys2Proof.Proofs

open Sys2Proof.Machine Sys2Proof.Machine.State

/-- Settles O24: the value's distance from the head around the ring says which entries it would release. -/
theorem noticeDoorbell : Obligations.NoticeDoorbell := by
  unfold Obligations.NoticeDoorbell
  intro s fn v hreach hready hv
  have hb := bootFailed_of_ready hready
  rw [exec_ntcDbHead hreach hb hv]
  refine ⟨?_, fun hnone => ?_, fun r hring => ⟨fun k hk hkv hposted => ?_, ?_⟩⟩
  · exact (onBar_reachable hreach (·.regRead fn 0x9000 4)).trans (congrArg Host.Outcome.next (regRead_zero (findReg_ntcDb fn) hb rfl))
  · rw [noticeDoorbell_noRing v hnone]
  · rw [noticeDoorbell_within hready hv hring hk hkv, if_neg (Nat.not_lt.mpr hposted)]
  · rintro (hsize | ⟨k, hk, hkv, hunposted⟩)
    · rw [noticeDoorbell_pastRing hready hv hring hsize]
    · rw [noticeDoorbell_within hready hv hring hk hkv, if_pos hunposted]

/-- Settles O25: every row of RST_REQ is a write of the register, which starts the reset or logs it. -/
theorem resetRequest : Obligations.ResetRequest := by
  unfold Obligations.ResetRequest
  intro s v hreach hv ok
  have hwrite := exec_registerWrite_rstReq hreach hv
  refine ⟨fun hready => ?_, fun hok hk => ?_, fun hok hk => ?_, fun hok hk hready => ?_, fun hbad => ?_⟩
  · exact (onBar_reachable hreach (·.regRead 0 0x12000 4)).trans
      (congrArg Host.Outcome.next (regRead_zero findReg_rstReq (bootFailed_of_ready hready) rfl))
  · rw [hwrite, exec_rstReqCold hreach hv hk, (resetRequest_starts hv hok).1 hk]
    exact ⟨rfl, rfl, rfl, rfl⟩
  · rw [hwrite, exec_rstReqWarm hreach hv hk, (resetRequest_starts hv hok).2.1 hk]
    exact ⟨rfl, rfl, rfl⟩
  · rw [hwrite, exec_rstReqSoft hreach hv hk, (resetRequest_starts hv hok).2.2 hk hready]
    exact ⟨rfl, rfl, rfl⟩
  · have hlog : (.next (s.resetRequest v) : Out) = .next (s.busError 0 0x12000 4 v true) :=
      congrArg _ (resetRequest_refused hv hbad)
    exact ⟨hwrite.trans hlog, fun hk => (exec_rstReqCold hreach hv hk).trans hlog, fun hk => (exec_rstReqWarm hreach hv hk).trans hlog,
      fun hk => (exec_rstReqSoft hreach hv hk).trans hlog⟩

/-- Settles O26: the written word stands in the block, and the rows of R564 are gone through in their order. -/
theorem queueZeroSetup : Obligations.QueueZeroSetup := by
  unfold Obligations.QueueZeroSetup
  intro s fn v hreach hb hv r put refuse clear badForm enable badBase badMinor new
  have hcommit : exec (.queCfgCommit fn v) s = .next ((put r).commitSetup fn) := exec_queCfgCommit hreach hb hv
  have hregs : (put r).queRegs fn = r := queRegs_modQueRegs s fn fun _ => r
  have hrefuse (st : Status) (h : (put r).commitSetup fn = (put r).refuseSetup fn st) : refuse st :=
    hcommit.trans (congrArg _ (h.trans (modQueRegs_modQueRegs s fn (fun _ => r) _)))
  have hclear : (put r).clearSetup fn = clear := modQueRegs_modQueRegs s fn (fun _ => r) _
  have hword : r.cfg < 2 ^ 64 := by
    show (s.queRegs fn).cfg % 2 ^ 32 + 2 ^ 32 * v < 2 ^ 64
    omega
  have hformed : CfgFormed ((put r).queRegs fn).cfg ↔ ¬ badForm := by
    rw [hregs]
    exact cfgFormed_iff hword
  refine ⟨fun hf => ?_, fun hf hbase => ?_, fun hf hbase hminor => ?_, fun hf hbase hminor => ?_⟩
  · exact hrefuse _ (commitSetup_malformed fun h => hformed.mp h hf)
  · exact hrefuse _ (commitSetup_badBase (hformed.mpr hf) (by rwa [hregs]))
  · exact hrefuse _ (commitSetup_badMinor (hformed.mpr hf) (by rwa [hregs]) (by rwa [hregs]))
  have hsound : (put r).SetupSound fn := ⟨hformed.mpr hf, by rwa [hregs], by rwa [hregs]⟩
  refine ⟨fun hq hon => ?_, fun hq hoff => ?_, fun x hq => ?_⟩
  · rw [hcommit, commitSetup_disabled hsound hq, hregs, if_pos hon, hclear]
    rfl
  · rw [hcommit, commitSetup_disabled hsound hq, hregs, if_neg hoff, hclear]
  have hon' (hon : enable) : bitAt ((put r).queRegs fn).cfg 63 = true := by rwa [hregs]
  have hoff' (hoff : ¬ enable) : ¬ bitAt ((put r).queRegs fn).cfg 63 = true := by rwa [hregs]
  refine ⟨fun hstop => ?_, fun hstop hon herr => ?_, fun hstop hon herr => ⟨fun hsame => ?_, fun hother => ?_⟩,
    fun hstop hoff hplan => ?_, fun hstop hoff hplan => ?_⟩
  · exact hrefuse _ (commitSetup_stopping hsound hq hstop)
  · rw [hcommit, commitSetup_enabled hsound hq hstop (hon' hon), hregs, hclear, if_pos herr]
    rfl
  · rw [hcommit, commitSetup_enabled hsound hq hstop (hon' hon), hregs, hclear, if_neg (Bool.eq_false_iff.mp herr)]
    exact congrArg _ (if_pos hsame)
  · refine hrefuse _ ((commitSetup_enabled hsound hq hstop (hon' hon)).trans ?_)
    rw [hregs, if_neg (Bool.eq_false_iff.mp herr)]
    exact if_neg hother
  · exact hrefuse _ ((commitSetup_off hsound hq hstop (hoff' hoff)).trans (if_pos hplan))
  have hstops : exec (.queCfgCommit fn v) s = .next (clear.stopQueue fn 0) := by
    rw [hcommit, commitSetup_off hsound hq hstop (hoff' hoff), hclear]
    exact congrArg _ (if_neg (Bool.eq_false_iff.mp hplan))
  rw [hstops]
  refine ⟨fun hbusy => ?_, fun hidle => ?_⟩
  · exact congrArg _ (stopQueue_busy hq hbusy)
  · obtain ⟨cmds, nextEnd, hgone⟩ := stopQueue_idle (s := clear) hq hidle
    rw [hgone]
    exact ⟨_, rfl, (AMap.get?_del _ _ _).trans (if_pos rfl), rfl, rfl, rfl, rfl, rfl⟩

end Sys2Proof.Proofs
end

section
/-! SUPPORT. What every operation of the block keeps: the part and the waiting commands are left as they are, remap entries stay in range
(R57), and byte memories stay in canonical form (R7, R331). One closure lemma per operation. -/

-- An automatic argument waits for all that stands before it: proofs that use one are checked in turn.
set_option Elab.async false

namespace Sys2Proof.Machine

/-! ### Maps: a property of every value -/

namespace AMap

variable {α : Type} {P : α → Prop} {m : AMap α}

theorem mem_of_get? {k : Nat} {v : α} (h : m.get? k = some v) : (k, v) ∈ m := by
  induction m with
  | nil => cases h
  | cons x t ih =>
    obtain ⟨a, w⟩ := x
    simp only [get?] at h
    split at h
    · subst_vars
      cases h
      exact List.mem_cons_self
    · exact List.mem_cons_of_mem _ (ih h)

theorem forall_get? {k : Nat} {v : α} (h : ∀ e ∈ m, P e.2) (hv : m.get? k = some v) : P v := h _ (mem_of_get? hv)

theorem forall_getD {k : Nat} {d : α} (h : ∀ e ∈ m, P e.2) (hd : P d) : P (m.getD k d) := by
  unfold AMap.getD
  cases hv : m.get? k with
  | none => exact hd
  | some v => exact forall_get? h hv

theorem forall_set {k : Nat} {v : α} (h : ∀ e ∈ m, P e.2) (hv : P v) : ∀ e ∈ m.set k v, P e.2 := by
  induction m with
  | nil =>
    intro e he
    rw [List.mem_singleton.mp he]
    exact hv
  | cons x t ih =>
    obtain ⟨a, w⟩ := x
    simp only [List.forall_mem_cons] at h
    unfold AMap.set
    split
    · exact List.forall_mem_cons.mpr ⟨hv, List.forall_mem_cons.mpr h⟩
    · split
      · exact List.forall_mem_cons.mpr ⟨hv, h.2⟩
      · exact List.forall_mem_cons.mpr ⟨h.1, ih h.2⟩

theorem forall_modify {k : Nat} {f : α → α} (h : ∀ e ∈ m, P e.2) (hf : ∀ v, P v → P (f v)) : ∀ e ∈ m.modify k f, P e.2 := by
  unfold modify
  rw [List.forall_mem_map]
  rintro ⟨a, v⟩ hv
  dsimp only
  split
  · exact hf _ (h _ hv)
  · exact h _ hv

theorem mem_of_mem_del {k : Nat} {e : Nat × α} (h : e ∈ m.del k) : e ∈ m := by
  induction m with
  | nil => exact h
  | cons x t ih =>
    obtain ⟨a, w⟩ := x
    unfold del at h
    split at h
    · exact List.mem_cons_of_mem _ (ih h)
    · rcases List.mem_cons.mp h with rfl | h
      · exact List.mem_cons_self
      · exact List.mem_cons_of_mem _ (ih h)

end AMap

/-! ### The relation -/

/-- Memory is in canonical form, as `State.memOk` asks of HBM and the extents, provided the state at the start was. -/
def KeepsMem (s₀ : State) (m : MemState) : Prop := s₀.memOk → m.hbm.wf = true ∧ ∀ e ∈ m.extents, e.2.mem.wf = true

/-- What the sequence operations work on holds memory in canonical form. -/
def KeepsKv (s₀ : State) (c : KvCtx) : Prop := KeepsMem s₀ c.mem

/-- A holm's scratchpad is in canonical form. -/
def KeepsHolm (s₀ : State) (h : Holm) : Prop := s₀.memOk → h.mem.wf = true

/-- State s has the part and the queue of s₀, and the two invariants where s₀ has them. -/
structure Keeps (s₀ s : State) : Prop where
  part : s.part = s₀.part
  pending : s.pending = s₀.pending
  remap : s₀.remapOk → s.remapOk
  mem : s₀.memOk → s.memOk

/-- An answer that is a next state is one that keeps what `Keeps` says. -/
def KeepsOut (s₀ : State) (o : Out) : Prop := ∀ t, o = .next t → Keeps s₀ t

variable {s₀ s : State}

theorem Keeps.refl (s : State) : Keeps s s := ⟨rfl, rfl, id, id⟩

/-- A change of fields that no part of `Keeps` speaks of. -/
theorem Keeps.same (h : Keeps s₀ s) {u : State} (part : u.part = s.part := by rfl) (pending : u.pending = s.pending := by rfl)
    (remap : u.remap = s.remap := by rfl) (host : u.isth.host = s.isth.host := by rfl) (hbm : u.mem.hbm = s.mem.hbm := by rfl)
    (extents : u.mem.extents = s.mem.extents := by rfl) (holms : u.holms = s.holms := by rfl) : Keeps s₀ u where
  part := part.trans h.part
  pending := pending.trans h.pending
  remap hr := by
    unfold State.remapOk
    rw [remap]
    exact h.remap hr
  mem hm := by
    unfold State.memOk
    rw [host, hbm, extents, holms]
    exact h.mem hm

theorem Keeps.memState (h : Keeps s₀ s) : KeepsMem s₀ s.mem := fun hm => ⟨(h.mem hm).2.1, (h.mem hm).2.2.1⟩

/-- A change of the module's memory. -/
theorem Keeps.withMem (h : Keeps s₀ s) {u : State} (hm : KeepsMem s₀ u.mem) (part : u.part = s.part := by rfl)
    (pending : u.pending = s.pending := by rfl) (remap : u.remap = s.remap := by rfl) (host : u.isth.host = s.isth.host := by rfl)
    (holms : u.holms = s.holms := by rfl) : Keeps s₀ u where
  part := part.trans h.part
  pending := pending.trans h.pending
  remap hr := by
    unfold State.remapOk
    rw [remap]
    exact h.remap hr
  mem h0 := by
    obtain ⟨hhost, -, -, hholms⟩ := h.mem h0
    unfold State.memOk
    rw [host, holms]
    exact ⟨hhost, (hm h0).1, (hm h0).2, hholms⟩

/-- A change of the holms. -/
theorem Keeps.withHolms (h : Keeps s₀ s) {u : State} (hh : ∀ e ∈ u.holms, KeepsHolm s₀ e.2) (part : u.part = s.part := by rfl)
    (pending : u.pending = s.pending := by rfl) (remap : u.remap = s.remap := by rfl) (host : u.isth.host = s.isth.host := by rfl)
    (hbm : u.mem.hbm = s.mem.hbm := by rfl) (extents : u.mem.extents = s.mem.extents := by rfl) : Keeps s₀ u where
  part := part.trans h.part
  pending := pending.trans h.pending
  remap hr := by
    unfold State.remapOk
    rw [remap]
    exact h.remap hr
  mem h0 := by
    obtain ⟨hhost, hbm0, hext, -⟩ := h.mem h0
    unfold State.memOk
    rw [host, hbm, extents]
    exact ⟨hhost, hbm0, hext, fun e he => hh e he h0⟩

/-- A change of the remap table. -/
theorem Keeps.withRemap (h : Keeps s₀ s) {u : State} (hr : s₀.remapOk → u.remapOk) (part : u.part = s.part := by rfl)
    (pending : u.pending = s.pending := by rfl) (host : u.isth.host = s.isth.host := by rfl) (hbm : u.mem.hbm = s.mem.hbm := by rfl)
    (extents : u.mem.extents = s.mem.extents := by rfl) (holms : u.holms = s.holms := by rfl) : Keeps s₀ u where
  part := part.trans h.part
  pending := pending.trans h.pending
  remap := hr
  mem hm := by
    unfold State.memOk
    rw [host, hbm, extents, holms]
    exact h.mem hm

/-- A change of host memory. -/
theorem Keeps.withHost (h : Keeps s₀ s) {u : State} (hh : s.isth.host.wf = true → u.isth.host.wf = true) (part : u.part = s.part := by rfl)
    (pending : u.pending = s.pending := by rfl) (remap : u.remap = s.remap := by rfl) (hbm : u.mem.hbm = s.mem.hbm := by rfl)
    (extents : u.mem.extents = s.mem.extents := by rfl) (holms : u.holms = s.holms := by rfl) : Keeps s₀ u where
  part := part.trans h.part
  pending := pending.trans h.pending
  remap hr := by
    unfold State.remapOk
    rw [remap]
    exact h.remap hr
  mem h0 := by
    obtain ⟨hhost, hrest⟩ := h.mem h0
    unfold State.memOk
    rw [hbm, extents, holms]
    exact ⟨hh hhost, hrest⟩

theorem KeepsMem.same {m : MemState} (h : KeepsMem s₀ m) {n : MemState} (hbm : n.hbm = m.hbm := by rfl)
    (extents : n.extents = m.extents := by rfl) : KeepsMem s₀ n := fun h0 => by
  rw [hbm, extents]
  exact h h0

/-- A change of HBM. -/
theorem KeepsMem.withHbm {m : MemState} (h : KeepsMem s₀ m) {n : MemState} (hn : m.hbm.wf = true → n.hbm.wf = true)
    (extents : n.extents = m.extents := by rfl) : KeepsMem s₀ n := fun h0 => by
  rw [extents]
  exact ⟨hn (h h0).1, (h h0).2⟩

/-- A change of the extents. -/
theorem KeepsMem.withExtents {m : MemState} (h : KeepsMem s₀ m) {n : MemState}
    (hn : (∀ e ∈ m.extents, e.2.mem.wf = true) → ∀ e ∈ n.extents, e.2.mem.wf = true) (hbm : n.hbm = m.hbm := by rfl) :
    KeepsMem s₀ n := fun h0 => by
  rw [hbm]
  exact ⟨(h h0).1, hn (h h0).2⟩

theorem KeepsHolm.same {h : Holm} (hh : KeepsHolm s₀ h) {k : Holm} (mem : k.mem = h.mem := by rfl) : KeepsHolm s₀ k := fun h0 => by
  rw [mem]
  exact hh h0

theorem Holm.reset_wf (st : HState) : (Holm.reset st).mem.wf = true := rfl

theorem State.memOk.holm {s : State} (h : s.memOk) (p : Nat) : (s.holm p).mem.wf = true :=
  AMap.forall_getD (P := fun k : Holm => k.mem.wf = true) h.2.2.2 (Holm.reset_wf .fusedOut)

/-- A holm of a state. -/
theorem Keeps.holm (h : Keeps s₀ s) {p : Nat} : KeepsHolm s₀ (s.holm p) := fun h0 => (h.mem h0).holm p

theorem ite_ind {α : Type} {P : α → Prop} {c : Prop} [Decidable c] {x y : α} (hx : P x) (hy : P y) : P (if c then x else y) := by
  split
  · exact hx
  · exact hy

theorem Keeps.ite {c : Prop} [Decidable c] {t : State} (hs : Keeps s₀ s) (ht : Keeps s₀ t) : Keeps s₀ (if c then s else t) :=
  ite_ind hs ht

theorem KeepsMem.ite {c : Prop} [Decidable c] {m n : MemState} (hm : KeepsMem s₀ m) (hn : KeepsMem s₀ n) :
    KeepsMem s₀ (if c then m else n) :=
  ite_ind hm hn

theorem KeepsKv.of {c : KvCtx} (h : KeepsMem s₀ c.mem) : KeepsKv s₀ c := h

theorem KeepsKv.memState {c : KvCtx} (h : KeepsKv s₀ c) : KeepsMem s₀ c.mem := h

theorem KeepsKv.same {c : KvCtx} (h : KeepsKv s₀ c) {d : KvCtx} (hbm : d.mem.hbm = c.mem.hbm := by rfl)
    (extents : d.mem.extents = c.mem.extents := by rfl) : KeepsKv s₀ d := KeepsMem.same h hbm extents

theorem KeepsKv.ite {c : Prop} [Decidable c] {x y : KvCtx} (hx : KeepsKv s₀ x) (hy : KeepsKv s₀ y) : KeepsKv s₀ (if c then x else y) :=
  ite_ind hx hy

theorem KeepsHolm.ite {c : Prop} [Decidable c] {h k : Holm} (hh : KeepsHolm s₀ h) (hk : KeepsHolm s₀ k) :
    KeepsHolm s₀ (if c then h else k) :=
  ite_ind hh hk

theorem KeepsOut.next {t : State} (h : Keeps s₀ t) : KeepsOut s₀ (.next t) := fun u e => by
  cases e
  exact h

theorem KeepsOut.fault {r : Fault} : KeepsOut s₀ (.fault r) := by
  intro t e
  cases e

theorem KeepsOut.ite {c : Prop} [Decidable c] {o u : Out} (ho : KeepsOut s₀ o) (hu : KeepsOut s₀ u) :
    KeepsOut s₀ (if c then o else u) :=
  ite_ind ho hu

/-- A fold whose every step keeps a property keeps it. -/
theorem foldl_keeps {α β : Type} {P : β → Prop} {f : β → α → β} (hf : ∀ t a, P t → P (f t a)) {b : β} (hb : P b) {l : List α} :
    P (l.foldl f b) := by
  induction l generalizing b with
  | nil => exact hb
  | cons a l ih => exact ih (hf _ _ hb)

theorem Keeps.foldl {α : Type} {f : State → α → State} {l : List α} (h : Keeps s₀ s) (hf : ∀ t a, Keeps s₀ t → Keeps s₀ (f t a)) :
    Keeps s₀ (l.foldl f s) := foldl_keeps hf h

theorem KeepsMem.foldl {α : Type} {f : MemState → α → MemState} {l : List α} {m : MemState} (h : KeepsMem s₀ m)
    (hf : ∀ n a, KeepsMem s₀ n → KeepsMem s₀ (f n a)) : KeepsMem s₀ (l.foldl f m) := foldl_keeps hf h

theorem KeepsKv.foldl {α : Type} {f : KvCtx → α → KvCtx} {l : List α} {c : KvCtx} (h : KeepsKv s₀ c)
    (hf : ∀ n a, KeepsKv s₀ n → KeepsKv s₀ (f n a)) : KeepsKv s₀ (l.foldl f c) := foldl_keeps hf h

theorem KeepsHolm.foldl {α : Type} {f : Holm → α → Holm} {l : List α} {k : Holm} (h : KeepsHolm s₀ k)
    (hf : ∀ n a, KeepsHolm s₀ n → KeepsHolm s₀ (f n a)) : KeepsHolm s₀ (l.foldl f k) := foldl_keeps hf h

end Sys2Proof.Machine
end

section
/-! SUPPORT. What memory, the page walker and the operations on the state keep. -/

set_option Elab.async false

namespace Sys2Proof.Machine

theorem KeepsMem.settleBlock {s₀ : State} {m : MemState} {blk : Nat} (hm : KeepsMem s₀ m) : KeepsMem s₀ (m.settleBlock blk) := by
  have hwrite (a : Nat) (bs : List Nat) : KeepsMem s₀ { m with hbm := m.hbm.write a bs } := hm.withHbm fun h => Mem.wf_write h a bs
  unfold MemState.settleBlock
  dsimp only
  split
  · exact hm
  · split
    · split
      · exact hm
      · exact (hwrite _ _).same
    · exact KeepsMem.ite hm hm.same

theorem KeepsMem.hbmWriteByte {s₀ : State} {m : MemState} {a v : Nat} (hm : KeepsMem s₀ m) : KeepsMem s₀ (m.hbmWriteByte a v) := by
  have hset (b : Nat) (x : BitVec 8) : KeepsMem s₀ { m with hbm := m.hbm.set b x } := hm.withHbm fun h => Mem.wf_set h _ _
  unfold MemState.hbmWriteByte
  dsimp only
  split
  · exact hset _ _
  · exact .ite (hset _ _) (.ite (hset _ _) (hm.withHbm fun h => Mem.wf_set (Mem.wf_set h _ _) _ _))

theorem KeepsMem.hbmWriteBytes {s₀ : State} {m : MemState} {a : Nat} {vs : List Nat} (hm : KeepsMem s₀ m) :
    KeepsMem s₀ (m.hbmWriteBytes a vs) := by
  induction vs generalizing m a with
  | nil => exact hm
  | cons v vs ih => exact ih hm.hbmWriteByte

theorem KeepsMem.touchFresh {s₀ : State} {m : MemState} {slot b0 b1 : Nat} (hm : KeepsMem s₀ m) :
    KeepsMem s₀ (m.touchFresh slot b0 b1) := hm.same

theorem KeepsMem.freshRange {s₀ : State} {m : MemState} {a n : Nat} (hm : KeepsMem s₀ m) :
    KeepsMem s₀ (m.freshRange a n) := by
  unfold MemState.freshRange
  split
  · exact hm
  · dsimp only
    refine KeepsMem.foldl hm fun t a ht => ?_
    exact ht.touchFresh

theorem KeepsMem.countServed {s₀ : State} {m : MemState} {a n : Nat} (hm : KeepsMem s₀ m) : KeepsMem s₀ (m.countServed a n) := by
  unfold MemState.countServed
  extract_lets m1 c
  have h1 : KeepsMem s₀ m1 := hm.foldl fun _ _ hk => hk.same
  exact .ite h1.same h1.same

theorem KeepsMem.hbmStore {s₀ : State} {m : MemState} {a : Nat} {vs : List Nat} (hm : KeepsMem s₀ m) : KeepsMem s₀ (m.hbmStore a vs) := by
  have h2 : KeepsMem s₀ ((m.hbmWriteBytes a vs).freshRange a vs.length) := hm.hbmWriteBytes.freshRange
  exact KeepsMem.countServed h2.same

theorem KeepsMem.dropStored {s₀ : State} {m : MemState} {u : UnitEntry} (hm : KeepsMem s₀ m) :
    KeepsMem s₀ (m.dropStored u) := KeepsMem.ite hm hm.same

theorem KeepsMem.takeStored_fresh {s₀ : State} {p : Part} {m : MemState} {tier n reserve r r₁ : Nat} {m' : MemState} (hm : KeepsMem s₀ m)
    (e : MemState.takeStored.fresh p m tier n reserve = some (r, r₁, m')) : KeepsMem s₀ m' := by
  unfold MemState.takeStored.fresh at e
  split at e
  · cases e
  · dsimp only at e
    split at e
    · cases e
      exact hm.same
    · cases e

theorem KeepsMem.takeStored {s₀ : State} {p : Part} {m : MemState} {tier n reserve r r₁ : Nat} {m' : MemState} (hm : KeepsMem s₀ m)
    (e : MemState.takeStored p m tier n reserve = some (r, r₁, m')) : KeepsMem s₀ m' := by
  unfold MemState.takeStored at e
  dsimp only at e
  split at e
  · split at e
    · cases e
      exact hm.same
    · exact hm.takeStored_fresh e
  · exact hm.takeStored_fresh e

theorem KeepsMem.setExtent {s₀ : State} {m n : MemState} {i : Nat} {x y : Extent} (hm : KeepsMem s₀ m) (hn : KeepsMem s₀ n)
    (hx : m.extents.get? i = some x) (hy : x.mem.wf = true → y.mem.wf = true) :
    KeepsMem s₀ { n with extents := m.extents.set i y } := fun h0 =>
  ⟨(hn h0).1, AMap.forall_set (P := fun x : Extent => x.mem.wf = true) (hm h0).2
    (hy (AMap.forall_get? (P := fun x : Extent => x.mem.wf = true) (hm h0).2 hx))⟩

theorem KeepsMem.rewriteUnit {s₀ : State} {p : Part} {m : MemState} {i u off : Nat} {vs : List Nat} {free : Nat} {m' : MemState}
    (hm : KeepsMem s₀ m) (e : MemState.rewriteUnit p m i u off vs free = .ok m') : KeepsMem s₀ m' := by
  unfold MemState.rewriteUnit at e
  split at e
  · cases e
  · rename_i x hx
    dsimp only at e
    split at e
    · cases e
    · split at e
      · cases e
      · split at e
        · cases e
          exact hm.setExtent hm.dropStored hx fun h => Mem.wf_write h _ _
        · split at e
          · cases e
          · cases e
            exact hm.setExtent (hm.takeStored ‹_›).dropStored hx fun h => Mem.wf_write h _ _

theorem KeepsMem.codecWriteGo {s₀ : State} {p : Part} {i free : Nat} {l : List (Nat × Nat)} {vs : List Nat} {m m' : MemState}
    (hm : KeepsMem s₀ m) (e : MemState.codecWriteGo p i free l vs m = .ok m') : KeepsMem s₀ m' := by
  induction l generalizing m vs free with
  | nil =>
    cases e
    exact hm
  | cons x l ih =>
    unfold MemState.codecWriteGo at e
    split at e
    · cases e
    · exact ih (hm.rewriteUnit ‹_›) e

theorem KeepsMem.codecWrite {s₀ : State} {p : Part} {m : MemState} {e off : Nat} {vs : List Nat} {free : Nat} {m' : MemState} (hm :
    KeepsMem s₀ m)
    (e : MemState.codecWrite p m e off vs free = .ok m') : KeepsMem s₀ m' := by
  unfold MemState.codecWrite at e
  exact hm.codecWriteGo e

theorem KeepsMem.writePiece {s₀ : State} {p : Part} {m : MemState} {x : Trn} {off : Nat} {vs : List Nat} {free : Nat} {m' : MemState}
    (hm : KeepsMem s₀ m) (e : Machine.writePiece p m x off vs free = .ok m') : KeepsMem s₀ m' := by
  have store {n n' : MemState} {tier target off free : Nat} {vs : List Nat} (hn : KeepsMem s₀ n)
      (e : (if tier = 1 then (.ok (n.hbmStore (target * regionSize + off) vs) : Except Status MemState)
        else MemState.codecWrite p n target off vs free) = .ok n') : KeepsMem s₀ n' := by
    split at e
    · cases e
      exact hn.hbmStore
    · exact hn.codecWrite e
  unfold Machine.writePiece at e
  dsimp only at e
  split at e
  · cases e
  · rename_i h1
    split at e
    · cases e
      exact store hm h1
    · split at e
      · cases e
        exact store hm h1
      · exact store (store hm h1) e

theorem KeepsMem.tenantWrite {s₀ : State} {p : Part} {m : MemState} {t : Tenant} {a : Nat} {vs : List Nat} {free : Nat} {m' : MemState}
    (hm : KeepsMem s₀ m) (e : Machine.tenantWrite p m t a vs free = .ok m') : KeepsMem s₀ m' := by
  unfold Machine.tenantWrite at e
  dsimp only at e
  split at e
  · cases e
  · generalize hr : List.foldl _ _ _ = r at e
    obtain _ | ⟨n, ws, fr⟩ := r
    · cases e
    cases e
    refine foldl_keeps (P := fun r : Except Status (MemState × List Nat × Nat) => ∀ n ws fr, r = .ok (n, ws, fr) → KeepsMem s₀ n)
      (fun r x hacc n ws fr e => ?_) (fun n ws fr e => ?_) _ ws fr hr
    · split at e
      · cases e
      · split at e
        · cases e
        · split at e
          · cases e
          · cases e
            exact (hacc _ _ _ rfl).writePiece ‹_›
    · cases e
      exact hm

theorem KeepsKv.write {s₀ : State} {c : KvCtx} {a : Nat} {vs : List Nat} {c' : KvCtx} (hc : KeepsKv s₀ c)
    (e : c.write a vs = .ok c') : KeepsKv s₀ c' := by
  unfold KvCtx.write at e
  split at e
  · cases e
  · cases e
    exact KeepsKv.of (hc.memState.tenantWrite ‹_›)

theorem KeepsKv.copy {s₀ : State} {c : KvCtx} {src dst n : Nat} {c' : KvCtx} (hc : KeepsKv s₀ c)
    (e : c.copy src dst n = .ok c') : KeepsKv s₀ c' := by
  unfold KvCtx.copy at e
  split at e
  · cases e
  · exact hc.write e

theorem KeepsKv.putWord {s₀ : State} {c : KvCtx} {a v : Nat} {c' : KvCtx} (hc : KeepsKv s₀ c)
    (e : c.putWord a v = .ok c') : KeepsKv s₀ c' := by
  unfold KvCtx.putWord at e
  exact hc.write e

theorem KeepsKv.setEntry {s₀ : State} {c : KvCtx} {q : Pool} {idx : Nat} {d : Desc} {k e : Nat} {c' : KvCtx} (hc : KeepsKv s₀ c)
    (e : c.setEntry q idx d k e = .ok c') : KeepsKv s₀ c' := by
  unfold KvCtx.setEntry at e
  split at e
  · cases e
    exact hc.same
  · split at e
    · cases e
    · exact hc.putWord e

theorem KeepsKv.setEntries {s₀ : State} {c : KvCtx} {q : Pool} {idx : Nat} {d : Desc} {l : List (Nat × Nat)} {c' : KvCtx}
    (hc : KeepsKv s₀ c) (e : c.setEntries q idx d l = .ok c') : KeepsKv s₀ c' := by
  induction l generalizing c with
  | nil =>
    cases e
    exact hc
  | cons x l ih =>
    unfold KvCtx.setEntries at e
    split at e
    · cases e
    · exact ih (hc.setEntry ‹_›) e

theorem KeepsKv.modPool {s₀ : State} {c : KvCtx} {n : Nat} {f : Pool → Pool} (hc : KeepsKv s₀ c) :
    KeepsKv s₀ (c.modPool n f) := hc.same

theorem KeepsKv.modDesc {s₀ : State} {c : KvCtx} {i : Nat} {f : Desc → Desc} (hc : KeepsKv s₀ c) :
    KeepsKv s₀ (c.modDesc i f) := hc.same

theorem KeepsKv.foldE {s₀ : State} {α : Type} {f : KvCtx → α → Except Status KvCtx} {c : KvCtx} {l : List α} {c' : KvCtx}
    (hc : KeepsKv s₀ c) (hf : ∀ d x d', KeepsKv s₀ d → f d x = .ok d' → KeepsKv s₀ d') (e : KvCtx.foldE f c l = .ok c') :
    KeepsKv s₀ c' := by
  induction l generalizing c with
  | nil =>
    cases e
    exact hc
  | cons x l ih =>
    unfold KvCtx.foldE at e
    split at e
    · cases e
    · exact ih (hf _ _ _ hc ‹_›) e

theorem KeepsKv.setRec {s₀ : State} {c : KvCtx} {idx : Nat} {r : PendRec} (hc : KeepsKv s₀ c) :
    KeepsKv s₀ (c.setRec idx r) := hc.same

theorem KeepsKv.newPage {s₀ : State} {c : KvCtx} {unit idx : Nat} {d : Desc} {k r : Nat} {c' : KvCtx} (hc : KeepsKv s₀ c)
    (e : c.newPage unit idx d k = .ok (r, c')) : KeepsKv s₀ c' := by
  unfold KvCtx.newPage at e
  split at e
  · cases e
  · split at e
    · cases e
    · dsimp only at e
      split at e
      · cases e
      · cases e
        exact hc.same.setRec

theorem KeepsKv.copyPage {s₀ : State} {c : KvCtx} {q : Pool} {old new rows : Nat} {c' : KvCtx} (hc : KeepsKv s₀ c)
    (e : c.copyPage q old new rows = .ok c') : KeepsKv s₀ c' := by
  unfold KvCtx.copyPage at e
  refine hc.foldE (fun x0 x1 x2 hk e => ?_) e
  split at e
  · cases e
  · split at e
    · cases e
    · split at e
      · exact ((hk.copy ‹_›).copy ‹_›).copy e
      · cases e
        exact (hk.copy ‹_›).copy ‹_›

theorem KeepsKv.preparePage {s₀ : State} {c : KvCtx} {unit idx : Nat} {d : Desc} {j y r : Nat} {c' : KvCtx} (hc : KeepsKv s₀ c)
    (e : c.preparePage unit idx d j y = .ok (r, c')) : KeepsKv s₀ c' := by
  unfold KvCtx.preparePage at e
  split at e
  · cases e
  · dsimp only at e
    split at e
    · cases e
      exact hc
    · split at e
      · exact hc.newPage e
      · split at e
        · cases e
        · exact hc.newPage e
        · split at e
          · cases e
            exact hc.setRec
          · split at e
            · cases e
            · split at e
              · cases e
              · cases e
                exact ((hc.newPage ‹_›).copyPage ‹_›).setRec

theorem KeepsKv.addSummary {s₀ : State} {c : KvCtx} {unit idx : Nat} {d : Desc} {q : Pool} {n j h : Nat} {row : List Nat} {c' : KvCtx}
    (hc : KeepsKv s₀ c)
    (e : c.addSummary unit idx d q n j h row = .ok c') : KeepsKv s₀ c' := by
  unfold KvCtx.addSummary at e
  split at e
  · cases e
    exact hc
  · dsimp only at e
    split at e
    · cases e
    · split at e
      · cases e
      · cases e
        exact KeepsKv.ite (hc.write ‹_›) ((hc.write ‹_›).setRec)

theorem KeepsKv.appendToken {s₀ : State} {c : KvCtx} {unit idx : Nat} {d : Desc} {q : Pool} {y h i : Nat} {kr vr : List Nat} {c' : KvCtx}
    (hc : KeepsKv s₀ c)
    (e : c.appendToken unit idx d q y h i kr vr = .ok c') : KeepsKv s₀ c' := by
  unfold KvCtx.appendToken at e
  split at e
  · cases e
  · split at e
    · cases e
    · split at e
      · cases e
      · exact (((hc.preparePage ‹_›).write ‹_›).write ‹_›).addSummary e

theorem KeepsKv.append {s₀ : State} {c : KvCtx} {unit handle a r : Nat} {rows : List AppendRows} {c' : KvCtx} (hc : KeepsKv s₀ c)
    (e : c.append unit handle a r rows = .ok c') : KeepsKv s₀ c' := by
  unfold KvCtx.append at e
  split at e
  · cases e
  · dsimp only at e
    split at e
    · cases e
    · cases e
      exact (hc.setRec.foldE (fun _ _ _ hk hk1 => hk.foldE (fun _ _ _ hk hk1 => hk.appendToken hk1) hk1) ‹_›).setRec

theorem KeepsKv.commitRec {s₀ : State} {c : KvCtx} {idx : Nat} {pr : PendRec} (hc : KeepsKv s₀ c) : KeepsKv s₀ (c.commitRec idx pr) := by
  unfold KvCtx.commitRec
  split
  · exact hc
  · split
    · exact hc
    · dsimp only
      split
      · exact hc
      · rename_i c3 e
        have h3 : KeepsKv s₀ c3 := by
          split at e
          · cases e
          · rename_i h1
            have h1 := hc.foldE (fun _ _ _ hd e => hd.putWord e) h1
            split at e
            · cases e
            · split at e
              · cases e
                exact h1.setEntries ‹_›
              · exact (h1.setEntries ‹_›).write e
        exact h3.same

theorem KeepsKv.dropRec {s₀ : State} {c : KvCtx} {idx : Nat} {pr : PendRec} (hc : KeepsKv s₀ c) :
    KeepsKv s₀ (c.dropRec idx pr) := by
  unfold KvCtx.dropRec
  split
  · exact hc.same
  · exact hc.same

theorem KeepsKv.commitUnit {s₀ : State} {c : KvCtx} {unit : Nat} {ok : Bool} (hc : KeepsKv s₀ c) :
    KeepsKv s₀ (c.commitUnit unit ok) := by
  unfold KvCtx.commitUnit
  dsimp only
  split
  · refine KeepsKv.foldl hc fun t a ht => ?_
    exact ht.commitRec
  · refine KeepsKv.foldl hc fun t a ht => ?_
    exact ht.dropRec

theorem KeepsKv.takeIndex {s₀ : State} {c : KvCtx} {r : Nat} {c' : KvCtx} (hc : KeepsKv s₀ c)
    (e : c.takeIndex = some (r, c')) : KeepsKv s₀ c' := by
  unfold KvCtx.takeIndex at e
  split at e
  · cases e
    exact hc.same
  · split at e
    · cases e
    · cases e
      exact hc.same

theorem KeepsKv.newDesc {s₀ : State} {c : KvCtx} {d0 : Desc} {r : Nat} {c' : KvCtx} (hc : KeepsKv s₀ c) (e : c.newDesc d0 = .ok (r, c')) :
    KeepsKv s₀ c' := by
  unfold KvCtx.newDesc at e
  split at e
  · cases e
  · split at e
    · cases e
    · cases e
    · rename_i idx c1 q hidx hq
      have h1 : KeepsKv s₀ c1 := hc.takeIndex hidx
      extract_lets x d1 d2 at e
      split at e
      · cases e
        exact h1.same
      · split at e
        · cases e
        · extract_lets d2 c2 at e
          have h2 : KeepsKv s₀ c2 := h1.same
          split at e
          · cases e
          · cases e
            exact h2.write ‹_›

theorem KeepsKv.seqCreate {s₀ : State} {c : KvCtx} {pool max split pos0 pos1 : Nat} {shard : Bool} {r : Nat} {c' : KvCtx} (hc : KeepsKv
    s₀ c)
    (e : c.seqCreate pool max split pos0 pos1 shard = .ok (r, c')) : KeepsKv s₀ c' := by
  unfold KvCtx.seqCreate at e
  split at e
  · cases e
  · split at e
    · cases e
    · split at e
      · cases e
      · split at e
        · cases e
        · split at e
          · cases e
          · exact hc.newDesc e

theorem KeepsKv.forkLeaves {s₀ : State} {c : KvCtx} {idx : Nat} {d : Desc} {q : Pool} {n : Nat} {c' : KvCtx} (hc : KeepsKv s₀ c)
    (e : c.forkLeaves idx d q n = .ok c') : KeepsKv s₀ c' := by
  induction n generalizing c' with
  | zero =>
    cases e
    exact hc
  | succ n ih =>
    unfold KvCtx.forkLeaves at e
    split at e
    · cases e
    · rename_i c1 h1
      split at e
      · cases e
      · split at e
        · cases e
        · exact KeepsKv.putWord (ih h1).same e

theorem KeepsKv.seqFork {s₀ : State} {c : KvCtx} {parent f r : Nat} {c' : KvCtx} (hc : KeepsKv s₀ c) (e : c.seqFork parent f = .ok (r,
    c')) :
    KeepsKv s₀ c' := by
  unfold KvCtx.seqFork at e
  split at e
  · cases e
  · split at e
    · cases e
    · split at e
      · cases e
      · dsimp only at e
        split at e
        · cases e
        · split at e
          · cases e
          · split at e
            · cases e
            · rename_i idx c1 h1
              split at e
              · cases e
              · rename_i c2 h2
                have h2 : KeepsKv s₀ c2 := by
                  split at h2
                  · exact (hc.newDesc h1).forkLeaves h2
                  · cases h2
                    exact hc.newDesc h1
                split at e
                · cases e
                · rename_i c3 h3
                  have k3 := h2.setEntries h3
                  split at e
                  · cases e
                    exact k3.same
                  · split at e
                    · cases e
                    · cases e
                      exact (k3.modDesc.modPool).write ‹_›

theorem KeepsKv.resummarise {s₀ : State} {c : KvCtx} {q : Pool} {pg n : Nat} {c' : KvCtx} (hc : KeepsKv s₀ c)
    (e : c.resummarise q pg n = .ok c') : KeepsKv s₀ c' := by
  unfold KvCtx.resummarise at e
  refine hc.foldE (fun x0 x1 x2 hk e => ?_) e
  split at e
  · cases e
  · split at e
    · cases e
      exact hk
    · exact hk.write e

theorem KeepsKv.seqTruncate {s₀ : State} {c : KvCtx} {handle t r : Nat} {c' : KvCtx} (hc : KeepsKv s₀ c)
    (e : c.seqTruncate handle t = .ok (r, c')) : KeepsKv s₀ c' := by
  unfold KvCtx.seqTruncate at e
  split at e
  · cases e
  · split at e
    · cases e
    · split at e
      · cases e
      · dsimp only at e
        split at e
        · cases e
        · split at e
          · cases e
          · split at e
            · cases e
            · rename_i h1
              have h1 := hc.foldE (fun _ _ _ hd e => hd.resummarise e) h1
              split at e
              · cases e
                exact h1.same
              · split at e
                · cases e
                · cases e
                  exact (h1.modPool.modDesc).write ‹_›

theorem KeepsKv.releaseBlocks {s₀ : State} {c : KvCtx} {q : Pool} {d : Desc} {c' : KvCtx} (hc : KeepsKv s₀ c)
    (e : c.releaseBlocks q d = .ok c') : KeepsKv s₀ c' := by
  unfold KvCtx.releaseBlocks at e
  dsimp only at e
  cases e
  exact hc.modPool

theorem KeepsKv.seqFree {s₀ : State} {c : KvCtx} {handle r : Nat} {c' : KvCtx} (hc : KeepsKv s₀ c)
    (e : c.seqFree handle = .ok (r, c')) : KeepsKv s₀ c' := by
  unfold KvCtx.seqFree at e
  split at e
  · cases e
  · split at e
    · cases e
    · split at e
      · cases e
      · split at e
        · cases e
        · dsimp only at e
          split at e
          · cases e
          · cases e
            exact (hc.releaseBlocks ‹_›).same

theorem KeepsKv.seqRun {s₀ : State} {c : KvCtx} {op : SeqOp} {r : Nat} {c' : KvCtx} (hc : KeepsKv s₀ c)
    (e : c.seqRun op = .ok (r, c')) : KeepsKv s₀ c' := by
  unfold KvCtx.seqRun at e
  split at e
  · exact hc.seqCreate e
  · exact hc.seqFork e
  · exact hc.seqTruncate e
  · exact hc.seqFree e

theorem KeepsKv.poolCreate {s₀ : State} {c : KvCtx} {n : Nat} {q : Pool} {mapped : Nat → Nat → Bool} {c' : KvCtx} (hc : KeepsKv s₀ c)
    (e : c.poolCreate n q mapped = .ok c') : KeepsKv s₀ c' := by
  unfold KvCtx.poolCreate at e
  split at e
  · cases e
  · split at e
    · cases e
    · split at e
      · cases e
      · split at e
        · cases e
        · cases e
          exact hc.same

theorem Keeps.setHolm {s₀ s : State} {p : Nat} {h : Holm} (hs : Keeps s₀ s) (hh : KeepsHolm s₀ h) : Keeps s₀ (s.setHolm p h) :=
  hs.withHolms fun e he h0 => AMap.forall_set (P := fun k : Holm => k.mem.wf = true) (hs.mem h0).2.2.2 (hh h0) e he

theorem Keeps.modHolm {s₀ s : State} {p : Nat} {f : Holm → Holm} (h : Keeps s₀ s) (hf : ∀ k, KeepsHolm s₀ k → KeepsHolm s₀ (f k)) :
    Keeps s₀ (s.modHolm p f) := h.setHolm (hf _ h.holm)

theorem Keeps.setPort {s₀ s : State} {i : Nat} {q : Port} (h : Keeps s₀ s) :
    Keeps s₀ (s.setPort i q) := h.same

theorem Keeps.modPort {s₀ s : State} {i : Nat} {f : Port → Port} (h : Keeps s₀ s) :
    Keeps s₀ (s.modPort i f) := h.same

theorem Keeps.takeFree {s₀ s : State} {n r : Nat} {u : State} (h : Keeps s₀ s)
    (e : s.takeFree n = (r, u)) : Keeps s₀ u := by
  unfold State.takeFree at e
  cases e
  exact h.same

theorem Keeps.newHandle {s₀ s : State} {used : List Nat} {r : Nat} {u : State} (h : Keeps s₀ s)
    (e : s.newHandle used = (r, u)) : Keeps s₀ u := by
  unfold State.newHandle at e
  dsimp only at e
  cases e
  exact h.takeFree rfl

theorem KeepsOut.onHolm {s₀ s : State} {p : Nat} {f : Holm → State → State} (h : Keeps s₀ s)
    (hf : ∀ k, KeepsHolm s₀ k → Keeps s₀ (f k s)) : KeepsOut s₀ (onHolm p s f) := by
  unfold Machine.onHolm
  split
  · exact .next (.ite (hf _ h.holm) h)
  · exact .fault

theorem KeepsOut.onPort {s₀ s : State} {i : Nat} {f : Port → State → State} (h : Keeps s₀ s) (hf : ∀ q, Keeps s₀ (f q s)) :
    KeepsOut s₀ (onPort i s f) := by
  unfold Machine.onPort
  split
  · exact .next (.ite (hf _) h)
  · exact .fault

theorem KeepsOut.onLive {s₀ s : State} {f : State → State} (h : Keeps s₀ s) (hf : Keeps s₀ (f s)) : KeepsOut s₀ (onLive s f) :=
  .next (.ite hf h)

theorem KeepsHolm.putWord {s₀ : State} {h : Holm} {w v : Nat} (hh : KeepsHolm s₀ h) : KeepsHolm s₀ (h.putWord w v) :=
  fun h0 => Mem.wf_writeLE (hh h0) _ _ _

theorem KeepsHolm.putWords {s₀ : State} {h : Holm} {ws : List (Nat × Nat)} (hh : KeepsHolm s₀ h) :
    KeepsHolm s₀ (h.putWords ws) := by
  unfold Holm.putWords
  refine KeepsHolm.foldl hh fun t a ht => ?_
  exact ht.putWord

theorem KeepsHolm.putBytes {s₀ : State} {h : Holm} {a : Nat} {bs : List Nat} (hh : KeepsHolm s₀ h) :
    KeepsHolm s₀ (h.putBytes a bs) := hh.putWords

theorem KeepsHolm.spoil {s₀ : State} {h : Holm} {lo hi tag : Nat} (hh : KeepsHolm s₀ h) :
    KeepsHolm s₀ (h.spoil lo hi tag) := hh.same

theorem KeepsHolm.spoilAll {s₀ : State} {h : Holm} {rs : List (Nat × Nat)} {tag : Nat} (hh : KeepsHolm s₀ h) :
    KeepsHolm s₀ (h.spoilAll rs tag) := by
  unfold Holm.spoilAll
  refine KeepsHolm.foldl hh fun t a ht => ?_
  exact KeepsHolm.ite ht ht.spoil

theorem KeepsHolm.clearLines {s₀ : State} {h : Holm} {lo hi : Nat} (hh : KeepsHolm s₀ h) : KeepsHolm s₀ (h.clearLines lo hi) :=
  fun h0 => Mem.wf_clear (hh h0) _ _

theorem KeepsHolm.clearOpen {s₀ : State} {h : Holm} (hh : KeepsHolm s₀ h) :
    KeepsHolm s₀ (h.clearOpen) := hh.clearLines

theorem KeepsHolm.dropLagoon {s₀ : State} {h : Holm} (hh : KeepsHolm s₀ h) :
    KeepsHolm s₀ (h.dropLagoon) := (KeepsHolm.ite hh hh.clearLines).same

theorem KeepsHolm.setLagoon {s₀ : State} {h : Holm} {l : Nat} (hh : KeepsHolm s₀ h) :
    KeepsHolm s₀ (h.setLagoon l) := KeepsHolm.ite hh hh.clearLines.same

theorem KeepsHolm.setChan {s₀ : State} {h : Holm} {c : Nat} {x : Chan} (hh : KeepsHolm s₀ h) :
    KeepsHolm s₀ (h.setChan c x) := hh.same

theorem KeepsHolm.retire {s₀ : State} {h : Holm} {ids : List Nat} (hh : KeepsHolm s₀ h) :
    KeepsHolm s₀ (h.retire ids) := hh.same

theorem KeepsHolm.noteFault {s₀ : State} {h : Holm} {r : FaultRec} (hh : KeepsHolm s₀ h) :
    KeepsHolm s₀ (h.noteFault r) := by
  unfold Holm.noteFault
  split
  · exact hh
  · split
    · exact hh.same
    · exact hh.same

theorem KeepsHolm.precise {s₀ : State} {h : Holm} {pc opc : Nat} {st : Status} {detail : Nat} (hh : KeepsHolm s₀ h) :
    KeepsHolm s₀ (h.precise pc opc st detail) := hh.noteFault

theorem KeepsHolm.deferred {s₀ : State} {h : Holm} {pc opc ch : Nat} {st : Status} {detail : Nat} (hh : KeepsHolm s₀ h) :
    KeepsHolm s₀ (h.deferred pc opc ch st detail) := hh.noteFault

theorem Keeps.wakeDomain {s₀ s : State} {q c : Nat} (h : Keeps s₀ s) :
    Keeps s₀ (s.wakeDomain q c) := by
  unfold State.wakeDomain
  dsimp only
  refine Keeps.foldl h.same fun t a ht => ?_
  exact Keeps.ite (ht.modHolm (fun _ hk => hk.clearOpen.same)) ht

theorem Keeps.wakeHolm {s₀ s : State} {p : Nat} (h : Keeps s₀ s) :
    Keeps s₀ (s.wakeHolm p) := Keeps.ite h.wakeDomain h

theorem Keeps.modWork {s₀ s : State} {w : Nat} {f : Work → Work} (h : Keeps s₀ s) :
    Keeps s₀ (s.modWork w f) := h.same

theorem Keeps.bumpEpochs {s₀ s : State} {lgs : List Nat} (h : Keeps s₀ s) : Keeps s₀ (s.bumpEpochs lgs) := by
  refine h.withRemap fun hr => ?_
  unfold State.bumpEpochs State.remapOk
  rw [List.forall_mem_map]
  rintro ⟨lg, r⟩ he
  obtain ⟨hp, hep⟩ := h.remap hr _ he
  dsimp only at hp hep ⊢
  split
  · exact ⟨hp, Nat.mod_lt _ (by decide)⟩
  · exact ⟨hp, hep⟩

theorem Keeps.setCause {s₀ s : State} {lgs : List Nat} {c : RoleCause} (h : Keeps s₀ s) :
    Keeps s₀ (s.setCause lgs c) := h.same

theorem KeepsKv.kvCtx {s₀ s : State} {t : Nat} {c : KvCtx} (h : Keeps s₀ s) (e : s.kvCtx t = some c) : KeepsKv s₀ c := by
  obtain ⟨x, -, rfl⟩ := Option.map_eq_some_iff.mp e
  exact h.memState

theorem Keeps.putKv {s₀ s : State} {c : KvCtx} (h : Keeps s₀ s) (hc : KeepsKv s₀ c) :
    Keeps s₀ (s.putKv c) := h.withMem hc.memState

theorem Keeps.memWrite {s₀ s : State} {t a : Nat} {vs : List Nat} {u : State} (h : Keeps s₀ s)
    (e : s.memWrite t a vs = .ok u) : Keeps s₀ u := by
  unfold State.memWrite at e
  split at e
  · cases e
  · split at e
    · cases e
    · cases e
      exact h.withMem (h.memState.tenantWrite ‹_›)

theorem Keeps.touch {s₀ s : State} {w t : Nat} {rs : List (Nat × Nat)} (h : Keeps s₀ s) :
    Keeps s₀ (s.touch w t rs) := Keeps.ite h.modWork h

theorem Keeps.hostWrite {s₀ s : State} {a : Nat} {vs : List Nat} {u : State} (h : Keeps s₀ s) (e : s.hostWrite a vs = some u) :
    Keeps s₀ u := by
  rw [(State.hostWrite_some e).2]
  exact h.withHost fun hh => Mem.wf_write hh _ _

theorem Keeps.signal {s₀ s : State} {fn v : Nat} (h : Keeps s₀ s) : Keeps s₀ (s.signal fn v) := by
  unfold State.signal
  extract_lets m
  split
  · exact h.same
  · cases e : s.hostWrite m.addr (toBytes m.data 4) with
    | none => exact h
    | some u => exact h.hostWrite e

theorem Keeps.notice {s₀ s : State} {fn code body : Nat} (h : Keeps s₀ s) : Keeps s₀ (s.notice fn code body) := by
  unfold State.notice
  dsimp only
  split
  · exact h.same
  · split
    · exact h.same
    · split
      · exact h.same
      · rename_i s2 e
        have h2 : Keeps s₀ s2 := Keeps.hostWrite h.same e
        exact Keeps.signal h2.same

theorem Keeps.noticeTenant {s₀ s : State} {t code body : Nat} (h : Keeps s₀ s) :
    Keeps s₀ (s.noticeTenant t code body) := by
  unfold State.noticeTenant
  split
  · exact h.notice
  · exact h

theorem Keeps.noticeTenants {s₀ s : State} {ts : List Nat} {code body : Nat} (h : Keeps s₀ s) :
    Keeps s₀ (s.noticeTenants ts code body) := by
  unfold State.noticeTenants
  refine Keeps.foldl h fun t a ht => ?_
  exact ht.noticeTenant

theorem Keeps.log {s₀ s : State} {cls status : Nat} {tenant : Option Nat} {unit_ rec_ : Nat} (h : Keeps s₀ s) :
    Keeps s₀ (s.log cls status tenant unit_ rec_) := by
  unfold State.log
  dsimp only
  split
  · exact h.same
  · exact h.same

theorem Keeps.busError {s₀ s : State} {fn off size value : Nat} {write : Bool} (h : Keeps s₀ s) :
    Keeps s₀ (s.busError fn off size value write) := h.same

theorem Keeps.masked {s₀ s : State} {kind unit_ delay spares : Nat} (h : Keeps s₀ s) :
    Keeps s₀ (s.masked kind unit_ delay spares) := h.log.notice

theorem Keeps.endCmd {s₀ s : State} {id : CmdId} {st : Status} {result : Nat} {fault : Bool} (h : Keeps s₀ s) :
    Keeps s₀ (s.endCmd id st result fault) := h.same

theorem Keeps.endCmds {s₀ s : State} {ids : List CmdId} {st : Status} {result : Nat} (h : Keeps s₀ s) :
    Keeps s₀ (s.endCmds ids st result) := by
  unfold State.endCmds
  refine Keeps.foldl h fun t a ht => ?_
  exact ht.endCmd

end Sys2Proof.Machine
end

section
/-! SUPPORT. What barriers, the instruction checks, the engines, links, windows, collectives and completions keep. -/

set_option Elab.async false

namespace Sys2Proof.Machine

theorem Keeps.countHolm {s₀ s : State} {w lg n : Nat} (h : Keeps s₀ s) : Keeps s₀ (s.countHolm w lg n) := by
  induction n generalizing s with
  | zero => exact h
  | succ n ih =>
    unfold State.countHolm
    split
    · dsimp only
      split
      · exact h
      · split
        · exact h
        · split
          · exact ih (h.modWork.modHolm fun _ hk => hk.same)
          · exact h
    · exact h

theorem Keeps.countLandings {s₀ s : State} {w : Nat} (h : Keeps s₀ s) :
    Keeps s₀ (s.countLandings w) := by
  unfold State.countLandings
  dsimp only
  refine Keeps.foldl h fun t a ht => ?_
  exact ht.countHolm

theorem Keeps.ringRelease {s₀ s : State} {w part b : Nat} (h : Keeps s₀ s) :
    Keeps s₀ (s.ringRelease w part b) := h.same.countLandings

theorem Keeps.checkpointDone {s₀ s : State} {w : Nat} {stages lgs : List Nat} (h : Keeps s₀ s) :
    Keeps s₀ (s.checkpointDone w stages lgs) := h.same

theorem Keeps.dividePower {s₀ s : State} (h : Keeps s₀ s) :
    Keeps s₀ (s.dividePower) := h.same

theorem Keeps.holdBar {s₀ s : State} {b : Nat} {lgs : List Nat} (h : Keeps s₀ s) :
    Keeps s₀ (s.holdBar b lgs) := by
  unfold State.holdBar
  refine Keeps.foldl h fun t a ht => ?_
  split
  · exact ht.modHolm (fun _ hk => hk.same)
  · exact ht

theorem Keeps.barArrive {s₀ s : State} {w part b : Nat} {lg : Option Nat} (h : Keeps s₀ s) :
    Keeps s₀ (s.barArrive w part b lg) := by
  unfold State.barArrive
  split
  · exact h
  · split
    · exact h
    · dsimp only
      split
      · exact h.holdBar
      · split
        · exact h.modWork.holdBar
        · split
          · refine Keeps.ringRelease ?_
            refine Keeps.foldl h.modWork fun t a ht => ?_
            split
            · exact ht.modHolm (fun _ hk => hk.same)
            · exact ht
          · refine ((Keeps.ringRelease ?_).checkpointDone).dividePower
            refine Keeps.foldl h.modWork fun t a ht => ?_
            split
            · exact ht.modHolm (fun _ hk => hk.same)
            · exact ht

theorem KeepsHolm.setG {s₀ : State} {h : Holm} {r v : Nat} (hh : KeepsHolm s₀ h) :
    KeepsHolm s₀ (h.setG r v) := hh.same

theorem KeepsHolm.goTo {s₀ : State} {h : Holm} {pc : Nat} (hh : KeepsHolm s₀ h) :
    KeepsHolm s₀ (h.goTo pc) := hh.same

theorem KeepsHolm.step1 {s₀ : State} {h : Holm} (hh : KeepsHolm s₀ h) :
    KeepsHolm s₀ (h.step1) := hh.same

theorem KeepsHolm.enter {s₀ : State} {h : Holm} {kind : SbKind} {qs : List Queue} {ev : RetireEv} {rs : List (Nat × Nat)} {r : List Nat}
    {k' : Holm} (hh : KeepsHolm s₀ h)
    (e : h.enter kind qs ev rs = (r, k')) : KeepsHolm s₀ k' := by
  unfold Holm.enter at e
  cases e
  exact hh.same

theorem KeepsHolm.launch {s₀ : State} {h : Holm} {opc : Nat} {qs : List Queue} {reads writes : List (Nat × Nat)} (hh : KeepsHolm s₀ h) :
    KeepsHolm s₀ (h.launch opc qs reads writes) := (KeepsHolm.ite hh.same.same hh.same.same.same).step1

theorem KeepsOut.issueRow {s₀ s : State} {p opc : Nat} {form : Nat → Bool} {f : Holm → Nat → State → State} (h : Keeps s₀ s)
    (hf : ∀ k w, KeepsHolm s₀ k → Keeps s₀ (f k w s)) : KeepsOut s₀ (issueRow p opc form s f) := by
  unfold Machine.issueRow
  refine .onHolm h fun k hk => ?_
  split
  · exact h
  · split
    · exact h.setHolm hk.precise
    · exact .ite (hf _ _ hk) h

theorem Keeps.checked {s₀ s : State} {α : Type} {p opc : Nat} {k : Holm} {r : Except Status α} {f : α → State} (h : Keeps s₀ s)
    (hk : KeepsHolm s₀ k) (hf : ∀ a, Keeps s₀ (f a)) : Keeps s₀ (checked p opc k s r f) := by
  unfold Machine.checked
  split
  · exact h.setHolm hk.precise
  · exact hf _

theorem Keeps.produce {s₀ s : State} {p : Nat} {h : Holm} {o : EngOut} (hs : Keeps s₀ s) (hh : KeepsHolm s₀ h) :
    Keeps s₀ (s.produce p h o) := hs.same.setHolm hh.putWords.spoilAll

theorem Keeps.engine {s₀ s : State} {p : Nat} {h : Holm} {opc : Nat} {qs : List Queue} {reads writes : List Hull} {run : Except Status
    EngOut} (hs : Keeps s₀ s) (hh : KeepsHolm s₀ h) :
    Keeps s₀ (s.engine p h opc qs reads writes run) := by
  unfold State.engine
  split
  · exact hs
  · dsimp only
    split
    · exact hs.setHolm hh.launch.deferred
    · exact hs.produce hh.launch

theorem KeepsOut.execMma {s₀ : State} {p : Nat} {s : State} (h : Keeps s₀ s) :
    KeepsOut s₀ (execMma p s) := KeepsOut.issueRow h (fun _ _ hk => h.checked hk (fun _ => Keeps.ite (h.setHolm hk.precise) (Keeps.ite
        ((h.engine hk).modHolm (fun _ hk => hk.same)) (h.engine hk))))

theorem KeepsHolm.mapStep {s₀ : State} {sp : MapSpec} {i : Nat} {h k' : Holm} (hh : KeepsHolm s₀ h)
    (e : mapStep sp i h = .ok k') : KeepsHolm s₀ k' := by
  unfold Machine.mapStep at e
  dsimp only at e
  split at e
  · cases e
  · split at e
    · cases e
    · split at e
      · cases e
      · cases e
        exact hh.putWords

theorem KeepsHolm.mapRun {s₀ : State} {sp : MapSpec} {n i : Nat} {h k : Holm} {r : Option (Status × Nat × Nat)} (hh : KeepsHolm s₀ h)
    (e : Machine.mapRun sp n i h = (k, r)) : KeepsHolm s₀ k := by
  induction n generalizing i h with
  | zero =>
    cases e
    exact hh
  | succ n ih =>
    unfold Machine.mapRun at e
    split at e
    · cases e
      exact hh
    · exact ih (hh.mapStep ‹_›) e

theorem KeepsOut.execMmap {s₀ : State} {p : Nat} {s : State} (h : Keeps s₀ s) :
    KeepsOut s₀ (execMmap p s) := by
  unfold Machine.execMmap
  refine KeepsOut.issueRow h (fun _ _ hk => h.checked hk (fun x0 => ?_))
  dsimp only
  split
  · exact h
  · split
    · exact h.setHolm (hk.launch.mapRun rfl)
    · exact h.setHolm ((hk.launch.mapRun rfl).deferred)

theorem KeepsHolm.exportTo {s₀ : State} {h : Holm} {ch : Nat} {rs : List (List Nat)} (hh : KeepsHolm s₀ h) :
    KeepsHolm s₀ (exportTo h ch rs) := KeepsHolm.ite hh hh.setChan

theorem KeepsOut.execAts {s₀ : State} {p : Nat} {s : State} (h : Keeps s₀ s) :
    KeepsOut s₀ (execAts p s) := by
  unfold Machine.execAts
  refine KeepsOut.issueRow h (fun _ _ hk => h.checked hk (fun x0 => ?_))
  split
  · exact h
  · split
    · exact h.setHolm hk.deferred
    · dsimp only
      split
      · exact h.setHolm hk.precise
      · split
        · exact Keeps.ite (h.engine hk) ((h.engine hk).modHolm (fun _ hk => hk.exportTo))
        · exact h.engine hk

theorem KeepsOut.execAtf {s₀ : State} {p : Nat} {s : State} (h : Keeps s₀ s) :
    KeepsOut s₀ (execAtf p s) := by
  unfold Machine.execAtf
  refine KeepsOut.issueRow h (fun _ _ hk => h.checked hk (fun x0 => ?_))
  dsimp only
  split
  · exact h
  · split
    · exact h.setHolm hk.deferred
    · split
      · exact h.setHolm hk.precise
      · exact (h.takeFree rfl).engine hk

theorem KeepsOut.execAtb {s₀ : State} {p : Nat} {s : State} (h : Keeps s₀ s) :
    KeepsOut s₀ (execAtb p s) := by
  unfold Machine.execAtb
  refine KeepsOut.issueRow h (fun _ _ hk => h.checked hk (fun x0 => ?_))
  split
  · exact h
  · split
    · exact h.setHolm hk.deferred
    · dsimp only
      split
      · exact h.setHolm hk.precise
      · exact (h.takeFree rfl).engine hk

theorem KeepsOut.execVop {s₀ : State} {p : Nat} {s : State} (h : Keeps s₀ s) :
    KeepsOut s₀ (execVop p s) := KeepsOut.issueRow h (fun _ _ hk => h.checked hk (fun _ => h.engine hk))

theorem KeepsOut.execCvt {s₀ : State} {p : Nat} {s : State} (h : Keeps s₀ s) :
    KeepsOut s₀ (execCvt p s) := KeepsOut.issueRow h (fun _ _ hk => h.checked hk (fun _ => h.engine hk))

theorem KeepsOut.execSfn {s₀ : State} {p : Nat} {s : State} (h : Keeps s₀ s) :
    KeepsOut s₀ (execSfn p s) := KeepsOut.issueRow h (fun _ _ hk => h.checked hk (fun _ => h.engine hk))

theorem Keeps.leave {s₀ s : State} {i chan : Nat} {x : Xfer} (h : Keeps s₀ s) :
    Keeps s₀ (s.leave i chan x) := h.same

theorem Keeps.sendXfer {s₀ s : State} {arch chan : Nat} {ps : List Nat} {turn : Nat} {x : Xfer} {owner : XOwner} {u : State} (h : Keeps
    s₀ s)
    (e : s.sendXfer arch chan ps turn x owner = .ok u) : Keeps s₀ u := by
  unfold State.sendXfer at e
  split at e
  · cases e
  · split at e
    · cases e
    · dsimp only at e
      split at e
      · cases e
        exact h.same.leave
      · cases e
        exact h.same

theorem Keeps.writeXfer {s₀ s : State} {arch dst win key off eng : Nat} {data : List Nat} {r : Xfer} {u : State} (h : Keeps s₀ s)
    (e : s.writeXfer arch dst win key off eng data = some (r, u)) : Keeps s₀ u := by
  unfold State.writeXfer at e
  split at e
  · cases e
  · split at e
    · cases e
    · dsimp only at e
      cases e
      exact h.same

theorem Keeps.sendAbort {s₀ s : State} {arch dst chan : Nat} {ps : List Nat} {body : Nat} (h : Keeps s₀ s) :
    Keeps s₀ (s.sendAbort arch dst chan ps body) := by
  unfold State.sendAbort
  split
  · exact h
  · split
    · exact h.same.leave
    · exact h

theorem Keeps.countKeyFail {s₀ s : State} {i : Nat} {x : Xfer} (h : Keeps s₀ s) :
    Keeps s₀ (s.countKeyFail i x) := by
  unfold State.countKeyFail
  split
  · exact h
  · exact Keeps.ite h h.same.log

theorem Keeps.reply {s₀ s : State} {i arch : Nat} {x : Xfer} {st : Status} {redirect : Bool} {data : List Nat} (h : Keeps s₀ s) :
    Keeps s₀ (s.reply i arch x st redirect data) := Keeps.ite h.same h.same

theorem Keeps.land {s₀ s : State} {t : Target} {bs : List Nat} {u : State} (h : Keeps s₀ s)
    (e : s.land t bs = .ok u) : Keeps s₀ u := by
  unfold State.land at e
  split at e
  · cases e
    exact h
  · cases e
    refine Keeps.foldl h fun t a ht => ?_
    exact ht.wakeHolm.modHolm (fun _ hk => hk.putBytes)
  · exact h.memWrite e

theorem Keeps.countArrival {s₀ s : State} {t : Target} (h : Keeps s₀ s) :
    Keeps s₀ (s.countArrival t) := by
  unfold State.countArrival
  split
  · refine Keeps.foldl h fun t a ht => ?_
    exact ht.modHolm (fun _ hk => KeepsHolm.ite hk.same hk)
  · exact h

theorem Keeps.takeWrite {s₀ s : State} {i : Nat} {x : Xfer} (h : Keeps s₀ s) :
    Keeps s₀ (s.takeWrite i x) := by
  unfold State.takeWrite
  split
  · exact h
  · split
    · exact h.same
    · split
      · exact h.countKeyFail.reply
      · split
        · exact h.same
        · split
          · exact h.same
          · split
            · exact h.reply
            · exact ((h.land ‹_›).countArrival).reply

theorem Keeps.takeRead {s₀ s : State} {i : Nat} {x : Xfer} (h : Keeps s₀ s) :
    Keeps s₀ (s.takeRead i x) := by
  unfold State.takeRead
  split
  · exact h
  · split
    · exact h.same
    · split
      · exact h.countKeyFail.reply
      · split
        · exact h.reply
        · exact h.reply

theorem Keeps.cutOff {s₀ s : State} {i : Nat} {got : List Nat} (h : Keeps s₀ s) :
    Keeps s₀ (s.cutOff i got) := by
  unfold State.cutOff
  dsimp only
  split
  · exact h
  · split
    · exact h
    · exact h
    · split
      · exact h
      · refine Keeps.foldl (h.takeFree rfl) fun t a ht => ?_
        exact ht.modHolm (fun _ hk => hk.spoil)
    · split
      · exact (h.takeFree rfl).memWrite ‹_›
      · exact h.takeFree rfl

theorem Keeps.popArrived {s₀ s : State} {i : Nat} {f : Nat → Xfer → Bool} {r : Nat} {r₁ : Xfer} {u : State} (h : Keeps s₀ s)
    (e : s.popArrived i f = some (r, r₁, u)) : Keeps s₀ u := by
  unfold State.popArrived at e
  split at e
  · cases e
    exact h.modPort
  · cases e

theorem KeepsOut.execStraitWriteArrival {s₀ : State} {port : Nat} {s : State} (h : Keeps s₀ s) :
    KeepsOut s₀ (execStraitWriteArrival port s) := by
  unfold Machine.execStraitWriteArrival
  refine KeepsOut.onPort h (fun x0 => ?_)
  split
  · exact (h.popArrived ‹_›).takeWrite
  · exact h

theorem KeepsOut.execStraitReadArrival {s₀ : State} {port : Nat} {s : State} (h : Keeps s₀ s) :
    KeepsOut s₀ (execStraitReadArrival port s) := by
  unfold Machine.execStraitReadArrival
  refine KeepsOut.onPort h (fun x0 => ?_)
  split
  · exact (h.popArrived ‹_›).takeRead
  · exact h

theorem KeepsOut.execTransferReplySend {s₀ s : State} (h : Keeps s₀ s) :
    KeepsOut s₀ (execTransferReplySend s) := by
  unfold Machine.execTransferReplySend
  refine .next ?_
  split
  · exact h
  · dsimp only
    split
    · exact h.same.leave
    · exact h

theorem KeepsOut.execRelayForward {s₀ : State} {port : Nat} {s : State} (h : Keeps s₀ s) :
    KeepsOut s₀ (execRelayForward port s) := by
  unfold Machine.execRelayForward
  refine KeepsOut.onPort h (fun x0 => ?_)
  split
  · exact h
  · dsimp only
    split
    · split
      · exact Keeps.ite (((h.popArrived ‹_›).same).reply) ((h.popArrived ‹_›).same)
      · exact (h.popArrived ‹_›).same
    · split
      · split
        · exact Keeps.ite (((h.popArrived ‹_›).same).reply) ((h.popArrived ‹_›).same)
        · exact (h.popArrived ‹_›).same
      · split
        · split
          · exact Keeps.ite (((h.popArrived ‹_›).same).reply) ((h.popArrived ‹_›).same)
          · exact (h.popArrived ‹_›).same
        · exact ((h.popArrived ‹_›).same).leave

theorem Keeps.modColl {s₀ s : State} {i : Nat} {f : Coll → Coll} (h : Keeps s₀ s) :
    Keeps s₀ (s.modColl i f) := h.same

theorem Keeps.keepPiece {s₀ s : State} {t : Target} {bs : List Nat} (h : Keeps s₀ s) :
    Keeps s₀ (s.keepPiece t bs) := by
  unfold State.keepPiece
  split
  · refine Keeps.foldl h fun t a ht => ?_
    split
    · exact ht
    · exact ht.modWork
  · exact h

theorem Keeps.putOut {s₀ s : State} {c : Coll} {off : Nat} {bs : List Nat} {u : State} (h : Keeps s₀ s)
    (e : s.putOut c off bs = .ok u) : Keeps s₀ u := by
  unfold State.putOut at e
  split at e
  · cases e
  · split at e
    · cases e
    · cases e
      exact ((h.land ‹_›).countArrival).keepPiece

theorem Keeps.sendPieceOn {s₀ s : State} {arch : Nat} {p : Piece} {owner : XOwner} {u : State} (h : Keeps s₀ s)
    (e : s.sendPieceOn arch p owner = .ok u) : Keeps s₀ u := by
  unfold State.sendPieceOn at e
  split at e
  · cases e
  · dsimp only at e
    split at e
    · cases e
    · split at e
      · cases e
      · exact (h.writeXfer ‹_›).sendXfer e

theorem Keeps.abortAll {s₀ s : State} {c : Coll} {rank : Nat} {st : Status} (h : Keeps s₀ s) :
    Keeps s₀ (s.abortAll c rank st) := by
  unfold State.abortAll
  refine Keeps.foldl h fun t a ht => ?_
  split
  · exact ht
  · split
    · exact ht.sendAbort
    · exact ht

theorem Keeps.recordFail {s₀ s : State} {i rank : Nat} {st : Status} (h : Keeps s₀ s) :
    Keeps s₀ (s.recordFail i rank st) := h.same

theorem Keeps.collFail {s₀ s : State} {i rank : Nat} {st : Status} (h : Keeps s₀ s) :
    Keeps s₀ (s.collFail i rank st) := by
  unfold State.collFail
  split
  · exact h
  · exact Keeps.ite h h.recordFail.abortAll

theorem Keeps.sendShip {s₀ s : State} {i : Nat} {c : Coll} {d : Nat} {x : Ship} {bs : List Nat} (h : Keeps s₀ s) :
    Keeps s₀ (s.sendShip i c d x bs) := by
  unfold State.sendShip
  split
  · exact h.collFail
  · split
    · exact h.collFail
    · exact (h.sendPieceOn ‹_›).modColl

theorem Keeps.giveCredits {s₀ s : State} {i d n : Nat} (h : Keeps s₀ s) :
    Keeps s₀ (s.giveCredits i d n) := by
  unfold State.giveCredits
  split
  · exact h
  · exact Keeps.ite h h.sendShip

theorem Keeps.pumpTo {s₀ s : State} {i d n : Nat} (h : Keeps s₀ s) : Keeps s₀ (State.pumpTo i d n s) := by
  induction n generalizing s with
  | zero => exact h
  | succ n ih =>
    unfold State.pumpTo
    split
    · exact h
    · dsimp only
      split
      · exact h
      · split
        · exact h
        · split
          · exact h.modColl.collFail
          · exact ih h.modColl.sendShip

theorem Keeps.pumpColl {s₀ s : State} {i : Nat} (h : Keeps s₀ s) :
    Keeps s₀ (s.pumpColl i) := by
  unfold State.pumpColl
  split
  · exact h
  · split
    · exact h
    · refine Keeps.foldl h fun t a ht => ?_
      exact Keeps.ite ht ht.pumpTo

theorem Keeps.landOwn {s₀ s : State} {i off : Nat} {bs : Except Status (List Nat)} {count : Nat} (h : Keeps s₀ s) :
    Keeps s₀ (s.landOwn i off bs count) := by
  unfold State.landOwn
  split
  · exact h
  · split
    · exact h.collFail
    · split
      · exact h.collFail
      · exact (h.putOut ‹_›).modColl

theorem Keeps.putProv {s₀ s : State} {i at_ v : Nat} (h : Keeps s₀ s) :
    Keeps s₀ (s.putProv i at_ v) := by
  unfold State.putProv
  split
  · exact h
  · split
    · exact h.memWrite ‹_›
    · exact h.collFail

theorem Keeps.landRows {s₀ s : State} {i src off : Nat} {bs : Except Status (List Nat)} {es : List Nat} (h : Keeps s₀ s) :
    Keeps s₀ (s.landRows i src off bs es) := by
  unfold State.landRows
  split
  · exact h
  · split
    · exact h.collFail
    · split
      · exact h.collFail
      · dsimp only
        refine Keeps.modColl ?_
        refine Keeps.foldl (h.putOut ‹_›) fun t a ht => ?_
        exact ht.putProv

theorem Keeps.ownCopies {s₀ s : State} {i : Nat} (h : Keeps s₀ s) :
    Keeps s₀ (s.ownCopies i) := by
  unfold State.ownCopies
  split
  · exact h
  · dsimp only
    split
    · split
      · refine Keeps.foldl h fun t a ht => ?_
        exact ht.landOwn
      · exact h
    · split
      · exact h
      · refine Keeps.foldl h fun t a ht => ?_
        exact ht.landOwn
    · split
      · refine Keeps.foldl h fun t a ht => ?_
        exact ht.landOwn
      · refine Keeps.foldl h fun t a ht => ?_
        split
        · exact ht
        · exact Keeps.ite ht.collFail ht.landOwn.modColl
      · exact h
    · exact h

theorem Keeps.combinePiece {s₀ s : State} {i piece : Nat} (h : Keeps s₀ s) :
    Keeps s₀ (s.combinePiece i piece) := by
  unfold State.combinePiece
  split
  · exact h
  · dsimp only
    split
    · exact h.collFail
    · split
      · exact h
      · split
        · exact h.collFail
        · split
          · exact h.modColl.modColl
          · split
            · exact h.modColl.collFail
            · exact (h.modColl.putOut ‹_›).modColl

theorem Keeps.mergeAll {s₀ s : State} {i : Nat} (h : Keeps s₀ s) :
    Keeps s₀ (s.mergeAll i) := by
  unfold State.mergeAll
  split
  · exact h
  · dsimp only
    split
    · exact h
    · refine Keeps.modColl ?_
      refine Keeps.foldl h fun t a ht => ?_
      split
      · exact ht.putOut ‹_›
      · exact ht.collFail

theorem Keeps.combineLocal {s₀ s : State} {i : Nat} (h : Keeps s₀ s) :
    Keeps s₀ (s.combineLocal i) := by
  unfold State.combineLocal
  split
  · exact h
  · split
    · exact h
    · dsimp only
      refine Keeps.mergeAll ?_
      refine Keeps.foldl h fun t a ht => ?_
      exact ht.combinePiece

theorem Keeps.grantRows {s₀ s : State} {i : Nat} (h : Keeps s₀ s) :
    Keeps s₀ (s.grantRows i) := by
  unfold State.grantRows
  split
  · exact h
  · split
    · exact h
    · dsimp only
      refine Keeps.foldl ?_ fun t a ht => ?_
      · refine Keeps.foldl h.modColl fun t a ht => ?_
        refine Keeps.foldl ht fun t a ht => ?_
        exact ht.putProv
      · exact Keeps.ite ht.modColl ht.sendShip

theorem Keeps.takeGrant {s₀ s : State} {i d : Nat} {g : List (Nat × Nat)} (h : Keeps s₀ s) :
    Keeps s₀ (s.takeGrant i d g) := by
  unfold State.takeGrant
  split
  · exact h
  · exact h.modColl

theorem Keeps.ownRows {s₀ s : State} {i : Nat} (h : Keeps s₀ s) :
    Keeps s₀ (s.ownRows i) := by
  unfold State.ownRows
  split
  · exact h
  · split
    · exact h
    · split
      · exact h
      · refine Keeps.modColl ?_
        refine Keeps.foldl h.takeGrant fun t a ht => ?_
        exact ht.landRows

theorem Keeps.activateColl {s₀ s : State} {i : Nat} (h : Keeps s₀ s) :
    Keeps s₀ (s.activateColl i) := by
  unfold State.activateColl
  split
  · exact h
  · split
    · exact h
    · dsimp only
      split
      · exact ((Keeps.ite h h.touch).modColl).collFail
      · refine (((Keeps.ownCopies ?_).ownRows).combineLocal).pumpColl
        split
        · refine (Keeps.modColl ?_).grantRows
          split
          · refine Keeps.foldl ((Keeps.ite h h.touch).modColl) fun t a ht => ?_
            exact ht.giveCredits
          · exact (Keeps.ite h h.touch).modColl
        · split
          · refine Keeps.foldl ((Keeps.ite h h.touch).modColl) fun t a ht => ?_
            exact ht.giveCredits
          · exact (Keeps.ite h h.touch).modColl

theorem Keeps.spoilOut {s₀ s : State} {i off n : Nat} (h : Keeps s₀ s) :
    Keeps s₀ (s.spoilOut i off n) := by
  unfold State.spoilOut
  split
  · exact h
  · dsimp only
    refine Keeps.foldl (h.takeFree rfl) fun t a ht => ?_
    split
    · split
      · exact ht.land ‹_›
      · exact ht
    · exact ht

theorem Keeps.spoilFailed {s₀ s : State} {i : Nat} (h : Keeps s₀ s) :
    Keeps s₀ (s.spoilFailed i) := by
  unfold State.spoilFailed
  split
  · exact h
  · split
    · exact h
    · split
      · exact h.spoilOut
      · split
        · dsimp only
          split
          · exact (h.spoilOut.takeFree rfl).memWrite ‹_›
          · exact h.spoilOut.takeFree rfl
        · refine Keeps.foldl h fun t a ht => ?_
          split
          · split
            · exact ht.spoilOut
            · exact ht
          · exact ht

theorem Keeps.completeColl {s₀ s : State} {i : Nat} (h : Keeps s₀ s) :
    Keeps s₀ (s.completeColl i) := by
  unfold State.completeColl
  split
  · exact h
  · dsimp only
    refine (Keeps.modWork ?_).modColl
    split
    · exact h.spoilFailed.memWrite ‹_›
    · exact h.spoilFailed

end Sys2Proof.Machine
end

section
/-! SUPPORT. What the control instructions, bobbins, remote accesses, rings and collectives keep. -/

set_option Elab.async false

namespace Sys2Proof.Machine

theorem Keeps.setQue {s₀ s : State} {fn q : Nat} {x : Que} (h : Keeps s₀ s) :
    Keeps s₀ (s.setQue fn q x) := h.same

theorem Keeps.queueError {s₀ s : State} {fn q : Nat} {st : Status} {src value : Nat} (h : Keeps s₀ s) :
    Keeps s₀ (s.queueError fn q st src value) := by
  unfold State.queueError
  split
  · exact h
  · exact (Keeps.ite h.setQue h.same).notice

theorem Keeps.postCpl {s₀ s : State} {fn q : Nat} {c : Cpl} {counted : Bool} {u : State} {r : Bool} (h : Keeps s₀ s)
    (e : s.postCpl fn q c counted = (u, r)) : Keeps s₀ u := by
  unfold State.postCpl at e
  split at e
  · cases e
    exact h
  · split at e
    · cases e
      exact h
    · split at e
      · cases e
        exact h.queueError
      · dsimp only at e
        cases e
        exact Keeps.ite (((h.hostWrite ‹_›).setQue).signal) ((h.hostWrite ‹_›).setQue)

theorem Keeps.tideComplete {s₀ s : State} {w : Nat} {c : TideCpl} (h : Keeps s₀ s) :
    Keeps s₀ (s.tideComplete w c) := by
  unfold State.tideComplete
  split
  · exact h
  · dsimp only
    split
    · split
      · exact h.postCpl ‹_›
      · exact Keeps.ite ((h.postCpl ‹_›).modWork) ((((h.postCpl ‹_›).modWork).modWork).noticeTenant)
    · exact Keeps.ite h.modWork h.modWork.modWork.noticeTenant

theorem KeepsOut.execHeldCompletionPost {s₀ : State} {work : Nat} {s : State} (h : Keeps s₀ s) :
    KeepsOut s₀ (execHeldCompletionPost work s) := by
  unfold Machine.execHeldCompletionPost
  refine .next ?_
  split
  · exact h
  · split
    · exact h
    · split
      · split
        · exact (h.postCpl ‹_›).modWork
        · exact h.postCpl ‹_›
      · exact h

theorem KeepsOut.execInterruptCoalesceTimer {s₀ : State} {fn q : Nat} {s : State} (h : Keeps s₀ s) :
    KeepsOut s₀ (execInterruptCoalesceTimer fn q s) := by
  unfold Machine.execInterruptCoalesceTimer
  refine .next ?_
  split
  · exact h
  · exact Keeps.ite h h.setQue.signal

theorem KeepsOut.execNop {s₀ : State} {p : Nat} {s : State} (h : Keeps s₀ s) :
    KeepsOut s₀ (execNop p s) := KeepsOut.issueRow h (fun _ _ hk => h.setHolm hk.step1)

theorem KeepsHolm.finish {s₀ : State} {h : Holm} {tidal : Bool} {opc : Nat} (hh : KeepsHolm s₀ h) :
    KeepsHolm s₀ (h.finish tidal opc) := KeepsHolm.ite hh.same hh.precise

theorem KeepsOut.execHalt {s₀ : State} {p : Nat} {s : State} (h : Keeps s₀ s) :
    KeepsOut s₀ (execHalt p s) := KeepsOut.issueRow h (fun _ _ hk => h.setHolm hk.finish)

theorem KeepsOut.execTide {s₀ : State} {p : Nat} {s : State} (h : Keeps s₀ s) :
    KeepsOut s₀ (execTide p s) := KeepsOut.issueRow h (fun _ _ hk => h.setHolm hk.finish)

theorem KeepsOut.execBr {s₀ : State} {p : Nat} {s : State} (h : Keeps s₀ s) :
    KeepsOut s₀ (execBr p s) := KeepsOut.issueRow h (fun _ _ hk => h.checked hk (fun _ => h.setHolm (KeepsHolm.ite hk.goTo hk.step1)))

theorem KeepsHolm.loopStep {s₀ : State} {h : Holm} {l : LoopReq} (hh : KeepsHolm s₀ h) :
    KeepsHolm s₀ (loopStep h l) := by
  unfold Machine.loopStep
  dsimp only
  split
  · exact hh.setG.step1
  · exact hh.setG.step1
  · exact hh.setG.step1
  · exact KeepsHolm.ite hh.setG.goTo hh.setG.step1

theorem KeepsOut.execLoopSet {s₀ : State} {p : Nat} {s : State} (h : Keeps s₀ s) :
    KeepsOut s₀ (execLoopSet p s) := KeepsOut.issueRow h (fun _ _ hk => h.checked hk (fun _ => h.setHolm hk.loopStep))

theorem KeepsOut.execLoopAdd {s₀ : State} {p : Nat} {s : State} (h : Keeps s₀ s) :
    KeepsOut s₀ (execLoopAdd p s) := KeepsOut.issueRow h (fun _ _ hk => h.checked hk (fun _ => h.setHolm hk.loopStep))

theorem KeepsOut.execLoopMul {s₀ : State} {p : Nat} {s : State} (h : Keeps s₀ s) :
    KeepsOut s₀ (execLoopMul p s) := KeepsOut.issueRow h (fun _ _ hk => h.checked hk (fun _ => h.setHolm hk.loopStep))

theorem KeepsOut.execLoopBack {s₀ : State} {p : Nat} {s : State} (h : Keeps s₀ s) :
    KeepsOut s₀ (execLoopBack p s) := KeepsOut.issueRow h (fun _ _ hk => h.checked hk (fun _ => h.setHolm hk.loopStep))

theorem KeepsHolm.arrive {s₀ : State} {h : Holm} {b omask : Nat} (hh : KeepsHolm s₀ h) :
    KeepsHolm s₀ (h.arrive b omask) := hh.same

theorem KeepsHolm.pastWait {s₀ : State} {h : Holm} {b : Nat} (hh : KeepsHolm s₀ h) :
    KeepsHolm s₀ (h.pastWait b) := hh.same

theorem Keeps.barWait {s₀ s : State} {p : Nat} {h : Holm} {b : Nat} (hs : Keeps s₀ s) (hh : KeepsHolm s₀ h) :
    Keeps s₀ (s.barWait p h b) := by
  unfold State.barWait
  split
  · exact hs.setHolm hh.precise
  · split
    · exact hs.setHolm hh.precise
    · exact hs.setHolm (KeepsHolm.ite hh.pastWait hh)

theorem KeepsOut.execBarArrive {s₀ : State} {p : Nat} {s : State} (h : Keeps s₀ s) :
    KeepsOut s₀ (execBarArrive p s) := KeepsOut.issueRow h (fun _ _ hk => h.checked hk (fun _ => h.setHolm hk.arrive.step1))

theorem KeepsOut.execBarWait {s₀ : State} {p : Nat} {s : State} (h : Keeps s₀ s) :
    KeepsOut s₀ (execBarWait p s) := KeepsOut.issueRow h (fun _ _ hk => h.checked hk (fun _ => h.barWait hk))

theorem KeepsOut.execBarArriveWait {s₀ s : State} {p : Nat} (h : Keeps s₀ s) : KeepsOut s₀ (execBarArriveWait p s) := by
  unfold Machine.execBarArriveWait
  refine .issueRow h fun k _ hk => h.checked hk fun r => ?_
  split
  · exact h.barWait hk
  · exact Keeps.barWait h hk.same

theorem KeepsOut.execBarrierArrivalEffect {s₀ : State} {p bar : Nat} {s : State} (h : Keeps s₀ s) :
    KeepsOut s₀ (execBarrierArrivalEffect p bar s) := by
  unfold Machine.execBarrierArrivalEffect
  refine KeepsOut.onHolm h (fun x0 hk => ?_)
  split
  · exact (h.setHolm hk.same).barArrive
  · exact h

theorem KeepsOut.execRng {s₀ : State} {p : Nat} {s : State} (h : Keeps s₀ s) :
    KeepsOut s₀ (execRng p s) := KeepsOut.issueRow h (fun _ _ hk => h.checked hk (fun _ => Keeps.ite h (Keeps.ite (h.setHolm hk.step1)
        (h.setHolm ((hk.enter rfl).step1)))))

theorem KeepsOut.execScoreboardRetire {s₀ : State} {p id : Nat} {s : State} (h : Keeps s₀ s) :
    KeepsOut s₀ (execScoreboardRetire p id s) := by
  unfold Machine.execScoreboardRetire
  refine KeepsOut.onHolm h (fun x0 hk => ?_)
  split
  · exact Keeps.ite (h.setHolm hk.retire) h
  · exact h

theorem KeepsOut.execDeclaredEntryRetire {s₀ : State} {p id : Nat} {s : State} (h : Keeps s₀ s) :
    KeepsOut s₀ (execDeclaredEntryRetire p id s) := by
  unfold Machine.execDeclaredEntryRetire
  refine KeepsOut.onHolm h (fun x0 hk => ?_)
  split
  · exact Keeps.ite (h.setHolm hk.retire) h
  · exact h

theorem Keeps.request {s₀ s : State} {r : NetReq} (h : Keeps s₀ s) :
    Keeps s₀ (s.request r) := h.same

theorem KeepsOut.execMsgSend {s₀ : State} {p : Nat} {s : State} (h : Keeps s₀ s) :
    KeepsOut s₀ (execMsgSend p s) := by
  unfold Machine.execMsgSend
  refine KeepsOut.issueRow h (fun _ _ hk => h.checked hk (fun x0 => ?_))
  dsimp only
  split
  · exact h.setHolm hk.precise
  · split
    · exact h
    · split
      · exact h.setHolm hk.launch.deferred
      · split
        · exact h.setHolm hk.precise
        · exact (h.setHolm hk.same).request

theorem KeepsOut.execMsgRecv {s₀ : State} {p : Nat} {s : State} (h : Keeps s₀ s) :
    KeepsOut s₀ (execMsgRecv p s) := by
  unfold Machine.execMsgRecv
  refine KeepsOut.issueRow h (fun _ _ hk => h.checked hk (fun x0 => ?_))
  dsimp only
  split
  · exact h
  · exact Keeps.ite h (h.setHolm hk.launch.putBytes.same)

theorem KeepsHolm.modChan {s₀ : State} {h : Holm} {c : Nat} {f : Chan → Chan} (hh : KeepsHolm s₀ h) :
    KeepsHolm s₀ (h.modChan c f) := hh.same

theorem KeepsHolm.readTiles {s₀ : State} {h : Holm} {c : Nat} (hh : KeepsHolm s₀ h) :
    KeepsHolm s₀ (h.readTiles c) := hh.same

theorem KeepsHolm.bobStep {s₀ : State} {h k' : Holm} (hh : KeepsHolm s₀ h)
    (e : h.bobStep = some k') : KeepsHolm s₀ k' := by
  unfold Holm.bobStep at e
  split at e
  · cases e
  · dsimp only at e
    split at e
    · split at e
      · cases e
      · cases e
        exact hh.same.setChan
    · cases e
      exact KeepsHolm.ite hh.same hh.same.modChan
    · split at e
      · cases e
        exact hh.same.modChan.retire
      · split at e
        · cases e
          exact hh.same.deferred
        · cases e
          exact hh.same.modChan
    · split at e
      · cases e
        exact hh.same.deferred
      · cases e
        exact hh.same.modChan
    · split at e
      · cases e
        exact hh.same.modChan
      · cases e

theorem KeepsHolm.bobPump {s₀ : State} {n : Nat} {h : Holm} (hh : KeepsHolm s₀ h) : KeepsHolm s₀ (Holm.bobPump n h) := by
  induction n generalizing h with
  | zero => exact hh
  | succ n ih =>
    unfold Holm.bobPump
    split
    · exact hh
    · split
      · exact hh
      · exact ih (hh.bobStep ‹_›)

theorem KeepsHolm.pump {s₀ : State} {h : Holm} (hh : KeepsHolm s₀ h) :
    KeepsHolm s₀ (h.pump) := hh.bobPump

theorem KeepsOut.execBobStart {s₀ : State} {p : Nat} {s : State} (h : Keeps s₀ s) :
    KeepsOut s₀ (execBobStart p s) := by
  unfold Machine.execBobStart
  refine KeepsOut.issueRow h (fun _ _ hk => h.checked hk (fun x0 => ?_))
  split
  · exact Keeps.ite h (h.setHolm hk.same.pump)
  · exact h

theorem KeepsOut.execBobStop {s₀ : State} {p : Nat} {s : State} (h : Keeps s₀ s) :
    KeepsOut s₀ (execBobStop p s) := by
  unfold Machine.execBobStop
  refine KeepsOut.issueRow h (fun _ _ hk => h.checked hk (fun x0 => ?_))
  split
  · exact Keeps.ite h (h.setHolm hk.same.pump)
  · exact h

theorem KeepsOut.execBobPost {s₀ : State} {p : Nat} {s : State} (h : Keeps s₀ s) :
    KeepsOut s₀ (execBobPost p s) := by
  unfold Machine.execBobPost
  refine KeepsOut.issueRow h (fun _ _ hk => h.checked hk (fun x0 => ?_))
  split
  · exact Keeps.ite h (h.setHolm hk.same.pump)
  · exact h

theorem KeepsOut.execBobRelease {s₀ : State} {p : Nat} {s : State} (h : Keeps s₀ s) :
    KeepsOut s₀ (execBobRelease p s) := by
  unfold Machine.execBobRelease
  refine KeepsOut.issueRow h (fun _ _ hk => h.checked hk (fun x0 => ?_))
  split
  · exact Keeps.ite h (h.setHolm hk.same.pump)
  · exact h

theorem KeepsOut.execKva {s₀ : State} {p : Nat} {s : State} (h : Keeps s₀ s) :
    KeepsOut s₀ (execKva p s) := by
  unfold Machine.execKva
  refine KeepsOut.issueRow h (fun _ _ hk => h.checked hk (fun x0 => ?_))
  dsimp only
  split
  · exact h.setHolm hk.precise
  · exact Keeps.ite (h.setHolm hk.precise) (Keeps.ite h (h.setHolm hk.same.pump))

theorem KeepsOut.execBobbinParamBlockRead {s₀ : State} {p ch : Nat} {s : State} (h : Keeps s₀ s) :
    KeepsOut s₀ (execBobbinParamBlockRead p ch s) := by
  unfold Machine.execBobbinParamBlockRead
  refine KeepsOut.onHolm h (fun x0 hk => ?_)
  dsimp only
  split
  · exact h
  · exact Keeps.ite h (Keeps.ite (h.setHolm hk.modChan.retire.deferred.same) (Keeps.ite (h.setHolm hk.modChan.retire.modChan.deferred)
      (h.setHolm hk.modChan.retire.modChan)))

theorem KeepsOut.prickRow {s₀ s : State} {p ch op : Nat} {f : Holm → Chan → Nat → State → State} (h : Keeps s₀ s)
    (hf : ∀ k c w, KeepsHolm s₀ k → Keeps s₀ (f k c w s)) : KeepsOut s₀ (prickRow p ch op s f) := by
  unfold Machine.prickRow
  refine .onHolm h fun k hk => ?_
  split
  · exact .ite (hf _ _ _ hk) h
  · exact h

theorem Keeps.emitMem {s₀ s : State} {p ch : Nat} {h : Holm} {c : Chan} {e : Emit} (hs : Keeps s₀ s) (hh : KeepsHolm s₀ h) :
    Keeps s₀ (s.emitMem p ch h c e) := by
  unfold State.emitMem
  dsimp only
  split
  · exact hs.setHolm hh.setChan
  · split
    · split
      · exact hs.setHolm hh.setChan
      · exact (hs.setHolm hh.putBytes.setChan).touch
    · split
      · exact hs.setHolm hh.same
      · split
        · exact hs.setHolm hh.setChan
        · exact ((hs.memWrite ‹_›).setHolm hh.setChan.readTiles).touch

theorem Keeps.emitNet {s₀ s : State} {p ch : Nat} {h : Holm} {c : Chan} {e : Emit} (hs : Keeps s₀ s) (hh : KeepsHolm s₀ h) :
    Keeps s₀ (s.emitNet p ch h c e) := by
  unfold State.emitNet
  dsimp only
  split
  · exact hs.setHolm hh.setChan
  · split
    · exact hs.setHolm hh.setChan
    · exact Keeps.ite hs (Keeps.ite (hs.setHolm hh.same) ((hs.setHolm (KeepsHolm.ite hh.setChan hh.setChan.readTiles)).request))

theorem KeepsOut.execPrickingEmit {s₀ : State} {p ch : Nat} {s : State} (h : Keeps s₀ s) :
    KeepsOut s₀ (execPrickingEmit p ch s) := by
  unfold Machine.execPrickingEmit
  refine KeepsOut.prickRow h (fun x0 x1 x2 hk => ?_)
  split
  · exact h
  · exact Keeps.ite (h.emitMem hk) (h.emitNet hk)

theorem KeepsOut.execPrickingAdd {s₀ : State} {p ch : Nat} {s : State} (h : Keeps s₀ s) :
    KeepsOut s₀ (execPrickingAdd p ch s) := KeepsOut.prickRow h (fun _ _ _ hk => h.setHolm hk.setChan)

theorem KeepsOut.execPrickingSeta {s₀ : State} {p ch : Nat} {s : State} (h : Keeps s₀ s) :
    KeepsOut s₀ (execPrickingSeta p ch s) := KeepsOut.prickRow h (fun _ _ _ hk => h.setHolm hk.setChan)

theorem KeepsOut.execPrickingSetl {s₀ : State} {p ch : Nat} {s : State} (h : Keeps s₀ s) :
    KeepsOut s₀ (execPrickingSetl p ch s) := KeepsOut.prickRow h (fun _ _ _ hk => h.setHolm hk.setChan)

theorem KeepsOut.execPrickingLoop {s₀ : State} {p ch : Nat} {s : State} (h : Keeps s₀ s) :
    KeepsOut s₀ (execPrickingLoop p ch s) := KeepsOut.prickRow h (fun _ _ _ hk => h.setHolm hk.setChan)

theorem KeepsOut.execCwait {s₀ : State} {p ch : Nat} {s : State} (h : Keeps s₀ s) :
    KeepsOut s₀ (execCwait p ch s) := KeepsOut.prickRow h (fun _ _ _ hk => Keeps.ite h (h.setHolm hk.setChan))

theorem KeepsOut.execPemit {s₀ : State} {p ch : Nat} {s : State} (h : Keeps s₀ s) :
    KeepsOut s₀ (execPemit p ch s) := KeepsOut.prickRow h (fun _ _ _ hk => Keeps.ite (h.setHolm hk.setChan) ((h.setHolm hk.setChan).same))

theorem KeepsOut.execPrickingEnd {s₀ : State} {p ch : Nat} {s : State} (h : Keeps s₀ s) :
    KeepsOut s₀ (execPrickingEnd p ch s) := KeepsOut.prickRow h (fun _ _ _ hk => h.setHolm hk.setChan.readTiles)

theorem KeepsOut.execTileLanded {s₀ : State} {p ch : Nat} {s : State} (h : Keeps s₀ s) :
    KeepsOut s₀ (execTileLanded p ch s) := by
  unfold Machine.execTileLanded
  refine KeepsOut.onHolm h (fun x0 hk => ?_)
  dsimp only
  split
  · exact Keeps.ite h (h.setHolm hk.setChan)
  · exact h

theorem KeepsOut.execTileDrained {s₀ : State} {p ch : Nat} {s : State} (h : Keeps s₀ s) :
    KeepsOut s₀ (execTileDrained p ch s) := by
  unfold Machine.execTileDrained
  refine KeepsOut.onHolm h (fun x0 hk => ?_)
  dsimp only
  split
  · exact Keeps.ite h (h.setHolm hk.setChan)
  · exact h

theorem KeepsOut.execChannelEnded {s₀ : State} {p ch : Nat} {s : State} (h : Keeps s₀ s) :
    KeepsOut s₀ (execChannelEnded p ch s) := KeepsOut.onHolm h (fun _ hk => Keeps.ite (h.setHolm hk.setChan.retire.pump) h)

theorem KeepsOut.execBobbinFault {s₀ : State} {p ch : Nat} {s : State} (h : Keeps s₀ s) :
    KeepsOut s₀ (execBobbinFault p ch s) := by
  unfold Machine.execBobbinFault
  refine KeepsOut.onHolm h (fun x0 hk => ?_)
  dsimp only
  split
  · exact h.setHolm hk.deferred
  · exact h

theorem Keeps.modReq {s₀ s : State} {i : Nat} {f : NetReq → NetReq} (h : Keeps s₀ s) :
    Keeps s₀ (s.modReq i f) := h.same

theorem Keeps.answerReq {s₀ s : State} {i : Nat} {st : Status} (h : Keeps s₀ s) :
    Keeps s₀ (s.answerReq i st) := h.same

theorem Keeps.staleDrop {s₀ s : State} {i : Nat} {r : NetReq} (h : Keeps s₀ s) :
    Keeps s₀ (s.staleDrop i r) := Keeps.ite h.answerReq (h.answerReq.modHolm (fun _ hk => hk.same))

theorem Keeps.serve {s₀ s0 : State} {i : Nat} {r : NetReq} (h : Keeps s₀ s0) :
    Keeps s₀ (s0.serve i r) := Keeps.ite h.wakeHolm.staleDrop (Keeps.ite h.wakeHolm.answerReq (Keeps.ite (Keeps.ite h.wakeHolm.answerReq
        (Keeps.ite h.wakeHolm.answerReq h.wakeHolm.modReq)) ((h.wakeHolm.setHolm h.wakeHolm.holm.putBytes).modReq)))

theorem Keeps.takeResponse {s₀ s : State} {r : NetReq} {st : Status} (h : Keeps s₀ s) : Keeps s₀ (s.takeResponse r st) := by
  unfold State.takeResponse
  extract_lets k k1 k2 bad
  have hk : KeepsHolm s₀ k := h.holm
  have hk1 : KeepsHolm s₀ k1 := hk.modChan
  have hk2 : KeepsHolm s₀ k2 := hk1.modChan
  exact .ite h (.ite (.ite h (h.setHolm hk.deferred)) (.ite (h.setHolm (.ite hk1.putBytes hk1)) (h.setHolm hk2.same)))

theorem KeepsOut.execRemoteAccessArrival {s₀ : State} {i : Nat} {s : State} (h : Keeps s₀ s) :
    KeepsOut s₀ (execRemoteAccessArrival i s) := by
  unfold Machine.execRemoteAccessArrival
  refine .next ?_
  split
  · exact Keeps.ite h h.serve
  · exact h

theorem KeepsOut.execRemoteResponseArrival {s₀ : State} {i : Nat} {s : State} (h : Keeps s₀ s) :
    KeepsOut s₀ (execRemoteResponseArrival i s) := by
  unfold Machine.execRemoteResponseArrival
  refine .next ?_
  split
  · split
    · exact Keeps.ite h h.same.takeResponse
    · exact h
  · exact h

theorem KeepsOut.execRemoteRequestHeld {s₀ : State} {i : Nat} {s : State} (h : Keeps s₀ s) :
    KeepsOut s₀ (execRemoteRequestHeld i s) := by
  unfold Machine.execRemoteRequestHeld
  refine .next ?_
  split
  · exact Keeps.ite h (h.modReq.modHolm (fun _ hk => hk.same))
  · exact h

theorem KeepsOut.execMsgArrival {s₀ : State} {i : Nat} {s : State} (h : Keeps s₀ s) :
    KeepsOut s₀ (execMsgArrival i s) := by
  unfold Machine.execMsgArrival
  refine .next ?_
  split
  · exact Keeps.ite h (Keeps.ite h.staleDrop (Keeps.ite h.answerReq h.same))
  · exact h

theorem KeepsOut.execMsgInboxEnter {s₀ : State} {i : Nat} {s : State} (h : Keeps s₀ s) :
    KeepsOut s₀ (execMsgInboxEnter i s) := by
  unfold Machine.execMsgInboxEnter
  refine .next ?_
  split
  · exact Keeps.ite h ((h.setHolm h.holm.same).answerReq)
  · exact h

theorem KeepsOut.execStaleRoleReissue {s₀ : State} {i : Nat} {s : State} (h : Keeps s₀ s) :
    KeepsOut s₀ (execStaleRoleReissue i s) := by
  unfold Machine.execStaleRoleReissue
  refine .next ?_
  split
  · split
    · exact h
    · split
      · exact h
      · exact Keeps.ite h h.modReq.modWork
  · exact h

theorem KeepsHolm.takeStaged {s₀ : State} {h : Holm} (hh : KeepsHolm s₀ h) : KeepsHolm s₀ h.takeStaged := by
  unfold Holm.takeStaged
  extract_lets g h1
  have k1 : KeepsHolm s₀ h1 := hh.same
  split
  · exact k1
  · exact KeepsHolm.same k1.setLagoon

theorem KeepsHolm.takeStage {s₀ : State} {h : Holm} {st : Stage} {img : Nat} (hh : KeepsHolm s₀ h) : KeepsHolm s₀ (h.takeStage st img) := by
  unfold Holm.takeStage
  extract_lets h1 h2
  have k1 : KeepsHolm s₀ h1 := hh.same
  have k2 : KeepsHolm s₀ h2 := k1.setLagoon
  exact .ite k2.same k2.same

theorem KeepsHolm.takeNewStage {s₀ : State} {h : Holm} {st : Stage} {img : Nat} (hh : KeepsHolm s₀ h) :
    KeepsHolm s₀ (h.takeNewStage st img) := hh.takeStage.same

theorem Keeps.loadLagoon {s₀ s : State} {p : Nat} (h : Keeps s₀ s) :
    Keeps s₀ (s.loadLagoon p) := by
  unfold State.loadLagoon
  dsimp only
  split
  · exact h
  · split
    · exact h.setHolm h.holm.same
    · split
      · exact h.setHolm h.holm.putBytes.same
      · exact (h.takeFree rfl).setHolm h.holm.same

theorem Keeps.refillLine {s₀ s : State} {p line : Nat} (h : Keeps s₀ s) :
    Keeps s₀ (s.refillLine p line) := by
  unfold State.refillLine
  dsimp only
  split
  · exact h.setHolm h.holm.same
  · split
    · exact h.setHolm h.holm.putBytes
    · exact (h.takeFree rfl).setHolm h.holm.same

theorem Keeps.swapRepairs {s₀ s : State} {p : Nat} (h : Keeps s₀ s) :
    Keeps s₀ (s.swapRepairs p) := by
  unfold State.swapRepairs
  dsimp only
  split
  · exact h
  · refine Keeps.foldl (h.setHolm h.holm.same) fun t a ht => ?_
    exact (Keeps.ite ht.refillLine ht).log

theorem Keeps.swapSettings {s₀ s : State} {p : Nat} (h : Keeps s₀ s) :
    Keeps s₀ (s.swapSettings p) := (h.modHolm (fun _ hk => hk.takeStaged)).swapRepairs

theorem KeepsHolm.reset (s₀ : State) (st : HState) : KeepsHolm s₀ (Holm.reset st) := fun _ => Holm.reset_wf st

theorem Keeps.fuseOut {s₀ s : State} {p : Nat} (h : Keeps s₀ s) : Keeps s₀ (s.fuseOut p) := by
  unfold State.fuseOut
  extract_lets k
  have hk : KeepsHolm s₀ { Holm.reset .fusedOut with fmax := k.fmax, ceCount := k.ceCount, staleCount := k.staleCount, record := k.record
      } :=
    (KeepsHolm.reset s₀ .fusedOut).same
  exact (h.setHolm hk).same

theorem Keeps.remapTo {s₀ s : State} {lg phys : Nat} {valid : Bool} (h : Keeps s₀ s) (hp : phys < 68) :
    Keeps s₀ (s.remapTo lg phys valid) :=
  h.withRemap fun hr => AMap.forall_set (P := fun r : Remap => r.phys < 68 ∧ r.epoch < 2 ^ 24) (h.remap hr) ⟨hp, Nat.mod_lt _ (by decide)⟩

theorem Keeps.substitute {s₀ s : State} {lg p spare : Nat} {planned : Bool} (h : Keeps s₀ s) :
    Keeps s₀ (s.substitute lg p spare planned) := by
  unfold State.substitute
  dsimp only
  refine ((h.setHolm ?_).fuseOut).remapTo (Nat.mod_lt _ (by decide))
  split
  · exact fun h0 => Mem.wfFrom_filter _ (h.holm h0)
  · exact fun _ => Mem.wf_nil

theorem Keeps.retireHolms {s₀ s : State} {ps : List Nat} (h : Keeps s₀ s) : Keeps s₀ (s.retireHolms ps) := by
  refine h.foldl fun t p ht => ?_
  split
  · exact ht
  · split
    · exact ht.fuseOut
    · split
      · exact ht.substitute
      · exact ht.fuseOut.remapTo (by decide)

theorem Keeps.startHolm {s₀ s : State} {w lg : Nat} {many : Bool} (h : Keeps s₀ s) : Keeps s₀ (s.startHolm w lg many) := by
  unfold State.startHolm
  extract_lets oneShot s'
  have h' : Keeps s₀ s' := .ite h.retireHolms h
  clear_value s'
  split
  · split
    · rename_i wk p _ _ st i part _ _
      extract_lets s0 s1 s2 c k s3
      have h0 : Keeps s₀ s0 := h'.wakeHolm
      have h1 : Keeps s₀ s1 := .ite h0 (h0.swapSettings.modHolm fun _ hk => hk.takeStage)
      have h2 : Keeps s₀ s2 := h1.loadLagoon
      have hc : KeepsHolm s₀ c := h2.holm.clearOpen
      have hk : KeepsHolm s₀ k := hc.same
      have h3 : Keeps s₀ s3 := (h2.setHolm hk).modWork
      exact .ite h' h3.same
    · exact h'
  · exact h'

theorem Keeps.beginWork {s₀ s : State} {w : Nat} (h : Keeps s₀ s) :
    Keeps s₀ (s.beginWork w) := by
  unfold State.beginWork
  split
  · exact h
  · exact h.same

theorem Keeps.stopHolm {s₀ s : State} {p : Nat} {hs : HState} (h : Keeps s₀ s) : Keeps s₀ (s.stopHolm p hs) := by
  unfold State.stopHolm
  dsimp only
  have h1 : Keeps s₀ (s.takeFree 1).2 := h.takeFree rfl
  have hspoil (l : List (Nat × Nat)) (tag : Nat) :
      KeepsHolm s₀ (l.foldl (fun k (a, b) => k.spoil (8 * a) (8 * b + 7) tag) ((s.takeFree 1).2.holm p)) :=
    h1.holm.foldl fun _ _ ht => ht.spoil
  have hset (k : Holm) (hk : KeepsHolm s₀ k) : Keeps s₀ ((s.takeFree 1).2.setHolm p k) := h1.setHolm hk
  refine (hset _ ?_).same
  exact (hspoil _ _).same

theorem Keeps.leaveHolm {s₀ s : State} {p : Nat} {hs : HState} (h : Keeps s₀ s) : Keeps s₀ (s.leaveHolm p hs) := by
  have h1 : Keeps s₀ (s.takeFree 1).2 := h.takeFree rfl
  unfold State.leaveHolm
  dsimp only
  exact h1.stopHolm.modHolm fun _ hk => hk.same

theorem Keeps.commitAppends {s₀ s : State} {w t : Nat} {ok : Bool} {u : State} {r : Bool} (h : Keeps s₀ s)
    (e : s.commitAppends w t ok = (u, r)) : Keeps s₀ u := by
  unfold State.commitAppends at e
  split at e
  · cases e
    exact h
  · cases e
    exact h.putKv ((KeepsKv.kvCtx h ‹_›).commitUnit)

theorem Keeps.finishOneShot {s₀ s : State} {w : Nat} (h : Keeps s₀ s) : Keeps s₀ (s.finishOneShot w) := by
  unfold State.finishOneShot
  split
  · exact h
  · rename_i wk _
    dsimp only
    have h1 : Keeps s₀ (s.commitAppends w wk.tenant (State.commits (s.endStatus w wk))).1 := h.commitAppends rfl
    cases wk.cmd with
    | none => exact h1.same
    | some id => exact h1.same

theorem Keeps.settle {s₀ s : State} {w : Nat} (h : Keeps s₀ s) :
    Keeps s₀ (s.settle w) := by
  unfold State.settle
  split
  · exact h
  · exact Keeps.ite h (Keeps.ite h.modWork h.finishOneShot)

theorem Keeps.modRing {s₀ s : State} {i : Nat} {f : Ring → Ring} (h : Keeps s₀ s) :
    Keeps s₀ (s.modRing i f) := h.same

theorem Keeps.ringAbort {s₀ s : State} {r : Ring} {idx : Nat} {st : Status} {failed : Nat} (h : Keeps s₀ s) :
    Keeps s₀ (s.ringAbort r idx st failed) := by
  unfold State.ringAbort
  dsimp only
  split
  · exact h
  · exact h.sendAbort

theorem Keeps.stopRing {s₀ s : State} {i : Nat} {st : Status} {failed : Nat} {from_ : Option Nat} (h : Keeps s₀ s) :
    Keeps s₀ (s.stopRing i st failed from_) := by
  unfold State.stopRing
  split
  · exact h
  · split
    · exact h
    · refine Keeps.foldl h.modRing fun t a ht => ?_
      exact ht.ringAbort

theorem Keeps.failWork {s₀ s : State} {w : Nat} {st : Status} (h : Keeps s₀ s) :
    Keeps s₀ (s.failWork w st) := by
  unfold State.failWork
  split
  · exact h
  · split
    · exact h
    · dsimp only
      refine Keeps.settle ?_
      refine Keeps.foldl ?_ fun t a ht => ?_
      · refine Keeps.foldl ?_ fun t a ht => ?_
        · refine Keeps.foldl h.modWork fun t a ht => ?_
          exact ht.leaveHolm
        · exact Keeps.ite ht.stopRing ht
      · exact Keeps.ite ht.collFail ht

theorem Keeps.failRing {s₀ s : State} {i : Nat} {st : Status} (h : Keeps s₀ s) :
    Keeps s₀ (s.failRing i st) := by
  unfold State.failRing
  split
  · exact h
  · exact Keeps.ite h h.stopRing.failWork

theorem Keeps.writeSlot {s₀ s : State} {r : Ring} {slot : Nat} {bs : List Nat} {u : State} (h : Keeps s₀ s)
    (e : s.writeSlot r slot bs = .ok u) : Keeps s₀ u := by
  unfold State.writeSlot at e
  dsimp only at e
  split at e
  · split at e
    · cases e
    · exact (h.memWrite ‹_›).memWrite e
  · cases e
    refine Keeps.foldl h fun t a ht => ?_
    exact ht.modHolm (fun _ hk => hk.putBytes.putBytes)

theorem Keeps.keepLanding {s₀ s : State} {r : Ring} {slot : Nat} {bs : List Nat} (h : Keeps s₀ s) :
    Keeps s₀ (s.keepLanding r slot bs) := Keeps.ite h h.modWork

theorem Keeps.shuttleDone {s₀ s : State} {r : Ring} {slot : Nat} (h : Keeps s₀ s) :
    Keeps s₀ (s.shuttleDone r slot) := h.barArrive

theorem Keeps.sendToNext {s₀ s : State} {i : Nat} {r : Ring} {off : Nat} {mcast : Bool} {bs : List Nat} {q : Nat} (h : Keeps s₀ s) :
    Keeps s₀ (s.sendToNext i r off mcast bs q) := by
  unfold State.sendToNext
  dsimp only
  split
  · exact h.failRing
  · split
    · exact h.failRing
    · exact ((h.writeXfer ‹_›).sendXfer ‹_›).modRing

theorem Keeps.sendBlock {s₀ s : State} {i : Nat} {own : Bool} (h : Keeps s₀ s) :
    Keeps s₀ (s.sendBlock i own) := by
  unfold State.sendBlock
  split
  · exact h
  · dsimp only
    split
    · exact h
    · split
      · exact h.failRing
      · exact h.modRing.sendToNext.shuttleDone

theorem Keeps.sendBack {s₀ s : State} {i : Nat} (h : Keeps s₀ s) :
    Keeps s₀ (s.sendBack i) := by
  unfold State.sendBack
  split
  · exact h
  · dsimp only
    split
    · exact h
    · split
      · exact h.failRing
      · exact h.modRing.sendToNext.shuttleDone

theorem Keeps.takeCredits {s₀ s : State} {i : Nat} {arrived : List Nat} (h : Keeps s₀ s) :
    Keeps s₀ (s.takeCredits i arrived) := h.same

theorem Keeps.landSlot {s₀ s : State} {port arch i : Nat} {r : Ring} {slot : Nat} {x : Xfer} (h : Keeps s₀ s) :
    Keeps s₀ (s.landSlot port arch i r slot x) := by
  unfold State.landSlot
  split
  · exact h.reply.failRing
  · split
    · exact h.reply
    · split
      · exact h.reply.failRing
      · split
        · exact h.reply
        · exact (((Keeps.ite ((((h.writeSlot ‹_›).keepLanding).modRing).shuttleDone) (((h.writeSlot
            ‹_›).keepLanding).modRing)).countLandings).reply).settle

theorem Keeps.landReturn {s₀ s : State} {port arch i : Nat} {r : Ring} {x : Xfer} (h : Keeps s₀ s) :
    Keeps s₀ (s.landReturn port arch i r x) := by
  unfold State.landReturn
  dsimp only
  split
  · exact h.reply
  · split
    · exact h.reply
    · exact ((((h.memWrite ‹_›).modRing).countLandings).reply).settle

theorem Keeps.landBlock {s₀ s : State} {port arch : Nat} {x : Xfer} (h : Keeps s₀ s) : Keeps s₀ (s.landBlock port arch x) := by
  unfold State.landBlock
  rcases s.checkXfer port x with ⟨st, rd⟩ | t
  · exact h.countKeyFail.reply
  · rcases hr : s.ringFor arch x t with _ | ⟨i, r, _ | k⟩
    · simpa only [State.byTarget, State.byRing, hr] using h.reply
    · simpa only [State.byTarget, State.byRing, hr] using h.landReturn
    · simpa only [State.byTarget, State.byRing, hr] using h.landSlot

theorem Keeps.fetchOrigin {s₀ s : State} {i : Nat} {lost : Bool} (h : Keeps s₀ s) :
    Keeps s₀ (s.fetchOrigin i lost) := by
  unfold State.fetchOrigin
  split
  · exact h
  · dsimp only
    split
    · exact h
    · split
      · exact h.failRing
      · split
        · exact h.failRing
        · split
          · exact h.failRing
          · exact ((((h.writeSlot ‹_›).touch).keepLanding).modRing).countLandings

theorem KeepsOut.execOriginBlockFetch {s₀ : State} {rid : Nat} {lost : Bool} {s : State} (h : Keeps s₀ s) :
    KeepsOut s₀ (execOriginBlockFetch rid lost s) := .next h.fetchOrigin

theorem KeepsOut.execShuttleBlockSend {s₀ : State} {rid : Nat} {arrived : List Nat} {s : State} (h : Keeps s₀ s) :
    KeepsOut s₀ (execShuttleBlockSend rid arrived s) := .next h.takeCredits.sendBlock

theorem KeepsOut.execShuttleBlockLanding {s₀ : State} {rid : Nat} {s : State} (h : Keeps s₀ s) :
    KeepsOut s₀ (execShuttleBlockLanding rid s) := by
  unfold Machine.execShuttleBlockLanding
  refine .next ?_
  split
  · exact h
  · exact h.same.landBlock

theorem KeepsOut.execShuttleForward {s₀ : State} {rid : Nat} {arrived : List Nat} {s : State} (h : Keeps s₀ s) :
    KeepsOut s₀ (execShuttleForward rid arrived s) := .next h.takeCredits.sendBlock.sendBack

theorem KeepsOut.execSlotCreditGrant {s₀ : State} {rid : Nat} {s : State} (h : Keeps s₀ s) :
    KeepsOut s₀ (execSlotCreditGrant rid s) := by
  unfold Machine.execSlotCreditGrant
  refine .next ?_
  split
  · exact h
  · exact Keeps.ite h h.modRing

theorem Keeps.popAbort {s₀ s : State} {kind : Nat} {r : Option Nat} {x : Xfer} {u : State} (h : Keeps s₀ s)
    (e : s.popAbort kind = some (r, x, u)) : Keeps s₀ u := by
  obtain ⟨i, -, e⟩ := List.exists_of_findSome?_eq_some e
  split at e
  · cases e
  · rename_i h1
    have hk := h.popArrived h1
    dsimp only at e
    split at e
    · cases e
      exact hk
    · cases e
      exact hk

theorem KeepsOut.execRingAbortReceive {s₀ s : State} (h : Keeps s₀ s) :
    KeepsOut s₀ (execRingAbortReceive s) := by
  unfold Machine.execRingAbortReceive
  refine .next ?_
  split
  · exact h
  · exact h.popAbort ‹_›
  · dsimp only
    split
    · exact h.popAbort ‹_›
    · exact ((h.popAbort ‹_›).stopRing).failWork

theorem KeepsOut.execRingFailure {s₀ : State} {rid status : Nat} {s : State} (h : Keeps s₀ s) :
    KeepsOut s₀ (execRingFailure rid status s) := by
  unfold Machine.execRingFailure
  refine .next ?_
  split
  · exact Keeps.ite h h.failRing
  · exact h

theorem Keeps.popPiece {s₀ s : State} {f : Nat → Piece → Bool} {r r₁ : Nat} {r₂ : Piece} {u : State} (h : Keeps s₀ s)
    (e : s.popPiece f = some (r, r₁, r₂, u)) : Keeps s₀ u := by
  unfold State.popPiece at e
  split at e
  · cases e
  · cases e
    exact h.same

theorem Keeps.takeData {s₀ s : State} {i : Nat} {c : Coll} {p : Piece} {es : List Nat} (h : Keeps s₀ s) :
    Keeps s₀ (s.takeData i c p es) := by
  unfold State.takeData
  split
  · exact h.collFail
  · split
    · exact h
    · dsimp only
      split
      · exact Keeps.ite h.collFail h.modColl
      · split
        · exact h.spoilOut.collFail
        · split
          · exact h.collFail
          · exact (h.putOut ‹_›).modColl

theorem KeepsOut.execCollectivePieceArrival {s₀ : State} {idx : List Nat} {s : State} (h : Keeps s₀ s) :
    KeepsOut s₀ (execCollectivePieceArrival idx s) := by
  unfold Machine.execCollectivePieceArrival
  refine .next ?_
  split
  · exact h
  · split
    · exact Keeps.ite h ((h.popPiece ‹_›).same)
    · split
      · exact h.popPiece ‹_›
      · exact Keeps.ite ((h.popPiece ‹_›).takeData) ((h.popPiece ‹_›).collFail)

theorem KeepsOut.execCollectorCombine {s₀ : State} {cid piece : Nat} {s : State} (h : Keeps s₀ s) :
    KeepsOut s₀ (execCollectorCombine cid piece s) := by
  unfold Machine.execCollectorCombine
  refine .next ?_
  split
  · exact h
  · split
    · exact h
    · dsimp only
      split
      · refine Keeps.pumpColl ?_
        refine Keeps.foldl h.modColl fun t a ht => ?_
        split
        · exact ht
        · exact Keeps.ite ht.landRows.giveCredits (Keeps.ite ht.collFail.giveCredits ht.modColl.giveCredits)
      · refine ((Keeps.combinePiece ?_).mergeAll).pumpColl
        refine Keeps.foldl h.modColl fun t a ht => ?_
        split
        · exact ht
        · exact Keeps.ite ht.landRows.giveCredits (Keeps.ite ht.collFail.giveCredits ht.modColl.giveCredits)

theorem KeepsOut.execCollectiveCreditReceive {s₀ s : State} (h : Keeps s₀ s) :
    KeepsOut s₀ (execCollectiveCreditReceive s) := by
  unfold Machine.execCollectiveCreditReceive
  refine .next ?_
  split
  · exact h
  · split
    · exact h.popPiece ‹_›
    · exact Keeps.ite ((h.popPiece ‹_›).collFail) (((h.popPiece ‹_›).modColl).pumpColl)

theorem KeepsOut.execAlltoallCountReceive {s₀ s : State} (h : Keeps s₀ s) :
    KeepsOut s₀ (execAlltoallCountReceive s) := by
  unfold Machine.execAlltoallCountReceive
  refine .next ?_
  split
  · exact h
  · split
    · exact h.popPiece ‹_›
    · exact Keeps.ite ((h.popPiece ‹_›).collFail) ((((((h.popPiece ‹_›).modColl).giveCredits).grantRows).ownRows).pumpColl)

theorem KeepsOut.execAlltoallGrantReceive {s₀ s : State} (h : Keeps s₀ s) :
    KeepsOut s₀ (execAlltoallGrantReceive s) := by
  unfold Machine.execAlltoallGrantReceive
  refine .next ?_
  split
  · exact h
  · split
    · exact h.popPiece ‹_›
    · exact Keeps.ite ((h.popPiece ‹_›).collFail) (((h.popPiece ‹_›).takeGrant).pumpColl)

theorem KeepsOut.execTransitForward {s₀ s : State} {slot : Nat} (h : Keeps s₀ s) : KeepsOut s₀ (execTransitForward slot s) := by
  refine .next ?_
  split
  · exact h
  · rename_i t _
    have h1 : Keeps s₀ { s with net := { s.net with transit := s.net.transit.del slot } } := h.same
    dsimp only
    split
    · exact h1.sendPieceOn ‹_›
    · exact h1

theorem KeepsOut.execMmaEmitChunk {s₀ : State} {cid row chunk : Nat} {s : State} (h : Keeps s₀ s) :
    KeepsOut s₀ (execMmaEmitChunk cid row chunk s) := by
  unfold Machine.execMmaEmitChunk
  refine .next ?_
  split
  · exact h
  · split
    · exact h
    · dsimp only
      split
      · exact h
      · exact Keeps.ite (h.setHolm h.holm.same) ((Keeps.ite (((h.setHolm h.holm.same).modColl).landOwn) (((h.setHolm
          h.holm.same).modColl).combinePiece)).pumpColl)

theorem KeepsOut.execCollectiveAbortReceive {s₀ s : State} (h : Keeps s₀ s) :
    KeepsOut s₀ (execCollectiveAbortReceive s) := by
  unfold Machine.execCollectiveAbortReceive
  refine .next ?_
  split
  · exact h
  · exact h.popAbort ‹_›
  · dsimp only
    split
    · split
      · exact h.popAbort ‹_›
      · split
        · refine Keeps.modColl ?_
          refine Keeps.foldl ((h.popAbort ‹_›).recordFail) fun t a ht => ?_
          exact ht.giveCredits
        · exact (h.popAbort ‹_›).recordFail
    · exact h.popAbort ‹_›

theorem KeepsOut.execCollectiveComplete {s₀ : State} {cid : Nat} {s : State} (h : Keeps s₀ s) :
    KeepsOut s₀ (execCollectiveComplete cid s) := by
  unfold Machine.execCollectiveComplete
  refine .next ?_
  split
  · exact h
  · exact Keeps.ite h.completeColl.settle h

end Sys2Proof.Machine
end

section
/-! SUPPORT. What work at the tiers, commit points, recovery, invocations and ports keep. -/

set_option Elab.async false

namespace Sys2Proof.Machine

theorem Keeps.argWrite {s₀ s : State} {t : Option Nat} {a : Nat} {bs : List Nat} {u : State} (h : Keeps s₀ s)
    (e : s.argWrite t a bs = .ok u) : Keeps s₀ u := by
  unfold State.argWrite at e
  split at e
  · split at e
    · cases e
      exact h.hostWrite ‹_›
    · cases e
  · exact h.memWrite e
  · cases e

theorem Keeps.spoilRange {s₀ s : State} {t : Option Nat} {a n : Nat} (h : Keeps s₀ s) :
    Keeps s₀ (s.spoilRange t a n) := by
  unfold State.spoilRange
  dsimp only
  refine Keeps.foldl (h.takeFree rfl) fun t a ht => ?_
  split
  · exact ht.argWrite ‹_›
  · exact ht

theorem Keeps.copyOp {s₀ s : State} {t src dst n : Nat} {u : State} {r : Status} (h : Keeps s₀ s)
    (e : s.copyOp t src dst n = (u, r)) : Keeps s₀ u := by
  unfold State.copyOp at e
  split at e
  · cases e
    exact h
  · split at e
    · cases e
      exact h.argWrite ‹_›
    · cases e
      exact Keeps.ite h.spoilRange h

theorem Keeps.gemmOp {s₀ s : State} {t : Nat} {g : Gemm} {u : State} {r : Status} (h : Keeps s₀ s)
    (e : s.gemmOp t g = (u, r)) : Keeps s₀ u := by
  unfold State.gemmOp at e
  dsimp only at e
  split at e
  · cases e
    exact h
  · cases e
    exact h
  · cases e
    exact h
  · split at e
    · cases e
      exact h.argWrite ‹_›
    · cases e
      exact h.spoilRange

theorem Keeps.attendOp {s₀ s : State} {t : Nat} {a : Attend} {u : State} {r : Status} (h : Keeps s₀ s)
    (e : s.attendOp t a = (u, r)) : Keeps s₀ u := by
  have hfree : Keeps s₀ ({ s with free := s.free + 65536 } : State) := h.same
  unfold State.attendOp at e
  split at e
  · cases e
    exact h
  · split at e
    · cases e
      exact h
    · split at e
      · cases e
        exact h
      · dsimp only at e
        split at e
        · cases e
          exact h
        · split at e
          · cases e
            exact h
          · cases e
            exact h
          · split at e
            · cases e
              exact h
            · split at e
              · cases e
                exact h
              · split at e
                · cases e
                  exact h.spoilRange
                · rename_i s1 e1
                  have h1 : Keeps s₀ s1 := hfree.argWrite e1
                  split at e
                  · cases e
                    exact h1.spoilRange
                  · cases e
                    exact h1.argWrite ‹_›

theorem KeepsMem.issue {s₀ : State} {m : MemState} {r tenant free : Nat} (hm : KeepsMem s₀ m) :
    KeepsMem s₀ (m.issue r tenant free) := hm.same

theorem KeepsMem.takePlace {s₀ : State} {m : MemState} {tier tenant free r : Nat} {m' : MemState} (hm : KeepsMem s₀ m)
    (e : m.takePlace tier tenant free = some (r, m')) : KeepsMem s₀ m' := by
  unfold MemState.takePlace at e
  split at e
  · obtain ⟨k, -, e⟩ := Option.map_eq_some_iff.mp e
    cases e
    exact hm.issue
  · split at e
    · cases e
    · cases e
      exact hm.withExtents fun hx => AMap.forall_set (P := fun x : Extent => x.mem.wf = true) hx rfl

theorem KeepsMem.dropPlace {s₀ : State} {m : MemState} {tier target : Nat} (hm : KeepsMem s₀ m) :
    KeepsMem s₀ (m.dropPlace tier target) := hm.same

theorem KeepsMem.writeUnit {s₀ : State} {p : Part} {m : MemState} {tier target k : Nat} {bs : List Nat} {free : Nat} {m' : MemState} (hm
    : KeepsMem s₀ m)
    (e : MemState.writeUnit p m tier target k bs free = .ok m') : KeepsMem s₀ m' := by
  unfold MemState.writeUnit at e
  split at e
  · cases e
    exact hm.hbmStore
  · exact hm.codecWrite e

theorem Keeps.memDo {s₀ s : State} {r : MemState × Status × List Nat} (h : Keeps s₀ s) (hr : KeepsMem s₀ r.1) : Keeps s₀ (s.memDo r) :=
  h.withMem hr.same

theorem Keeps.hbmReadReq {s₀ s : State} {a n : Nat} (h : Keeps s₀ s) : Keeps s₀ (s.hbmReadReq a n) := by
  have h1 : KeepsMem s₀ ((MemState.blocksOf a n).foldl (fun (m : MemState) b => m.settleBlock b) s.mem) :=
    h.memState.foldl fun _ _ hk => hk.settleBlock
  unfold State.hbmReadReq
  refine h.memDo ?_
  split
  · exact h.memState
  · dsimp only
    split
    · exact h1.countServed
    · exact h1

theorem Keeps.hbmWriteReq {s₀ s : State} {a : Nat} {bs : List Nat} (h : Keeps s₀ s) : Keeps s₀ (s.hbmWriteReq a bs) := by
  unfold State.hbmWriteReq
  refine h.memDo ?_
  split
  · exact h.memState
  · exact h.memState.hbmStore

theorem Keeps.wakeCodec {s₀ s : State} (h : Keeps s₀ s) :
    Keeps s₀ (s.wakeCodec) := h.same

theorem Keeps.codecReadReq {s₀ s : State} {e off n : Nat} (h : Keeps s₀ s) : Keeps s₀ (s.codecReadReq e off n) := by
  unfold State.codecReadReq
  dsimp only
  refine h.wakeCodec.memDo ?_
  split
  · exact h.memState
  · split
    · exact h.memState
    · exact h.memState

theorem Keeps.codecWriteReq {s₀ s : State} {e off : Nat} {bs : List Nat} (h : Keeps s₀ s) : Keeps s₀ (s.codecWriteReq e off bs) := by
  unfold State.codecWriteReq
  dsimp only
  refine h.wakeCodec.memDo ?_
  split
  · exact h.memState
  · split
    · exact (h.wakeCodec.memState.codecWrite ‹_›).same
    · exact h.memState

theorem Keeps.failElement {s₀ s : State} {e : Element} (h : Keeps s₀ s) :
    Keeps s₀ (s.failElement e) := by
  unfold State.failElement
  dsimp only
  split
  · exact Keeps.ite h (Keeps.ite h.same.masked h.same)
  · exact Keeps.ite h (Keeps.ite h.same.masked h.same)
  · exact Keeps.ite h (Keeps.ite h.same.masked h.same)
  · exact Keeps.ite h (Keeps.ite h.same.masked h.same)

theorem Keeps.scrubRow {s₀ s : State} {blk unit_ : Nat} (h : Keeps s₀ s) :
    Keeps s₀ (s.scrubRow blk unit_) := Keeps.ite h.same h.same.log

theorem KeepsMem.poisonSector {s₀ : State} {m : MemState} {z : Nat} (hm : KeepsMem s₀ m) : KeepsMem s₀ (State.poisonSector m z) := by
  refine hm.withExtents fun hx => ?_
  unfold State.poisonSector
  rw [List.forall_mem_map]
  intro e he
  dsimp only
  split
  · exact hx e he
  · exact hx e he

theorem Keeps.patrol {s₀ s : State} {dpa found : Nat} (h : Keeps s₀ s) :
    Keeps s₀ (s.patrol dpa found) := by
  unfold State.patrol
  split
  · exact Keeps.ite h.same.scrubRow (Keeps.ite (h.withMem h.memState.same.settleBlock) h)
  · exact Keeps.ite h.same.scrubRow (Keeps.ite (h.withMem h.memState.poisonSector) h)
  · exact h

theorem Keeps.balanceNotice {s₀ s : State} {pc load done : Nat} {pattern none_ : Bool} (h : Keeps s₀ s) :
    Keeps s₀ (s.balanceNotice pc load done pattern none_) := h.notice

theorem Keeps.balanceWindow {s₀ s : State} (h : Keeps s₀ s) :
    Keeps s₀ (s.balanceWindow) := Keeps.ite h.same h.same.balanceNotice

theorem Keeps.modPage {s₀ s : State} {t page : Nat} {f : Trn → Trn} (h : Keeps s₀ s) :
    Keeps s₀ (s.modPage t page f) := h.same

theorem Keeps.rekey {s₀ s : State} {r : Nat} (h : Keeps s₀ s) :
    Keeps s₀ (s.rekey r) := by
  unfold State.rekey
  split
  · exact h
  · dsimp only
    split
    · exact h
    · split
      · exact h.balanceNotice
      · split
        · exact h.balanceNotice
        · exact ((h.withMem ((h.memState.takePlace ‹_›).same)).modPage).balanceNotice

theorem Keeps.swapMove {s₀ s : State} {v : Move} (h : Keeps s₀ s) :
    Keeps s₀ (s.swapMove v) := h.same

theorem Keeps.dropMove {s₀ s : State} {v : Move} (h : Keeps s₀ s) :
    Keeps s₀ (s.dropMove v) := h.same

theorem Keeps.failMoves {s₀ s : State} {v : Move} {st : Status} (h : Keeps s₀ s) :
    Keeps s₀ (s.failMoves v st) := by
  unfold State.failMoves
  dsimp only
  split
  · refine Keeps.endCmd ?_
    refine Keeps.foldl h fun t a ht => ?_
    exact ht.dropMove
  · refine Keeps.foldl h fun t a ht => ?_
    exact ht.dropMove

theorem Keeps.swapMoves {s₀ s : State} {t tide now : Nat} (h : Keeps s₀ s) :
    Keeps s₀ (s.swapMoves t tide now) := by
  unfold State.swapMoves
  dsimp only
  refine Keeps.foldl ?_ fun t a ht => ?_
  · refine Keeps.foldl h fun t a ht => ?_
    exact ht.swapMove
  · exact ht.endCmd

theorem Keeps.copyUnit {s₀ s : State} {i : Nat} (h : Keeps s₀ s) :
    Keeps s₀ (s.copyUnit i) := by
  unfold State.copyUnit
  split
  · exact h
  · split
    · exact h
    · split
      · exact h.failMoves
      · split
        · exact h.failMoves
        · exact Keeps.ite ((h.withMem ((h.memState.writeUnit ‹_›).same)).swapMoves) (h.withMem ((h.memState.writeUnit ‹_›).same))

theorem Keeps.compact {s₀ s : State} {seg : Nat} (h : Keeps s₀ s) : Keeps s₀ (s.compact seg) := by
  have hset (m : MemState) (e k : Nat) (u : UnitEntry) (hm : KeepsMem s₀ m) :
      KeepsMem s₀ { m with extents := m.extents.modify e fun x => { x with units := x.units.set k u } } :=
    hm.withExtents fun hx => AMap.forall_modify (P := fun x : Extent => x.mem.wf = true)
      (f := fun x => { x with units := x.units.set k u }) hx fun _ hv => hv
  unfold State.compact
  split
  · exact h
  · split
    · exact h
    · refine h.withMem (h.memState.foldl fun m a hm => ?_)
      dsimp only
      split
      · exact hm
      · exact (hset _ _ _ _ (hm.takeStored ‹_›)).dropStored

theorem Keeps.zeroNext {s₀ s : State} {i : Nat} (h : Keeps s₀ s) : Keeps s₀ (s.zeroNext i) := by
  have hdel (m : MemState) (k : Nat) (hm : KeepsMem s₀ m) : KeepsMem s₀ { m with extents := m.extents.del k } :=
    hm.withExtents fun hx e he => hx e (AMap.mem_of_mem_del he)
  have hfresh (m : MemState) (f : AMap (Bool × Nat)) (p : List Nat) (hm : KeepsMem s₀ m) :
      Keeps s₀ { s with mem := { m with fresh := f, poisoned := p } } :=
    h.withMem hm.same
  have hm (z : List Zeroing) : KeepsMem s₀ { s.mem with zeroing := z } := h.memState.same
  unfold State.zeroNext
  split
  · exact h
  · dsimp only
    generalize List.replicate regionSize 0 = zeros
    split
    · exact hfresh _ _ _ (hm _).hbmWriteBytes
    · split
      · exact h.withMem (hm _)
      · exact h.withMem (hdel _ _ ((hm _).foldl fun _ _ hk => hk.dropStored))

theorem Keeps.setEntry {s₀ s : State} {t page : Nat} {e : Trn} (h : Keeps s₀ s) :
    Keeps s₀ (s.setEntry t page e) := h.same

theorem Keeps.foldE {s₀ : State} {α : Type} {f : Except Status State → α → Except Status State} {l : List α} {acc : Except Status State}
    {u : State} (hacc : ∀ s, acc = .ok s → Keeps s₀ s)
    (hf : ∀ b a, (∀ s, b = .ok s → Keeps s₀ s) → ∀ s, f b a = .ok s → Keeps s₀ s) (e : l.foldl f acc = .ok u) : Keeps s₀ u := by
  induction l generalizing acc with
  | nil => exact hacc u e
  | cons a l ih => exact ih (hf acc a hacc) e

theorem Keeps.regionAlloc {s₀ s : State} {t tier pages a : Nat} {u : State} (h : Keeps s₀ s)
    (e : s.regionAlloc t tier pages a = .ok u) : Keeps s₀ u := by
  unfold State.regionAlloc at e
  split at e
  · cases e
  · cases e
  · split at e
    · cases e
    · split at e
      · cases e
      · refine Keeps.foldE (fun s1 e1 => ?_) (fun b i hb s1 e1 => ?_) e
        · cases e1
          exact .ite h h.wakeCodec
        · split at e1
          · cases e1
          · rename_i s2
            have h2 : Keeps s₀ s2 := hb s2 rfl
            split at e1
            · cases e1
            · rename_i e3
              cases e1
              exact Keeps.setEntry (h2.withMem (h2.memState.takePlace e3))

theorem Keeps.freePage {s₀ s : State} {t page : Nat} {u : State} (h : Keeps s₀ s)
    (e : s.freePage t page = .ok u) : Keeps s₀ u := by
  unfold State.freePage at e
  split at e
  · cases e
  · dsimp only at e
    split at e
    · cases e
    · split at e
      · cases e
        exact h.same
      · split at e
        · cases e
        · cases e
          have h1 : Keeps s₀ (List.foldl (fun s v => s.failMoves v Status.limit) s   (List.filter (fun v => v.tenant == t && v.page ==
              page) s.mem.moves)) := by
            refine Keeps.foldl h fun t a ht => ?_
            exact ht.failMoves
          exact h1.same

theorem Keeps.regionFree {s₀ s : State} {t pages a : Nat} {u : State} (h : Keeps s₀ s)
    (e : s.regionFree t pages a = .ok u) : Keeps s₀ u := by
  unfold State.regionFree at e
  split at e
  · cases e
  · dsimp only at e
    split at e
    · cases e
    · split at e
      · cases e
      · cases e
        refine Keeps.foldl h fun t a ht => ?_
        split
        · exact ht.freePage ‹_›
        · exact ht

theorem Keeps.mapPages {s₀ s : State} {t : Nat} {write : Bool} {pages src tgt : Nat} {u : State} (h : Keeps s₀ s)
    (e : s.mapPages t write pages src tgt = .ok u) : Keeps s₀ u := by
  unfold State.mapPages at e
  split at e
  · split at e
    · cases e
    · split at e
      · cases e
      · cases e
        refine Keeps.foldl h fun t a ht => ?_
        dsimp only
        split
        · exact ht.setEntry
        · exact ht
  · cases e

theorem Keeps.mapDpa {s₀ s : State} {t pages dpa tgt : Nat} {u : State} (h : Keeps s₀ s)
    (e : s.mapDpa t pages dpa tgt = .ok u) : Keeps s₀ u := by
  unfold State.mapDpa at e
  split at e
  · cases e
  · split at e
    · cases e
    · dsimp only at e
      split at e
      · cases e
      · split at e
        · cases e
        · split at e
          · cases e
          · cases e
            refine Keeps.foldl h fun t a ht => ?_
            exact ht.same.setEntry

theorem Keeps.setLock {s₀ s : State} {t a n : Nat} {on : Bool} (h : Keeps s₀ s) :
    Keeps s₀ (s.setLock t a n on) := by
  unfold State.setLock
  refine Keeps.foldl h fun t a ht => ?_
  exact ht.modPage

theorem KeepsOut.execHbmRead {s₀ : State} {dpa n : Nat} {s : State} (h : Keeps s₀ s) :
    KeepsOut s₀ (execHbmRead dpa n s) := KeepsOut.onLive h h.hbmReadReq

theorem KeepsOut.execHbmWrite {s₀ : State} {dpa : Nat} {data : List Nat} {s : State} (h : Keeps s₀ s) :
    KeepsOut s₀ (execHbmWrite dpa data s) := KeepsOut.onLive h h.hbmWriteReq

theorem KeepsOut.execCodecRead {s₀ : State} {extent off n : Nat} {s : State} (h : Keeps s₀ s) :
    KeepsOut s₀ (execCodecRead extent off n s) := KeepsOut.onLive h h.codecReadReq

theorem KeepsOut.execCodecRewrite {s₀ : State} {extent off : Nat} {data : List Nat} {s : State} (h : Keeps s₀ s) :
    KeepsOut s₀ (execCodecRewrite extent off data s) := KeepsOut.onLive h h.codecWriteReq

theorem KeepsOut.execElementFailureDeclare {s₀ : State} {e : Element} {s : State} (h : Keeps s₀ s) :
    KeepsOut s₀ (execElementFailureDeclare e s) := KeepsOut.onLive h h.failElement

theorem KeepsOut.execPatrolScrub {s₀ : State} {dpa found : Nat} {s : State} (h : Keeps s₀ s) :
    KeepsOut s₀ (execPatrolScrub dpa found s) := KeepsOut.onLive h h.patrol

theorem KeepsOut.execBalanceWindow {s₀ s : State} (h : Keeps s₀ s) :
    KeepsOut s₀ (execBalanceWindow s) := KeepsOut.onLive h h.balanceWindow

theorem KeepsOut.execRegionRekey {s₀ : State} {region : Nat} {s : State} (h : Keeps s₀ s) :
    KeepsOut s₀ (execRegionRekey region s) := KeepsOut.onLive h h.rekey

theorem KeepsOut.execMigrationUnitCopy {s₀ : State} {i : Nat} {s : State} (h : Keeps s₀ s) :
    KeepsOut s₀ (execMigrationUnitCopy i s) := KeepsOut.onLive h h.copyUnit

theorem KeepsOut.execSegmentCompaction {s₀ : State} {seg : Nat} {s : State} (h : Keeps s₀ s) :
    KeepsOut s₀ (execSegmentCompaction seg s) := KeepsOut.onLive h h.compact

theorem KeepsOut.execRegionZeroing {s₀ s : State} {i : Nat} (h : Keeps s₀ s) : KeepsOut s₀ (execRegionZeroing i s) :=
  .onLive h (f := fun s => s.zeroNext i) h.zeroNext

theorem KeepsOut.execSlotTableSwap {s₀ : State} {ch : Nat} {table : BitVec 1024} {s : State} (h : Keeps s₀ s) :
    KeepsOut s₀ (execSlotTableSwap ch table s) := KeepsOut.onLive h (Keeps.ite h.same h)

theorem KeepsHolm.repartition {s₀ : State} {h : Holm} {leaves : Bool} {joins : Option Nat} (hh : KeepsHolm s₀ h) :
    KeepsHolm s₀ (h.repartition leaves joins) := by
  unfold Holm.repartition
  extract_lets h1 h2
  have k1 : KeepsHolm s₀ h1 := hh.same
  have k2 : KeepsHolm s₀ h2 := .ite k1.dropLagoon k1
  split
  · exact k2
  · exact .ite k2 k2.same

theorem Keeps.applyPart {s₀ s : State} {c : PartChange} {tide : Nat} (h : Keeps s₀ s) : Keeps s₀ (s.applyPart c tide) := by
  unfold State.applyPart
  split
  · exact Keeps.endCmd h.same
  · split
    rename_i joins leaves _
    extract_lets s1 parts fresh tn pw s2
    have h1 : Keeps s₀ s1 := h.foldl fun t lg ht => by
      split
      · exact ht.modHolm fun _ hk => hk.repartition
      · exact ht
    have h2 : Keeps s₀ s2 := h1.same
    exact h2.bumpEpochs.setCause.endCmd

theorem Keeps.slackParts {s₀ s : State} {t tide now : Nat} (h : Keeps s₀ s) :
    Keeps s₀ (s.slackParts t tide now) := by
  unfold State.slackParts
  refine Keeps.foldl h fun t a ht => ?_
  exact Keeps.ite ht.applyPart ht

theorem Keeps.idleParts {s₀ s : State} (h : Keeps s₀ s) :
    Keeps s₀ (s.idleParts) := by
  unfold State.idleParts
  refine Keeps.foldl h fun t a ht => ?_
  exact Keeps.ite ht.applyPart ht

theorem Keeps.putImage {s₀ s : State} {t idx result : Nat} {u : State} (h : Keeps s₀ s)
    (e : s.putImage t idx result = .ok u) : Keeps s₀ u := by
  unfold State.putImage at e
  split at e
  · exact h.argWrite e
  · cases e
    exact h

theorem Keeps.seqEffect {s₀ s : State} {t : Nat} {op : SeqOp} {tide r : Nat} {u : State} (h : Keeps s₀ s)
    (e : s.seqEffect t op tide = .ok (r, u)) : Keeps s₀ u := by
  unfold State.seqEffect at e
  split at e
  · cases e
  · rename_i c e1
    split at e
    · cases e
    · rename_i idx c1 e2
      have h1 : Keeps s₀ (s.putKv c1) := h.putKv ((KeepsKv.kvCtx h e1).seqRun e2)
      dsimp only at e
      split at e
      · cases e
      · rename_i s2 e3
        cases e
        split at e3
        · exact h1.putImage e3
        · cases e3
          exact h1

theorem State.setLock_isth {s : State} {t a n : Nat} {on : Bool} : (s.setLock t a n on).isth = s.isth := by
  unfold State.setLock
  refine foldl_keeps (P := fun u : State => u.isth = s.isth) (fun u i hu => ?_) rfl
  exact hu

theorem Keeps.commitEffect {s₀ s : State} {t : Nat} {op : CommitOp} {tide r : Nat} {u : State} (h : Keeps s₀ s)
    (e : s.commitEffect t op tide = .ok (r, u)) : Keeps s₀ u := by
  unfold State.commitEffect at e
  dsimp only at e
  split at e
  · exact h.seqEffect e
  · split at e
    · cases e
      exact h.regionAlloc ‹_›
    · cases e
  · split at e
    · cases e
      exact h.regionFree ‹_›
    · cases e
  · split at e
    · cases e
      exact h.mapPages ‹_›
    · cases e
  · split at e
    · cases e
      exact h.mapDpa ‹_›
    · cases e
  · split at e
    · cases e
    · rename_i a n _
      cases e
      have h1 : Keeps s₀ (s.newHandle s.isth.models.keys).2 := h.newHandle (used := s.isth.models.keys) rfl
      have h2 : Keeps s₀ ((s.newHandle s.isth.models.keys).2.setLock t a n true) := h1.setLock
      exact h2.same (host := by rw [State.setLock_isth])
  · split at e
    · rename_i m _
      split at e
      · cases e
      · cases e
        have h1 : Keeps s₀ (s.setLock t m.addr m.bytes false) := h.setLock
        exact h1.same (host := by rw [State.setLock_isth])
    · cases e

theorem Keeps.commitCmd {s₀ s : State} {c : CommitCmd} {tide : Nat} (h : Keeps s₀ s) :
    Keeps s₀ (s.commitCmd c tide) := by
  unfold State.commitCmd
  split
  · exact (h.commitEffect ‹_›).endCmd
  · exact h.endCmd

theorem Keeps.commitPoint {s₀ s : State} {t tide now : Nat} (h : Keeps s₀ s) :
    Keeps s₀ (s.commitPoint t tide now) := by
  unfold State.commitPoint
  dsimp only
  refine Keeps.swapMoves ?_
  refine Keeps.foldl h.same fun t a ht => ?_
  exact ht.commitCmd

theorem Keeps.idleCommits {s₀ s : State} (h : Keeps s₀ s) :
    Keeps s₀ (s.idleCommits) := by
  unfold State.idleCommits
  refine Keeps.foldl h fun t a ht => ?_
  exact ht.commitPoint

theorem Keeps.idleChanges {s₀ s : State} (h : Keeps s₀ s) :
    Keeps s₀ (s.idleChanges) := Keeps.ite (Keeps.ite h h.idleParts) ((Keeps.ite h h.idleParts).idleCommits)

theorem Keeps.stopStage {s₀ s : State} {w stage : Nat} (h : Keeps s₀ s) :
    Keeps s₀ (s.stopStage w stage) := by
  unfold State.stopStage
  dsimp only
  refine Keeps.modWork ?_
  refine Keeps.foldl h fun t a ht => ?_
  exact Keeps.ite ht.stopHolm ht

theorem Keeps.stopPlansOn {s₀ s : State} {lg : Nat} (h : Keeps s₀ s) :
    Keeps s₀ (s.stopPlansOn lg) := h.same

theorem Keeps.loseRole {s₀ s : State} {lg p : Nat} (h : Keeps s₀ s) : Keeps s₀ (s.loseRole lg p) :=
  (h.fuseOut.remapTo (by decide)).stopPlansOn

theorem Keeps.reportFault {s₀ s : State} {w : Nat} {wk : Work} {lg p : Nat} {r : FaultRec} (h : Keeps s₀ s) :
    Keeps s₀ (s.reportFault w wk lg p r) := h.noticeTenant.modWork

theorem Keeps.endUnmasked {s₀ s : State} {w lg p : Nat} {r : FaultRec} {st : Status} (h : Keeps s₀ s) :
    Keeps s₀ (s.endUnmasked w lg p r st) := by
  unfold State.endUnmasked
  split
  · exact h
  · dsimp only
    refine (h.reportFault.foldl (fun _ _ ht => ((Keeps.modHolm ?_ (fun _ hk => hk.same)).log).reportFault)).failWork
    exact ht.stopHolm

theorem Keeps.beginRecovery {s₀ s : State} {c : Recovery} (h : Keeps s₀ s) :
    Keeps s₀ (s.beginRecovery c) := h.stopStage.same

theorem Keeps.holmFailed {s₀ s : State} {p : Nat} {i : Invocation} {r : FaultRec} (h : Keeps s₀ s) :
    Keeps s₀ (s.holmFailed p i r) := by
  unfold State.holmFailed
  split
  · exact Keeps.ite h.beginRecovery h.endUnmasked.substitute
  · exact h.endUnmasked.loseRole

theorem Keeps.rowFailed {s₀ s : State} {p : Nat} {i : Invocation} {r : FaultRec} {at_ : Nat × Nat} (h : Keeps s₀ s) :
    Keeps s₀ (s.rowFailed p i r at_) := by
  unfold State.rowFailed
  dsimp only
  split
  · exact Keeps.ite h.beginRecovery (((h.modHolm (fun _ hk => hk.same)).refillLine).endUnmasked)
  · exact h.holmFailed

theorem Keeps.holmFault {s₀ s : State} {p : Nat} {hw : Bool} (h : Keeps s₀ s) :
    Keeps s₀ (s.holmFault p hw) := by
  unfold State.holmFault
  dsimp only
  split
  · split
    · exact ((h.stopHolm.modHolm (fun _ hk => hk.same)).log).holmFailed
    · split
      · exact ((h.stopHolm.modHolm (fun _ hk => hk.same)).log).rowFailed
      · exact ((h.stopHolm.modHolm (fun _ hk => hk.same)).log).endUnmasked
  · exact h

theorem Keeps.staleRequests {s₀ s : State} {p : Nat} (h : Keeps s₀ s) :
    Keeps s₀ (s.staleRequests p) := h.same

theorem Keeps.swapHolm {s₀ s : State} {c : Recovery} (h : Keeps s₀ s) : Keeps s₀ (s.swapHolm c) := by
  unfold State.swapHolm
  split
  · have h1 : Keeps s₀ ((s.failWork c.work .aborted).loseRole c.lg c.phys) := h.failWork.loseRole
    exact h1.same
  · extract_lets inv s1 s2 f move
    have h1 : Keeps s₀ s1 := h.substitute.modHolm fun k hk => by
      clear_value inv
      cases inv with
      | none => exact hk
      | some i => exact hk.same
    have h2 : Keeps s₀ s2 := Keeps.staleRequests (h1.modHolm fun _ hk => hk.same)
    exact h2.same

theorem Keeps.recoverySlack {s₀ s : State} (h : Keeps s₀ s) :
    Keeps s₀ (s.recoverySlack) := by
  unfold State.recoverySlack
  refine Keeps.foldl h fun t a ht => ?_
  exact ht.swapHolm

theorem Keeps.rollback {s₀ s : State} {w stage : Nat} (h : Keeps s₀ s) :
    Keeps s₀ (s.rollback w stage) := h.same

theorem Keeps.restoreHolm {s₀ s0 : State} {w lg p : Nat} (h : Keeps s₀ s0) : Keeps s₀ (s0.restoreHolm w lg p) := by
  have hs : Keeps s₀ (s0.loadLagoon p) := h.loadLagoon
  unfold State.restoreHolm
  extract_lets s
  split
  · extract_lets h0 kept h1 part h2 s1
    have k0 : KeepsHolm s₀ h0 := hs.holm.clearOpen.foldl fun _ _ hk => hk.putBytes
    have k1 : KeepsHolm s₀ h1 := k0.foldl fun _ _ hk => hk.putBytes
    have k2 : KeepsHolm s₀ h2 := k1.same
    have hs1 : Keeps s₀ s1 := (hs.setHolm k2).modWork
    exact hs1.same
  · exact hs

theorem Keeps.replayStage {s₀ s : State} {c : Recovery} {kind unit_ spares : Nat} (h : Keeps s₀ s) :
    Keeps s₀ (s.replayStage c kind unit_ spares) := by
  unfold State.replayStage
  dsimp only
  refine (((Keeps.rollback ?_).modWork).masked).countLandings
  refine Keeps.foldl h.same fun t a ht => ?_
  exact ht.restoreHolm

theorem Keeps.stageReplay {s₀ s : State} (h : Keeps s₀ s) :
    Keeps s₀ (s.stageReplay) := by
  unfold State.stageReplay
  refine Keeps.foldl h fun t a ht => ?_
  exact ht.replayStage

theorem Keeps.rowRecovery {s₀ s : State} (h : Keeps s₀ s) :
    Keeps s₀ (s.rowRecovery) := by
  unfold State.rowRecovery
  split
  · exact h
  · split
    · exact h.replayStage
    · exact ((h.modHolm (fun _ hk => hk.same)).refillLine).replayStage

theorem Keeps.pulseLoss {s₀ s : State} {p : Nat} (h : Keeps s₀ s) :
    Keeps s₀ (s.pulseLoss p) := by
  unfold State.pulseLoss
  dsimp only
  split
  · exact h
  · split
    · exact Keeps.ite h h.same
    · exact h
  · exact h.fuseOut
  · exact h.holmFault
  · split
    · exact h.fuseOut
    · split
      · exact h.substitute.loadLagoon.staleRequests.masked
      · exact h.loseRole

theorem Keeps.spill {s₀ s : State} {p : Nat} {carried : List (Nat × Nat)} (h : Keeps s₀ s) :
    Keeps s₀ (s.spill p carried) := by
  unfold State.spill
  dsimp only
  split
  · exact h
  · exact Keeps.ite h h.same

theorem Keeps.breakWork {s₀ s : State} {w lg n : Nat} (h : Keeps s₀ s) :
    Keeps s₀ (s.breakWork w lg n) := h.modWork.failWork

theorem Keeps.logGraph {s₀ s : State} {edges : List (Nat × Nat)} {cyc ended : List Nat} (h : Keeps s₀ s) :
    Keeps s₀ (s.logGraph edges cyc ended) := by
  unfold State.logGraph
  extract_lets handle tenant s1
  have h1 : Keeps s₀ s1 := h.foldl fun _ _ ht => ht.log
  exact h1.same

theorem Keeps.watchdog {s₀ s : State} {p : Nat} (h : Keeps s₀ s) :
    Keeps s₀ (s.watchdog p) := by
  unfold State.watchdog
  split
  · exact h
  · dsimp only
    split
    · exact h
    · split
      · exact h.logGraph.breakWork
      · refine Keeps.foldl h.logGraph fun t a ht => ?_
        split
        · exact ht.breakWork
        · exact ht

theorem Keeps.startColl {s₀ s : State} {w stage ord part raw : Nat} (h : Keeps s₀ s) :
    Keeps s₀ (s.startColl w stage ord part raw) := by
  unfold State.startColl
  split
  · exact h
  · exact h.same.activateColl

theorem Keeps.nextOp {s₀ s : State} {w stage : Nat} {wk : Work} {st : Stage} {u : State} {r : Bool} (h : Keeps s₀ s)
    (e : s.nextOp w stage wk st = (u, r)) : Keeps s₀ u := by
  unfold State.nextOp at e
  dsimp only at e
  split at e
  · cases e
    exact h
  · split at e
    · split at e
      · cases e
        exact (h.copyOp rfl).modWork
      · cases e
        exact (h.copyOp rfl).failWork
    · split at e
      · split at e
        · cases e
          exact (h.gemmOp rfl).modWork
        · cases e
          exact (h.gemmOp rfl).failWork
      · split at e
        · cases e
          exact h.modWork
        · cases e
          exact h.failWork
    · split at e
      · split at e
        · cases e
          exact (h.attendOp rfl).modWork
        · cases e
          exact (h.attendOp rfl).failWork
      · split at e
        · cases e
          exact h.modWork
        · cases e
          exact h.failWork
    · split at e
      · cases e
        exact h.startColl
      · split at e
        · split at e
          · cases e
            exact h.modWork
          · cases e
            exact h.failWork
        · cases e
          exact h

theorem Keeps.runOps {s₀ s : State} {w stage n : Nat} (h : Keeps s₀ s) : Keeps s₀ (State.runOps w stage n s) := by
  induction n generalizing s with
  | zero => exact h
  | succ n ih =>
    unfold State.runOps
    split
    · exact h
    · split
      · exact h
      · split
        · exact ih (h.nextOp ‹_›)
        · exact h.nextOp ‹_›

theorem Keeps.returnHeld {s₀ s : State} {w stage : Nat} (h : Keeps s₀ s) :
    Keeps s₀ (s.returnHeld w stage) := Keeps.ite h h.same

theorem Keeps.endInvocation {s₀ s : State} {p : Nat} (h : Keeps s₀ s) :
    Keeps s₀ (s.endInvocation p) := by
  unfold State.endInvocation
  dsimp only
  split
  · split
    · exact h
    · split
      · exact h
      · exact Keeps.ite (Keeps.ite h h.runOps) ((((Keeps.ite h h.runOps).leaveHolm).returnHeld).settle)
  · exact h

theorem Keeps.wakeOne {s₀ s : State} {w : Nat} {v : Wave} {lg : Nat} (h : Keeps s₀ s) :
    Keeps s₀ (s.wakeOne w v lg) := by
  unfold State.wakeOne
  dsimp only
  split
  · exact h.startHolm
  · split
    · exact h
    · exact Keeps.ite (h.setHolm h.holm.same) h
  · split
    · exact h
    · exact Keeps.ite (h.setHolm h.holm.same) h

theorem Keeps.activateStarted {s₀ s : State} {w : Nat} {lgs : List Nat} (h : Keeps s₀ s) :
    Keeps s₀ (s.activateStarted w lgs) := by
  unfold State.activateStarted
  dsimp only
  refine Keeps.foldl h fun t a ht => ?_
  exact Keeps.ite ht.activateColl ht

theorem Keeps.releaseWave {s₀ s : State} {w : Nat} (h : Keeps s₀ s) :
    Keeps s₀ (s.releaseWave w) := by
  unfold State.releaseWave
  split
  · exact h
  · split
    · exact h
    · dsimp only
      split
      · refine (Keeps.activateStarted ?_).settle
        refine Keeps.foldl h.modWork fun t a ht => ?_
        exact ht.wakeOne
      · refine Keeps.foldl h.modWork fun t a ht => ?_
        exact ht.wakeOne

theorem Keeps.suspendTide {s₀ s : State} {w : Nat} (h : Keeps s₀ s) :
    Keeps s₀ (s.suspendTide w) := by
  unfold State.suspendTide
  split
  · exact h
  · split
    · exact h
    · exact Keeps.ite h (Keeps.ite h.modWork h.modWork.log.notice.noticeTenant)

theorem Keeps.suspendTides {s₀ s : State} (h : Keeps s₀ s) :
    Keeps s₀ (s.suspendTides) := by
  unfold State.suspendTides
  refine Keeps.foldl h fun t a ht => ?_
  exact ht.suspendTide

theorem Keeps.restoreTide {s₀ s : State} {w : Nat} (h : Keeps s₀ s) :
    Keeps s₀ (s.restoreTide w) := by
  unfold State.restoreTide
  split
  · exact h
  · exact Keeps.ite h h.modWork.notice.noticeTenant

theorem Keeps.setClock {s₀ s : State} {t : Nat} (h : Keeps s₀ s) :
    Keeps s₀ (s.setClock t) := h.same

theorem Keeps.settleStages {s₀ s : State} {stages : List Stage} {start : Bool} (h : Keeps s₀ s) :
    Keeps s₀ (s.settleStages stages start) := by
  unfold State.settleStages
  refine Keeps.foldl h fun t a ht => ?_
  refine Keeps.foldl ht fun t a ht => ?_
  split
  · exact ht.modHolm (fun _ hk => KeepsHolm.ite hk.takeNewStage hk.takeStage)
  · exact ht

theorem Keeps.rebind {s₀ s : State} {t arch : Nat} {stages : List Stage} (h : Keeps s₀ s) :
    Keeps s₀ (s.rebind t arch stages) := h.same

theorem Keeps.slackSwaps {s₀ s : State} {lgs : List Nat} {tenant tide now : Nat} (h : Keeps s₀ s) :
    Keeps s₀ (s.slackSwaps lgs tenant tide now) := by
  unfold State.slackSwaps
  dsimp only
  refine ((Keeps.retireHolms ?_).slackParts).commitPoint
  refine Keeps.foldl h fun t a ht => ?_
  exact ht.swapSettings

theorem Keeps.stopPlan {s₀ s : State} {w : Nat} {wk : Work} {last : Nat} (h : Keeps s₀ s) :
    Keeps s₀ (s.stopPlan w wk last) := h.bumpEpochs.setCause.modWork.same.endCmds.endCmds

theorem Keeps.firstSlack {s₀ s : State} {w : Nat} {wk : Work} (h : Keeps s₀ s) :
    Keeps s₀ (s.firstSlack w wk) := Keeps.ite h.setClock.modWork.endCmds.endCmds
        h.setClock.slackSwaps.settleStages.bumpEpochs.setCause.modWork.endCmds.beginWork.suspendTide

theorem Keeps.laterSlack {s₀ s : State} {w : Nat} {wk : Work} {close : Nat} (h : Keeps s₀ s) :
    Keeps s₀ (s.laterSlack w wk close) := by
  unfold State.laterSlack
  dsimp only
  split
  · exact ((((h.setClock.commitAppends rfl).same).tideComplete).slackSwaps).modWork
  · split
    · exact (((((h.setClock.commitAppends rfl).same).tideComplete).slackSwaps).modWork).stopPlan
    · refine (((Keeps.restoreTide ?_).beginWork).suspendTide).dividePower
      split
      · exact ((((h.setClock.commitAppends rfl).same).tideComplete).slackSwaps).modWork
      · exact ((((((((((h.setClock.commitAppends
          rfl).same).tideComplete).slackSwaps).modWork).settleStages).bumpEpochs).setCause).rebind).modWork).endCmds

theorem Keeps.slack {s₀ s : State} {w : Nat} (h : Keeps s₀ s) :
    Keeps s₀ (s.slack w) := by
  unfold State.slack
  split
  · exact h
  · split
    · exact h
    · split
      · exact Keeps.ite h.firstSlack h
      · split
        · exact h.laterSlack
        · exact h

theorem KeepsOut.execInvocationComplete {s₀ : State} {p : Nat} {s : State} (h : Keeps s₀ s) :
    KeepsOut s₀ (execInvocationComplete p s) := KeepsOut.onHolm h (fun _ _ => h.endInvocation)

theorem KeepsOut.execHolmFault {s₀ : State} {p : Nat} {hw : Bool} {s : State} (h : Keeps s₀ s) :
    KeepsOut s₀ (execHolmFault p hw s) := KeepsOut.onHolm h (fun _ _ => h.holmFault)

theorem KeepsOut.execSegmentWatchdog {s₀ : State} {p : Nat} {s : State} (h : Keeps s₀ s) :
    KeepsOut s₀ (execSegmentWatchdog p s) := KeepsOut.onHolm h (fun _ _ => h.watchdog)

theorem KeepsOut.execWaveRelease {s₀ : State} {work : Nat} {s : State} (h : Keeps s₀ s) :
    KeepsOut s₀ (execWaveRelease work s) := .next h.releaseWave

theorem KeepsOut.execSlack {s₀ : State} {work : Nat} {s : State} (h : Keeps s₀ s) :
    KeepsOut s₀ (execSlack work s) := .next h.slack

theorem KeepsOut.execCheckpointSpill {s₀ : State} {p : Nat} {carried : List (Nat × Nat)} {s : State} (h : Keeps s₀ s) :
    KeepsOut s₀ (execCheckpointSpill p carried s) := KeepsOut.onHolm h (fun _ _ => h.spill)

theorem KeepsOut.execRecoverySlack {s₀ s : State} (h : Keeps s₀ s) :
    KeepsOut s₀ (execRecoverySlack s) := .next h.recoverySlack

theorem KeepsOut.execStageReplay {s₀ s : State} (h : Keeps s₀ s) :
    KeepsOut s₀ (execStageReplay s) := .next h.stageReplay

theorem KeepsOut.execRowFaultRecovery {s₀ s : State} (h : Keeps s₀ s) :
    KeepsOut s₀ (execRowFaultRecovery s) := .next h.rowRecovery

theorem KeepsOut.execHolmPulseLoss {s₀ : State} {p : Nat} {s : State} (h : Keeps s₀ s) :
    KeepsOut s₀ (execHolmPulseLoss p s) := KeepsOut.onHolm h (fun _ _ => h.pulseLoss)

theorem Keeps.endSent {s₀ s : State} {t : Sent} {st : Status} (h : Keeps s₀ s) :
    Keeps s₀ (s.endSent t st) := by
  unfold State.endSent
  dsimp only
  split
  · split
    · refine (Keeps.modRing ?_).failRing
      split
      · split
        · exact h.same.modWork
        · exact h.same
      · exact h.same
    · split
      · refine (Keeps.modRing ?_).settle
        split
        · split
          · exact h.same.modWork
          · exact h.same
        · exact h.same
      · refine Keeps.modRing ?_
        split
        · split
          · exact h.same.modWork
          · exact h.same
        · exact h.same
  · split
    · refine Keeps.modColl ?_
      split
      · split
        · exact h.same.modWork
        · exact h.same
      · exact h.same
    · refine (Keeps.modColl ?_).collFail
      split
      · split
        · exact h.same.modWork
        · exact h.same
      · exact h.same
  · split
    · split
      · exact h.same.modWork
      · exact h.same
    · exact h.same

theorem Keeps.endAll {s₀ s : State} {ts : List Sent} {st : Status} (h : Keeps s₀ s) :
    Keeps s₀ (s.endAll ts st) := by
  unfold State.endAll
  refine Keeps.foldl h fun t a ht => ?_
  exact ht.endSent

theorem Keeps.modSent {s₀ s : State} {t u : Sent} (h : Keeps s₀ s) :
    Keeps s₀ (s.modSent t u) := h.same

theorem Keeps.placeSent {s₀ s : State} {t : Sent} {turn : Nat} (h : Keeps s₀ s) :
    Keeps s₀ (s.placeSent t turn) := by
  unfold State.placeSent
  split
  · exact h.same.leave
  · exact h.modSent

theorem Keeps.placeWaiting {s₀ s : State} (h : Keeps s₀ s) :
    Keeps s₀ (s.placeWaiting) := by
  unfold State.placeWaiting
  refine Keeps.foldl h fun t a ht => ?_
  exact ht.placeSent

theorem Keeps.dropWaiting {s₀ s : State} (h : Keeps s₀ s) :
    Keeps s₀ (s.dropWaiting) := h.endAll

theorem Keeps.wakeStrait {s₀ s : State} {i : Nat} (h : Keeps s₀ s) :
    Keeps s₀ (s.wakeStrait i) := h.same

theorem Keeps.dropLoans {s₀ s : State} (h : Keeps s₀ s) :
    Keeps s₀ (s.dropLoans) := h.same

theorem Keeps.followOffers {s₀ s : State} (h : Keeps s₀ s) :
    Keeps s₀ (s.followOffers) := h.same

theorem Keeps.cutPartials {s₀ s : State} {i : Nat} (h : Keeps s₀ s) :
    Keeps s₀ (s.cutPartials i) := by
  unfold State.cutPartials
  refine Keeps.modPort ?_
  refine Keeps.foldl h fun t a ht => ?_
  exact ht.cutOff

theorem Keeps.linkLog {s₀ s : State} {i event lane : Nat} (h : Keeps s₀ s) :
    Keeps s₀ (s.linkLog i event lane) := h.same

theorem Keeps.reroute {s₀ s : State} {i : Nat} (h : Keeps s₀ s) :
    Keeps s₀ (s.reroute i) := by
  unfold State.reroute
  dsimp only
  refine Keeps.dropWaiting ?_
  refine Keeps.foldl ?_ fun t a ht => ?_
  · split
    · refine Keeps.foldl h.modPort fun t a ht => ?_
      exact ht.leave
    · exact h.modPort
  · exact ht.modSent.placeSent

theorem Keeps.failPort {s₀ s : State} {i kind lane : Nat} {tell : List (List Nat)} (h : Keeps s₀ s) :
    Keeps s₀ (s.failPort i kind lane tell) := by
  unfold State.failPort
  extract_lets wasUp s1 s2 path
  have h2 : Keeps s₀ s2 := h.cutPartials.modPort.reroute.followOffers
  exact .ite (Keeps.masked h2.same) h2

theorem Keeps.portError {s₀ s : State} {i reason : Nat} (h : Keeps s₀ s) :
    Keeps s₀ (s.portError i reason) := h.failPort.linkLog

theorem Keeps.chartNotice {s₀ s : State} {i code : Nat} {p : Peer} (h : Keeps s₀ s) :
    Keeps s₀ (s.chartNotice i code p) := Keeps.ite h h.modPort.notice

theorem Keeps.peerNew {s₀ s : State} {i : Nat} {p : Peer} (h : Keeps s₀ s) :
    Keeps s₀ (s.peerNew i p) := by
  unfold State.peerNew
  dsimp only
  split
  · exact h
  · refine Keeps.foldl h.notice.noticeTenants fun t a ht => ?_
    exact ht.endAll

theorem Keeps.tryUp {s₀ s : State} {i : Nat} (h : Keeps s₀ s) :
    Keeps s₀ (s.tryUp i) := by
  unfold State.tryUp
  dsimp only
  split
  · exact Keeps.ite h.modPort.linkLog.placeWaiting h
  · exact h

theorem Keeps.takeHello {s₀ s : State} {i v : Nat} (h : Keeps s₀ s) :
    Keeps s₀ (s.takeHello i v) := Keeps.ite h.portError (Keeps.ite h.same.modPort (Keeps.ite h.same.modPort.chartNotice (Keeps.ite
        h.same.modPort.chartNotice (Keeps.ite h.same.modPort.modPort.peerNew.tryUp h.same.modPort))))

theorem Keeps.takeEnable {s₀ s : State} {i v : Nat} (h : Keeps s₀ s) :
    Keeps s₀ (s.takeEnable i v) := Keeps.ite (Keeps.ite h h.modPort.tryUp) (Keeps.ite h.cutPartials.modPort.reroute.followOffers h.modPort)

theorem Keeps.takeTime {s₀ s : State} {i v : Nat} (h : Keeps s₀ s) :
    Keeps s₀ (s.takeTime i v) := h.same

theorem Keeps.takeChart {s₀ s : State} {i kind : Nat} {f : State → Nat → State} (h : Keeps s₀ s)
    (hf : ∀ t v, Keeps s₀ t → Keeps s₀ (f t v)) : Keeps s₀ (s.takeChart i kind f) := by
  unfold State.takeChart
  split
  · exact h
  · dsimp only
    split
    · exact h.setPort.portError
    · split
      · exact hf _ _ h.setPort
      · exact hf _ _ h.setPort
      · exact hf _ _ h.setPort
      · exact h.setPort

theorem Keeps.takeInit {s₀ s : State} {i v : Nat} (h : Keeps s₀ s) :
    Keeps s₀ (s.takeInit i v) := Keeps.ite h.modPort h.modPort

theorem Keeps.laneLost {s₀ s : State} {i lane : Nat} (h : Keeps s₀ s) :
    Keeps s₀ (s.laneLost i lane) := Keeps.ite h (Keeps.ite (Keeps.ite h.modPort.failPort.linkLog.linkLog h) (Keeps.ite h.modPort
        h.modPort.failPort.linkLog))

theorem Keeps.takeLaneFail {s₀ s : State} {i v : Nat} (h : Keeps s₀ s) :
    Keeps s₀ (s.takeLaneFail i v) := Keeps.ite h h.modPort.failPort

theorem Keeps.takeLaneSwap {s₀ s : State} {i v : Nat} (h : Keeps s₀ s) :
    Keeps s₀ (s.takeLaneSwap i v) := h.same

theorem Keeps.remapLane {s₀ s : State} {i : Nat} (h : Keeps s₀ s) :
    Keeps s₀ (s.remapLane i) := by
  unfold State.remapLane
  split
  · exact h
  · exact Keeps.ite h.modPort h.same.linkLog

theorem Keeps.loseSignal {s₀ s : State} {i : Nat} (h : Keeps s₀ s) :
    Keeps s₀ (s.loseSignal i) := h.cutPartials.modPort.endAll.dropWaiting.followOffers

theorem Keeps.holdExpired {s₀ s : State} {i : Nat} (h : Keeps s₀ s) :
    Keeps s₀ (s.holdExpired i) := by
  unfold State.holdExpired
  dsimp only
  refine Keeps.dropWaiting ?_
  split
  · exact h.modPort.linkLog
  · exact h.modPort.linkLog.notice.noticeTenants

theorem Keeps.takeReply {s₀ s : State} {i : Nat} {x : Xfer} (h : Keeps s₀ s) :
    Keeps s₀ (s.takeReply i x) := by
  unfold State.takeReply
  dsimp only
  split
  · exact h
  · split
    · exact h.endSent
    · split
      · exact h
      · exact Keeps.ite h.modSent h.endSent

theorem Keeps.resendRedirected {s₀ s : State} {xid : Nat} (h : Keeps s₀ s) :
    Keeps s₀ (s.resendRedirected xid) := by
  unfold State.resendRedirected
  split
  · exact h
  · exact Keeps.ite h h.placeSent

theorem KeepsOut.execFlitSlotTableSwap {s₀ : State} {port : Nat} {table : BitVec 1024} {s : State} (h : Keeps s₀ s) :
    KeepsOut s₀ (execFlitSlotTableSwap port table s) := KeepsOut.onPort h (fun _ => Keeps.ite h.modPort h)

theorem KeepsOut.execLinkBlockReceive {s₀ : State} {port : Nat} {decoded : Bool} {flits : List (List Nat)} {ctl : BitVec 40} {s : State}
    (h : Keeps s₀ s) :
    KeepsOut s₀ (execLinkBlockReceive port decoded flits ctl s) := by
  unfold Machine.execLinkBlockReceive
  refine KeepsOut.onPort h (fun x0 => ?_)
  split
  · exact h
  · split
    · exact h.setPort
    · exact h.setPort.portError

theorem KeepsOut.execReplayTimeout {s₀ : State} {port : Nat} {s : State} (h : Keeps s₀ s) :
    KeepsOut s₀ (execReplayTimeout port s) := by
  unfold Machine.execReplayTimeout
  refine KeepsOut.onPort h (fun x0 => ?_)
  split
  · exact Keeps.ite h.setPort h
  · exact h

theorem KeepsOut.execNakRepeatTimer {s₀ : State} {port : Nat} {s : State} (h : Keeps s₀ s) :
    KeepsOut s₀ (execNakRepeatTimer port s) := KeepsOut.onPort h (fun _ => Keeps.ite h.setPort h)

theorem KeepsOut.execLinkInit {s₀ : State} {port : Nat} {s : State} (h : Keeps s₀ s) :
    KeepsOut s₀ (execLinkInit port s) := by
  unfold Machine.execLinkInit
  refine KeepsOut.onPort h (fun x0 => ?_)
  split
  · exact Keeps.ite h.setPort.takeInit h.setPort
  · exact h

theorem KeepsOut.execHello {s₀ : State} {port : Nat} {s : State} (h : Keeps s₀ s) :
    KeepsOut s₀ (execHello port s) := KeepsOut.onPort h (fun _ => h.takeChart (fun _ _ hk => hk.takeHello))

theorem KeepsOut.execChartEnable {s₀ : State} {port : Nat} {s : State} (h : Keeps s₀ s) :
    KeepsOut s₀ (execChartEnable port s) := KeepsOut.onPort h (fun _ => h.takeChart (fun _ _ hk => hk.takeEnable))

theorem KeepsOut.execChartTime {s₀ : State} {port : Nat} {s : State} (h : Keeps s₀ s) :
    KeepsOut s₀ (execChartTime port s) := KeepsOut.onPort h (fun _ => h.takeChart (fun _ _ hk => hk.takeTime))

theorem KeepsOut.execLaneFail {s₀ : State} {port : Nat} {s : State} (h : Keeps s₀ s) :
    KeepsOut s₀ (execLaneFail port s) := by
  unfold Machine.execLaneFail
  refine KeepsOut.onPort h (fun x0 => ?_)
  split
  · exact h.setPort.takeLaneFail
  · exact h

theorem KeepsOut.execLaneSwap {s₀ : State} {port : Nat} {s : State} (h : Keeps s₀ s) :
    KeepsOut s₀ (execLaneSwap port s) := by
  unfold Machine.execLaneSwap
  refine KeepsOut.onPort h (fun x0 => ?_)
  split
  · exact h.setPort.takeLaneSwap
  · exact h

theorem KeepsOut.execPortDown {s₀ : State} {port : Nat} {s : State} (h : Keeps s₀ s) :
    KeepsOut s₀ (execPortDown port s) := by
  unfold Machine.execPortDown
  refine KeepsOut.onPort h (fun x0 => ?_)
  split
  · exact Keeps.ite h.setPort.failPort.linkLog h.setPort
  · exact h

theorem KeepsOut.execHelloTimer {s₀ : State} {port : Nat} {s : State} (h : Keeps s₀ s) :
    KeepsOut s₀ (execHelloTimer port s) := KeepsOut.onPort h (fun _ => Keeps.ite h.setPort h)

theorem KeepsOut.execTimeFlitTimer {s₀ : State} {port : Nat} {s : State} (h : Keeps s₀ s) :
    KeepsOut s₀ (execTimeFlitTimer port s) := KeepsOut.onPort h (fun _ => Keeps.ite h.setPort h)

theorem KeepsOut.execClaimFixTimer {s₀ s : State} (h : Keeps s₀ s) :
    KeepsOut s₀ (execClaimFixTimer s) := .next h.same

theorem KeepsOut.execLaneFailureDetect {s₀ : State} {port lane : Nat} {s : State} (h : Keeps s₀ s) :
    KeepsOut s₀ (execLaneFailureDetect port lane s) := KeepsOut.onPort h (fun _ => h.laneLost)

theorem KeepsOut.execLaneRemap {s₀ : State} {port : Nat} {s : State} (h : Keeps s₀ s) :
    KeepsOut s₀ (execLaneRemap port s) := KeepsOut.onPort h (fun _ => h.remapLane)

theorem KeepsOut.execPortFailure {s₀ : State} {port : Nat} {s : State} (h : Keeps s₀ s) :
    KeepsOut s₀ (execPortFailure port s) := by
  unfold Machine.execPortFailure
  refine KeepsOut.onPort h (fun x0 => ?_)
  split
  · exact h.failPort.linkLog
  · exact h.failPort.linkLog
  · exact h.failPort.linkLog
  · exact h

theorem KeepsOut.execLossOfSignal {s₀ : State} {port : Nat} {s : State} (h : Keeps s₀ s) :
    KeepsOut s₀ (execLossOfSignal port s) := by
  unfold Machine.execLossOfSignal
  refine KeepsOut.onPort h (fun x0 => ?_)
  split
  · exact h.loseSignal
  · exact h.loseSignal
  · exact h.loseSignal
  · exact h.loseSignal
  · exact h

theorem KeepsOut.execSignalDetect {s₀ : State} {port : Nat} {s : State} (h : Keeps s₀ s) :
    KeepsOut s₀ (execSignalDetect port s) := by
  unfold Machine.execSignalDetect
  refine KeepsOut.onPort h (fun x0 => ?_)
  split
  · exact h
  · split
    · exact h.wakeStrait.setPort
    · exact h.wakeStrait.setPort
    · exact Keeps.ite h h.setPort
    · exact h

theorem KeepsOut.execTrainTimeout {s₀ : State} {port : Nat} {s : State} (h : Keeps s₀ s) :
    KeepsOut s₀ (execTrainTimeout port s) := KeepsOut.onPort h (fun _ => Keeps.ite h.setPort.dropWaiting h)

theorem KeepsOut.execHoldTimerExpiry {s₀ : State} {port : Nat} {s : State} (h : Keeps s₀ s) :
    KeepsOut s₀ (execHoldTimerExpiry port s) := KeepsOut.onPort h (fun _ => Keeps.ite h.holdExpired h)

theorem KeepsOut.execStraitResponseArrival {s₀ : State} {port : Nat} {s : State} (h : Keeps s₀ s) :
    KeepsOut s₀ (execStraitResponseArrival port s) := by
  unfold Machine.execStraitResponseArrival
  refine KeepsOut.onPort h (fun x0 => ?_)
  split
  · exact (h.popArrived ‹_›).takeReply
  · exact h

theorem KeepsOut.execRedirectResend {s₀ : State} {xid : Nat} {s : State} (h : Keeps s₀ s) :
    KeepsOut s₀ (execRedirectResend xid s) := .next h.resendRedirected

end Sys2Proof.Machine
end

section
/-! SUPPORT. What rack time, power, boots and registers keep. -/

set_option Elab.async false

namespace Sys2Proof.Machine

theorem Keeps.modTime {s₀ s : State} {f : RackTime → RackTime} (h : Keeps s₀ s) :
    Keeps s₀ (s.modTime f) := h.same

theorem Keeps.timeNotice {s₀ s : State} {new old : SyncSt} (h : Keeps s₀ s) :
    Keeps s₀ (s.timeNotice new old) := by
  unfold State.timeNotice
  dsimp only
  refine Keeps.foldl h.log.notice fun t a ht => ?_
  exact ht.noticeTenant

theorem Keeps.setSync {s₀ s : State} {new : SyncSt} (h : Keeps s₀ s) :
    Keeps s₀ (s.setSync new) := Keeps.ite h h.modTime.timeNotice.suspendTides

theorem Keeps.takeFrame {s₀ s : State} {us : Nat} (h : Keeps s₀ s) :
    Keeps s₀ (s.takeFrame us) := by
  unfold State.takeFrame
  dsimp only
  split
  · exact Keeps.ite h.modTime.modTime.setSync h.modTime
  · exact Keeps.ite h.modTime h.modTime.setSync
  · exact Keeps.ite h.modTime.modTime.setSync h.modTime
  · exact h.modTime

theorem Keeps.takePulse {s₀ s : State} {p : Pulse} (h : Keeps s₀ s) :
    Keeps s₀ (s.takePulse p) := by
  unfold State.takePulse
  dsimp only
  split
  · exact h
  · exact (Keeps.ite h (Keeps.ite h.modTime h.setSync)).modTime
  · refine Keeps.modTime ?_
    split
    · exact (Keeps.ite h (Keeps.ite h.modTime h.setSync)).takeFrame
    · exact (Keeps.ite h (Keeps.ite h.modTime h.setSync)).modTime

theorem Keeps.clockBad {s₀ s : State} {b : Bool} (h : Keeps s₀ s) :
    Keeps s₀ (s.clockBad b) := Keeps.ite h (Keeps.ite h.same.masked (Keeps.ite h.modTime h.modTime.setSync))

theorem Keeps.clockGood {s₀ s : State} {b : Bool} (h : Keeps s₀ s) :
    Keeps s₀ (s.clockGood b) := Keeps.ite h.modTime.modTime.setSync h.modTime

theorem Keeps.depthGone {s₀ s : State} (h : Keeps s₀ s) :
    Keeps s₀ (s.depthGone) := Keeps.ite h h.modTime.timeNotice.suspendTides

theorem KeepsOut.execRtpEdge {s₀ : State} {width : Nat} {s : State} (h : Keeps s₀ s) :
    KeepsOut s₀ (execRtpEdge width s) := by
  unfold Machine.execRtpEdge
  refine .next ?_
  split
  · exact h
  · split
    · exact h.modTime
    · exact h.takePulse

theorem KeepsOut.execRtpLoss {s₀ s : State} (h : Keeps s₀ s) :
    KeepsOut s₀ (execRtpLoss s) := .next (Keeps.ite h (Keeps.ite h.modTime.setSync h.modTime))

theorem KeepsOut.execRefclkBad {s₀ : State} {b : Bool} {s : State} (h : Keeps s₀ s) :
    KeepsOut s₀ (execRefclkBad b s) := .next (Keeps.ite h.clockBad h)

theorem KeepsOut.execRefclkGood {s₀ : State} {b : Bool} {s : State} (h : Keeps s₀ s) :
    KeepsOut s₀ (execRefclkGood b s) := .next (Keeps.ite h.clockGood h)

theorem KeepsOut.execTimeDepthLost {s₀ s : State} (h : Keeps s₀ s) :
    KeepsOut s₀ (execTimeDepthLost s) := .next (Keeps.ite h.depthGone h)

theorem Keeps.modPow {s₀ s : State} {f : PowerState → PowerState} (h : Keeps s₀ s) :
    Keeps s₀ (s.modPow f) := h.same

theorem Keeps.setQuad {s₀ s : State} {q : Nat} (h : Keeps s₀ s) :
    Keeps s₀ (s.setQuad q) := by
  unfold State.setQuad
  dsimp only
  refine Keeps.foldl ?_ fun t a ht => ?_
  · refine Keeps.foldl h.modPow fun t a ht => ?_
    exact ht.modHolm (fun _ hk => hk.same)
  · exact ht.modHolm (fun _ hk => KeepsHolm.ite hk.same hk.same)

theorem Keeps.setLowest {s₀ s : State} (h : Keeps s₀ s) : Keeps s₀ s.setLowest := by
  refine h.withHolms ?_
  unfold State.setLowest
  rw [List.forall_mem_map]
  exact fun e he h0 => (h.mem h0).2.2.2 e he

theorem Keeps.setPoints {s₀ s : State} (h : Keeps s₀ s) : Keeps s₀ s.setPoints := by
  unfold State.setPoints
  split
  · exact h.setLowest
  · extract_lets s1
    have h1 : Keeps s₀ s1 := h.modPow.foldl fun _ _ ht => ht.setQuad
    clear_value s1
    exact h1.same

theorem Keeps.observe {s₀ s : State} {w q watts : Nat} (h : Keeps s₀ s) :
    Keeps s₀ (s.observe w q watts) := h.same

theorem Keeps.attribute_ {s₀ s : State} {e : Share} (h : Keeps s₀ s) :
    Keeps s₀ (s.attribute_ e) := h.same

theorem Keeps.estimateTick {s₀ s : State} {estimate measured : Nat} {shares : List Share} {plans : List (Nat × Nat × Nat)} (h : Keeps s₀
    s) :
    Keeps s₀ (s.estimateTick estimate measured shares plans) := by
  unfold State.estimateTick
  dsimp only
  split
  · exact h
  · refine Keeps.setPoints ?_
    refine Keeps.foldl ?_ fun t a ht => ?_
    · refine Keeps.foldl h.modPow fun t a ht => ?_
      exact ht.attribute_
    · exact Keeps.ite ht.observe ht

theorem Keeps.powerLog {s₀ s : State} (h : Keeps s₀ s) :
    Keeps s₀ (s.powerLog) := h.same

theorem Keeps.correct {s₀ s : State} {estimated measured : Nat} (h : Keeps s₀ s) :
    Keeps s₀ (s.correct estimated measured) := Keeps.ite h.modPow (Keeps.ite h.modPow.modPow.powerLog h.modPow.modPow)

theorem Keeps.endExcess {s₀ s : State} (h : Keeps s₀ s) :
    Keeps s₀ (s.endExcess) := h.same

theorem Keeps.checkExcess {s₀ s : State} (h : Keeps s₀ s) :
    Keeps s₀ (s.checkExcess) := Keeps.ite h.endExcess h

theorem Keeps.capSet {s₀ s : State} {cap window at_ : Nat} {u : State} {r : Bool} (h : Keeps s₀ s)
    (e : s.capSet cap window at_ = (u, r)) : Keeps s₀ u := by
  unfold State.capSet at e
  dsimp only at e
  cases e
  exact ((Keeps.ite ((Keeps.ite (Keeps.ite h.modPow h.modPow.modPow.notice.noticeTenants) h.modPow.endExcess.modPow).notice) (Keeps.ite
      (Keeps.ite h.modPow h.modPow.modPow.notice.noticeTenants) h.modPow.endExcess.modPow)).modPow).dividePower

theorem Keeps.lowerPlans {s₀ s : State} (h : Keeps s₀ s) :
    Keeps s₀ (s.lowerPlans) := h.same.modPow.suspendTides

theorem Keeps.capCheck {s₀ s : State} {avg : Nat} (h : Keeps s₀ s) :
    Keeps s₀ (s.capCheck avg) := Keeps.ite h.modPow.dividePower.lowerPlans h.modPow.dividePower

theorem Keeps.enforce {s₀ s : State} (h : Keeps s₀ s) :
    Keeps s₀ (s.enforce) := by
  unfold State.enforce
  split
  · exact h
  · exact Keeps.ite h h.modPow.lowerPlans.setPoints

theorem Keeps.enterLowest {s₀ s : State} {c : LowCause} (h : Keeps s₀ s) :
    Keeps s₀ (s.enterLowest c) := h.modPow.setLowest.suspendTides

theorem Keeps.vrAlert {s₀ s : State} (h : Keeps s₀ s) :
    Keeps s₀ (s.vrAlert) := h.same.enterLowest

theorem Keeps.exitLowest {s₀ s : State} (h : Keeps s₀ s) :
    Keeps s₀ (s.exitLowest) := Keeps.ite h h.same.setPoints

theorem Keeps.modRail {s₀ s : State} {r : Nat} {f : Rail → Rail} (h : Keeps s₀ s) :
    Keeps s₀ (s.modRail r f) := h.same

theorem Keeps.derated {s₀ s : State} {kind rail phase limit : Nat} (h : Keeps s₀ s) :
    Keeps s₀ (s.derated kind rail phase limit) := h.log.notice

theorem Keeps.recordRepair {s₀ s : State} {r : Repair} (h : Keeps s₀ s) :
    Keeps s₀ (s.recordRepair r) := h.same

theorem Keeps.touchQuad {s₀ s : State} {q : Nat} (h : Keeps s₀ s) :
    Keeps s₀ (s.touchQuad q) := h.same

theorem Keeps.losePhase {s₀ s : State} {r k : Nat} (h : Keeps s₀ s) :
    Keeps s₀ (s.losePhase r k) := Keeps.ite h (Keeps.ite ((Keeps.ite ((Keeps.ite h.modRail.recordRepair.derated
        h.modRail.recordRepair).touchQuad) (Keeps.ite h.modRail.recordRepair.derated h.modRail.recordRepair)).masked) (Keeps.ite
        h.modRail.recordRepair.derated h.modRail.recordRepair))

theorem Keeps.takePhase {s₀ s : State} {r : Nat} (h : Keeps s₀ s) :
    Keeps s₀ (s.takePhase r) := by
  unfold State.takePhase
  dsimp only
  split
  · exact h
  · exact Keeps.ite h h.modRail.derated

theorem Keeps.senseCheck {s₀ s : State} {r k : Nat} {c : Sense} (h : Keeps s₀ s) :
    Keeps s₀ (s.senseCheck r k c) := by
  unfold State.senseCheck
  dsimp only
  split
  · exact h
  · split
    · exact h
    · exact Keeps.ite h h.modRail.recordRepair.derated
    · exact h.vrAlert.losePhase

theorem Keeps.railLimit {s₀ s : State} {r : Nat} {sustained : Bool} (h : Keeps s₀ s) :
    Keeps s₀ (s.railLimit r sustained) := by
  unfold State.railLimit
  dsimp only
  split
  · refine Keeps.vrAlert ?_
    refine Keeps.foldl h fun t a ht => ?_
    exact Keeps.ite (ht.modHolm (fun _ hk => hk.same)) ht
  · refine Keeps.foldl h fun t a ht => ?_
    exact Keeps.ite (ht.modHolm (fun _ hk => hk.same)) ht

theorem Keeps.stretch {s₀ s : State} {p : Nat} (h : Keeps s₀ s) :
    Keeps s₀ (s.stretch p) := Keeps.ite h (h.setHolm h.holm.same)

theorem Keeps.unstretch {s₀ s : State} {p : Nat} (h : Keeps s₀ s) :
    Keeps s₀ (s.unstretch p) := by
  unfold State.unstretch
  dsimp only
  split
  · exact h
  · split
    · exact h.setHolm h.holm.same
    · exact Keeps.ite (((h.setHolm h.holm.same).modPow).powerLog) (h.setHolm h.holm.same)

theorem Keeps.sendReport {s₀ s : State} {avg g : Nat} (h : Keeps s₀ s) :
    Keeps s₀ (s.sendReport avg g) := by
  unfold State.sendReport
  split
  · exact h
  · dsimp only
    split
    · exact h.modPow
    · split
      · exact (h.modPow.writeXfer ‹_›).sendXfer ‹_›
      · exact h.modPow.writeXfer ‹_›

theorem Keeps.sendReports {s₀ s : State} {avg : Nat} (h : Keeps s₀ s) :
    Keeps s₀ (s.sendReports avg) := by
  unfold State.sendReports
  refine Keeps.modPow ?_
  refine Keeps.foldl h fun t a ht => ?_
  exact ht.sendReport

theorem Keeps.takeReport {s₀ s : State} {g : Nat} {r : Report} (h : Keeps s₀ s) :
    Keeps s₀ (s.takeReport g r) := Keeps.ite h h.modPow

theorem Keeps.loanTimeout {s₀ s : State} {g : Nat} {lender : Bool} (h : Keeps s₀ s) :
    Keeps s₀ (s.loanTimeout g lender) := h.same

theorem Keeps.gateQuad {s₀ s : State} {q c : Nat} (h : Keeps s₀ s) :
    Keeps s₀ (s.gateQuad q c) := by
  unfold State.gateQuad
  dsimp only
  split
  · exact h
  · refine Keeps.foldl h.modPow fun t a ht => ?_
    exact Keeps.ite (ht.modHolm (fun _ hk => hk.same)) ht

theorem Keeps.wakeQuad {s₀ s : State} {q c : Nat} (h : Keeps s₀ s) :
    Keeps s₀ (s.wakeQuad q c) := Keeps.ite h.wakeDomain h

theorem Keeps.gateStrait {s₀ s : State} {g : Nat} (h : Keeps s₀ s) :
    Keeps s₀ (s.gateStrait g) := Keeps.ite h h.modPow

theorem Keeps.gateCodec {s₀ s : State} (h : Keeps s₀ s) :
    Keeps s₀ (s.gateCodec) := Keeps.ite h h.modPow

theorem Keeps.deepIdle {s₀ s : State} (h : Keeps s₀ s) :
    Keeps s₀ (s.deepIdle) := Keeps.ite h h.modPow

theorem Keeps.wakeAll {s₀ s : State} (h : Keeps s₀ s) :
    Keeps s₀ (s.wakeAll) := by
  unfold State.wakeAll
  dsimp only
  refine Keeps.modPow ?_
  refine Keeps.foldl h fun t a ht => ?_
  exact ht.wakeQuad

theorem KeepsOut.onPower {s₀ s : State} {f : State → State} (h : Keeps s₀ s) (hf : Keeps s₀ (f s)) : KeepsOut s₀ (onPower s f) :=
  .next (.ite hf h)

theorem KeepsOut.execPowerEstimateTick {s₀ : State} {estimate measured : Nat} {shares : List Share} {plans : List (Nat × Nat × Nat)} {s :
    State} (h : Keeps s₀ s) :
    KeepsOut s₀ (execPowerEstimateTick estimate measured shares plans s) := KeepsOut.onPower h h.estimateTick

theorem KeepsOut.execEnergyCorrection {s₀ : State} {estimated measured : Nat} {s : State} (h : Keeps s₀ s) :
    KeepsOut s₀ (execEnergyCorrection estimated measured s) := KeepsOut.onPower h h.correct

theorem KeepsOut.execCapCheck {s₀ : State} {avg : Nat} {s : State} (h : Keeps s₀ s) :
    KeepsOut s₀ (execCapCheck avg s) := KeepsOut.onPower h h.capCheck

theorem KeepsOut.execCapEnforcementInstant {s₀ s : State} (h : Keeps s₀ s) :
    KeepsOut s₀ (execCapEnforcementInstant s) := KeepsOut.onPower h h.enforce

theorem KeepsOut.execRailCurrentLimit {s₀ : State} {rail : Nat} {sustained : Bool} {s : State} (h : Keeps s₀ s) :
    KeepsOut s₀ (execRailCurrentLimit rail sustained s) := KeepsOut.ite .fault (KeepsOut.onPower h (Keeps.ite h.railLimit h))

theorem KeepsOut.execVrAlert {s₀ : State} {cause : Nat} {s : State} (h : Keeps s₀ s) :
    KeepsOut s₀ (execVrAlert cause s) := KeepsOut.onPower h (Keeps.ite h.vrAlert h)

theorem KeepsOut.execPwrBrakeN {s₀ s : State} (h : Keeps s₀ s) :
    KeepsOut s₀ (execPwrBrakeN s) := KeepsOut.onPower h.same h.same.enterLowest

theorem KeepsOut.execPwrBrakeNDeassert {s₀ s : State} (h : Keeps s₀ s) :
    KeepsOut s₀ (execPwrBrakeNDeassert s) := KeepsOut.onPower h.same h.same.modPow

theorem KeepsOut.execLowestStateExit {s₀ s : State} (h : Keeps s₀ s) :
    KeepsOut s₀ (execLowestStateExit s) := KeepsOut.onPower h h.exitLowest

theorem KeepsOut.execPhaseFailOpen {s₀ : State} {rail phase : Nat} {s : State} (h : Keeps s₀ s) :
    KeepsOut s₀ (execPhaseFailOpen rail phase s) := KeepsOut.ite .fault (KeepsOut.onPower h h.losePhase)

theorem KeepsOut.execSparePhaseInService {s₀ : State} {rail : Nat} {s : State} (h : Keeps s₀ s) :
    KeepsOut s₀ (execSparePhaseInService rail s) := KeepsOut.ite .fault (KeepsOut.onPower h h.takePhase)

theorem KeepsOut.execCurrentSenseCheck {s₀ : State} {rail phase : Nat} {reading : Sense} {s : State} (h : Keeps s₀ s) :
    KeepsOut s₀ (execCurrentSenseCheck rail phase reading s) := KeepsOut.ite .fault (KeepsOut.onPower h h.senseCheck)

theorem KeepsOut.execDroopStretch {s₀ : State} {p : Nat} {s : State} (h : Keeps s₀ s) :
    KeepsOut s₀ (execDroopStretch p s) := KeepsOut.onHolm h (fun _ _ => Keeps.ite h.stretch h)

theorem KeepsOut.execDroopStretchEnd {s₀ : State} {p : Nat} {s : State} (h : Keeps s₀ s) :
    KeepsOut s₀ (execDroopStretchEnd p s) := KeepsOut.onHolm h (fun _ _ => Keeps.ite h.unstretch h)

theorem KeepsOut.execPowerReportSend {s₀ : State} {avg : Nat} {s : State} (h : Keeps s₀ s) :
    KeepsOut s₀ (execPowerReportSend avg s) := KeepsOut.onPower h h.sendReports

theorem KeepsOut.execPowerReportReceive {s₀ : State} {group report : Nat} {s : State} (h : Keeps s₀ s) :
    KeepsOut s₀ (execPowerReportReceive group report s) := KeepsOut.onPower h (Keeps.ite h.takeReport h)

theorem KeepsOut.execLoanTimeout {s₀ : State} {group : Nat} {lender : Bool} {s : State} (h : Keeps s₀ s) :
    KeepsOut s₀ (execLoanTimeout group lender s) := KeepsOut.onPower h h.loanTimeout

theorem KeepsOut.execHolmQuadGate {s₀ : State} {q c : Nat} {s : State} (h : Keeps s₀ s) :
    KeepsOut s₀ (execHolmQuadGate q c s) := KeepsOut.onPower h h.gateQuad

theorem KeepsOut.execHolmQuadWake {s₀ : State} {q c : Nat} {s : State} (h : Keeps s₀ s) :
    KeepsOut s₀ (execHolmQuadWake q c s) := KeepsOut.onPower h h.wakeQuad

theorem KeepsOut.execDeepIdleEnter {s₀ s : State} (h : Keeps s₀ s) :
    KeepsOut s₀ (execDeepIdleEnter s) := KeepsOut.onPower h h.deepIdle

theorem KeepsOut.execStraitGroupGate {s₀ : State} {g : Nat} {s : State} (h : Keeps s₀ s) :
    KeepsOut s₀ (execStraitGroupGate g s) := KeepsOut.onPower h h.gateStrait

theorem KeepsOut.execCodecDomainGate {s₀ s : State} (h : Keeps s₀ s) :
    KeepsOut s₀ (execCodecDomainGate s) := KeepsOut.onPower h h.gateCodec

theorem Keeps.modBoot {s₀ s : State} {f : BootState → BootState} (h : Keeps s₀ s) :
    Keeps s₀ (s.modBoot f) := h.same

theorem State.reset_remapOk : State.reset.remapOk := by
  unfold State.remapOk State.reset
  rw [List.forall_mem_map]
  exact fun lg _ => ⟨lt_trans (Nat.mod_lt lg (by decide : 0 < 64)) (by decide), Nat.two_pow_pos 24⟩

theorem State.remapOk_clearEpochs {s : State} (h : s.remapOk) : ∀ e ∈ s.remap.map fun ((lg, r) : Nat × Remap) => (lg, { r with epoch := 0
    }),
    e.2.phys < 68 ∧ e.2.epoch < 2 ^ 24 := by
  rw [List.forall_mem_map]
  exact fun e he => ⟨(h e he).1, Nat.two_pow_pos 24⟩

theorem Keeps.cleared {s₀ s : State} {k : StartKind} (h : Keeps s₀ s) : Keeps s₀ (s.cleared k) where
  part := h.part
  pending := h.pending
  remap hr := by
    unfold State.remapOk State.cleared
    dsimp only
    split
    · exact State.reset_remapOk
    · exact State.remapOk_clearEpochs (h.remap hr)
  mem hm := by
    refine ⟨(h.mem hm).1, rfl, nofun, ?_⟩
    unfold State.cleared
    dsimp only
    rw [List.forall_mem_map]
    exact fun _ _ => rfl

theorem Keeps.saveLog {s₀ s : State} (h : Keeps s₀ s) :
    Keeps s₀ (s.saveLog) := h.same

theorem Keeps.drawInc {s₀ s : State} (h : Keeps s₀ s) :
    Keeps s₀ (s.drawInc) := h.same

theorem Keeps.startReset {s₀ s : State} {k : StartKind} (h : Keeps s₀ s) :
    Keeps s₀ (s.startReset k) := by
  unfold State.startReset
  split
  · exact h.cleared.modBoot
  · exact h.modBoot

theorem Keeps.resetEntry {s₀ s : State} (h : Keeps s₀ s) :
    Keeps s₀ (s.resetEntry) := Keeps.ite h h.saveLog.modBoot.cleared.modBoot

theorem Keeps.powerLoss {s₀ s : State} (h : Keeps s₀ s) :
    Keeps s₀ (s.powerLoss) := Keeps.ite h h.saveLog.cleared.modBoot

theorem Keeps.bootLog {s₀ s : State} {stage cause slot : Nat} (h : Keeps s₀ s) :
    Keeps s₀ (s.bootLog stage cause slot) := h.same

theorem Keeps.failBoot {s₀ s : State} {stage cause : Nat} (h : Keeps s₀ s) :
    Keeps s₀ (s.failBoot stage cause) := h.same

theorem Keeps.stageAuth {s₀ s : State} {found : List Bool} (h : Keeps s₀ s) :
    Keeps s₀ (s.stageAuth found) := Keeps.ite h.same (Keeps.ite h.same h.drawInc.bootLog.bootLog.modBoot)

theorem Keeps.stageRails {s₀ s : State} {again : List (Nat × Nat × Nat)} (h : Keeps s₀ s) :
    Keeps s₀ (s.stageRails again) := h.same

theorem Keeps.stageCores {s₀ s : State} {bad : List Nat} (h : Keeps s₀ s) :
    Keeps s₀ (s.stageCores bad) := by
  unfold State.stageCores
  dsimp only
  refine Keeps.modBoot ?_
  refine Keeps.foldl h fun t a ht => ?_
  exact ht.bootLog

theorem Keeps.stageDieLinks {s₀ s : State} {again : List (Nat × Nat × Nat)} (h : Keeps s₀ s) :
    Keeps s₀ (s.stageDieLinks again) := h.same

theorem State.place_lt {old : List (Nat × Nat)} {passing : List Nat} {n : Nat} (h : ∀ j ∈ passing, j < n) :
    ∀ e ∈ State.place old passing, e.2 < n := by
  intro e he
  unfold State.place at he
  rcases List.mem_append.mp he with he | he
  · have hp := (List.mem_filter.mp he).2
    rw [Bool.and_eq_true] at hp
    exact h _ (List.contains_iff_mem.mp hp.2)
  · exact h _ (List.mem_of_mem_filter (List.of_mem_zip he).2)

theorem Keeps.stageHolmTest {s₀ s : State} {found : BootFound} (h : Keeps s₀ s) : Keeps s₀ (s.stageHolmTest found) where
  part := h.part
  pending := h.pending
  remap _ := by
    unfold State.remapOk State.stageHolmTest
    extract_lets recs made tested rows pass all kept gone maps places
    have hplaces : ∀ e ∈ places, e.2 < 68 := by
      intro e he
      obtain ⟨q, -, he⟩ := List.mem_flatMap.mp he
      obtain ⟨x, hx, rfl⟩ := List.mem_map.mp he
      exact State.place_lt (fun j hj => List.mem_range.mp (List.mem_of_mem_filter hj)) x hx
    rw [List.forall_mem_map]
    intro lg _
    dsimp only
    split
    · rename_i e he
      exact ⟨hplaces _ (List.mem_of_find?_eq_some he), Nat.two_pow_pos 24⟩
    · decide
  mem hm := by
    obtain ⟨hhost, hbm, hext, hholms⟩ := h.mem hm
    refine ⟨hhost, hbm, hext, ?_⟩
    unfold State.stageHolmTest
    dsimp only
    rw [List.forall_mem_map]
    exact fun e he => hholms e he

theorem KeepsMem.markFailed {s₀ : State} {m : MemState} {e : Element} (hm : KeepsMem s₀ m) :
    KeepsMem s₀ (State.markFailed m e) := by
  unfold State.markFailed
  dsimp only
  split
  · exact KeepsMem.ite hm.same hm
  · exact KeepsMem.ite hm.same hm
  · exact KeepsMem.ite hm.same hm
  · exact KeepsMem.ite hm.same hm

theorem Keeps.stageMemory {s₀ s : State} {found : BootFound} (h : Keeps s₀ s) : Keeps s₀ (s.stageMemory found) := by
  unfold State.stageMemory
  extract_lets flash src m0
  have h0 : KeepsMem s₀ m0 := .ite h.memState.same h.memState
  exact h.withMem (h0.foldl fun _ _ hk => hk.markFailed)

theorem Keeps.stageReady {s₀ s : State} (h : Keeps s₀ s) :
    Keeps s₀ (s.stageReady) := by
  unfold State.stageReady
  dsimp only
  split
  · exact Keeps.ite h.modBoot.bootLog.modBoot h.modBoot.bootLog
  · exact h.modBoot.bootLog

theorem Keeps.stageDone {s₀ s0 : State} {k : Nat} {found : BootFound} (h : Keeps s₀ s0) :
    Keeps s₀ (s0.stageDone k found) := by
  unfold State.stageDone
  dsimp only
  split
  · exact h.modBoot.stageAuth
  · exact Keeps.ite h.modBoot.stageRails h.failBoot
  · exact Keeps.ite h.modBoot.stageCores h.failBoot
  · exact Keeps.ite h.modBoot.stageDieLinks h.failBoot
  · exact h.modBoot.stageHolmTest
  · exact Keeps.ite h.failBoot h.modBoot.stageMemory
  · exact h.modBoot.modBoot
  · exact h.same
  · exact h.modBoot.stageReady
  · exact h.modBoot

theorem Keeps.hostDown {s₀ s : State} (h : Keeps s₀ s) :
    Keeps s₀ (s.hostDown) := by
  unfold State.hostDown
  dsimp only
  refine Keeps.foldl h.same fun t a ht => ?_
  exact Keeps.ite ht.failMoves ht

theorem Keeps.perstLow {s₀ s : State} (h : Keeps s₀ s) :
    Keeps s₀ (s.perstLow) := Keeps.ite h.hostDown.modBoot.modPow.startReset h.hostDown.modBoot.modPow

theorem Keeps.perstHigh {s₀ s : State} (h : Keeps s₀ s) :
    Keeps s₀ (s.perstHigh) := h.same

theorem Keeps.unconfined {s₀ s : State} (h : Keeps s₀ s) :
    Keeps s₀ (s.unconfined) := Keeps.ite h.startReset h

theorem Keeps.coreFault {s₀ s : State} {survivor : Option Nat} (h : Keeps s₀ s) :
    Keeps s₀ (s.coreFault survivor) := by
  unfold State.coreFault
  split
  · exact h.unconfined
  · exact h.same.masked

theorem Keeps.laneFault {s₀ s : State} {link lane : Nat} (h : Keeps s₀ s) :
    Keeps s₀ (s.laneFault link lane) := Keeps.ite h (Keeps.ite h.unconfined h.same.recordRepair.masked)

theorem Keeps.thermalTrip {s₀ s : State} (h : Keeps s₀ s) :
    Keeps s₀ (s.thermalTrip) := h.powerLoss.modPow.modBoot

theorem Keeps.thermal {s₀ s : State} {temps : List Nat} {alarm : Bool} (h : Keeps s₀ s) :
    Keeps s₀ (s.thermal temps alarm) := Keeps.ite h.modPow.thermalTrip (Keeps.ite h.modPow.vrAlert h.modPow)

theorem Keeps.smbusAnswer {s₀ s : State} {l : List Nat} (h : Keeps s₀ s) :
    Keeps s₀ (s.smbusAnswer l) := h.same

theorem Keeps.rackWrite {s₀ s : State} {v : Nat} (h : Keeps s₀ s) :
    Keeps s₀ (s.rackWrite v) := Keeps.ite h.smbusAnswer (Keeps.ite h.same.smbusAnswer h.modBoot.smbusAnswer)

theorem Keeps.resetWrite {s₀ s : State} {code : Nat} (h : Keeps s₀ s) :
    Keeps s₀ (s.resetWrite code) := Keeps.ite h.smbusAnswer (Keeps.ite h.smbusAnswer h.startReset.smbusAnswer)

theorem Keeps.pldmImage {s₀ s : State} {header : Nat} {authentic : Bool} (h : Keeps s₀ s) :
    Keeps s₀ (s.pldmImage header authentic) := by
  unfold State.pldmImage
  split
  · exact h.smbusAnswer
  · split
    · exact h.smbusAnswer
    · exact Keeps.ite h.smbusAnswer h.same.smbusAnswer

theorem Keeps.measurements {s₀ s : State} (h : Keeps s₀ s) :
    Keeps s₀ (s.measurements) := h.same

theorem KeepsOut.execPowerUp {s₀ s : State} (h : Keeps s₀ s) :
    KeepsOut s₀ (execPowerUp s) := .next (Keeps.ite h h.cleared.modBoot)

theorem KeepsOut.execBootStageComplete {s₀ : State} {stage : Nat} {found : BootFound} {s : State} (h : Keeps s₀ s) :
    KeepsOut s₀ (execBootStageComplete stage found s) := .next (Keeps.ite h.stageDone h)

theorem KeepsOut.execPowerFailure {s₀ s : State} (h : Keeps s₀ s) :
    KeepsOut s₀ (execPowerFailure s) := .next h.powerLoss

theorem KeepsOut.execPerstAssert {s₀ s : State} (h : Keeps s₀ s) :
    KeepsOut s₀ (execPerstAssert s) := .next (Keeps.ite h.perstLow h.modBoot)

theorem KeepsOut.execPerstDeassert {s₀ s : State} (h : Keeps s₀ s) :
    KeepsOut s₀ (execPerstDeassert s) := .next (Keeps.ite h.perstHigh h.modBoot)

theorem KeepsOut.execWarmResetEntry {s₀ s : State} (h : Keeps s₀ s) :
    KeepsOut s₀ (execWarmResetEntry s) := .next h.resetEntry

theorem KeepsOut.execColdResetOffEnd {s₀ s : State} (h : Keeps s₀ s) :
    KeepsOut s₀ (execColdResetOffEnd s) := .next (Keeps.ite h.drawInc.modBoot h)

theorem KeepsOut.execUnconfinedFault {s₀ s : State} (h : Keeps s₀ s) :
    KeepsOut s₀ (execUnconfinedFault s) := .next h.unconfined

theorem KeepsOut.execHostLinkDown {s₀ s : State} (h : Keeps s₀ s) :
    KeepsOut s₀ (execHostLinkDown s) := .next h.hostDown

theorem KeepsOut.execHostLinkUp {s₀ s : State} (h : Keeps s₀ s) :
    KeepsOut s₀ (execHostLinkUp s) := .next (Keeps.ite h.same h)

theorem KeepsOut.execMgmtCoreFault {s₀ : State} {survivor : Option Nat} {s : State} (h : Keeps s₀ s) :
    KeepsOut s₀ (execMgmtCoreFault survivor s) := KeepsOut.onLive h h.coreFault

theorem KeepsOut.execDieToDieLaneFailure {s₀ : State} {link lane : Nat} {s : State} (h : Keeps s₀ s) :
    KeepsOut s₀ (execDieToDieLaneFailure link lane s) := KeepsOut.onLive h h.laneFault

theorem KeepsOut.execThermalRead {s₀ : State} {temps : List Nat} {alarm : Bool} {s : State} (h : Keeps s₀ s) :
    KeepsOut s₀ (execThermalRead temps alarm s) := KeepsOut.onPower h h.thermal

theorem KeepsOut.execThermalTripClear {s₀ s : State} (h : Keeps s₀ s) :
    KeepsOut s₀ (execThermalTripClear s) := .next (Keeps.ite h.modPow.modBoot h)

theorem KeepsOut.execPldmRackIdentity {s₀ : State} {value : Nat} {s : State} (h : Keeps s₀ s) :
    KeepsOut s₀ (execPldmRackIdentity value s) := .next (Keeps.ite h.rackWrite h)

theorem KeepsOut.execPldmResetRequest {s₀ : State} {code : Nat} {s : State} (h : Keeps s₀ s) :
    KeepsOut s₀ (execPldmResetRequest code s) := .next (Keeps.ite h.resetWrite h)

theorem KeepsOut.execPldmFirmwareUpdate {s₀ : State} {header : Nat} {authentic : Bool} {s : State} (h : Keeps s₀ s) :
    KeepsOut s₀ (execPldmFirmwareUpdate header authentic s) := .next (Keeps.ite h.pldmImage h)

theorem KeepsOut.execSpdmGetMeasurements {s₀ s : State} (h : Keeps s₀ s) :
    KeepsOut s₀ (execSpdmGetMeasurements s) := .next (Keeps.ite h.measurements h)

theorem KeepsOut.execJtagExtestSelect {s₀ s : State} (h : Keeps s₀ s) :
    KeepsOut s₀ (execJtagExtestSelect s) := .next (Keeps.ite h.modBoot h)

theorem KeepsOut.execJtagExtestExit {s₀ s : State} (h : Keeps s₀ s) :
    KeepsOut s₀ (execJtagExtestExit s) := .next (Keeps.ite h.modBoot.startReset h)

theorem Keeps.regRead {s₀ s : State} {fn off size : Nat} (h : Keeps s₀ s) :
    Keeps s₀ (s.regRead fn off size) := by
  unfold State.regRead
  dsimp only
  split
  · exact h.same
  · exact Keeps.ite h.same h.same

theorem Keeps.queueStopped {s₀ s : State} {fn q : Nat} (h : Keeps s₀ s) :
    Keeps s₀ (s.queueStopped fn q) := by
  unfold State.queueStopped
  split
  · exact Keeps.ite h.same.endCmds h
  · exact h

theorem Keeps.stopQueue {s₀ s : State} {fn q : Nat} (h : Keeps s₀ s) :
    Keeps s₀ (s.stopQueue fn q) := by
  unfold State.stopQueue
  split
  · exact h.setQue.queueStopped
  · exact h

theorem Keeps.modQueRegs {s₀ s : State} {fn : Nat} {f : QueRegs → QueRegs} (h : Keeps s₀ s) :
    Keeps s₀ (s.modQueRegs fn f) := h.same

theorem Keeps.refuseSetup {s₀ s : State} {fn : Nat} {st : Status} (h : Keeps s₀ s) :
    Keeps s₀ (s.refuseSetup fn st) := h.same

theorem Keeps.clearSetup {s₀ s : State} {fn : Nat} (h : Keeps s₀ s) :
    Keeps s₀ (s.clearSetup fn) := h.same

theorem Keeps.commitSetup {s₀ s : State} {fn : Nat} (h : Keeps s₀ s) :
    Keeps s₀ (s.commitSetup fn) := by
  unfold State.commitSetup
  dsimp only
  split
  · exact h.refuseSetup
  · split
    · exact h.refuseSetup
    · split
      · exact h.refuseSetup
      · split
        · exact Keeps.ite h.clearSetup.setQue h.clearSetup
        · exact Keeps.ite h.refuseSetup (Keeps.ite (Keeps.ite h.clearSetup.setQue (Keeps.ite h.clearSetup.setQue h.refuseSetup))
            (Keeps.ite h.refuseSetup h.clearSetup.stopQueue))

theorem Keeps.writeCfg {s₀ s : State} {fn : Nat} {high : Bool} {v : Nat} (h : Keeps s₀ s) :
    Keeps s₀ (s.writeCfg fn high v) := Keeps.ite h.modQueRegs.commitSetup h.modQueRegs

theorem Keeps.doorbell {s₀ s : State} {fn q value : Nat} {cpl : Bool} (h : Keeps s₀ s) :
    Keeps s₀ (s.doorbell fn q value cpl) := by
  unfold State.doorbell
  split
  · exact h
  · dsimp only
    split
    · exact h.busError
    · exact Keeps.ite h.busError (Keeps.ite h.queueError (Keeps.ite (Keeps.ite h.queueError h.setQue) h.setQue))

theorem Keeps.hostStores {s₀ s : State} {ws : List (Nat × List Nat)} (h : Keeps s₀ s) : Keeps s₀ (s.hostStores ws) :=
  h.withHost fun hh => foldl_keeps (P := fun m : Mem => m.wf = true) (fun _ _ hm => Mem.wf_write hm _ _) hh

theorem Keeps.noticeDoorbell {s₀ s : State} {fn value : Nat} (h : Keeps s₀ s) :
    Keeps s₀ (s.noticeDoorbell fn value) := by
  unfold State.noticeDoorbell
  split
  · exact h
  · split
    · exact h
    · exact Keeps.ite h.notice h.same

theorem Keeps.resetRequest {s₀ s : State} {value : Nat} (h : Keeps s₀ s) :
    Keeps s₀ (s.resetRequest value) := Keeps.ite h.startReset h.busError

theorem Keeps.modMsix {s₀ s : State} {fn v : Nat} {f : Msix → Msix} (h : Keeps s₀ s) :
    Keeps s₀ (s.modMsix fn v f) := h.same

theorem Keeps.unmask {s₀ s : State} {fn v : Nat} (h : Keeps s₀ s) :
    Keeps s₀ (s.unmask fn v) := Keeps.ite h.modMsix.signal h

theorem Keeps.regStore {s₀ s : State} {fn : Nat} {name : RegName} {i byte v : Nat} (h : Keeps s₀ s) :
    Keeps s₀ (s.regStore fn name i byte v) := by
  unfold State.regStore
  dsimp only
  split
  · exact h.modQueRegs
  · exact h.modQueRegs
  · exact h.writeCfg
  · exact h.doorbell
  · exact h.doorbell
  · exact h.noticeDoorbell
  · exact h.modMsix
  · exact h.modMsix
  · exact h.modMsix.unmask
  · exact h.resetRequest
  · exact h

theorem Keeps.regWrite {s₀ s : State} {fn off size value : Nat} (h : Keeps s₀ s) :
    Keeps s₀ (s.regWrite fn off size value) := by
  unfold State.regWrite
  split
  · exact h.busError
  · exact Keeps.ite (Keeps.ite h h.busError) (Keeps.ite h.regStore.regStore h.regStore)

theorem KeepsOut.onBar {s₀ s : State} {fn : Nat} {f : State → State} (h : Keeps s₀ s) (hf : Keeps s₀ (f s)) : KeepsOut s₀ (onBar fn s f) :=
  .next (.ite hf h)

theorem KeepsOut.execDbCmdTail {s₀ : State} {fn q value : Nat} {host : List (Nat × List Nat)} {s : State} (h : Keeps s₀ s) :
    KeepsOut s₀ (execDbCmdTail fn q value host s) := KeepsOut.onBar h.hostStores (Keeps.ite h.hostStores.regWrite h.hostStores)

theorem KeepsOut.execDbCplHead {s₀ : State} {fn q value : Nat} {s : State} (h : Keeps s₀ s) :
    KeepsOut s₀ (execDbCplHead fn q value s) := KeepsOut.onBar h (Keeps.ite h.regWrite h)

theorem KeepsOut.execNtcDbHead {s₀ : State} {fn value : Nat} {s : State} (h : Keeps s₀ s) :
    KeepsOut s₀ (execNtcDbHead fn value s) := KeepsOut.onBar h h.regWrite

theorem KeepsOut.execQueCfgCommit {s₀ : State} {fn value : Nat} {s : State} (h : Keeps s₀ s) :
    KeepsOut s₀ (execQueCfgCommit fn value s) := KeepsOut.onBar h h.regWrite

theorem KeepsOut.execRstReqCold {s₀ : State} {fn value : Nat} {s : State} (h : Keeps s₀ s) :
    KeepsOut s₀ (execRstReqCold fn value s) := KeepsOut.onBar h h.regWrite

theorem KeepsOut.execRstReqWarm {s₀ : State} {fn value : Nat} {s : State} (h : Keeps s₀ s) :
    KeepsOut s₀ (execRstReqWarm fn value s) := KeepsOut.onBar h h.regWrite

theorem KeepsOut.execRstReqSoft {s₀ : State} {fn value : Nat} {s : State} (h : Keeps s₀ s) :
    KeepsOut s₀ (execRstReqSoft fn value s) := KeepsOut.onBar h h.regWrite

theorem KeepsOut.execRegisterWrite {s₀ : State} {fn off size value : Nat} {s : State} (h : Keeps s₀ s) :
    KeepsOut s₀ (execRegisterWrite fn off size value s) := KeepsOut.onBar h h.regWrite

theorem KeepsOut.execRegisterRead {s₀ : State} {fn off size : Nat} {s : State} (h : Keeps s₀ s) :
    KeepsOut s₀ (execRegisterRead fn off size s) := KeepsOut.onBar h h.regRead

end Sys2Proof.Machine
end

section
/-! SUPPORT. What commands on queues, pages, sequences, images and plans keep. -/

set_option Elab.async false

namespace Sys2Proof.Machine

theorem Keeps.fetch_ {s₀ s : State} {fn q : Nat} (h : Keeps s₀ s) :
    Keeps s₀ (s.fetch_ fn q) := by
  unfold State.fetch_
  split
  · exact h
  · split
    · exact h
    · split
      · exact h.queueError
      · dsimp only
        split
        · exact h.same.endCmd
        · exact h.same

/-- What a started command does at once keeps what `Keeps` says. -/
def KeepsEff (s₀ : State) (r : State.CmdEff) : Prop := Keeps s₀ r.1

theorem KeepsEff.mk {s₀ s : State} {o : Option (Status × Nat)} (h : Keeps s₀ s) : KeepsEff s₀ (s, o) := h

theorem KeepsEff.ite {s₀ : State} {c : Prop} [Decidable c] {x y : State.CmdEff} (hx : KeepsEff s₀ x) (hy : KeepsEff s₀ y) :
    KeepsEff s₀ (if c then x else y) := ite_ind hx hy

theorem KeepsOut.runCmd {s₀ s : State} {code fn q : Nat} {f : State → Cmd → State.CmdEff} (h : Keeps s₀ s)
    (hf : ∀ t c, Keeps s₀ t → KeepsEff s₀ (f t c)) : KeepsOut s₀ (runCmd code fn q s f) := by
  unfold Machine.runCmd
  refine .next ?_
  split
  · exact h
  · split
    · exact h
    · extract_lets src s1
      have h2 : ∀ c s2 o, f s1 c = (s2, o) → Keeps s₀ s2 := fun c s2 o e => by
        have h1 : Keeps s₀ s1 := h.same
        have h3 := hf s1 c h1
        rw [e] at h3
        exact h3
      split
      · exact (h2 _ _ _ ‹_›).endCmd
      · exact h2 _ _ _ ‹_›

theorem KeepsOut.runVf {s₀ s : State} {code fn q : Nat} {f : State → Cmd → Nat → State.CmdEff} (h : Keeps s₀ s)
    (hf : ∀ t c n, Keeps s₀ t → KeepsEff s₀ (f t c n)) : KeepsOut s₀ (runVf code fn q s f) := by
  refine .runCmd h fun t c ht => ?_
  split
  · exact hf _ _ _ ht
  · exact .mk ht

theorem KeepsEff.fails {s₀ s : State} {st : Status} (h : Keeps s₀ s) :
    KeepsEff s₀ (s.fails st) := h.same

theorem KeepsEff.ends {s₀ s : State} {r : Nat} (h : Keeps s₀ s) :
    KeepsEff s₀ (s.ends r) := h.same

theorem KeepsEff.endsAs {s₀ s : State} {r : Except Status (Nat × State)} (h : Keeps s₀ s) (hr : ∀ v u, r = .ok (v, u) → Keeps s₀ u) :
    KeepsEff s₀ (s.endsAs r) := by
  cases r with
  | error e => exact .mk h
  | ok x => exact .mk (hr _ _ rfl)

theorem KeepsEff.admitted {s₀ s : State} {c : Cmd} {t : Nat} {adm : Option Verdict} {f : State.CmdEff} (h : Keeps s₀ s) (hf : KeepsEff s₀
    f) :
    KeepsEff s₀ (s.admitted c t adm f) := by
  unfold State.admitted
  split
  · exact .mk h
  · exact hf

theorem Keeps.post_ {s₀ s : State} {fn q : Nat} (h : Keeps s₀ s) :
    Keeps s₀ (s.post_ fn q) := by
  unfold State.post_
  split
  · exact Keeps.ite h (((h.postCpl rfl).same).queueStopped)
  · exact h

theorem KeepsOut.execCommandFetch {s₀ : State} {fn q : Nat} {s : State} (h : Keeps s₀ s) :
    KeepsOut s₀ (execCommandFetch fn q s) := .next h.fetch_

theorem KeepsOut.execCommandCompletionPost {s₀ : State} {fn q : Nat} {s : State} (h : Keeps s₀ s) :
    KeepsOut s₀ (execCommandCompletionPost fn q s) := .next (Keeps.ite h.post_ h)

theorem KeepsEff.putResult {s₀ s : State} {t : Option Nat} {a : Nat} {bs : List Nat} {r : Nat} (h : Keeps s₀ s) :
    KeepsEff s₀ (s.putResult t a bs r) := by
  unfold State.putResult
  split
  · exact .mk (h.argWrite ‹_›)
  · exact .mk h.spoilRange

theorem KeepsEff.createQueue {s₀ s : State} {fn : Nat} {c : Cmd} (h : Keeps s₀ s) :
    KeepsEff s₀ (s.createQueue fn c) := by
  unfold State.createQueue
  dsimp only
  split
  · exact KeepsEff.fails h
  · split
    · exact KeepsEff.fails h
    · split
      · exact KeepsEff.fails h
      · split
        · exact .mk h.same
        · exact KeepsEff.ite (KeepsEff.fails h) (KeepsEff.ite (KeepsEff.fails h) (KeepsEff.ends h.setQue))

theorem KeepsEff.deleteQueue {s₀ s : State} {fn : Nat} {c : Cmd} (h : Keeps s₀ s) :
    KeepsEff s₀ (s.deleteQueue fn c) := by
  unfold State.deleteQueue
  dsimp only
  split
  · exact KeepsEff.fails h
  · split
    · exact KeepsEff.fails h
    · exact KeepsEff.ite (KeepsEff.fails h) (.mk h.stopQueue)

theorem KeepsEff.setNoticeRing {s₀ s : State} {fn : Nat} {c : Cmd} (h : Keeps s₀ s) :
    KeepsEff s₀ (s.setNoticeRing fn c) := KeepsEff.ite (KeepsEff.fails h) (KeepsEff.ite (KeepsEff.fails h) (KeepsEff.ends h.same))

theorem KeepsOut.execIciVersion {s₀ : State} {fn q : Nat} {s : State} (h : Keeps s₀ s) :
    KeepsOut s₀ (execIciVersion fn q s) := KeepsOut.runCmd h (fun _ _ hk => KeepsEff.ends hk)

theorem KeepsOut.execQueryCaps {s₀ : State} {fn q : Nat} {s : State} (h : Keeps s₀ s) :
    KeepsOut s₀ (execQueryCaps fn q s) := KeepsOut.runCmd h (fun _ _ hk => KeepsEff.ite (KeepsEff.putResult hk) (KeepsEff.fails hk))

theorem KeepsOut.execQueueCreate {s₀ : State} {fn q : Nat} {s : State} (h : Keeps s₀ s) :
    KeepsOut s₀ (execQueueCreate fn q s) := KeepsOut.runCmd h (fun _ _ hk => KeepsEff.createQueue hk)

theorem KeepsOut.execQueueDelete {s₀ : State} {fn q : Nat} {s : State} (h : Keeps s₀ s) :
    KeepsOut s₀ (execQueueDelete fn q s) := KeepsOut.runCmd h (fun _ _ hk => KeepsEff.deleteQueue hk)

theorem KeepsOut.execNoticeRingSet {s₀ : State} {fn q : Nat} {s : State} (h : Keeps s₀ s) :
    KeepsOut s₀ (execNoticeRingSet fn q s) := KeepsOut.runCmd h (fun _ _ hk => KeepsEff.setNoticeRing hk)

theorem KeepsEff.atCommit {s₀ s : State} {c : Cmd} {t : Nat} {op : CommitOp} (h : Keeps s₀ s) :
    KeepsEff s₀ (s.atCommit c t op) := by
  unfold State.atCommit
  dsimp only
  split
  · exact KeepsEff.endsAs h (fun _ _ hk => h.commitEffect hk)
  · split
    · exact KeepsEff.ite (.mk h.same) (KeepsEff.fails h)
    · exact .mk h.same

theorem KeepsEff.allocCmd {s₀ s : State} {c : Cmd} {t : Nat} (h : Keeps s₀ s) :
    KeepsEff s₀ (s.allocCmd c t) := KeepsEff.ite (KeepsEff.fails h) (KeepsEff.ite (KeepsEff.fails h) (KeepsEff.atCommit h))

theorem KeepsEff.freeCmd {s₀ s : State} {c : Cmd} {t : Nat} (h : Keeps s₀ s) :
    KeepsEff s₀ (s.freeCmd c t) := KeepsEff.ite (KeepsEff.fails h) (KeepsEff.ite (KeepsEff.fails h) (KeepsEff.atCommit h))

theorem KeepsEff.mapCmd {s₀ s : State} {fn : Nat} {c : Cmd} (h : Keeps s₀ s) :
    KeepsEff s₀ (s.mapCmd fn c) := by
  unfold State.mapCmd
  dsimp only
  split
  · exact KeepsEff.fails h
  · split
    · exact KeepsEff.ite (KeepsEff.fails h) (KeepsEff.ite (KeepsEff.fails h) (KeepsEff.atCommit h))
    · split
      · exact KeepsEff.fails h
      · exact KeepsEff.ite (KeepsEff.fails h) (KeepsEff.ite (KeepsEff.fails h) (KeepsEff.ite (KeepsEff.fails h) (KeepsEff.atCommit h)))

theorem KeepsEff.copyCmd {s₀ s : State} {c : Cmd} {t : Nat} {adm : Option Verdict} (h : Keeps s₀ s) :
    KeepsEff s₀ (s.copyCmd c t adm) := by
  unfold State.copyCmd
  split
  · exact KeepsEff.fails h
  · split
    · exact KeepsEff.fails h
    · refine KeepsEff.admitted h ?_
      dsimp only
      exact .mk (h.copyOp rfl)

theorem Keeps.beginMoves {s₀ s : State} {t tier : Nat} {cmd : CmdId} {since : Nat} {l : List Nat} {u : State} (h : Keeps s₀ s)
    (e : s.beginMoves t tier cmd since l = some u) : Keeps s₀ u := by
  induction l generalizing s with
  | nil =>
    cases e
    exact h
  | cons page rest ih =>
    unfold State.beginMoves at e
    split at e
    · cases e
    · split at e
      · cases e
      · rename_i dst m e1
        have h1 : KeepsMem s₀ m := h.memState.takePlace e1
        exact ih (Keeps.modPage (h.withMem h1.same)) e

theorem KeepsEff.migrateCmd {s₀ s : State} {c : Cmd} {t : Nat} {adm : Option Verdict} (h : Keeps s₀ s) :
    KeepsEff s₀ (s.migrateCmd c t adm) := by
  unfold State.migrateCmd
  dsimp only
  split
  · exact KeepsEff.fails h
  · split
    · exact KeepsEff.fails h
    · split
      · split
        · exact KeepsEff.fails h
        · split
          · exact KeepsEff.fails h
          · split
            · exact KeepsEff.fails h
            · refine KeepsEff.admitted h ?_
              split
              · exact KeepsEff.ends h
              · split
                · exact .mk (h.wakeCodec.beginMoves ‹_›)
                · exact KeepsEff.fails h
      · exact KeepsEff.fails h

theorem KeepsEff.loadModel {s₀ s : State} {c : Cmd} {t : Nat} (h : Keeps s₀ s) : KeepsEff s₀ (s.loadModel c t) := by
  unfold State.loadModel
  dsimp only
  split
  · exact .fails h
  · split
    · exact .fails h
    · split
      · exact .fails h
      · have h1 : Keeps s₀ (s.copyOp t (c.arg 40 8) (c.arg 48 8) (c.arg 56 8)).1 := h.copyOp rfl
        have h2 : KeepsEff s₀ ((s.copyOp t (c.arg 40 8) (c.arg 48 8) (c.arg 56 8)).1.atCommit c t (.lock (c.arg 48 8) (c.arg 56 8))) :=
          .atCommit h1
        split
        · split
          · rename_i e2
            rw [e2] at h2
            exact h2
          · exact h2
        · exact .mk h1

theorem KeepsEff.freeModel {s₀ s : State} {c : Cmd} {t : Nat} (h : Keeps s₀ s) :
    KeepsEff s₀ (s.freeModel c t) := KeepsEff.atCommit h

theorem Keeps.stageLagoon {s₀ s : State} {lg l img : Nat} (h : Keeps s₀ s) : Keeps s₀ (s.stageLagoon lg l img) := by
  unfold State.stageLagoon
  split
  · exact h
  · refine h.modHolm fun k hk => ?_
    extract_lets g
    split
    · have h1 (x : Staged) : KeepsHolm s₀ (({ k with staged := x } : Holm).takeStaged) := KeepsHolm.takeStaged hk.same
      exact (h1 _).same
    · exact hk.same

theorem KeepsEff.setLagoons {s₀ s : State} {c : Cmd} {t : Nat} (h : Keeps s₀ s) :
    KeepsEff s₀ (s.setLagoons c t) := by
  unfold State.setLagoons
  dsimp only
  split
  · exact KeepsEff.fails h
  · split
    · exact KeepsEff.fails h
    · split
      · exact KeepsEff.fails h
      · split
        · exact KeepsEff.fails h
        · split
          · exact KeepsEff.fails h
          · refine KeepsEff.ends ?_
            refine Keeps.foldl h fun t a ht => ?_
            exact ht.stageLagoon

theorem KeepsOut.execRegionAlloc {s₀ : State} {fn q : Nat} {s : State} (h : Keeps s₀ s) :
    KeepsOut s₀ (execRegionAlloc fn q s) := KeepsOut.runVf h (fun _ _ _ hk => KeepsEff.allocCmd hk)

theorem KeepsOut.execRegionFree {s₀ : State} {fn q : Nat} {s : State} (h : Keeps s₀ s) :
    KeepsOut s₀ (execRegionFree fn q s) := KeepsOut.runVf h (fun _ _ _ hk => KeepsEff.freeCmd hk)

theorem KeepsOut.execRegionMap {s₀ : State} {fn q : Nat} {s : State} (h : Keeps s₀ s) :
    KeepsOut s₀ (execRegionMap fn q s) := KeepsOut.runCmd h (fun _ _ hk => KeepsEff.mapCmd hk)

theorem KeepsOut.execCopy {s₀ : State} {fn q : Nat} {adm : Option Verdict} {s : State} (h : Keeps s₀ s) :
    KeepsOut s₀ (execCopy fn q adm s) := KeepsOut.runVf h (fun _ _ _ hk => KeepsEff.copyCmd hk)

theorem KeepsOut.execMigrate {s₀ : State} {fn q : Nat} {adm : Option Verdict} {s : State} (h : Keeps s₀ s) :
    KeepsOut s₀ (execMigrate fn q adm s) := KeepsOut.runVf h (fun _ _ _ hk => KeepsEff.migrateCmd hk)

theorem KeepsOut.execModelLoad {s₀ : State} {fn q : Nat} {s : State} (h : Keeps s₀ s) :
    KeepsOut s₀ (execModelLoad fn q s) := KeepsOut.runVf h (fun _ _ _ hk => KeepsEff.loadModel hk)

theorem KeepsOut.execLagoonSet {s₀ : State} {fn q : Nat} {s : State} (h : Keeps s₀ s) :
    KeepsOut s₀ (execLagoonSet fn q s) := KeepsOut.runVf h (fun _ _ _ hk => KeepsEff.setLagoons hk)

theorem KeepsOut.execModelFree {s₀ : State} {fn q : Nat} {s : State} (h : Keeps s₀ s) :
    KeepsOut s₀ (execModelFree fn q s) := KeepsOut.runVf h (fun _ _ _ hk => KeepsEff.freeModel hk)

theorem KeepsEff.createPool {s₀ s : State} {c : Cmd} {t : Nat} (h : Keeps s₀ s) :
    KeepsEff s₀ (s.createPool c t) := by
  unfold State.createPool
  dsimp only
  split
  · exact KeepsEff.fails h
  · split
    · split
      · exact KeepsEff.ends (h.putKv ((KeepsKv.kvCtx h ‹_›).poolCreate ‹_›))
      · exact KeepsEff.fails h
    · exact KeepsEff.fails h

theorem KeepsEff.seqCmd {s₀ s : State} {c : Cmd} {t : Nat} {buf : Option Nat} {op : SeqOp} (h : Keeps s₀ s) :
    KeepsEff s₀ (s.seqCmd c t buf op) := KeepsEff.ite (KeepsEff.fails h) (KeepsEff.atCommit h)

theorem KeepsEff.forkCmd {s₀ s : State} {c : Cmd} {t : Nat} (h : Keeps s₀ s) :
    KeepsEff s₀ (s.forkCmd c t) := by
  unfold State.forkCmd
  split
  · exact KeepsEff.fails h
  · split
    · exact KeepsEff.ite (KeepsEff.fails h) (KeepsEff.seqCmd h)
    · exact KeepsEff.fails h

theorem KeepsEff.appendCmd {s₀ s : State} {c : Cmd} {t : Nat} {adm : Option Verdict} (h : Keeps s₀ s) :
    KeepsEff s₀ (s.appendCmd c t adm) := by
  unfold State.appendCmd
  dsimp only
  split
  · exact KeepsEff.fails h
  · split
    · exact KeepsEff.fails h
    · split
      · exact KeepsEff.fails h
      · split
        · exact KeepsEff.fails h
        · split
          · exact KeepsEff.fails h
          · refine KeepsEff.admitted h ?_
            split
            · exact KeepsEff.fails h
            · split
              · exact KeepsEff.fails h
              · exact KeepsEff.ite (.mk (h.putKv (((KeepsKv.kvCtx h ‹_›).append ‹_›).commitUnit))) (KeepsEff.fails h)

theorem KeepsEff.freePool {s₀ s : State} {c : Cmd} {t : Nat} (h : Keeps s₀ s) :
    KeepsEff s₀ (s.freePool c t) := by
  unfold State.freePool
  dsimp only
  split
  · exact KeepsEff.fails h
  · exact KeepsEff.ite (KeepsEff.fails h) (KeepsEff.ends h.same)

theorem KeepsOut.execPoolCreate {s₀ : State} {fn q : Nat} {s : State} (h : Keeps s₀ s) :
    KeepsOut s₀ (execPoolCreate fn q s) := KeepsOut.runVf h (fun _ _ _ hk => KeepsEff.createPool hk)

theorem KeepsOut.execSeqCreate {s₀ : State} {fn q : Nat} {s : State} (h : Keeps s₀ s) :
    KeepsOut s₀ (execSeqCreate fn q s) := KeepsOut.runVf h (fun _ _ _ hk => KeepsEff.seqCmd hk)

theorem KeepsOut.execSeqFork {s₀ : State} {fn q : Nat} {s : State} (h : Keeps s₀ s) :
    KeepsOut s₀ (execSeqFork fn q s) := KeepsOut.runVf h (fun _ _ _ hk => KeepsEff.forkCmd hk)

theorem KeepsOut.execSeqAppend {s₀ : State} {fn q : Nat} {adm : Option Verdict} {s : State} (h : Keeps s₀ s) :
    KeepsOut s₀ (execSeqAppend fn q adm s) := KeepsOut.runVf h (fun _ _ _ hk => KeepsEff.appendCmd hk)

theorem KeepsOut.execSeqTruncate {s₀ : State} {fn q : Nat} {s : State} (h : Keeps s₀ s) :
    KeepsOut s₀ (execSeqTruncate fn q s) := KeepsOut.runVf h (fun _ _ _ hk => KeepsEff.seqCmd hk)

theorem KeepsOut.execSeqFree {s₀ : State} {fn q : Nat} {s : State} (h : Keeps s₀ s) :
    KeepsOut s₀ (execSeqFree fn q s) := KeepsOut.runVf h (fun _ _ _ hk => KeepsEff.seqCmd hk)

theorem KeepsOut.execPoolFree {s₀ : State} {fn q : Nat} {s : State} (h : Keeps s₀ s) :
    KeepsOut s₀ (execPoolFree fn q s) := KeepsOut.runVf h (fun _ _ _ hk => KeepsEff.freePool hk)

theorem KeepsEff.planRefused {s₀ s : State} {adm : Admission} {terms : List Verdict} {r : State.CmdEff} (h : Keeps s₀ s)
    (e : s.planRefused adm terms = some r) : KeepsEff s₀ r := by
  obtain ⟨v, -, rfl⟩ := Option.map_eq_some_iff.mp e
  exact .mk (h.takeFree rfl)

theorem Keeps.addWork {s₀ s : State} {w : Work} (h : Keeps s₀ s) :
    Keeps s₀ (s.addWork w) := h.same

theorem KeepsEff.submitPlan {s₀ s : State} {c : Cmd} {t : Nat} {adm : Admission} (h : Keeps s₀ s) :
    KeepsEff s₀ (s.submitPlan c t adm) := by
  unfold State.submitPlan
  split
  · exact KeepsEff.fails h
  · split
    · exact KeepsEff.fails h
    · split
      · exact KeepsEff.planRefused h ‹_›
      · exact KeepsEff.ends h.same.addWork

theorem KeepsEff.startPlan {s₀ s : State} {c : Cmd} {t : Nat} (h : Keeps s₀ s) :
    KeepsEff s₀ (s.startPlan c t) := by
  unfold State.startPlan
  dsimp only
  split
  · exact KeepsEff.fails h
  · exact KeepsEff.ite (KeepsEff.fails h) (KeepsEff.ite (KeepsEff.fails h) (KeepsEff.ite (KeepsEff.fails h) (.mk h.modWork)))

theorem KeepsEff.stopCmd {s₀ s : State} {c : Cmd} {t : Nat} (h : Keeps s₀ s) :
    KeepsEff s₀ (s.stopCmd c t) := by
  unfold State.stopCmd
  split
  · exact KeepsEff.fails h
  · exact KeepsEff.ite (KeepsEff.fails h) (.mk h.modWork)

theorem KeepsEff.updatePlan {s₀ s : State} {c : Cmd} {t : Nat} {adm : Admission} (h : Keeps s₀ s) :
    KeepsEff s₀ (s.updatePlan c t adm) := by
  unfold State.updatePlan
  split
  · exact KeepsEff.fails h
  · dsimp only
    split
    · exact KeepsEff.fails h
    · split
      · exact KeepsEff.fails h
      · split
        · exact KeepsEff.fails h
        · split
          · exact KeepsEff.fails h
          · split
            · exact KeepsEff.fails h
            · split
              · exact KeepsEff.planRefused h ‹_›
              · exact KeepsEff.ite (.mk h.modWork.modWork) (KeepsEff.ends h.modWork.modWork)

theorem KeepsEff.freePlan {s₀ s : State} {c : Cmd} {t : Nat} (h : Keeps s₀ s) :
    KeepsEff s₀ (s.freePlan c t) := by
  unfold State.freePlan
  split
  · exact KeepsEff.fails h
  · exact KeepsEff.ite (KeepsEff.fails h) (KeepsEff.ends h.same.checkExcess)

theorem Keeps.installStage {s₀ s : State} {st : Stage} {lg : Nat} (h : Keeps s₀ s) :
    Keeps s₀ (s.installStage st lg) := by
  unfold State.installStage
  split
  · exact h
  · exact Keeps.ite h (h.modHolm (fun _ hk => KeepsHolm.ite hk.takeNewStage hk.same))

theorem KeepsEff.loadNative {s₀ s : State} {c : Cmd} {t : Nat} (h : Keeps s₀ s) : KeepsEff s₀ (s.loadNative c t) := by
  unfold State.loadNative
  split
  · exact .fails h
  · split
    · exact .fails h
    · split
      · exact .fails h
      · split
        rename_i k s1 e1
        extract_lets s2
        have h1 : Keeps s₀ s1 := h.newHandle e1
        have h2 : Keeps s₀ s2 := h1.foldl fun _ _ ht => ht.foldl fun _ _ hu => hu.installStage
        exact .ends h2.same

theorem KeepsEff.waits {s₀ s : State} {c : Cmd} (h : Keeps s₀ s) :
    KeepsEff s₀ (s.waits c) := h.same

theorem KeepsEff.runNative {s₀ s : State} {c : Cmd} {t : Nat} (h : Keeps s₀ s) :
    KeepsEff s₀ (s.runNative c t) := by
  unfold State.runNative
  split
  · exact KeepsEff.fails h
  · exact KeepsEff.ite (KeepsEff.fails h) (KeepsEff.ite (KeepsEff.fails h) (KeepsEff.ite (KeepsEff.waits h) (.mk h.addWork.beginWork)))

theorem KeepsEff.freeNative {s₀ s : State} {c : Cmd} {t : Nat} (h : Keeps s₀ s) :
    KeepsEff s₀ (s.freeNative c t) := by
  unfold State.freeNative
  dsimp only
  split
  · exact KeepsEff.fails h
  · exact KeepsEff.ite (KeepsEff.fails h) (KeepsEff.ends h.same)

theorem KeepsOut.execPlanSubmit {s₀ : State} {fn q : Nat} {adm : Admission} {s : State} (h : Keeps s₀ s) :
    KeepsOut s₀ (execPlanSubmit fn q adm s) := KeepsOut.runVf h (fun _ _ _ hk => KeepsEff.submitPlan hk)

theorem KeepsOut.execPlanStart {s₀ : State} {fn q : Nat} {s : State} (h : Keeps s₀ s) :
    KeepsOut s₀ (execPlanStart fn q s) := KeepsOut.runVf h (fun _ _ _ hk => KeepsEff.startPlan hk)

theorem KeepsOut.execPlanStop {s₀ : State} {fn q : Nat} {s : State} (h : Keeps s₀ s) :
    KeepsOut s₀ (execPlanStop fn q s) := KeepsOut.runVf h (fun _ _ _ hk => KeepsEff.stopCmd hk)

theorem KeepsOut.execPlanStageUpdate {s₀ : State} {fn q : Nat} {adm : Admission} {s : State} (h : Keeps s₀ s) :
    KeepsOut s₀ (execPlanStageUpdate fn q adm s) := KeepsOut.runVf h (fun _ _ _ hk => KeepsEff.updatePlan hk)

theorem KeepsOut.execPlanFree {s₀ : State} {fn q : Nat} {s : State} (h : Keeps s₀ s) :
    KeepsOut s₀ (execPlanFree fn q s) := KeepsOut.runVf h (fun _ _ _ hk => KeepsEff.freePlan hk)

theorem KeepsOut.execNativeLoad {s₀ : State} {fn q : Nat} {s : State} (h : Keeps s₀ s) :
    KeepsOut s₀ (execNativeLoad fn q s) := KeepsOut.runVf h (fun _ _ _ hk => KeepsEff.loadNative hk)

theorem KeepsOut.execNativeRun {s₀ : State} {fn q : Nat} {s : State} (h : Keeps s₀ s) :
    KeepsOut s₀ (execNativeRun fn q s) := KeepsOut.runVf h (fun _ _ _ hk => KeepsEff.runNative hk)

theorem KeepsOut.execNativeFree {s₀ : State} {fn q : Nat} {s : State} (h : Keeps s₀ s) :
    KeepsOut s₀ (execNativeFree fn q s) := KeepsOut.runVf h (fun _ _ _ hk => KeepsEff.freeNative hk)

end Sys2Proof.Machine
end

section
/-! SUPPORT. What work commands, archipelagos, management, function resets, upkeep and a nanosecond keep. -/

set_option Elab.async false

namespace Sys2Proof.Machine

theorem Keeps.runEntry {s₀ s : State} {t raw : Nat} {u : State} {r : Status} (h : Keeps s₀ s)
    (e : s.runEntry t raw = (u, r)) : Keeps s₀ u := by
  unfold State.runEntry at e
  split at e
  · split at e
    · exact h.gemmOp e
    · cases e
      exact h
  · split at e
    · exact h.attendOp e
    · cases e
      exact h

theorem KeepsEff.workCmd {s₀ s : State} {c : Cmd} {t : Nat} {adm : Option Verdict} (h : Keeps s₀ s) :
    KeepsEff s₀ (s.workCmd c t adm) := by
  unfold State.workCmd
  split
  · exact KeepsEff.fails h
  · refine KeepsEff.admitted h ?_
    split
    · exact KeepsEff.waits h
    · dsimp only
      exact .mk (h.runEntry rfl)

theorem KeepsEff.runBatch {s₀ s : State} {t : Nat} {l : List Nat} {i : Nat} {low : Bool} (h : Keeps s₀ s) :
    KeepsEff s₀ (State.runBatch t l i low s) := by
  induction l generalizing i low s with
  | nil => exact .mk h
  | cons raw rest ih =>
    have h1 : Keeps s₀ (s.runEntry t raw).1 := h.runEntry rfl
    unfold State.runBatch
    dsimp only
    split
    · exact ih h1
    · exact .mk h1

theorem KeepsEff.batchCmd {s₀ s : State} {c : Cmd} {t : Nat} {adm : Option Verdict} (h : Keeps s₀ s) :
    KeepsEff s₀ (s.batchCmd c t adm) := by
  unfold State.batchCmd
  split
  · exact .mk h
  · dsimp only
    split
    · exact .mk h
    · split
      · exact .mk h
      · exact KeepsEff.admitted h (KeepsEff.ite (KeepsEff.waits h) (KeepsEff.runBatch h))

theorem KeepsEff.collCmd {s₀ s : State} {c : Cmd} {t : Nat} {adm : Option Verdict} (h : Keeps s₀ s) :
    KeepsEff s₀ (s.collCmd c t adm) := by
  unfold State.collCmd
  split
  · exact KeepsEff.fails h
  · dsimp only
    split
    · exact KeepsEff.fails h
    · split
      · exact KeepsEff.fails h
      · exact KeepsEff.ite (KeepsEff.fails h) (KeepsEff.admitted h (.mk h.addWork.startColl))

theorem KeepsOut.execAttend {s₀ : State} {fn q : Nat} {adm : Option Verdict} {s : State} (h : Keeps s₀ s) :
    KeepsOut s₀ (execAttend fn q adm s) := KeepsOut.runVf h (fun _ _ _ hk => KeepsEff.workCmd hk)

theorem KeepsOut.execGemm {s₀ : State} {fn q : Nat} {adm : Option Verdict} {s : State} (h : Keeps s₀ s) :
    KeepsOut s₀ (execGemm fn q adm s) := KeepsOut.runVf h (fun _ _ _ hk => KeepsEff.workCmd hk)

theorem KeepsOut.execBatch {s₀ : State} {fn q : Nat} {adm : Option Verdict} {s : State} (h : Keeps s₀ s) :
    KeepsOut s₀ (execBatch fn q adm s) := KeepsOut.runVf h (fun _ _ _ hk => KeepsEff.batchCmd hk)

theorem KeepsOut.execCollective {s₀ : State} {fn q : Nat} {adm : Option Verdict} {s : State} (h : Keeps s₀ s) :
    KeepsOut s₀ (execCollective fn q adm s) := KeepsOut.runVf h (fun _ _ _ hk => KeepsEff.collCmd hk)

theorem Keeps.keyDrawn {s₀ s : State} (h : Keeps s₀ s) :
    Keeps s₀ (s.keyDrawn) := h.same

theorem Keeps.closeWindow {s₀ s : State} {i : Nat} (h : Keeps s₀ s) :
    Keeps s₀ (s.closeWindow i) := h.same

theorem KeepsEff.putWindow {s₀ s : State} {f : Nat → Nat → Window} (h : Keeps s₀ s) : KeepsEff s₀ (s.putWindow f) := by
  unfold State.putWindow
  cases s.freeWindow with
  | none => exact .fails h
  | some i => exact .ends (Keeps.same h.keyDrawn)

theorem KeepsEff.openMemory {s₀ s : State} {c : Cmd} {t : Nat} (h : Keeps s₀ s) :
    KeepsEff s₀ (s.openMemory c t) := KeepsEff.ite (KeepsEff.fails h) (KeepsEff.ite (KeepsEff.fails h) (KeepsEff.ite (KeepsEff.fails h)
        (KeepsEff.ite (KeepsEff.fails h) (KeepsEff.putWindow h))))

theorem KeepsEff.openScratch {s₀ s : State} {c : Cmd} {t : Nat} (h : Keeps s₀ s) :
    KeepsEff s₀ (s.openScratch c t) := by
  unfold State.openScratch
  dsimp only
  split
  · exact KeepsEff.fails h
  · split
    · exact KeepsEff.fails h
    · split
      · exact KeepsEff.fails h
      · exact KeepsEff.ite (KeepsEff.fails h) (KeepsEff.ite (KeepsEff.fails h) (KeepsEff.putWindow h))

theorem KeepsEff.openCmd {s₀ s : State} {c : Cmd} {t : Nat} (h : Keeps s₀ s) :
    KeepsEff s₀ (s.openCmd c t) := by
  unfold State.openCmd
  split
  · exact KeepsEff.openMemory h
  · exact KeepsEff.openScratch h
  · exact KeepsEff.fails h

theorem KeepsEff.closeCmd {s₀ s : State} {c : Cmd} {t : Nat} (h : Keeps s₀ s) :
    KeepsEff s₀ (s.closeCmd c t) := by
  unfold State.closeCmd
  dsimp only
  split
  · exact KeepsEff.ite (KeepsEff.ends h.closeWindow) (KeepsEff.fails h)
  · exact KeepsEff.fails h

theorem Keeps.modArch {s₀ s : State} {a : Nat} {f : Arch → Arch} (h : Keeps s₀ s) :
    Keeps s₀ (s.modArch a f) := h.same

theorem KeepsEff.joinCmd {s₀ s : State} {c : Cmd} {t : Nat} (h : Keeps s₀ s) : KeepsEff s₀ (s.joinCmd c t) := by
  unfold State.joinCmd
  extract_lets id
  split
  · exact .fails h
  · split
    · exact .ends h
    · split
      · exact .fails h
      · exact .ends h.keyDrawn.modArch

theorem KeepsEff.leaveCmd {s₀ s : State} {c : Cmd} {t : Nat} (h : Keeps s₀ s) :
    KeepsEff s₀ (s.leaveCmd c t) := by
  unfold State.leaveCmd
  dsimp only
  split
  · exact KeepsEff.fails h
  · split
    · exact KeepsEff.fails h
    · refine KeepsEff.ends (Keeps.modArch ?_)
      split
      · exact h.closeWindow
      · exact h

theorem Keeps.defineArch {s₀ s : State} {id t own : Nat} {ms : AMap (Nat × Nat × Nat)} (h : Keeps s₀ s) :
    Keeps s₀ (s.defineArch id t own ms) := by
  unfold State.defineArch
  dsimp only
  refine Keeps.followOffers ?_
  refine Keeps.foldl h.same fun t a ht => ?_
  exact ht.tryUp

theorem KeepsEff.defineCmd {s₀ s : State} {c : Cmd} (h : Keeps s₀ s) :
    KeepsEff s₀ (s.defineCmd c) := by
  unfold State.defineCmd
  dsimp only
  split
  · exact KeepsEff.fails h
  · split
    · exact KeepsEff.fails h
    · split
      · exact KeepsEff.fails h
      · split
        · exact KeepsEff.ite (KeepsEff.fails h) (KeepsEff.ite (KeepsEff.fails h) (KeepsEff.ends h.defineArch))
        · exact KeepsEff.ite (KeepsEff.fails h) (KeepsEff.ends h.defineArch)

theorem Keeps.withdrawPort {s₀ s : State} {i : Nat} (h : Keeps s₀ s) :
    Keeps s₀ (s.withdrawPort i) := by
  unfold State.withdrawPort
  split
  · exact h
  · exact Keeps.ite h.modPort.cutPartials.modPort.reroute.followOffers h.modPort

theorem Keeps.enablePort {s₀ s : State} {id hold : Nat} {on : Bool} {i : Nat} (h : Keeps s₀ s) :
    Keeps s₀ (s.enablePort id hold on i) := Keeps.ite h.modPort.modPort.tryUp h.modPort.withdrawPort

theorem KeepsEff.linkCmd {s₀ s : State} {c : Cmd} (h : Keeps s₀ s) :
    KeepsEff s₀ (s.linkCmd c) := by
  unfold State.linkCmd
  dsimp only
  split
  · exact KeepsEff.fails h
  · split
    · exact KeepsEff.fails h
    · refine KeepsEff.ends ?_
      refine Keeps.foldl h fun t a ht => ?_
      exact ht.enablePort

theorem KeepsOut.execWindowOpen {s₀ : State} {fn q : Nat} {s : State} (h : Keeps s₀ s) :
    KeepsOut s₀ (execWindowOpen fn q s) := KeepsOut.runVf h (fun _ _ _ hk => KeepsEff.openCmd hk)

theorem KeepsOut.execWindowClose {s₀ : State} {fn q : Nat} {s : State} (h : Keeps s₀ s) :
    KeepsOut s₀ (execWindowClose fn q s) := KeepsOut.runVf h (fun _ _ _ hk => KeepsEff.closeCmd hk)

theorem KeepsOut.execSliceJoin {s₀ : State} {fn q : Nat} {s : State} (h : Keeps s₀ s) :
    KeepsOut s₀ (execSliceJoin fn q s) := KeepsOut.runVf h (fun _ _ _ hk => KeepsEff.joinCmd hk)

theorem KeepsOut.execSliceLeave {s₀ : State} {fn q : Nat} {s : State} (h : Keeps s₀ s) :
    KeepsOut s₀ (execSliceLeave fn q s) := KeepsOut.runVf h (fun _ _ _ hk => KeepsEff.leaveCmd hk)

theorem KeepsOut.execSliceDefine {s₀ : State} {fn q : Nat} {s : State} (h : Keeps s₀ s) :
    KeepsOut s₀ (execSliceDefine fn q s) := KeepsOut.runCmd h (fun _ _ hk => KeepsEff.defineCmd hk)

theorem KeepsOut.execLinkEnable {s₀ : State} {fn q : Nat} {s : State} (h : Keeps s₀ s) :
    KeepsOut s₀ (execLinkEnable fn q s) := KeepsOut.runCmd h (fun _ _ hk => KeepsEff.linkCmd hk)

theorem KeepsEff.capCmd {s₀ s : State} {c : Cmd} (h : Keeps s₀ s) :
    KeepsEff s₀ (s.capCmd c) := KeepsEff.ite (KeepsEff.fails h) (KeepsEff.ends (((Keeps.ite ((Keeps.ite (Keeps.ite h.modPow
        h.modPow.modPow.notice.noticeTenants) h.modPow.endExcess.modPow).notice) (Keeps.ite (Keeps.ite h.modPow
        h.modPow.modPow.notice.noticeTenants) h.modPow.endExcess.modPow)).modPow).dividePower))

theorem KeepsEff.energyCmd {s₀ s : State} {c : Cmd} (h : Keeps s₀ s) :
    KeepsEff s₀ (s.energyCmd c) := by
  unfold State.energyCmd
  split
  · exact KeepsEff.fails h
  · split
    · exact KeepsEff.ends h
    · exact KeepsEff.fails h

theorem Keeps.newTenant {s₀ s : State} {t vf : Nat} {q : Quotas} (h : Keeps s₀ s) :
    Keeps s₀ (s.newTenant t vf q) := h.same

theorem KeepsEff.createTenant {s₀ s : State} {c : Cmd} (h : Keeps s₀ s) :
    KeepsEff s₀ (s.createTenant c) := by
  unfold State.createTenant
  dsimp only
  split
  · exact KeepsEff.fails h
  · split
    · exact KeepsEff.ite (KeepsEff.fails h) (KeepsEff.ite (KeepsEff.fails h) (KeepsEff.ends h.same))
    · exact KeepsEff.ite (KeepsEff.fails h) (KeepsEff.ends h.wakeAll.newTenant)

theorem Keeps.dropTenant {s₀ s : State} {t : Nat} (h : Keeps s₀ s) : Keeps s₀ (s.dropTenant t) := by
  refine h.withHolms ?_
  unfold State.dropTenant
  rw [List.forall_mem_map]
  intro e he
  have hk : KeepsHolm s₀ e.2 := fun h0 => (h.mem h0).2.2.2 e he
  exact .ite hk.same hk

theorem KeepsEff.destroyTenant {s₀ s : State} {c : Cmd} (h : Keeps s₀ s) :
    KeepsEff s₀ (s.destroyTenant c) := KeepsEff.ite (KeepsEff.fails h) (KeepsEff.ite (KeepsEff.fails h) (KeepsEff.ends h.dropTenant))

theorem KeepsEff.setPartition {s₀ s : State} {c : Cmd} (h : Keeps s₀ s) :
    KeepsEff s₀ (s.setPartition c) := KeepsEff.ite (KeepsEff.fails h) (KeepsEff.ite (KeepsEff.fails h) (.mk h.same.idleParts))

theorem Keeps.firmwareLog {s₀ s : State} {release what : Nat} (h : Keeps s₀ s) :
    Keeps s₀ (s.firmwareLog release what) := h.same

theorem KeepsEff.stageImage {s₀ s : State} {c : Cmd} {authentic : Bool} (h : Keeps s₀ s) :
    KeepsEff s₀ (s.stageImage c authentic) := by
  unfold State.stageImage
  split
  · exact KeepsEff.waits h
  · split
    · exact KeepsEff.fails h
    · dsimp only
      split
      · exact KeepsEff.fails h
      · exact KeepsEff.ite (KeepsEff.fails h) (KeepsEff.ite (KeepsEff.fails h) (KeepsEff.ite (KeepsEff.fails h) (KeepsEff.ends
          h.same.firmwareLog)))

theorem KeepsEff.activateCmd {s₀ s : State} {c : Cmd} (h : Keeps s₀ s) :
    KeepsEff s₀ (s.activateCmd c) := by
  unfold State.activateCmd
  split
  · exact KeepsEff.fails h
  · exact KeepsEff.ite (KeepsEff.fails h) (KeepsEff.ite (KeepsEff.fails h) (.mk h.same))

theorem Keeps.handover {s₀ s : State} {faulted : Bool} (h : Keeps s₀ s) :
    Keeps s₀ (s.handover faulted) := by
  unfold State.handover
  split
  · split
    · exact h
    · split
      · exact Keeps.ite h.same.endCmd h.same
      · dsimp only
        refine Keeps.foldl h.same.firmwareLog.endCmd fun t a ht => ?_
        exact ht.notice
  · exact h

theorem KeepsEff.setParity {s₀ s : State} {c : Cmd} (h : Keeps s₀ s) :
    KeepsEff s₀ (s.setParity c) := h.same

theorem KeepsEff.registerTier3 {s₀ s : State} {c : Cmd} (h : Keeps s₀ s) :
    KeepsEff s₀ (s.registerTier3 c) := KeepsEff.ite (KeepsEff.fails h) (KeepsEff.ite (KeepsEff.fails h) (KeepsEff.ite (KeepsEff.fails h)
        (KeepsEff.ends h.same)))

theorem KeepsOut.execCapSet {s₀ : State} {fn q : Nat} {s : State} (h : Keeps s₀ s) :
    KeepsOut s₀ (execCapSet fn q s) := KeepsOut.runCmd h (fun _ _ hk => KeepsEff.capCmd hk)

theorem KeepsOut.execEnergyRead {s₀ : State} {fn q : Nat} {s : State} (h : Keeps s₀ s) :
    KeepsOut s₀ (execEnergyRead fn q s) := KeepsOut.runCmd h (fun _ _ hk => KeepsEff.energyCmd hk)

theorem KeepsOut.execTenantCreate {s₀ : State} {fn q : Nat} {s : State} (h : Keeps s₀ s) :
    KeepsOut s₀ (execTenantCreate fn q s) := KeepsOut.runCmd h (fun _ _ hk => KeepsEff.createTenant hk)

theorem KeepsOut.execTenantDestroy {s₀ : State} {fn q : Nat} {s : State} (h : Keeps s₀ s) :
    KeepsOut s₀ (execTenantDestroy fn q s) := KeepsOut.runCmd h (fun _ _ hk => KeepsEff.destroyTenant hk)

theorem KeepsOut.execPartitionSet {s₀ : State} {fn q : Nat} {s : State} (h : Keeps s₀ s) :
    KeepsOut s₀ (execPartitionSet fn q s) := KeepsOut.runCmd h (fun _ _ hk => KeepsEff.setPartition hk)

theorem KeepsOut.execFirmwareStage {s₀ : State} {fn q : Nat} {authentic : Bool} {s : State} (h : Keeps s₀ s) :
    KeepsOut s₀ (execFirmwareStage fn q authentic s) := KeepsOut.runCmd h (fun _ _ hk => KeepsEff.stageImage hk)

theorem KeepsOut.execFirmwareActivate {s₀ : State} {fn q : Nat} {s : State} (h : Keeps s₀ s) :
    KeepsOut s₀ (execFirmwareActivate fn q s) := KeepsOut.runCmd h (fun _ _ hk => KeepsEff.activateCmd hk)

theorem KeepsOut.execFirmwareHandover {s₀ : State} {faulted : Bool} {s : State} (h : Keeps s₀ s) :
    KeepsOut s₀ (execFirmwareHandover faulted s) := .next h.handover

theorem KeepsOut.execParitySet {s₀ : State} {fn q : Nat} {s : State} (h : Keeps s₀ s) :
    KeepsOut s₀ (execParitySet fn q s) := KeepsOut.runCmd h (fun _ _ hk => KeepsEff.setParity hk)

theorem KeepsOut.execTier3Register {s₀ : State} {fn q : Nat} {s : State} (h : Keeps s₀ s) :
    KeepsOut s₀ (execTier3Register fn q s) := KeepsOut.runCmd h (fun _ _ hk => KeepsEff.registerTier3 hk)

theorem Keeps.resetFunction {s₀ s : State} {fn : Nat} (h : Keeps s₀ s) :
    Keeps s₀ (s.resetFunction fn) := by
  unfold State.resetFunction
  dsimp only
  have h1 : Keeps s₀ (List.foldl (fun s v => s.dropMove v) s (List.filter (fun v => Option.any (fun id => id.1 == fn) v.cmd)
      s.mem.moves)) := by
    refine Keeps.foldl h fun t a ht => ?_
    exact ht.dropMove
  exact h1.same

theorem Keeps.endRecovery {s₀ s : State} {w : Nat} (h : Keeps s₀ s) :
    Keeps s₀ (s.endRecovery w) := by
  unfold State.endRecovery
  dsimp only
  have h1 : Keeps s₀ (List.foldl (fun s c => s.swapHolm c) s (List.filter (fun c => c.work == w && c.row == 0 && !c.swapped)
      s.flt.recovery)) := by
    refine Keeps.foldl h fun t a ht => ?_
    exact ht.swapHolm
  exact h1.same

theorem Keeps.endWork {s₀ s : State} {w t : Nat} (h : Keeps s₀ s) : Keeps s₀ (s.endWork w t) := by
  unfold State.endWork
  extract_lets s1 s2 s3
  have h2 : Keeps s₀ s2 := Keeps.foldl h.endRecovery.failWork fun _ _ ht => ht.leaveHolm
  have h3 : Keeps s₀ s3 := h2.commitAppends rfl
  clear_value s3
  exact h3.same

theorem Keeps.dropPools {s₀ s : State} {t : Nat} (h : Keeps s₀ s) :
    Keeps s₀ (s.dropPools t) := h.same

theorem Keeps.dropPages {s₀ s : State} {t : Nat} (h : Keeps s₀ s) : Keeps s₀ (s.dropPages t) := by
  unfold State.dropPages
  extract_lets s1
  have h1 : Keeps s₀ s1 := h.foldl fun _ _ ht => ht.dropMove
  split
  · exact h1
  · exact h1.withMem (h1.memState.foldl fun _ _ hm => hm.dropPlace)

theorem Keeps.dropObjects {s₀ s : State} {t : Nat} (h : Keeps s₀ s) :
    Keeps s₀ (s.dropObjects t) := by
  unfold State.dropObjects
  dsimp only
  refine (Keeps.dropPools ?_).dropPages
  refine Keeps.foldl ?_ fun t a ht => ?_
  · refine Keeps.foldl h.same fun t a ht => ?_
    exact ht.closeWindow
  · refine Keeps.modArch ?_
    split
    · exact ht.closeWindow
    · exact ht

theorem KeepsHolm.wiped {s₀ : State} {h : Holm} (hh : KeepsHolm s₀ h) :
    KeepsHolm s₀ (h.wiped) := by
  unfold Holm.wiped
  dsimp only
  split
  · exact hh.dropLagoon.setLagoon.same
  · exact hh.dropLagoon.setLagoon.same
  · exact hh.dropLagoon.setLagoon.same

theorem Keeps.wipeHolms {s₀ s : State} {t : Nat} (h : Keeps s₀ s) :
    Keeps s₀ (s.wipeHolms t) := by
  unfold State.wipeHolms
  refine Keeps.foldl h fun t a ht => ?_
  split
  · exact ht.modHolm (fun _ hk => hk.wiped)
  · exact ht

theorem Keeps.resetVf {s₀ s : State} {v : Nat} (h : Keeps s₀ s) :
    Keeps s₀ (s.resetVf v) := by
  unfold State.resetVf
  split
  · exact h.resetFunction
  · dsimp only
    refine ((Keeps.dropObjects ?_).wipeHolms).checkExcess
    refine Keeps.foldl h.resetFunction fun t a ht => ?_
    exact ht.endWork

theorem Keeps.disableVfs {s₀ s : State} (h : Keeps s₀ s) :
    Keeps s₀ (s.disableVfs) := by
  unfold State.disableVfs
  dsimp only
  refine Keeps.modBoot ?_
  split
  · refine Keeps.foldl h fun t a ht => ?_
    exact ht.resetVf
  · exact h

theorem KeepsOut.execFlrVf {s₀ : State} {v : Nat} {s : State} (h : Keeps s₀ s) :
    KeepsOut s₀ (execFlrVf v s) := .next (Keeps.ite h.resetVf h)

theorem KeepsOut.execFlrPf0 {s₀ s : State} (h : Keeps s₀ s) :
    KeepsOut s₀ (execFlrPf0 s) := .next (Keeps.ite h.resetFunction.disableVfs h)

theorem KeepsOut.execVfEnableWrite {s₀ : State} {on : Bool} {num : Nat} {s : State} (h : Keeps s₀ s) :
    KeepsOut s₀ (execVfEnableWrite on num s) := .next (Keeps.ite h (Keeps.ite h.disableVfs (Keeps.ite h h.modBoot)))

theorem Keeps.modWalk {s₀ s : State} {i : Nat} {f : Walk → Walk} (h : Keeps s₀ s) :
    Keeps s₀ (s.modWalk i f) := h.same

theorem Keeps.serveWalk {s₀ s : State} {w : Walk} {lost : Bool} (h : Keeps s₀ s) :
    Keeps s₀ (s.serveWalk w lost) := by
  unfold State.serveWalk
  split
  · exact h.modWalk
  · dsimp only
    split
    · refine ((h.touch.takeFree rfl).setHolm ?_).modWalk
      refine KeepsHolm.foldl ?_ fun t a ht => ?_
      · refine KeepsHolm.foldl ((h.touch.takeFree rfl).holm) fun t a ht => ?_
        exact ht.putBytes
      · exact ht.spoil
    · exact (Keeps.ite ((h.takeFree rfl).modHolm (fun _ hk => hk.spoil)) (h.takeFree rfl)).modWalk

theorem Keeps.closeWalk {s₀ s : State} {w : Walk} (h : Keeps s₀ s) : Keeps s₀ (s.closeWalk w) := by
  unfold State.closeWalk
  extract_lets h0 h1 c h2 s1
  have k0 : KeepsHolm s₀ h0 := h.holm.foldl fun _ _ hk => hk.putBytes
  have k1 : KeepsHolm s₀ h1 := k0.modChan
  have k2 : KeepsHolm s₀ h2 := by
    unfold h2
    split
    · exact .ite k1 k1.setChan
    · exact k1
  have hs1 : Keeps s₀ s1 := h.setHolm k2
  exact hs1.same

theorem Keeps.failWalk {s₀ s : State} {w : Walk} {st : Status} (h : Keeps s₀ s) :
    Keeps s₀ (s.failWalk w st) := (h.modHolm (fun _ hk => hk.modChan)).same

theorem Keeps.ownPairs {s₀ s : State} {handle stage layer h0 hcnt : Nat} (h : Keeps s₀ s) :
    Keeps s₀ (s.ownPairs handle stage layer h0 hcnt) := h.same

theorem Keeps.acceptKva {s₀ s : State} {p ch : Nat} (h : Keeps s₀ s) :
    Keeps s₀ (s.acceptKva p ch) := by
  unfold State.acceptKva
  dsimp only
  split
  · split
    · exact h
    · split
      · split
        · exact h.setHolm h.holm.deferred.same
        · split
          · exact h.setHolm h.holm.deferred
          · exact (((h.putKv ((KeepsKv.kvCtx h ‹_›).append ‹_›)).setHolm h.holm.retire.modChan.pump).ownPairs).touch
      · exact h.setHolm h.holm.deferred
  · exact h

theorem Keeps.retireForRow {s₀ s : State} {p bank row : Nat} (h : Keeps s₀ s) :
    Keeps s₀ (s.retireForRow p bank row) := Keeps.ite h ((h.modHolm (fun _ hk => hk.same)).log)

theorem Keeps.mapRow {s₀ s : State} {p bank row : Nat} (h : Keeps s₀ s) :
    Keeps s₀ (s.mapRow p bank row) := by
  unfold State.mapRow
  dsimp only
  split
  · exact h
  · split
    · exact h.setHolm h.holm.same
    · exact h.retireForRow

theorem Keeps.scrub {s₀ s : State} {p line : Nat} {errs : List (Nat × Bool)} (h : Keeps s₀ s) :
    Keeps s₀ (s.scrub p line errs) := Keeps.ite h (Keeps.ite ((h.setHolm h.holm.same).mapRow) (Keeps.ite ((h.setHolm
        h.holm.same).retireForRow) (h.setHolm h.holm.same)))

theorem Keeps.writeRepairs {s₀ s : State} {p : Nat} (h : Keeps s₀ s) : Keeps s₀ (s.writeRepairs p) := by
  have h1 : Keeps s₀ (s.modHolm p fun h => { h with repairRecord := [] }) := h.modHolm fun _ hk => hk.same
  exact h1.same

theorem Keeps.floorFailed {s₀ s : State} {p : Nat} (h : Keeps s₀ s) :
    Keeps s₀ (s.floorFailed p) := by
  unfold State.floorFailed
  split
  · exact Keeps.ite h.fuseOut h
  · exact Keeps.ite h.pulseLoss (Keeps.ite (h.modHolm (fun _ hk => hk.same)) ((h.modHolm (fun _ hk => hk.same)).retireHolms))

theorem KeepsOut.execWalkerRequest {s₀ : State} {i : Nat} {lost : Bool} {s : State} (h : Keeps s₀ s) :
    KeepsOut s₀ (execWalkerRequest i lost s) := by
  unfold Machine.execWalkerRequest
  refine .next ?_
  split
  · exact Keeps.ite h h.serveWalk
  · exact h

theorem KeepsOut.execWalkerTileComplete {s₀ : State} {i : Nat} {s : State} (h : Keeps s₀ s) :
    KeepsOut s₀ (execWalkerTileComplete i s) := by
  unfold Machine.execWalkerTileComplete
  refine .next ?_
  split
  · exact Keeps.ite h.closeWalk h
  · exact h

theorem KeepsOut.execWalkerFailure {s₀ : State} {i : Nat} {s : State} (h : Keeps s₀ s) :
    KeepsOut s₀ (execWalkerFailure i s) := by
  unfold Machine.execWalkerFailure
  refine .next ?_
  split
  · split
    · exact h.failWalk
    · exact h
  · exact h

theorem KeepsOut.execKvAppendAccept {s₀ : State} {p ch : Nat} {s : State} (h : Keeps s₀ s) :
    KeepsOut s₀ (execKvAppendAccept p ch s) := KeepsOut.onHolm h (fun _ _ => h.acceptKva)

theorem KeepsOut.execPageFreeReturn {s₀ : State} {pool : Nat} {s : State} (h : Keeps s₀ s) :
    KeepsOut s₀ (execPageFreeReturn pool s) := .next h.same

theorem KeepsOut.execScrubVisit {s₀ : State} {p line : Nat} {errs : List (Nat × Bool)} {s : State} (h : Keeps s₀ s) :
    KeepsOut s₀ (execScrubVisit p line errs s) := KeepsOut.onHolm h (fun _ _ => h.scrub)

theorem KeepsOut.execRowRepairCopy {s₀ : State} {p bank row : Nat} {s : State} (h : Keeps s₀ s) :
    KeepsOut s₀ (execRowRepairCopy p bank row s) := KeepsOut.onHolm h (fun _ _ => Keeps.ite h.mapRow h)

theorem KeepsOut.execRepairTableWrite {s₀ : State} {p : Nat} {s : State} (h : Keeps s₀ s) :
    KeepsOut s₀ (execRepairTableWrite p s) := KeepsOut.onHolm h (fun _ _ => h.writeRepairs)

theorem KeepsOut.execLagoonImageLoad {s₀ : State} {p : Nat} {s : State} (h : Keeps s₀ s) :
    KeepsOut s₀ (execLagoonImageLoad p s) := KeepsOut.onHolm h (fun _ _ => Keeps.ite h.loadLagoon h)

theorem Keeps.raiseNominal {s₀ s : State} {q : Nat} (h : Keeps s₀ s) :
    Keeps s₀ (s.raiseNominal q) := h.same

theorem KeepsOut.execRatedFloorCheck {s₀ : State} {p : Nat} {pass needsMore : Bool} {s : State} (h : Keeps s₀ s) :
    KeepsOut s₀ (execRatedFloorCheck p pass needsMore s) := KeepsOut.onHolm h (fun _ _ => Keeps.ite (Keeps.ite h.raiseNominal h)
        ((Keeps.ite h.raiseNominal h).floorFailed))

theorem Keeps.transmitAll {s₀ s : State} (h : Keeps s₀ s) :
    Keeps s₀ (s.transmitAll) := h.same

theorem Keeps.tick {s₀ s : State} (h : Keeps s₀ s) :
    Keeps s₀ (tick s) := Keeps.ite h ((Keeps.ite h.same.transmitAll h.same).idleChanges)

end Sys2Proof.Machine
end

section
/-! SUPPORT. What every command keeps. -/

namespace Sys2Proof.Machine

theorem KeepsOut.exec {s₀ s : State} (h : Keeps s₀ s) (i : Instr) : KeepsOut s₀ (exec i s) := by
  cases i with
  | nop _ => exact .execNop h
  | halt _ => exact .execHalt h
  | tide _ => exact .execTide h
  | br _ => exact .execBr h
  | loopSet _ => exact .execLoopSet h
  | loopAdd _ => exact .execLoopAdd h
  | loopMul _ => exact .execLoopMul h
  | loopBack _ => exact .execLoopBack h
  | barArrive _ => exact .execBarArrive h
  | barWait _ => exact .execBarWait h
  | barArriveWait _ => exact .execBarArriveWait h
  | barrierArrivalEffect _ _ => exact .execBarrierArrivalEffect h
  | waveRelease _ => exact .execWaveRelease h
  | rng _ => exact .execRng h
  | msgSend _ => exact .execMsgSend h
  | msgRecv _ => exact .execMsgRecv h
  | mma _ => exact .execMma h
  | mmap _ => exact .execMmap h
  | ats _ => exact .execAts h
  | atf _ => exact .execAtf h
  | atb _ => exact .execAtb h
  | vop _ => exact .execVop h
  | cvt _ => exact .execCvt h
  | sfn _ => exact .execSfn h
  | bobStart _ => exact .execBobStart h
  | bobStop _ => exact .execBobStop h
  | bobPost _ => exact .execBobPost h
  | bobRelease _ => exact .execBobRelease h
  | kva _ => exact .execKva h
  | scoreboardRetire _ _ => exact .execScoreboardRetire h
  | declaredEntryRetire _ _ => exact .execDeclaredEntryRetire h
  | invocationComplete _ => exact .execInvocationComplete h
  | holmFault _ _ => exact .execHolmFault h
  | segmentWatchdog _ => exact .execSegmentWatchdog h
  | prickingEmit _ _ => exact .execPrickingEmit h
  | prickingAdd _ _ => exact .execPrickingAdd h
  | prickingSeta _ _ => exact .execPrickingSeta h
  | prickingSetl _ _ => exact .execPrickingSetl h
  | prickingLoop _ _ => exact .execPrickingLoop h
  | cwait _ _ => exact .execCwait h
  | pemit _ _ => exact .execPemit h
  | prickingEnd _ _ => exact .execPrickingEnd h
  | bobbinParamBlockRead _ _ => exact .execBobbinParamBlockRead h
  | tileLanded _ _ => exact .execTileLanded h
  | tileDrained _ _ => exact .execTileDrained h
  | channelEnded _ _ => exact .execChannelEnded h
  | bobbinFault _ _ => exact .execBobbinFault h
  | remoteAccessArrival _ => exact .execRemoteAccessArrival h
  | remoteResponseArrival _ => exact .execRemoteResponseArrival h
  | remoteRequestHeld _ => exact .execRemoteRequestHeld h
  | msgArrival _ => exact .execMsgArrival h
  | msgInboxEnter _ => exact .execMsgInboxEnter h
  | staleRoleReissue _ => exact .execStaleRoleReissue h
  | scrubVisit _ _ _ => exact .execScrubVisit h
  | rowRepairCopy _ _ _ => exact .execRowRepairCopy h
  | repairTableWrite _ => exact .execRepairTableWrite h
  | lagoonImageLoad _ => exact .execLagoonImageLoad h
  | ratedFloorCheck _ _ _ => exact .execRatedFloorCheck h
  | slack _ => exact .execSlack h
  | checkpointSpill _ _ => exact .execCheckpointSpill h
  | walkerRequest _ _ => exact .execWalkerRequest h
  | walkerTileComplete _ => exact .execWalkerTileComplete h
  | walkerFailure _ => exact .execWalkerFailure h
  | kvAppendAccept _ _ => exact .execKvAppendAccept h
  | pageFreeReturn _ => exact .execPageFreeReturn h
  | originBlockFetch _ _ => exact .execOriginBlockFetch h
  | shuttleBlockSend _ _ => exact .execShuttleBlockSend h
  | shuttleBlockLanding _ => exact .execShuttleBlockLanding h
  | shuttleForward _ _ => exact .execShuttleForward h
  | slotCreditGrant _ => exact .execSlotCreditGrant h
  | ringAbortReceive => exact .execRingAbortReceive h
  | ringFailure _ _ => exact .execRingFailure h
  | collectivePieceArrival _ => exact .execCollectivePieceArrival h
  | collectorCombine _ _ => exact .execCollectorCombine h
  | collectiveCreditReceive => exact .execCollectiveCreditReceive h
  | alltoallCountReceive => exact .execAlltoallCountReceive h
  | alltoallGrantReceive => exact .execAlltoallGrantReceive h
  | transitForward _ => exact .execTransitForward h
  | mmaEmitChunk _ _ _ => exact .execMmaEmitChunk h
  | collectiveAbortReceive => exact .execCollectiveAbortReceive h
  | collectiveComplete _ => exact .execCollectiveComplete h
  | hbmRead _ _ => exact .execHbmRead h
  | hbmWrite _ _ => exact .execHbmWrite h
  | codecRead _ _ _ => exact .execCodecRead h
  | codecRewrite _ _ _ => exact .execCodecRewrite h
  | elementFailureDeclare _ => exact .execElementFailureDeclare h
  | patrolScrub _ _ => exact .execPatrolScrub h
  | balanceWindow => exact .execBalanceWindow h
  | regionRekey _ => exact .execRegionRekey h
  | migrationUnitCopy _ => exact .execMigrationUnitCopy h
  | segmentCompaction _ => exact .execSegmentCompaction h
  | regionZeroing _ => exact .execRegionZeroing h
  | slotTableSwap _ _ => exact .execSlotTableSwap h
  | flitSlotTableSwap _ _ => exact .execFlitSlotTableSwap h
  | linkBlockReceive _ _ _ _ => exact .execLinkBlockReceive h
  | replayTimeout _ => exact .execReplayTimeout h
  | nakRepeatTimer _ => exact .execNakRepeatTimer h
  | linkInit _ => exact .execLinkInit h
  | hello _ => exact .execHello h
  | chartEnable _ => exact .execChartEnable h
  | chartTime _ => exact .execChartTime h
  | laneFail _ => exact .execLaneFail h
  | laneSwap _ => exact .execLaneSwap h
  | portDown _ => exact .execPortDown h
  | helloTimer _ => exact .execHelloTimer h
  | timeFlitTimer _ => exact .execTimeFlitTimer h
  | claimFixTimer => exact .execClaimFixTimer h
  | laneFailureDetect _ _ => exact .execLaneFailureDetect h
  | laneRemap _ => exact .execLaneRemap h
  | portFailure _ => exact .execPortFailure h
  | lossOfSignal _ => exact .execLossOfSignal h
  | signalDetect _ => exact .execSignalDetect h
  | trainTimeout _ => exact .execTrainTimeout h
  | holdTimerExpiry _ => exact .execHoldTimerExpiry h
  | straitWriteArrival _ => exact .execStraitWriteArrival h
  | straitReadArrival _ => exact .execStraitReadArrival h
  | transferReplySend => exact .execTransferReplySend h
  | straitResponseArrival _ => exact .execStraitResponseArrival h
  | redirectResend _ => exact .execRedirectResend h
  | relayForward _ => exact .execRelayForward h
  | rtpEdge _ => exact .execRtpEdge h
  | rtpLoss => exact .execRtpLoss h
  | refclkBad _ => exact .execRefclkBad h
  | timeDepthLost => exact .execTimeDepthLost h
  | dbCmdTail _ _ _ _ => exact .execDbCmdTail h
  | dbCplHead _ _ _ => exact .execDbCplHead h
  | ntcDbHead _ _ => exact .execNtcDbHead h
  | queCfgCommit _ _ => exact .execQueCfgCommit h
  | rstReqCold _ _ => exact .execRstReqCold h
  | rstReqWarm _ _ => exact .execRstReqWarm h
  | rstReqSoft _ _ => exact .execRstReqSoft h
  | registerWrite _ _ _ _ => exact .execRegisterWrite h
  | commandFetch _ _ => exact .execCommandFetch h
  | commandCompletionPost _ _ => exact .execCommandCompletionPost h
  | heldCompletionPost _ => exact .execHeldCompletionPost h
  | interruptCoalesceTimer _ _ => exact .execInterruptCoalesceTimer h
  | iciVersion _ _ => exact .execIciVersion h
  | queryCaps _ _ => exact .execQueryCaps h
  | queueCreate _ _ => exact .execQueueCreate h
  | queueDelete _ _ => exact .execQueueDelete h
  | noticeRingSet _ _ => exact .execNoticeRingSet h
  | regionAlloc _ _ => exact .execRegionAlloc h
  | regionFree _ _ => exact .execRegionFree h
  | regionMap _ _ => exact .execRegionMap h
  | copy _ _ _ => exact .execCopy h
  | migrate _ _ _ => exact .execMigrate h
  | modelLoad _ _ => exact .execModelLoad h
  | lagoonSet _ _ => exact .execLagoonSet h
  | modelFree _ _ => exact .execModelFree h
  | poolCreate _ _ => exact .execPoolCreate h
  | seqCreate _ _ => exact .execSeqCreate h
  | seqFork _ _ => exact .execSeqFork h
  | seqAppend _ _ _ => exact .execSeqAppend h
  | seqTruncate _ _ => exact .execSeqTruncate h
  | seqFree _ _ => exact .execSeqFree h
  | poolFree _ _ => exact .execPoolFree h
  | planSubmit _ _ _ => exact .execPlanSubmit h
  | planStart _ _ => exact .execPlanStart h
  | planStop _ _ => exact .execPlanStop h
  | planStageUpdate _ _ _ => exact .execPlanStageUpdate h
  | planFree _ _ => exact .execPlanFree h
  | attend _ _ _ => exact .execAttend h
  | gemm _ _ _ => exact .execGemm h
  | batch _ _ _ => exact .execBatch h
  | windowOpen _ _ => exact .execWindowOpen h
  | windowClose _ _ => exact .execWindowClose h
  | sliceJoin _ _ => exact .execSliceJoin h
  | collective _ _ _ => exact .execCollective h
  | sliceLeave _ _ => exact .execSliceLeave h
  | capSet _ _ => exact .execCapSet h
  | energyRead _ _ => exact .execEnergyRead h
  | nativeLoad _ _ => exact .execNativeLoad h
  | nativeRun _ _ => exact .execNativeRun h
  | nativeFree _ _ => exact .execNativeFree h
  | tenantCreate _ _ => exact .execTenantCreate h
  | tenantDestroy _ _ => exact .execTenantDestroy h
  | partitionSet _ _ => exact .execPartitionSet h
  | sliceDefine _ _ => exact .execSliceDefine h
  | linkEnable _ _ => exact .execLinkEnable h
  | firmwareStage _ _ _ => exact .execFirmwareStage h
  | firmwareActivate _ _ => exact .execFirmwareActivate h
  | firmwareHandover _ => exact .execFirmwareHandover h
  | paritySet _ _ => exact .execParitySet h
  | tier3Register _ _ => exact .execTier3Register h
  | powerEstimateTick _ _ _ _ => exact .execPowerEstimateTick h
  | energyCorrection _ _ => exact .execEnergyCorrection h
  | capCheck _ => exact .execCapCheck h
  | capEnforcementInstant => exact .execCapEnforcementInstant h
  | railCurrentLimit _ _ => exact .execRailCurrentLimit h
  | vrAlert _ => exact .execVrAlert h
  | pwrBrakeN => exact .execPwrBrakeN h
  | lowestStateExit => exact .execLowestStateExit h
  | phaseFailOpen _ _ => exact .execPhaseFailOpen h
  | sparePhaseInService _ => exact .execSparePhaseInService h
  | currentSenseCheck _ _ _ => exact .execCurrentSenseCheck h
  | droopStretch _ => exact .execDroopStretch h
  | thermalRead _ _ => exact .execThermalRead h
  | powerReportSend _ => exact .execPowerReportSend h
  | powerReportReceive _ _ => exact .execPowerReportReceive h
  | loanTimeout _ _ => exact .execLoanTimeout h
  | holmQuadGate _ _ => exact .execHolmQuadGate h
  | holmQuadWake _ _ => exact .execHolmQuadWake h
  | deepIdleEnter => exact .execDeepIdleEnter h
  | straitGroupGate _ => exact .execStraitGroupGate h
  | codecDomainGate => exact .execCodecDomainGate h
  | powerUp => exact .execPowerUp h
  | bootStageComplete _ _ => exact .execBootStageComplete h
  | powerFailure => exact .execPowerFailure h
  | perstAssert => exact .execPerstAssert h
  | perstDeassert => exact .execPerstDeassert h
  | warmResetEntry => exact .execWarmResetEntry h
  | flrVf _ => exact .execFlrVf h
  | flrPf0 => exact .execFlrPf0 h
  | pldmRackIdentity _ => exact .execPldmRackIdentity h
  | pldmResetRequest _ => exact .execPldmResetRequest h
  | pldmFirmwareUpdate _ _ => exact .execPldmFirmwareUpdate h
  | spdmGetMeasurements => exact .execSpdmGetMeasurements h
  | jtagExtestExit => exact .execJtagExtestExit h
  | thermalTripClear => exact .execThermalTripClear h
  | hostLinkDown => exact .execHostLinkDown h
  | holmPulseLoss _ => exact .execHolmPulseLoss h
  | recoverySlack => exact .execRecoverySlack h
  | stageReplay => exact .execStageReplay h
  | rowFaultRecovery => exact .execRowFaultRecovery h
  | mgmtCoreFault _ => exact .execMgmtCoreFault h
  | refclkGood _ => exact .execRefclkGood h
  | pwrBrakeNDeassert => exact .execPwrBrakeNDeassert h
  | dieToDieLaneFailure _ _ => exact .execDieToDieLaneFailure h
  | droopStretchEnd _ => exact .execDroopStretchEnd h
  | registerRead _ _ _ => exact .execRegisterRead h
  | vfEnableWrite _ _ => exact .execVfEnableWrite h
  | unconfinedFault => exact .execUnconfinedFault h
  | hostLinkUp => exact .execHostLinkUp h
  | coldResetOffEnd => exact .execColdResetOffEnd h
  | jtagExtestSelect => exact .execJtagExtestSelect h

end Sys2Proof.Machine
end

section
/-! SUPPORT. Which commands are answered. -/

namespace Sys2Proof.Machine

theorem exec_answers (i : Instr) (s : State) (hp : ∀ p, i.holm? = some p → p < 272) (hk : ∀ k, i.port? = some k → k < 32)
    (hr : ∀ r, i.rail? = some r → r < 8) : ∃ t, exec i s = .next t := by
  cases i with
  | nop _ | halt _ | tide _ | br _ | loopSet _ | loopAdd _ | loopMul _ | loopBack _ | barArrive _ | barWait _ | barArriveWait _
    | barrierArrivalEffect _ _ | rng _ | msgSend _ | msgRecv _ | mma _ | mmap _ | ats _ | atf _ | atb _ | vop _ | cvt _ | sfn _
    | bobStart _ | bobStop _ | bobPost _ | bobRelease _ | kva _ | scoreboardRetire _ _ | declaredEntryRetire _ _ | invocationComplete _
    | holmFault _ _ | segmentWatchdog _ | prickingEmit _ _ | prickingAdd _ _ | prickingSeta _ _ | prickingSetl _ _ | prickingLoop _ _
    | cwait _ _ | pemit _ _ | prickingEnd _ _ | bobbinParamBlockRead _ _ | tileLanded _ _ | tileDrained _ _ | channelEnded _ _
    | bobbinFault _ _ | scrubVisit _ _ _ | rowRepairCopy _ _ _ | repairTableWrite _ | lagoonImageLoad _ | ratedFloorCheck _ _ _
    | checkpointSpill _ _ | kvAppendAccept _ _ | droopStretch _ | holmPulseLoss _ | droopStretchEnd _ =>
    exact ⟨_, if_pos (hp _ rfl)⟩
  | flitSlotTableSwap _ _ | linkBlockReceive _ _ _ _ | replayTimeout _ | nakRepeatTimer _ | linkInit _ | hello _ | chartEnable _
    | chartTime _ | laneFail _ | laneSwap _ | portDown _ | helloTimer _ | timeFlitTimer _ | laneFailureDetect _ _ | laneRemap _
    | portFailure _ | lossOfSignal _ | signalDetect _ | trainTimeout _ | holdTimerExpiry _ | straitWriteArrival _ | straitReadArrival _
    | straitResponseArrival _ | relayForward _ =>
    exact ⟨_, if_pos (hk _ rfl)⟩
  | railCurrentLimit _ _ | phaseFailOpen _ _ | sparePhaseInService _ | currentSenseCheck _ _ _ =>
    exact ⟨_, if_neg (Nat.not_le.mpr (hr _ rfl))⟩
  | waveRelease _ | remoteAccessArrival _ | remoteResponseArrival _ | remoteRequestHeld _ | msgArrival _ | msgInboxEnter _
    | staleRoleReissue _ | slack _ | walkerRequest _ _ | walkerTileComplete _ | walkerFailure _ | pageFreeReturn _ | originBlockFetch _ _
    | shuttleBlockSend _ _ | shuttleBlockLanding _ | shuttleForward _ _ | slotCreditGrant _ | ringAbortReceive | ringFailure _ _
    | collectivePieceArrival _ | collectorCombine _ _ | collectiveCreditReceive | alltoallCountReceive | alltoallGrantReceive
    | transitForward _ | mmaEmitChunk _ _ _ | collectiveAbortReceive | collectiveComplete _ | hbmRead _ _ | hbmWrite _ _
    | codecRead _ _ _ | codecRewrite _ _ _ | elementFailureDeclare _ | patrolScrub _ _ | balanceWindow | regionRekey _
    | migrationUnitCopy _ | segmentCompaction _ | regionZeroing _ | slotTableSwap _ _ | claimFixTimer | transferReplySend
    | redirectResend _ | rtpEdge _ | rtpLoss | refclkBad _ | timeDepthLost | dbCmdTail _ _ _ _ | dbCplHead _ _ _ | ntcDbHead _ _
    | queCfgCommit _ _ | rstReqCold _ _ | rstReqWarm _ _ | rstReqSoft _ _ | registerWrite _ _ _ _ | commandFetch _ _
    | commandCompletionPost _ _ | heldCompletionPost _ | interruptCoalesceTimer _ _ | iciVersion _ _ | queryCaps _ _ | queueCreate _ _
    | queueDelete _ _ | noticeRingSet _ _ | regionAlloc _ _ | regionFree _ _ | regionMap _ _ | copy _ _ _ | migrate _ _ _ | modelLoad _ _
    | lagoonSet _ _ | modelFree _ _ | poolCreate _ _ | seqCreate _ _ | seqFork _ _ | seqAppend _ _ _ | seqTruncate _ _ | seqFree _ _
    | poolFree _ _ | planSubmit _ _ _ | planStart _ _ | planStop _ _ | planStageUpdate _ _ _ | planFree _ _ | attend _ _ _ | gemm _ _ _
    | batch _ _ _ | windowOpen _ _ | windowClose _ _ | sliceJoin _ _ | collective _ _ _ | sliceLeave _ _ | capSet _ _ | energyRead _ _
    | nativeLoad _ _ | nativeRun _ _ | nativeFree _ _ | tenantCreate _ _ | tenantDestroy _ _ | partitionSet _ _ | sliceDefine _ _
    | linkEnable _ _ | firmwareStage _ _ _ | firmwareActivate _ _ | firmwareHandover _ | paritySet _ _ | tier3Register _ _
    | powerEstimateTick _ _ _ _ | energyCorrection _ _ | capCheck _ | capEnforcementInstant | vrAlert _ | pwrBrakeN | lowestStateExit
    | thermalRead _ _ | powerReportSend _ | powerReportReceive _ _ | loanTimeout _ _ | holmQuadGate _ _ | holmQuadWake _ _
    | deepIdleEnter | straitGroupGate _ | codecDomainGate | powerUp | bootStageComplete _ _ | powerFailure | perstAssert | perstDeassert
    | warmResetEntry | flrVf _ | flrPf0 | pldmRackIdentity _ | pldmResetRequest _ | pldmFirmwareUpdate _ _ | spdmGetMeasurements
    | jtagExtestExit | thermalTripClear | hostLinkDown | recoverySlack | stageReplay | rowFaultRecovery | mgmtCoreFault _ | refclkGood _
    | pwrBrakeNDeassert | dieToDieLaneFailure _ _ | registerRead _ _ _ | vfEnableWrite _ _ | unconfinedFault | hostLinkUp
    | coldResetOffEnd | jtagExtestSelect =>
    exact ⟨_, rfl⟩

end Sys2Proof.Machine
end

section
/-! SUPPORT. Steps and runs: the invariants of every step, and the end of every queue. -/

namespace Sys2Proof.Machine

variable {s t : State}

/-- What a step is measured against: the state with the front command taken off the queue. -/
def State.taken (s : State) : State := { s with pending := s.pending.tail }

theorem step_keeps_taken (h : step s = .next t) : Keeps s.taken t := by
  unfold step at h
  split at h
  · rename_i hp
    cases h
    have hs : s.taken = s := by
      unfold State.taken
      rw [hp, List.tail_nil, ← hp]
    rw [hs]
    exact (Keeps.refl s).tick
  · rename_i c rest hp
    have hs : s.taken = { s with pending := rest } := by
      unfold State.taken
      rw [hp, List.tail_cons]
    rw [← hs] at h
    exact KeepsOut.exec (Keeps.refl _) c t h

theorem step_pending (h : step s = .next t) : t.pending = s.pending.tail := (step_keeps_taken h).pending

theorem step_part (h : step s = .next t) : t.part = s.part := (step_keeps_taken h).part

theorem step_remapOk (hs : s.remapOk) (h : step s = .next t) : t.remapOk := (step_keeps_taken h).remap hs

theorem step_memOk (hs : s.memOk) (h : step s = .next t) : t.memOk := (step_keeps_taken h).mem hs

theorem exec_wellFormed {c : Instr} (hc : c.wellFormed = true) (s : State) : ∃ t, exec c s = .next t := by
  obtain ⟨hp, hk, hr⟩ := Laws.Row.names c hc
  exact exec_answers c s hp hk hr

theorem step_answers (h : ∀ c ∈ s.pending, c.wellFormed = true) : ∃ t, step s = .next t := by
  unfold step
  split
  · exact ⟨_, rfl⟩
  · rename_i c rest hp
    exact exec_wellFormed (h c (hp ▸ List.mem_cons_self)) _

theorem step_wellFormed (h : ∀ c ∈ s.pending, c.wellFormed = true) (ht : step s = .next t) : ∀ c ∈ t.pending, c.wellFormed = true :=
  fun c hc => h c (List.mem_of_mem_tail (step_pending ht ▸ hc))

theorem run_to_end {n : Nat} (hn : s.pending.length = n) (h : ∀ c ∈ s.pending, c.wellFormed = true) :
    ∃ t, run n s = some t ∧ t.pending = [] := by
  induction n generalizing s with
  | zero => exact ⟨s, rfl, List.length_eq_zero_iff.mp hn⟩
  | succ n ih =>
    obtain ⟨t, ht⟩ := step_answers h
    have hlen : t.pending.length = n := by rw [step_pending ht, List.length_tail, hn, Nat.add_sub_cancel]
    obtain ⟨u, hu⟩ := ih hlen (step_wellFormed h ht)
    refine ⟨u, ?_⟩
    unfold run
    rw [ht]
    exact hu

theorem State.remapOk.physOf? {lg p : Nat} (h : s.remapOk) (hlg : lg < 256) (hp : s.physOf? lg = some p) : p < 272 ∧ p / 68 = lg / 64 := by
  unfold State.physOf? at hp
  split at hp
  · rename_i r hr
    obtain ⟨hj, -⟩ := AMap.forall_get? (P := fun r : Remap => r.phys < 68 ∧ r.epoch < 2 ^ 24) h hr
    split at hp
    · cases hp
      omega
    · cases hp
  · cases hp

theorem State.reset_memOk : State.reset.memOk := by
  refine ⟨rfl, rfl, nofun, ?_⟩
  unfold State.reset
  rw [List.forall_mem_map]
  exact fun _ _ => rfl

end Sys2Proof.Machine

namespace Sys2Proof.Proofs

open Sys2Proof.Machine

/-- Settles O19: every operation keeps remap entries in range. -/
theorem quadrantsServeThemselves : Obligations.QuadrantsServeThemselves := by
  unfold Obligations.QuadrantsServeThemselves
  exact ⟨fun _ _ => step_remapOk, fun _ h _ _ => h.physOf?⟩

/-- Settles O20: every operation keeps byte memories in canonical form. -/
theorem memoryStaysCanonical : Obligations.MemoryStaysCanonical := by
  unfold Obligations.MemoryStaysCanonical
  exact fun _ _ => step_memOk

/-- Settles O22: by induction on the length of the queue. -/
theorem commandsRunToTheEnd : Obligations.CommandsRunToTheEnd := by
  unfold Obligations.CommandsRunToTheEnd
  refine ⟨fun s t ht => ⟨step_pending ht, step_part ht⟩, fun s hs => ?_⟩
  obtain ⟨t, ht⟩ := step_answers hs
  exact ⟨⟨t, ht, step_wellFormed hs ht⟩, run_to_end rfl hs⟩

/-- Settles O21. -/
theorem resetMeetsInvariants : Obligations.ResetMeetsInvariants := by
  unfold Obligations.ResetMeetsInvariants
  exact ⟨State.reset_remapOk, State.reset_memOk⟩

end Sys2Proof.Proofs
end

section
/-! SUPPORT. The instructions of the issue unit: control, loops, barriers, ranges and messages (R226 to R229, R300, R319 to R323). -/

namespace Sys2Proof.Machine

/-! ### The head instruction and its checks (R302) -/

/-- What the command of an instruction answers where the word at the head is one of its opcode and form. -/
theorem issue_of {s : State} {p opc : Nat} {w : BitVec 128} {form : Nat → Bool} {f : Holm → Nat → State → State} {t : State}
    (hw : s.atWord p w) (ho : fld w.toNat 0 8 = opc) (hf : form w.toNat = true) (ht : f (s.holm p) w.toNat s = t) :
    issueRow p opc form s f = .next t := by
  rw [issueRow_next hw ho hf, ht]

theorem checked_ok {α : Type} {p opc : Nat} {h : Holm} {s : State} {r : Except Status α} {f : α → State} {a : α} (hr : r = .ok a) :
    checked p opc h s r f = f a := by
  rw [hr]
  rfl

theorem checked_of {α : Type} {p opc : Nat} {h : Holm} {s t : State} {r : Except Status α} {f : α → State} {a : α} (hr : r = .ok a)
    (ht : f a = t) : checked p opc h s r f = t := (checked_ok hr).trans ht

theorem checked_error {α : Type} {p opc : Nat} {h : Holm} {s : State} {r : Except Status α} {f : α → State} {e : Status} (hr : r = .error e) :
    checked p opc h s r f = s.setHolm p (h.precise h.pc opc e 0) := by
  rw [hr]
  rfl

theorem selsOk_singleton {c : Nat} : selsOk [c] = true ↔ c < 0x18 := by
  simp [selsOk]

theorem lookBr_ok {c : LookCtx} {w : Nat} (hc : fld w 8 4 ≤ 4) (h29 : fld w 29 3 = 0) (h64 : fld w 64 64 = 0) (hsel : fld w 12 5 < 0x18)
    (h0 : fld w 8 4 = 0 → fld w 12 5 = 0) (ht : fld w 17 12 < c.prog.words.length) :
    lookBr c w = .ok ⟨fld w 8 4, fld w 12 5, fld w 17 12, fld w 32 32⟩ := by
  have hs := selsOk_singleton.mpr hsel
  unfold lookBr
  refine if_neg ?_
  simp only [h29, h64, hs]
  simp
  omega

theorem lookLoop_ok {w pc : Nat} (h31 : bitAt w 31 = false) (h64 : fld w 64 64 = 0) (hsel : fld w 14 5 < 0x18)
    (hback : fld w 8 2 = 3 → fld w 14 5 = 0 ∧ fld w 32 32 = 0 ∧ fld w 19 12 ≤ pc) (hother : fld w 8 2 ≠ 3 → fld w 19 12 = 0) :
    lookLoop w pc = .ok ⟨fld w 8 2, fld w 10 4, fld w 14 5, fld w 19 12, fld w 32 32⟩ := by
  have hs := selsOk_singleton.mpr hsel
  unfold lookLoop
  refine if_neg ?_
  simp only [h31, h64, hs]
  grind

/-- The condition of a BR (R322). -/
theorem brTaken_iff {c v imm : Nat} (hc : c ≤ 4) : brTaken c v imm = true ↔
    c = 0 ∨ (c = 1 ∧ v = imm) ∨ (c = 2 ∧ v ≠ imm) ∨ (c = 3 ∧ (BitVec.ofNat 32 v).toInt < (BitVec.ofNat 32 imm).toInt) ∨
      (c = 4 ∧ (BitVec.ofNat 32 imm).toInt ≤ (BitVec.ofNat 32 v).toInt) := by
  rcases (by omega : c = 0 ∨ c = 1 ∨ c = 2 ∨ c = 3 ∨ c = 4) with rfl | rfl | rfl | rfl | rfl <;>
    simp [brTaken, BitVec.slt_iff_toInt_lt, ← Bool.not_eq_true]

theorem finish_same {h : Holm} {i : Invocation} {tidal : Bool} {opc : Nat} (hi : h.inv = some i) (ht : i.tidal = tidal) :
    h.finish tidal opc = { h with inv := some { i with ending := true } } := by
  unfold Holm.finish
  rw [hi]
  exact if_pos ht

theorem finish_other {h : Holm} {i : Invocation} {tidal : Bool} {opc : Nat} (hi : h.inv = some i) (ht : i.tidal ≠ tidal) :
    h.finish tidal opc = h.precise h.pc opc .badCommand 0 := by
  unfold Holm.finish
  rw [hi]
  exact if_neg ht

/-- SET adds its value and its immediate (R322). -/
theorem setG_eff {h : Holm} {r imm v : Nat} : h.setG r (eff imm v) = h.setG r (v + imm) := by
  have heff : BitVec.ofNat 32 (eff imm v) = BitVec.ofNat 32 (v + imm) := BitVec.eq_of_toNat_eq (by simp [eff, Nat.add_comm])
  unfold Holm.setG
  rw [heff]

/-! ### BAR (R226 to R229) -/

theorem Holm.headArrived_eta {h : Holm} (hh : h.headArrived = true) : { h with headArrived := true } = h := by
  cases h
  subst hh
  rfl

variable {s : State} {p : Nat} {h : Holm} {b : Nat}

theorem rankBlock_none {rank : Nat → Nat} (hr : h.program.noRank = true ∨ ∀ x ∈ h.held, x ≠ b → rank x < rank b) :
    h.rankBlock rank b = none := by
  unfold Holm.rankBlock
  split
  · rfl
  · rename_i hno
    refine List.find?_eq_none.mpr fun x hx => ?_
    have := hr.resolve_left hno x hx
    grind

theorem rankBlock_some {rank : Nat → Nat} {x : Nat} {l r : List Nat} (hno : h.program.noRank = false) (hh : h.held = l ++ x :: r)
    (hl : ∀ y ∈ l, y ≠ b → rank y < rank b) (hx : x ≠ b) (hr : rank b ≤ rank x) : h.rankBlock rank b = some x := by
  unfold Holm.rankBlock
  rw [hno, hh]
  refine (List.find?_append ..).trans ?_
  rw [List.find?_eq_none.mpr fun y hy => by have := hl y hy; grind]
  simp [hx, hr]

/-- A WAIT that no held barrier forbids (R226, R227). -/
theorem barWait_free (hring : s.ringBar h b = false) (hr : h.program.noRank = true ∨ ∀ x ∈ h.held, x ≠ b → s.rankOf h x < s.rankOf h b) :
    s.barWait p h b = s.setHolm p (if h.waitPhase.getD b 0 < h.seenPhase.getD b 0 then h.pastWait b else h) := by
  unfold State.barWait
  rw [hring, rankBlock_none hr]
  simp [Holm.waitDone]

theorem barWait_blocked {x : Nat} (hring : s.ringBar h b = false) (hx : h.rankBlock (s.rankOf h) b = some x) :
    s.barWait p h b = s.setHolm p (h.precise h.pc 0x08 .badCommand (b + 2 ^ 8 * x)) := by
  unfold State.barWait
  rw [hring, hx]
  rfl

end Sys2Proof.Machine

namespace Sys2Proof.Proofs

open Sys2Proof.Machine Sys2Proof.Machine.State

/-- Settles O1: the arm of each word, and the condition of a BR. -/
theorem controlWords : Obligations.ControlWords := by
  unfold Obligations.ControlWords
  intro s p w hw
  refine ⟨fun ho => ?_, fun i hi ho => ?_, fun i hi ho => ?_, fun ho hc h29 h64 hsel h0 ht => ?_⟩
  · show execNop p s = _
    refine issue_of hw ho rfl ?_
    rfl
  · show execTide p s = _
    refine issue_of hw ho rfl ?_
    split
    · rw [finish_same hi ‹_›]
    · rw [finish_other hi ‹_›]
  · show execHalt p s = _
    refine issue_of hw ho rfl ?_
    split
    · rw [finish_other hi (by simp [*])]
    · rw [finish_same hi (Bool.eq_false_iff.mpr ‹_›)]
  · have hrun : exec (.br p) s = .next (s.setHolm p (if brTaken (fld w.toNat 8 4) ((s.holm p).selVal (fld w.toNat 12 5)) (fld w.toNat 32 32)
        then (s.holm p).goTo (fld w.toNat 17 12) else (s.holm p).step1)) := by
      show execBr p s = _
      refine issue_of hw ho rfl ?_
      exact checked_ok (lookBr_ok hc h29 h64 hsel h0 ht)
    refine ⟨fun hb => ?_, fun hb => ?_⟩
    · rw [hrun, if_pos ((brTaken_iff hc).mpr hb)]
      rfl
    · rw [hrun, if_neg fun ht => hb ((brTaken_iff hc).mp ht)]
      rfl

/-- Settles O2: the arm of each form, after its fields' check. -/
theorem loopWords : Obligations.LoopWords := by
  unfold Obligations.LoopWords
  intro s p w hw ho h31 h64 h d g v imm
  refine ⟨fun hsel ht => ?_, fun hf hsel himm ht => ?_⟩
  · have hlook (hf : fld w.toNat 8 2 ≠ 3) := lookLoop_ok (pc := h.pc) h31 h64 hsel (fun h3 => absurd h3 hf) fun _ => ht
    refine ⟨fun hf => ?_, fun hf => ?_, fun hf => ?_⟩
    · show execLoopSet p s = _
      refine issue_of hw ho (beq_iff_eq.mpr hf) ?_
      refine checked_of (hlook (by omega)) ?_
      rw [hf]
      exact congrArg (fun k : Holm => s.setHolm p k.step1) setG_eff
    · show execLoopAdd p s = _
      refine issue_of hw ho (beq_iff_eq.mpr hf) ?_
      refine checked_of (hlook (by omega)) ?_
      rw [hf]
      rfl
    · show execLoopMul p s = _
      refine issue_of hw ho (beq_iff_eq.mpr hf) ?_
      refine checked_of (hlook (by omega)) ?_
      rw [hf]
      rfl
  · have hlook := lookLoop_ok (pc := h.pc) h31 h64 (by omega) (fun _ => ⟨hsel, himm, ht⟩) fun h3 => absurd hf h3
    show execLoopBack p s = _
    refine issue_of hw ho (beq_iff_eq.mpr hf) ?_
    refine checked_of hlook ?_
    rw [hf]
    rfl

/-- Settles O3: the arm of each form; a WAIT by what its barrier and the held ones say. -/
theorem barrierWords : Obligations.BarrierWords := by
  unfold Obligations.BarrierWords
  intro s p w b m hw ho h a past
  refine ⟨fun hlook hf => ?_, fun hlook hf hring => ⟨fun hr => ?_, fun x l r hno hheld hl hx hr => ?_⟩, fun hlook hf hring hr => ?_⟩
  · show execBarArrive p s = _
    refine issue_of hw ho (beq_iff_eq.mpr hf) ?_
    exact checked_ok hlook
  · show execBarWait p s = _
    refine issue_of hw ho (beq_iff_eq.mpr hf) ?_
    exact checked_of hlook (barWait_free hring hr)
  · show execBarWait p s = _
    refine issue_of hw ho (beq_iff_eq.mpr hf) ?_
    exact checked_of hlook (barWait_blocked hring (rankBlock_some hno hheld hl hx hr))
  · show execBarArriveWait p s = _
    refine issue_of hw ho (beq_iff_eq.mpr hf) ?_
    refine checked_of hlook ?_
    have hwait (k : Holm) (hk : k.program = h.program ∧ k.held = h.held ∧ k.inv = h.inv ∧ k.waitPhase = h.waitPhase ∧ k.seenPhase = h.seenPhase) :
        s.barWait p k b = s.setHolm p (if h.waitPhase.getD b 0 < h.seenPhase.getD b 0 then k.pastWait b else k) := by
      obtain ⟨hprog, hheld, hinv, hwp, hsp⟩ := hk
      rw [← hwp, ← hsp]
      refine barWait_free ?_ ?_
      · unfold State.ringBar at hring ⊢
        rw [hinv]
        exact hring
      · unfold State.rankOf at hr ⊢
        rw [hprog, hheld, hinv]
        exact hr
    by_cases hhead : h.headArrived = true
    · refine (if_pos hhead).trans ((hwait h ⟨rfl, rfl, rfl, rfl, rfl⟩).trans ?_)
      rw [if_pos hhead, Holm.headArrived_eta hhead]
      rfl
    · refine (if_neg hhead).trans ((hwait { h.arrive b m with headArrived := true } ⟨rfl, rfl, rfl, rfl, rfl⟩).trans ?_)
      rw [if_neg hhead]
      rfl

end Sys2Proof.Proofs
end

section
/-! SUPPORT. Arrivals at barriers and the waves that tell waiters of a release (R225, R226, R229). -/

namespace Sys2Proof.Machine

variable {s : State}

/-- A holm that holds a barrier (R226). -/
def Holm.holding (h : Holm) (b : Nat) : Holm := { h with held := if h.held.contains b then h.held else h.held ++ [b] }

/-- An arrival that is not the last of its phase and that the barrier has not counted (R226, R490). -/
theorem barArrive_counts {w part b l p : Nat} {wk : Work} {x : Barrier} (hw : s.work? w = some wk)
    (hx : wk.barriers.get? (barKey part b) = some x) (hp : s.physOf? l = some p)
    (hnew : x.got.getD l 0 < (s.holm p).arrCount.getD b 0) (hc : x.count + 1 < x.parts) :
    s.barArrive w part b (some l) = (s.modWork w fun y => { y with barriers := y.barriers.set (barKey part b) { x with
        count := x.count + 1, arrived := l :: x.arrived, got := x.got.set l ((s.holm p).arrCount.getD b 0) } }).modHolm p (Holm.holding · b) := by
  have hold (t : State) (ht : t.remap = s.remap) : t.holdBar b [l] = t.modHolm p (Holm.holding · b) := by
    have htp : t.physOf? l = some p := by
      unfold State.physOf? at hp ⊢
      rw [ht]
      exact hp
    unfold State.holdBar
    simp [htp, Holm.holding]
  unfold State.barArrive
  simp only [hw, hx, hp, Option.map_some, Option.getD_some, Nat.not_le.mpr hnew, decide_false, Bool.false_eq_true, if_false, if_pos hc]
  exact hold _ rfl

/-- What a wave of a release tells one holm (R229). -/
def Holm.told (h : Holm) (key phase : Nat) (many : Bool) : Holm :=
  { h with seenPhase := h.seenPhase.set (key % 64) phase, ramp := h.ramp || many }

theorem Holm.told_told (h : Holm) (key phase : Nat) (many : Bool) : (h.told key phase many).told key phase many = h.told key phase many := by
  unfold Holm.told
  simp [AMap.set_set]

/-- One waiter of a release's wave. -/
theorem wakeOne_release {v : Wave} {key phase : Nat} (hk : v.kind = .release key phase) (w lg : Nat) :
    ∃ hs, s.wakeOne w v lg = { s with holms := hs } ∧ ∀ p, (s.wakeOne w v lg).holm p =
      if s.physOf? lg = some p ∧ (s.holm p).inv.map (·.work) = some w then (s.holm p).told key phase (decide (16 < v.waiters.length))
      else s.holm p := by
  unfold State.wakeOne
  rw [hk]
  dsimp only
  cases hq : s.physOf? lg with
  | none => exact ⟨s.holms, rfl, fun p => by simp⟩
  | some q =>
    by_cases hin : ((s.holm q).inv.map (·.work)) = some w
    · refine ⟨_, if_pos hin, fun p => ?_⟩
      simp only [hin, if_true, State.holm_setHolm, Option.some.injEq]
      by_cases hqp : p = q
      · subst hqp
        simp [hin, Holm.told]
      · simp [hqp, Ne.symm hqp]
    · refine ⟨s.holms, if_neg hin, fun p => ?_⟩
      simp only [hin, if_false, Option.some.injEq]
      refine (if_neg ?_).symm
      rintro ⟨rfl, hw⟩
      exact hin hw

/-- The whole group of a release's wave. -/
theorem foldl_wakeOne_release {v : Wave} {key phase : Nat} (hk : v.kind = .release key phase) (w : Nat) (group : List Nat) :
    ∃ hs, group.foldl (fun (s : State) lg => s.wakeOne w v lg) s = { s with holms := hs } ∧
      ∀ p, (group.foldl (fun (s : State) lg => s.wakeOne w v lg) s).holm p =
        if (∃ lg ∈ group, s.physOf? lg = some p) ∧ (s.holm p).inv.map (·.work) = some w
        then (s.holm p).told key phase (decide (16 < v.waiters.length)) else s.holm p := by
  induction group generalizing s with
  | nil => exact ⟨s.holms, rfl, fun p => by simp⟩
  | cons lg group ih =>
    obtain ⟨hs₁, h₁, hone⟩ := wakeOne_release (s := s) hk w lg
    obtain ⟨hs, h, hall⟩ := ih (s := s.wakeOne w v lg)
    refine ⟨hs, h.trans ?_, fun p => (hall p).trans ?_⟩
    · rw [h₁]
    · have hphys (l : Nat) : (s.wakeOne w v lg).physOf? l = s.physOf? l := by
        rw [h₁]
        rfl
      have hinv : ((s.wakeOne w v lg).holm p).inv = (s.holm p).inv := by
        rw [hone]
        split
        · rfl
        · rfl
      by_cases hin : (s.holm p).inv.map (·.work) = some w
      · by_cases hlg : s.physOf? lg = some p
        · by_cases hrest : ∃ l ∈ group, s.physOf? l = some p
          · simp only [hphys, List.exists_mem_cons_iff, hone, hin, hlg, hrest, and_self, or_self, if_true, Holm.told_told, ite_self]
          · simp only [hphys, List.exists_mem_cons_iff, hone, hin, hlg, hrest, and_self, or_false, false_and, if_true, if_false]
        · simp only [hphys, List.exists_mem_cons_iff, hone, hin, hlg, false_or, false_and, if_false]
      · simp only [hone, hin, and_false, if_false]

end Sys2Proof.Machine

namespace Sys2Proof.Proofs

open Sys2Proof.Machine Sys2Proof.Machine.State

/-- Settles O4: the arrival by what a barrier counts, the wave by induction on its group. -/
theorem arrivalsAndWaves : Obligations.ArrivalsAndWaves := by
  unfold Obligations.ArrivalsAndWaves
  refine ⟨?_, ?_⟩
  · intro s p bar i a wk x hlive hi ha hw hx hp hgot hc
    obtain ⟨hp272, hl⟩ := hlive
    let h1 : Holm := { s.holm p with
      arrivals := (s.holm p).arrivals.erase a, arrCount := (s.holm p).arrCount.set bar ((s.holm p).arrCount.getD bar 0 + 1) }
    have hcount : ((s.setHolm p h1).holm p).arrCount.getD bar 0 = (s.holm p).arrCount.getD bar 0 + 1 := by simp [h1]
    have hrun : exec (.barrierArrivalEffect p bar) s = .next ((s.setHolm p h1).barArrive i.work i.part bar (some i.lg)) := by
      show execBarrierArrivalEffect p bar s = _
      refine (onHolm_next hp272 hl _).trans ?_
      simp only [h1, hi, ha]
    rw [barArrive_counts (s := s.setHolm p h1) hw hx hp (by omega) hc, hcount] at hrun
    refine ⟨_, hrun, ?_, fun q hq => ?_, ?_, fun v hv => ?_, rfl, rfl, rfl, rfl⟩
    · rw [holm_modHolm, if_pos rfl]
      exact congrArg (Holm.holding · bar) ((holm_setHolm s p p h1).trans (if_pos rfl))
    · rw [holm_modHolm, if_neg hq]
      exact (holm_setHolm s p q h1).trans (if_neg hq)
    · refine (work_modWork _ _ _ _).trans ((if_pos rfl).trans ?_)
      exact congrArg _ hw
    · exact (work_modWork _ _ _ _).trans (if_neg hv)
  · intro s w key phase wk v rest hw hk hv group
    let s1 := s.modWork w fun x => { x with
      waves := if v.waiters.length ≤ 16 * (v.next + 1) then x.waves.erase v else x.waves.map fun y => if y = v then { y with next := y.next + 1 } else y }
    have hrun : exec (.waveRelease w) s = .next (group.foldl (fun (s : State) lg => s.wakeOne w v lg) s1) := by
      refine congrArg Host.Outcome.next ?_
      unfold State.releaseWave
      simp only [hw, hv, hk, reduceCtorEq, if_false, decide_eq_true_eq]
      rfl
    obtain ⟨hs, hfold, hholm⟩ := foldl_wakeOne_release (s := s1) hk w group
    refine ⟨_, hrun, hholm, ?_, ?_, ?_, ?_, ?_⟩
    · rw [hfold]
      refine (work_modWork s w w _).trans ((if_pos rfl).trans ?_)
      exact congrArg _ hw
    all_goals
      rw [hfold]
      rfl

end Sys2Proof.Proofs
end

section
/-! SUPPORT. Scoreboard entries and messages (R35, R41 to R45, R55, R62, R320, R321). -/

namespace Sys2Proof.Machine

variable {s : State} {p : Nat} {h : Holm}

/-- What the command of a holm answers on a live module. -/
theorem onHolm_of {f : Holm → State → State} {t : State} (hp : s.liveHolm p) (ht : f (s.holm p) s = t) : onHolm p s f = .next t := by
  rw [onHolm_next hp.1 hp.2, ht]

theorem State.atWord.liveHolm {w : BitVec 128} (hw : s.atWord p w) : s.liveHolm p := ⟨hw.1, hw.2.1⟩

/-- A range without an engine may issue where no entry meets it and one is free (R37, R42, R45). -/
theorem canIssue_range {r : Nat × Nat} : h.canIssue [] [] [r] = true ↔
    (∀ e ∈ h.scoreboard, r.2 < e.first ∨ e.last < r.1) ∧ h.scoreboard.length < 32 := by
  unfold Holm.canIssue Holm.conflicts Holm.roomIn
  simp [Holm.meets]
  exact fun _ => forall₂_congr fun e _ => by omega

theorem retire_one {l k : List SbEntry} {e : SbEntry} (hs : h.scoreboard = l ++ e :: k) (hne : ∀ x ∈ l ++ k, x.id ≠ e.id) :
    h.retire [e.id] = { h with
      scoreboard := l ++ k
      inFlight := (h.inFlight.map fun f => { f with entries := f.entries.filter fun i => i != e.id }).filter fun f => !f.entries.isEmpty } := by
  have hkeep : (h.scoreboard.filter fun x => x.id != e.id) = l ++ k := by
    rw [hs, List.filter_append, List.filter_cons_of_neg (by simp), ← List.filter_append]
    exact List.filter_eq_self.mpr fun x hx => by simpa using hne x hx
  have hcontains (i : Nat) : (!([e.id].contains i)) = (i != e.id) := by
    rw [List.contains_cons, List.contains_nil, Bool.or_false]
    rfl
  unfold Holm.retire
  simp only [hcontains, hkeep]

theorem find?_entry {l k : List SbEntry} {e : SbEntry} (hs : h.scoreboard = l ++ e :: k) (hne : ∀ x ∈ l ++ k, x.id ≠ e.id) :
    (h.scoreboard.find? fun x => x.id == e.id) = some e := by
  rw [hs, List.find?_append, List.find?_eq_none.mpr fun x hx => by simpa using hne x (List.mem_append_left _ hx)]
  simp

/-- A request to a logical holm that is served carries its physical holm and epoch (R62). -/
theorem request_served {r : NetReq} {q : Nat} (hq : s.physOf? r.tgtLg = some q) :
    s.request r = { s with
      reqs := s.reqs.set s.nextReq { r with tgtPhys := q, epoch := s.epochOf r.tgtLg, resp := none }, nextReq := s.nextReq + 1 } := by
  unfold State.physOf? at hq
  unfold State.request State.epochOf
  split at hq
  · rename_i x hx
    split at hq
    · cases hq
      simp [*]
    · cases hq
  · cases hq

end Sys2Proof.Machine

namespace Sys2Proof.Proofs

open Sys2Proof.Machine Sys2Proof.Machine.State

/-- Settles O5: an RNG by whether its range may issue and its event has occurred; a retiring entry by its place in the scoreboard. -/
theorem scoreboardEntries : Obligations.ScoreboardEntries := by
  unfold Obligations.ScoreboardEntries
  intro s p hlive h
  refine ⟨?_, ?_⟩
  · intro w r hw ho hlook ev
    have hev : (match r.event with | 0 => RetireEv.tiles r.ch r.count | 1 => .arrivals r.count | _ => .phase r.bar r.count) = ev := by
      unfold ev
      split
      · rw [if_pos ‹_›]
      · rename_i h1
        rw [h1]
        rfl
      · rw [if_neg ‹_›, if_neg ‹_›]
    have hrun : exec (.rng p) s = .next (if !h.canIssue [] [] [(r.first, r.last)] then s
        else if s.eventHolds h ev then s.setHolm p h.step1
        else s.setHolm p (h.enter .declared [] ev [(r.first, r.last)]).2.step1) := by
      show execRng p s = _
      refine issue_of hw ho rfl (checked_of hlook ?_)
      rw [← hev] <;> rfl
    refine ⟨fun hfree hlen hno => ?_, fun hfree hlen hyes => ?_, fun hmeets => ?_⟩
    · rw [hrun, canIssue_range.mpr ⟨hfree, hlen⟩, hno]
      rfl
    · rw [hrun, canIssue_range.mpr ⟨hfree, hlen⟩, hyes]
      rfl
    · have hnot : h.canIssue [] [] [(r.first, r.last)] = false := by
        refine Bool.eq_false_iff.mpr fun hc => ?_
        obtain ⟨hfree, hlen⟩ := canIssue_range.mp hc
        rcases hmeets with ⟨e, he, h1, h2⟩ | hfull
        · have := hfree e he
          omega
        · omega
      rw [hrun, hnot]
      rfl
  · intro l k e hs hne t
    have hret := retire_one hs hne
    have hfind := find?_entry hs hne
    refine ⟨fun hev hat hdone => ?_, fun hkind hev => ?_⟩
    · show execScoreboardRetire p e.id s = _
      refine onHolm_of hlive ?_
      simp only [h] at hfind hat hdone hret
      simp [hfind, hev, hat, hdone, hret, t, h]
    · show execDeclaredEntryRetire p e.id s = _
      refine onHolm_of hlive ?_
      simp only [h] at hfind hev hret
      simp [hfind, hev, hkind, hret, t, h]

/-- Settles O6: a SEND and a RECV at the head, the arrival of a message and its entry into the inbox. -/
theorem messages : Obligations.Messages := by
  unfold Obligations.Messages
  refine ⟨?_, ?_, ?_⟩
  · intro s p w r lg q hw ho hform h hull hlook hsize hissue hclean hpeer hphys
    let k : Holm := { h.launch 0x0A [.msg] [hull] [] with msgSeq := h.msgSeq.set lg (h.msgSeq.getD lg 0 + 1) }
    let m : NetReq :=
      { kind := .msg, src := p, ch := 0, pc := h.pc, tile := 0, tgtLg := lg, tgtPhys := 0, epoch := 0, addr := 0
        lines := 2, local_ := 0, data := h.bytes (4 * r.buf) 64, accepted := false, arrived := 0
        srcLg := (h.inv.map (·.lg)).getD 0, seq := h.msgSeq.getD lg 0, resp := none, held := false }
    have hrun : exec (.msgSend p) s = .next ((s.setHolm p k).request m) := by
      show execMsgSend p s = _
      refine issue_of hw ho (by simp [msgForm, hform]) (checked_of hlook ?_)
      refine (if_neg (Nat.not_le.mpr hsize)).trans ((if_neg (by simp [h, hull, hissue])).trans ((if_neg (by simp [h, hull, hclean])).trans ?_))
      rw [hpeer]
    rw [request_served (s := s.setHolm p k) (r := m) hphys] at hrun
    exact ⟨_, _, hrun, rfl, rfl, rfl, rfl, rfl, rfl, rfl, rfl, rfl, (holm_setHolm s p p k).trans (if_pos rfl),
      fun j hj => (holm_setHolm s p j k).trans (if_neg hj), rfl, rfl, rfl⟩
  · intro s p w r hw ho hform h hull hlook
    refine ⟨fun hempty => ?_, fun m rest hin hissue => ?_⟩
    · show execMsgRecv p s = _
      refine issue_of hw ho (by simp [msgForm, hform]) (checked_of hlook ?_)
      rw [hempty]
    · show execMsgRecv p s = _
      refine issue_of hw ho (by simp [msgForm, hform]) (checked_of hlook ?_)
      rw [hin]
      exact if_neg (by simp [h, hull, hissue])
  · intro s i r hr hkind hresp
    refine ⟨fun harr hrole hnew => ?_, fun harr hfirst hroom => ?_, fun harr hfull => ?_⟩
    · refine congrArg Host.Outcome.next ?_
      simp only [hr]
      simp [hkind, hresp, harr, hrole, hnew]
      rfl
    · refine congrArg Host.Outcome.next ?_
      simp only [hr]
      simp [hkind, hresp, harr, hfirst, Nat.not_le.mpr hroom]
      rfl
    · refine congrArg Host.Outcome.next ?_
      simp only [hr]
      simp [hfull]

end Sys2Proof.Proofs
end

section
/-! SUPPORT. Engine instructions at the head: whether they wait, issue with their effect, or stop (R37, R41, R98, R135, R307). -/

namespace Sys2Proof.Machine

variable {s : State} {p : Nat} {h : Holm} {opc : Nat} {qs : List Queue} {reads writes : List Hull} {run : Except Status EngOut}

/-! ### What an engine's results leave unchanged -/

theorem putWords_pc (ws : List (Nat × Nat)) : (h.putWords ws).pc = h.pc := by
  refine foldl_keeps (P := fun k : Holm => k.pc = h.pc) (fun k r hk => ?_) rfl
  exact hk

theorem spoilAll_pc (rs : List (Nat × Nat)) (tag : Nat) : (h.spoilAll rs tag).pc = h.pc := by
  refine foldl_keeps (P := fun k : Holm => k.pc = h.pc) (fun k r hk => ?_) rfl
  dsimp only
  split
  · exact hk
  · exact hk

theorem launch_pc (rs ws : List (Nat × Nat)) : (h.launch opc qs rs ws).pc = h.pc + 1 := by
  unfold Holm.launch Holm.step1
  dsimp only
  split
  · rfl
  · rfl

/-- An instruction without operands enters nothing (R41). -/
theorem launch_nil : h.launch opc qs [] [] = { h with pc := h.pc + 1 } := by
  simp [Holm.launch, Holm.enter, Holm.step1, Holm.goTo]

/-! ### The engines (R37, R41) -/

theorem engine_waits (hc : h.canIssue qs (hulls reads) (hulls writes) = false) : s.engine p h opc qs reads writes run = s := by
  unfold State.engine
  rw [hc]
  rfl

theorem engine_ok {o : EngOut} (hc : h.canIssue qs (hulls reads) (hulls writes) = true) (hr : run = .ok o) :
    s.engine p h opc qs reads writes run = { s with free := s.free + 1 }.setHolm p
      (((h.launch opc qs (hulls reads) (hulls writes)).putWords o.writes).spoilAll o.undef s.free) := by
  unfold State.engine
  rw [hc, hr]
  rfl

theorem engine_error {e : Status} (hc : h.canIssue qs (hulls reads) (hulls writes) = true) (hr : run = .error e) :
    s.engine p h opc qs reads writes run = s.setHolm p ((h.launch opc qs (hulls reads) (hulls writes)).deferred h.pc opc 0 e 0) := by
  unfold State.engine
  rw [hc, hr]
  rfl

/-- What follows an engine that has issued (R192): the next instruction is not the one at the head. -/
theorem engine_then {t : State} {g : Holm} (ht : t = { s with free := s.free + 1 }.setHolm p g) (hpc : g.pc = h.pc + 1) (f : Holm → Holm) :
    (if (t.holm p).pc = h.pc then t else t.modHolm p f) = { s with free := s.free + 1 }.setHolm p (f g) := by
  subst ht
  rw [State.holm_setHolm, if_pos rfl, if_neg (by omega), State.modHolm_setHolm]

theorem results_pc (ws rs : List (Nat × Nat)) (tag : Nat) (l l' : List (Nat × Nat)) :
    (((h.launch opc qs l l').putWords ws).spoilAll rs tag).pc = h.pc + 1 := by
  rw [spoilAll_pc, putWords_pc, launch_pc]

theorem hulls_unless (z : Prop) [Decidable z] (l : List Hull) : hulls (if z then [] else l) = if z then [] else hulls l := apply_ite hulls z [] l

theorem engine_hulls_ok {rs ws out : List (Nat × Nat)} (hrs : hulls reads = rs) (hws : hulls writes = ws)
    (hc : h.canIssue qs rs ws = true) (hr : run = .ok (.ofWrites out)) :
    s.engine p h opc qs reads writes run = { s with free := s.free + 1 }.setHolm p ((h.launch opc qs rs ws).putWords out) := by
  subst hrs hws
  exact engine_ok hc hr

theorem engine_hulls_error {rs ws : List (Nat × Nat)} {e : Status} (hrs : hulls reads = rs) (hws : hulls writes = ws)
    (hc : h.canIssue qs rs ws = true) (hr : run = .error e) :
    s.engine p h opc qs reads writes run = s.setHolm p ((h.launch opc qs rs ws).deferred h.pc opc 0 e 0) := by
  subst hrs hws
  exact engine_error hc hr

/-- A control block that no entry holds and that is not poisoned lets its step go on to its checks (R98, R176). -/
theorem block_ready {α : Type} {cb bytes lines : Nat} {a b c : α} (hfree : cbFree h [] cb bytes = true) (hclean : cbPoisoned h cb lines = false) :
    (if !cbFree h [] cb bytes then a else if cbPoisoned h cb lines then b else c) = c := by
  simp [hfree, hclean]

theorem unlessPoisoned_clean {f : Nat → Bool} {ws : Unit → List (Nat × Nat)} (hp : h.poison.any f = false) :
    unlessPoisoned h f ws = .ok (.ofWrites (ws ())) := if_neg (Bool.eq_false_iff.mp hp)

theorem unlessPoisoned_poisoned {f : Nat → Bool} {ws : Unit → List (Nat × Nat)} (hp : h.poison.any f = true) :
    unlessPoisoned h f ws = .error .memoryError := if_pos hp

/-! ### The matrix engine (R129, R135, R307) -/

theorem mmaReads_some {m : MProb} (hm : m.m ≠ 0) (hn : m.n ≠ 0) :
    mmaReads m = (if m.k = 0 then [] else [m.hullA, m.hullB]) ++ (if m.acc && !m.inPlace then [m.hullI] else []) :=
  if_neg (by simp [hm, hn])

theorem mmaWrites_some {m : MProb} (hm : m.m ≠ 0) (hn : m.n ≠ 0) : mmaWrites m = [m.hullC] := if_neg (by simp [hm, hn])

theorem mprob_writes_empty {m : MProb} (hz : m.m = 0 ∨ m.n = 0) (rd : Rd) : m.writes rd = [] := by
  unfold MProb.writes
  split
  · rfl
  · rw [hz.resolve_right ‹_›]
    rfl

/-- An MMA that does not emit (R307). -/
theorem mma_runs {w : BitVec 128} {m : MmaOp} (hw : s.atWord p w) (ho : fld w.toNat 0 8 = 0x10)
    (hlook : lookMma (s.lookCtx (s.holm p)) (s.holm p).look w.toNat = .ok m) (hemit : m.emit = false) :
    exec (.mma p) s = .next (s.engine p (s.holm p) 0x10 [.mxe] (mmaReads m.prob) (mmaWrites m.prob)
      (unlessPoisoned (s.holm p) m.prob.reads fun _ => m.prob.writes (s.holm p).rd)) := by
  show execMma p s = _
  refine issue_of hw ho rfl (checked_of hlook ?_)
  simp only [hemit, Bool.not_false, Bool.true_or, Bool.not_true, Bool.false_eq_true, if_false, false_and]

/-- Problems of a list that all pass run one after another (R135, R137). -/
theorem mapRun_all {sp : MapSpec} {hs : Nat → Holm} (n i : Nat) (hstep : ∀ j, i ≤ j → j < i + n → mapStep sp j (hs j) = .ok (hs (j + 1))) :
    mapRun sp n i (hs i) = (hs (i + n), none) := by
  induction n generalizing i with
  | zero => rfl
  | succ n ih =>
    unfold mapRun
    rw [hstep i (Nat.le_refl i) (by omega)]
    exact (ih (i + 1) fun j h1 h2 => hstep j (by omega) (by omega)).trans (by rw [Nat.add_right_comm]; rfl)

theorem mapStep_ok {sp : MapSpec} {i : Nat} (hlist : ∀ j, j < 16 → h.poison.contains (sp.list + 16 * i + j) = false)
    (hcheck : mapCheck sp (rdLE h.rd (4 * (sp.list + 16 * i)) 64) = none)
    (hclean : h.poison.any (mprobOfDesc sp (rdLE h.rd (4 * (sp.list + 16 * i)) 64)).reads = false) :
    mapStep sp i h = .ok (h.putWords ((mprobOfDesc sp (rdLE h.rd (4 * (sp.list + 16 * i)) 64)).writes h.rd)) := by
  unfold mapStep
  dsimp only
  rw [if_neg, hcheck]
  · exact if_neg (Bool.eq_false_iff.mp hclean)
  · rw [List.any_eq_true]
    rintro ⟨j, hj, hp⟩
    rw [hlist j (List.mem_range.mp hj)] at hp
    cases hp

end Sys2Proof.Machine

namespace Sys2Proof.Proofs

open Sys2Proof.Machine Sys2Proof.Machine.State

/-- Settles O7: an MMA by what its engine does, an MMAP by induction on its list. -/
theorem matrixWords : Obligations.MatrixWords := by
  unfold Obligations.MatrixWords
  refine ⟨?_, ?_⟩
  · intro s p w m hw ho h rs ws hlook hemit hclean
    have hrun := mma_runs hw ho hlook hemit
    refine ⟨fun hm hn hc => ?_, fun hz hc => ?_, fun hm hn hc => ?_⟩
    · rw [hrun, mmaReads_some hm hn, mmaWrites_some hm hn]
      exact congrArg _ (engine_ok hc (unlessPoisoned_clean hclean))
    · rw [hrun, mmaReads, mmaWrites, if_pos hz, if_pos hz]
      refine congrArg _ ((engine_ok hc (unlessPoisoned_clean hclean)).trans ?_)
      rw [mprob_writes_empty hz]
      exact congrArg _ launch_nil
    · rw [hrun, mmaReads_some hm hn, mmaWrites_some hm hn]
      exact congrArg _ (engine_waits hc)
  · intro s p w m hs hw ho h rs desc hlook hc h0 hstep
    show execMmap p s = _
    refine issue_of hw ho rfl (checked_of hlook ?_)
    have hall := mapRun_all (sp := m) (hs := hs) m.count 0 fun j _ hj => by
      obtain ⟨hlist, hcheck, hclean, hnext⟩ := hstep j (by omega)
      rw [hnext]
      exact mapStep_ok hlist hcheck hclean
    rw [h0, Nat.zero_add] at hall
    refine (if_neg ?_).trans ?_
    · rw [Bool.not_eq_true', Bool.not_eq_false]
      exact hc
    · rw [hall]

/-- Settles O8: each step past the checks of its control block, by what its engines do. -/
theorem attentionWords : Obligations.AttentionWords := by
  unfold Obligations.AttentionWords
  intro s p w hw h qs slots
  refine ⟨?_, ?_, ?_⟩
  · intro cb ho hlook hfree hclean c rs ws
    refine ⟨fun o hcheck hc hrun => (?_ : execAts p s = _), fun e hcheck => (?_ : execAts p s = _)⟩ <;>
      refine issue_of hw ho rfl (checked_of hlook ?_) <;>
      refine (block_ready hfree hclean).trans ?_
    · simp only [slots, h, c] at hcheck hrun
      simp only [hcheck, hrun]
      exact engine_then (s := s) (p := p) (engine_ok (opc := 0x18) hc rfl) (results_pc ..) (exportTo · (4 + c.expCh) o.records)
    · simp only [slots, h, c] at hcheck
      simp only [hcheck]
      rfl
  · intro cb y ho hlook hfree hclean c rs ws
    refine ⟨fun o hcheck hc hrun => (?_ : execAtf p s = _), fun e hcheck => (?_ : execAtf p s = _)⟩ <;>
      refine issue_of hw ho rfl (checked_of hlook ?_) <;>
      refine (block_ready hfree hclean).trans ?_ <;>
      simp only [slots, h, c] at hcheck <;>
      simp only [hcheck]
    · exact engine_ok hc hrun
    · rfl
  · intro cb ho hlook hfree hclean b z rs ws
    refine ⟨fun o hcheck hc hrun => (?_ : execAtb p s = _), fun e hcheck => (?_ : execAtb p s = _)⟩ <;>
      refine issue_of hw ho rfl (checked_of hlook ?_) <;>
      refine (block_ready hfree hclean).trans ?_ <;>
      simp only [slots, h, b] at hcheck <;>
      simp only [hcheck]
    · exact engine_ok hc hrun
    · rfl

/-- Settles O9: each instruction by what its engine does with what it finds. -/
theorem vectorWords : Obligations.VectorWords := by
  unfold Obligations.VectorWords
  intro s p w hw h after
  refine ⟨?_, ?_, ?_⟩
  · intro v ho hlook z rs ws hc
    refine ⟨fun hp => (?_ : execVop p s = _), fun hp => (?_ : execVop p s = _)⟩ <;>
      refine issue_of hw ho rfl (checked_of hlook ?_)
    · exact engine_hulls_ok (hulls_unless z _) (hulls_unless z _) hc (unlessPoisoned_clean hp)
    · exact engine_hulls_error (hulls_unless z _) (hulls_unless z _) hc (unlessPoisoned_poisoned hp)
  · intro v ho hlook z rs ws hc
    refine ⟨fun hp => (?_ : execCvt p s = _), fun hp => (?_ : execCvt p s = _)⟩ <;>
      refine issue_of hw ho rfl (checked_of hlook ?_)
    · exact engine_hulls_ok (hulls_unless z _) (hulls_unless z _) hc (unlessPoisoned_clean hp)
    · exact engine_hulls_error (hulls_unless z _) (hulls_unless z _) hc (unlessPoisoned_poisoned hp)
  · intro v ho hlook z rs ws hc hp
    refine ⟨fun hl => (?_ : execSfn p s = _), fun hl => (?_ : execSfn p s = _)⟩ <;>
      refine issue_of hw ho rfl (checked_of hlook ?_)
    · exact engine_hulls_ok (hulls_unless z _) (hulls_unless z _) hc
        ((if_neg (Bool.eq_false_iff.mp hp)).trans (if_neg (Bool.eq_false_iff.mp hl)))
    · exact engine_hulls_error (hulls_unless z _) (hulls_unless z _) hc ((if_neg (Bool.eq_false_iff.mp hp)).trans (if_pos hl))

end Sys2Proof.Proofs
end

section
/-! SUPPORT. Bobbin commands and the pricking instructions that move no data (R215 to R222, R317, R318). -/

namespace Sys2Proof.Machine

variable {s : State} {p ch : Nat} {h : Holm}

theorem State.atWord.fault_none {w : BitVec 128} (hw : s.atWord p w) : (s.holm p).fault = none := by
  have hi := hw.2.2.1
  simp only [Holm.issuing, Bool.and_eq_true, Option.isNone_iff_eq_none] at hi
  exact hi.1.1.2

theorem deferred_bobq {pc opc c d : Nat} {st : Status} : (h.deferred pc opc c st d).bobq = h.bobq := by
  unfold Holm.deferred Holm.noteFault
  split
  · rfl
  · split
    · rfl
    · rfl

theorem bang_of_false {b : Bool} (hb : b = false) : (!b) = true := by rw [hb]; rfl

theorem not_bang_of_true {b : Bool} (hb : b = true) : ¬(!b) = true := by rw [hb]; decide

theorem modAt_modAt {α : Type} (l : List α) (i : Nat) (f g : α → α) : modAt (modAt l i f) i g = modAt l i fun x => g (f x) := by
  induction l generalizing i with
  | nil => rfl
  | cons x l ih => cases i with
    | zero => rfl
    | succ i => exact congrArg (x :: ·) (ih i)

theorem Holm.chan_modChan {f : Chan → Chan} (hc : ch < h.chans.length) : (h.modChan ch f).chan ch = f (h.chan ch) := by
  unfold Holm.modChan Holm.chan
  rw [getD_modAt]
  simp [hc]

/-! ### The control queue (R34, R221) -/

/-- The operation `op` enters an empty control queue. -/
def Holm.bobOnly (h : Holm) (op : BobOp) : Holm := { h with bobq := [op] }

theorem with_bobq_nil (hq : h.bobq = []) : ({ h with bobq := [] } : Holm) = h := by rw [← hq]

/-- The only operation of the queue is done where it can be. -/
theorem pump_done {op : BobOp} {k : Holm} (hf : h.fault = none) (hs : (h.bobOnly op).bobStep = some k) (hk : k.bobq = []) :
    (h.bobOnly op).pump = k := by
  have hnone : k.bobStep = none := by
    unfold Holm.bobStep
    rw [hk]
  have hone : Holm.bobPump 1 k = k := by
    unfold Holm.bobPump
    rw [hnone]
    exact ite_self k
  show Holm.bobPump 2 (h.bobOnly op) = k
  unfold Holm.bobPump
  rw [hs, show (h.bobOnly op).fault = none from hf]
  exact hone

/-- An operation that has issued into an empty queue, and what its holm is once it is done. -/
theorem pump_next {o : Out} {op : BobOp} {k k' : Holm} (ho : o = .next (s.setHolm p (h.bobOnly op).pump)) (hf : h.fault = none)
    (hs : (h.bobOnly op).bobStep = some k) (hk : k.bobq = []) (he : k = k') : o = .next (s.setHolm p k') := by
  rw [ho, pump_done hf hs hk, he]

/-- The only operation of the queue stays where it must wait. -/
theorem pump_waits (hs : h.bobStep = none) : h.pump = h := by
  unfold Holm.pump Holm.bobPump
  rw [hs]
  exact ite_self h

/-- A POST to a channel that runs and has room for the credits (R222). -/
theorem bobStep_post {n pc : Nat} {entry : Option Nat} (hact : (h.chan ch).active = true) (hstop : (h.chan ch).stopping = false)
    (hend : (h.chan ch).ended = false) (hcred : (h.chan ch).credits + n ≤ 255) :
    (h.bobOnly (.post ch n entry pc)).bobStep =
      some (({ h with bobq := [] } : Holm).modChan ch fun c => { c with credits := c.credits + n, posts := c.posts ++ [⟨n, entry⟩] }) := by
  have hruns : ¬((!(h.chan ch).active) = true ∨ (h.chan ch).stopping = true ∨ (h.chan ch).ended = true) := by simp [hact, hstop, hend]
  exact (if_neg hruns).trans (if_neg (Nat.not_lt.mpr hcred))

/-- What a POST posts and what its credits then are, as one change of the channel. -/
theorem modChan_modChan {f g : Chan → Chan} : (h.modChan ch f).modChan ch g = h.modChan ch fun c => g (f c) :=
  congrArg (fun l => { h with chans := l }) (modAt_modAt h.chans ch f g)

theorem enter_nil {kind : SbKind} {qs : List Queue} {ev : RetireEv} : h.enter kind qs ev [] = ([], h) := by
  simp [Holm.enter]

theorem step1_modChan {f : Chan → Chan} : (h.modChan ch f).step1 = h.step1.modChan ch f := rfl

/-- A POST at the head of a holm whose control queue is empty. -/
theorem bobPost_done {w : BitVec 128} {n : Nat} {r : Option (Nat × Nat)} {k : Holm} {e : Option Nat} (hw : s.atWord p w)
    (ho : fld w.toNat 0 8 = 0x30) (hform : fld w.toNat 8 3 = 2)
    (hlook : lookBob (s.lookCtx (s.holm p)) (s.holm p).look w.toNat = .ok (.post ch n r)) (hc : (s.holm p).canIssue [.bob] (hulls [r]) [] = true)
    (hk : (s.holm p).enter .read [.bob] (.post ch) (hulls [r]) = (e.toList, k)) (hact : (k.chan ch).active = true)
    (hstop : (k.chan ch).stopping = false) (hend : (k.chan ch).ended = false) (hch : ch < k.chans.length) (hcred : (k.chan ch).credits + n ≤ 255)
    (hkq : k.bobq = []) (hkf : k.fault = none) :
    exec (.bobPost p) s = .next (s.setHolm p (k.step1.modChan ch fun c =>
      { c with posted := c.posted + n, credits := c.credits + n, posts := c.posts ++ [⟨n, e⟩] })) := by
  have hhead : e.toList.head? = e := by
    cases e
    · rfl
    · rfl
  let k1 := k.modChan ch fun c => { c with posted := c.posted + n }
  have hrun : exec (.bobPost p) s = .next (s.setHolm p (k1.step1.bobOnly (.post ch n e (s.holm p).pc)).pump) := by
    show execBobPost p s = _
    refine issue_of hw ho (beq_iff_eq.mpr hform) (checked_of hlook ((if_neg (not_bang_of_true hc)).trans ?_))
    rw [hk]
    show s.setHolm p (Holm.pump { k1.step1 with bobq := k.bobq ++ [.post ch n e.toList.head? (s.holm p).pc] }) = _
    rw [hhead, hkq]
    rfl
  have hchan : k1.step1.chan ch = { k.chan ch with posted := (k.chan ch).posted + n } := Holm.chan_modChan (h := k) hch
  refine pump_next hrun hkf (bobStep_post ?_ ?_ ?_ ?_) rfl ?_
  · rw [hchan]
    exact hact
  · rw [hchan]
    exact hstop
  · rw [hchan]
    exact hend
  · rw [hchan]
    exact hcred
  · rw [with_bobq_nil (h := k1.step1) hkq, step1_modChan]
    exact modChan_modChan

/-! ### Pricking instructions (R217) -/

theorem prickRow_of {w op : Nat} {f : Holm → Chan → Nat → State → State} {t : State} (hp : s.atPrick p ch w) (ho : fld w 60 4 = op)
    (ht : f (s.holm p) ((s.holm p).chan ch) w s = t) : prickRow p ch op s f = .next t := by
  refine onHolm_of hp.1 ?_
  rw [hp.2, ← ht]
  exact if_pos ho

/-- Adding a sign-extended 40-bit immediate modulo 2^48 (R217). -/
theorem ofNat_signExt (a imm : Nat) (hi : imm < 2 ^ 40) :
    BitVec.ofNat 48 (a + if bitAt imm 39 then imm + (2 ^ 48 - 2 ^ 40) else imm) = BitVec.ofInt 48 (a + (BitVec.ofNat 40 imm).toInt) := by
  have hbit : bitAt imm 39 = true ↔ 2 ^ 39 ≤ imm := by
    unfold bitAt
    rw [Nat.shiftRight_eq_div_pow, beq_iff_eq]
    omega
  have hlow : (BitVec.ofNat 40 imm).toNat = imm := Nat.mod_eq_of_lt hi
  rw [← BitVec.ofInt_natCast, BitVec.toInt_eq_toNat_cond, hlow]
  by_cases hb : 2 ^ 39 ≤ imm
  · rw [if_pos (hbit.mpr hb), if_neg (by omega)]
    refine BitVec.eq_of_toNat_eq ?_
    rw [BitVec.toNat_ofInt, BitVec.toNat_ofInt]
    push_cast
    omega
  · rw [if_neg (mt hbit.mp hb), if_pos (by omega), Nat.cast_add]

end Sys2Proof.Machine

namespace Sys2Proof.Proofs

open Sys2Proof.Machine Sys2Proof.Machine.State

/-- Settles O10: each command alone in the control queue, done at once where it can be. -/
theorem bobbinCommands : Obligations.BobbinCommands := by
  unfold Obligations.BobbinCommands
  intro s p w hw hq h entry
  have hf : h.fault = none := hw.fault_none
  have happ (k : Holm) (op : BobOp) : ({ k with bobq := h.bobq ++ [op] } : Holm) = k.bobOnly op := by
    rw [hq]
    rfl
  refine ⟨?_, ?_, ?_, ?_, ?_⟩
  · intro ch slot depth param ho hform hlook hc h1
    have hrun : exec (.bobStart p) s = .next (s.setHolm p (h1.bobOnly (.start ch slot depth param h.nextEntry h.pc)).pump) := by
      rw [← happ]
      show execBobStart p s = _
      exact issue_of hw ho (beq_iff_eq.mpr hform) (checked_of hlook (if_neg (not_bang_of_true hc)))
    refine ⟨fun hidle => ?_, fun hidle => hrun.trans ?_⟩
    · exact pump_next hrun hf (if_neg (not_bang_of_true hidle)) rfl (congrArg (Holm.setChan · ch _) (with_bobq_nil (h := h1) hq))
    · exact congrArg (fun k => Host.Outcome.next (s.setHolm p k)) (pump_waits (if_pos (bang_of_false hidle)))
  · intro ch ho hform hlook hc
    have hrun : exec (.bobStop p) s = .next (s.setHolm p (h.step1.bobOnly (.stop ch)).pump) := by
      rw [← happ]
      show execBobStop p s = _
      exact issue_of hw ho (beq_iff_eq.mpr hform) (checked_of hlook (if_neg (not_bang_of_true hc)))
    have hnil := with_bobq_nil (h := h.step1) hq
    by_cases hact : (h.chan ch).active = true
    · rw [if_pos hact]
      exact pump_next hrun hf (congrArg some (if_neg (not_bang_of_true hact))) rfl (congrArg (Holm.modChan · ch _) hnil)
    · rw [if_neg hact]
      exact pump_next hrun hf (congrArg some (if_pos (bang_of_false (Bool.eq_false_iff.mpr hact)))) rfl hnil
  · intro ch n ho hform hact hstop hend hch hcred
    refine ⟨fun hlook hc => ?_, fun r hlook hc => ?_⟩
    · exact bobPost_done hw ho hform hlook hc (e := none) (k := h) enter_nil hact hstop hend hch hcred hq hf
    · exact bobPost_done hw ho hform hlook hc (e := some h.nextEntry) (k := { h with
        scoreboard := h.scoreboard ++ [entry (.post ch) r], nextEntry := h.nextEntry + 1 }) rfl hact hstop hend hch hcred hq hf
  · intro ch n r ho hform hlook hc hroom ready
    have hrun : exec (.bobRelease p) s = .next (s.setHolm p (h.step1.bobOnly (.release ch n h.pc)).pump) := by
      rw [← happ]
      show execBobRelease p s = _
      exact issue_of hw ho (beq_iff_eq.mpr hform) (checked_of hlook (if_neg (by simp [h, hc, hroom])))
    have hnil := with_bobq_nil (h := h.step1) hq
    refine ⟨fun hn => ?_, fun hn => ?_⟩
    · exact pump_next hrun hf (if_neg (Nat.not_lt.mpr hn)) rfl (congrArg (Holm.modChan · ch _) hnil)
    · exact pump_next hrun hf (if_pos hn) deferred_bobq (congrArg (Holm.deferred · h.pc 0x30 ch .limit 0) hnil)
  · intro r q hull ho hlook hpool hrows hok hc hidle
    have hrun : exec (.kva p) s = .next (s.setHolm p ((h.enter .read [.bob] (.kva r.ch) [hull]).2.step1.bobOnly
        (.kva r.ch ⟨h.nextEntry, h.selVal r.hsel, r.src, r.tokens, r.layer, r.h0, r.hcnt, r.off, h.pc⟩)).pump) := by
      rw [← happ]
      show execKva p s = _
      refine issue_of hw ho rfl (checked_of hlook ?_)
      simp only [h] at hpool
      simp only [hpool, hrows, hok]
      exact if_neg (not_bang_of_true hc)
    exact pump_next hrun hf (if_pos hidle) rfl
      (congrArg (Holm.modChan · r.ch _) (with_bobq_nil (h := (h.enter .read [.bob] (.kva r.ch) [hull]).2.step1) hq))

/-- Settles O11: each instruction on the channel that has come to it. -/
theorem prickingRegisters : Obligations.PrickingRegisters := by
  unfold Obligations.PrickingRegisters
  intro s p ch w hp h c into r
  refine ⟨fun ho => (?_ : execPrickingAdd p ch s = _), fun ho => (?_ : execPrickingSeta p ch s = _), fun ho => (?_ : execPrickingSetl p ch s = _),
    fun ho => (?_ : execPrickingLoop p ch s = _), fun ho => ?_, fun ho => (?_ : execPrickingEnd p ch s = _)⟩
  · refine prickRow_of hp ho (congrArg into ?_)
    exact congrArg (fun v => ({ c with ar := setAt c.ar r v, pc := c.pc + 1 } : Chan)) (ofNat_signExt (c.ar.getD r 0).toNat (fld w 0 40) (Nat.mod_lt _ (by decide)))
  · exact prickRow_of hp ho rfl
  · refine prickRow_of hp ho (congrArg into ?_)
    exact congrArg (fun v => ({ c with loops := setAt c.loops r v, pc := c.pc + 1 } : Chan)) (apply_ite (BitVec.ofNat 32) _ _ _)
  · exact prickRow_of hp ho rfl
  · refine ⟨fun hc => (?_ : execCwait p ch s = _), fun hc hq => (?_ : execCwait p ch s = _), fun q rest hc hq => (?_ : execCwait p ch s = _)⟩
    · exact prickRow_of hp ho (if_pos hc)
    · refine prickRow_of hp ho ((if_neg hc).trans ?_)
      simp only [c, h] at hq
      simp only [hq]
      rfl
    · refine prickRow_of hp ho ((if_neg hc).trans (congrArg into ?_))
      simp only [c, h] at hq
      simp only [hq]
      by_cases hl : q.left ≤ 1
      · rw [if_pos hl, if_pos hl, if_pos hl]
        rfl
      · rw [if_neg hl, if_neg hl, if_neg hl]
        rfl
  · exact prickRow_of hp ho rfl

end Sys2Proof.Proofs
end

section
/-! SUPPORT. Emits, tiles and the end of channels (R211 to R224). -/

namespace Sys2Proof.Machine

variable {s : State} {p ch : Nat} {h : Holm} {c : Chan} {e : Emit}

theorem openTile_some {c1 : Chan} (hc : if c.tileOpen then c1 = c else c.unfreed < c.depth ∧ c1 = c.begin_) : State.openTile c = some c1 := by
  unfold State.openTile
  split at hc
  · rw [if_pos ‹_›, hc]
  · rw [if_neg ‹_›, if_pos hc.1, hc.2]

theorem close_begun : c.close.begun = c.begun := by
  unfold Chan.close
  split
  · rfl
  · rfl

theorem close_param {i : Nat} : c.close.param i = c.param i := by
  unfold Chan.close
  split
  · rfl
  · rfl

theorem close_ar_ {i : Nat} : c.close.ar_ i = c.ar_ i := by
  unfold Chan.close
  split
  · rfl
  · rfl

/-- The scratchpad side of an emit is aligned and in range (R217). -/
def Emit.localOk (e : Emit) (w : Nat) : Prop := w % 8 = 0 ∧ w + 8 * e.lines ≤ 0x100000

theorem emitMem_range (ha : c.ar_ e.freg % 32 = 0) (hl : e.localOk (c.ar_ e.sreg)) :
    ¬(c.ar_ e.freg % 32 ≠ 0 ∨ (!lineAligned (c.ar_ e.sreg)) = true ∨ lastWord + 1 < c.ar_ e.sreg + 8 * e.lines) := by
  obtain ⟨hw, hend⟩ := hl
  simp [ha, lineAligned, hw, lastWord]
  omega

theorem emitNet_range (ha : c.ar_ e.freg < 2 ^ 28) (hf : e.localOk (c.ar_ e.freg % 2 ^ 20)) (hl : e.localOk (c.ar_ e.sreg)) :
    ¬(2 ^ 28 ≤ c.ar_ e.freg ∨ (!lineAligned (c.ar_ e.freg % 2 ^ 20)) = true ∨ lastWord + 1 < c.ar_ e.freg % 2 ^ 20 + 8 * e.lines ∨
      (!lineAligned (c.ar_ e.sreg)) = true ∨ lastWord + 1 < c.ar_ e.sreg + 8 * e.lines) := by
  obtain ⟨hf0, hf1⟩ := hf
  obtain ⟨hl0, hl1⟩ := hl
  simp only [lineAligned, lastWord, hf0, hl0]
  simp
  omega

/-- What a channel's end waits for (R217, R221). -/
theorem canEnd_iff : c.canEnd = true ↔ c.active = true ∧ c.failed = none ∧
    if c.stopping then ∀ t ∈ c.tiles, t.outstanding = 0 ∧ t.walker = false else c.ended = true ∧ ∀ t ∈ c.tiles, t.freed = true := by
  unfold Chan.canEnd Chan.allFreed
  split
  · simp [*, and_assoc]
  · simp [*, and_assoc]

end Sys2Proof.Machine

namespace Sys2Proof.Proofs

open Sys2Proof.Machine Sys2Proof.Machine.State

/-- Settles O12: an EMIT by where its data lie, a PEMIT by the room in the run-ahead depth. -/
theorem prickingRequests : Obligations.PrickingRequests := by
  unfold Obligations.PrickingRequests
  intro s p ch w c1 hp h c e a x t
  refine ⟨fun ho hopen hx hend => ⟨fun hkind ha => ?_, ?_⟩, fun ho => ?_⟩
  · have hrun : exec (.prickingEmit p ch) s = .next (s.emitMem p ch h c1 e) := by
      show execPrickingEmit p ch s = _
      refine prickRow_of hp ho ?_
      rw [openTile_some hopen]
      exact if_pos hkind
    have hrange := emitMem_range ha ⟨hx, hend⟩
    refine ⟨fun bs hch hread => ?_, fun st hch hread => ?_, fun s1 hch hclean hwrite => ?_⟩
    · refine hrun.trans (congrArg _ ((if_neg hrange).trans ((if_pos hch).trans ?_)))
      simp only [t, a] at hread
      rw [hread]
    · refine hrun.trans (congrArg _ ((if_neg hrange).trans ((if_pos hch).trans ?_)))
      simp only [t, a] at hread
      rw [hread]
    · refine hrun.trans (congrArg _ ((if_neg hrange).trans ((if_neg (Nat.not_lt.mpr hch)).trans ((if_neg (Bool.eq_false_iff.mp hclean)).trans ?_))))
      simp only [t, a, x] at hwrite
      rw [hwrite]
  · intro lg q hkind ha hfar hfarEnd hpeer hroom hclean hq
    let k := h.setChan ch ((c1.modLast fun t => { t with outstanding := t.outstanding + 1 }).emitted e)
    let m : NetReq :=
      { kind := if ch < 4 then .read else .write, src := p, ch := ch, pc := c1.pc, tile := c1.begun - 1, tgtLg := lg, tgtPhys := 0
        epoch := 0, addr := a % 2 ^ 20 / 8, lines := e.lines, local_ := x, data := if ch < 4 then [] else h.bytes (4 * x) (32 * e.lines)
        accepted := false, arrived := 0, srcLg := 0, seq := 0, resp := none, held := false }
    have hrun : exec (.prickingEmit p ch) s = .next ((s.setHolm p (if ch < 4 then k else k.readTiles ch)).request m) := by
      show execPrickingEmit p ch s = _
      refine prickRow_of hp ho ?_
      rw [openTile_some hopen]
      refine (if_neg hkind).trans ((if_neg (emitNet_range ha ⟨hfar, hfarEnd⟩ ⟨hx, hend⟩)).trans ?_)
      simp only [h, a] at hpeer
      rw [hpeer]
      refine (if_neg (Nat.not_lt.mpr hroom)).trans (if_neg fun hbad => ?_)
      exact absurd hbad.2 (Bool.eq_false_iff.mp (hclean hbad.1))
    rw [request_served (s := s.setHolm p _) (r := m) (q := q) hq] at hrun
    exact ⟨_, _, hrun, rfl, rfl, rfl, rfl, rfl, rfl, rfl, rfl, rfl, rfl, rfl, fun hch => if_neg (Nat.not_lt.mpr hch), rfl, rfl, rfl,
      fun j hj => (holm_setHolm s p j _).trans (if_neg hj)⟩
  · refine ⟨fun hfull => (?_ : execPemit p ch s = _), fun hroom => ?_⟩
    · exact prickRow_of hp ho (if_pos hfull)
    · have hrun : execPemit p ch s = _ := prickRow_of hp ho (if_neg (Nat.not_le.mpr hroom))
      exact ⟨_, _, hrun, rfl, rfl, rfl, rfl, close_param, rfl, rfl, close_ar_, close_ar_, close_begun, rfl, rfl, rfl, rfl,
        fun j hj => (holm_setHolm s p j _).trans (if_neg hj)⟩

/-- Settles O13: each event by the state of the channel that it finds. -/
theorem channelEvents : Obligations.ChannelEvents := by
  unfold Obligations.ChannelEvents
  intro s p ch hlive h c b
  refine ⟨?_, ?_, ?_, ?_⟩
  · intro e he hst hf hact hload hclean h1
    have hready : ¬(h.st ≠ .running ∨ h.fault.isSome = true ∨ (!c.active) = true ∨ c.loaded = true) := by simp [hst, hf, hact, hload]
    refine ⟨fun hzero => (?_ : execBobbinParamBlockRead p ch s = _), fun hbad => (?_ : execBobbinParamBlockRead p ch s = _)⟩ <;>
      refine onHolm_of hlive ?_ <;>
      simp only [c, h] at he <;>
      simp only [he] <;>
      refine (if_neg hready).trans ((if_neg (Bool.eq_false_iff.mp hclean)).trans ?_)
    · refine (if_neg ?_).trans rfl
      rw [List.any_eq_true]
      rintro ⟨i, hi, hb⟩
      exact absurd (hzero i (List.mem_range.mp hi)) (of_decide_eq_true hb)
    · obtain ⟨i, hi, hb⟩ := hbad
      exact if_pos (List.any_eq_true.mpr ⟨i, List.mem_range.mpr hi, decide_eq_true hb⟩)
  · intro t ht hclosed hout hwalk hst hfail
    have hnext : c.nextDone = some t := by
      unfold Chan.nextDone
      rw [ht]
      simp [hclosed, hout, hwalk]
    refine ⟨fun hch => (?_ : execTileLanded p ch s = _), fun hch => (?_ : execTileDrained p ch s = _)⟩ <;>
      refine onHolm_of hlive ?_ <;>
      simp only [c, h] at hnext hst hfail <;>
      simp only [hnext]
    · refine (if_neg (by simp [hst, hfail, Nat.not_le.mpr hch])).trans ?_
      simp only [Chan.modTile, beq_iff_eq]
      rfl
    · refine (if_neg (by simp [hst, hfail, Nat.not_lt.mpr hch])).trans ?_
      simp only [Chan.modTile, beq_iff_eq]
      rfl
  · intro hst hact hfail hdone
    show execChannelEnded p ch s = _
    exact onHolm_of hlive (if_pos ⟨hst, canEnd_iff.mpr ⟨hact, hfail, hdone⟩⟩)
  · intro st pc tile hfail hst hf
    show execBobbinFault p ch s = _
    refine onHolm_of hlive ?_
    simp only [c, h] at hfail
    simp only [hfail]
    refine congrArg (s.setHolm p) ?_
    unfold Holm.deferred Holm.noteFault
    rw [if_neg (not_not_intro hst)]
    simp only [h] at hf
    rw [hf]

end Sys2Proof.Proofs
end

section
/-! SUPPORT. Remote accesses at their target and their responses (R53 to R64). -/

namespace Sys2Proof.Machine

variable {s : State} {i : Nat} {r : NetReq}

theorem wakeHolm_of_not_gated {p : Nat} (hg : (s.holm p).st ≠ .gated) : s.wakeHolm p = s := if_neg hg

theorem serve_served (hg : (s.holm r.tgtPhys).st ≠ .gated) (hrole : s.roleOk r = true) (hpart : s.samePart r = true)
    (hexp : (s.holm r.tgtPhys).exposed r.addr (r.addr + r.lines - 1) 1 = true) :
    s.serve i r = if r.kind = .read then
        if (s.holm r.tgtPhys).inv.isNone ∧ 8 * r.addr < (s.holm r.tgtPhys).lagoonAt then s.answerReq i .noPermission
        else if (s.holm r.tgtPhys).poisonedIn r.addr (r.addr + r.lines - 1) then s.answerReq i .memoryError
        else s.modReq i fun q =>
          { q with accepted := true, data := (s.holm r.tgtPhys).bytes (32 * q.addr) (32 * q.lines), resp := some .done }
      else (s.setHolm r.tgtPhys ((s.holm r.tgtPhys).putBytes (32 * r.addr) r.data)).modReq i fun q =>
        { q with accepted := true, resp := some .done } := by
  unfold State.serve
  rw [wakeHolm_of_not_gated hg]
  refine (if_neg (not_bang_of_true hrole)).trans (if_neg ?_)
  rw [hpart, hexp]
  decide

/-- A request for another role that is not to be reissued, at a holm in service (R62). -/
theorem serve_stale (hg : (s.holm r.tgtPhys).st ≠ .gated) (hrole : s.roleOk r = false) (hre : s.reissuable r = false)
    (hst : (s.holm r.tgtPhys).st ≠ .fusedOut) :
    s.serve i r = (s.answerReq i .staleRole).modHolm r.tgtPhys fun h => { h with staleCount := (h.staleCount + 1) % 2 ^ 32 } := by
  unfold State.serve
  rw [wakeHolm_of_not_gated hg]
  exact (if_pos (bang_of_false hrole)).trans (if_neg (by simp [hre, hst]))

/-- A request sent again, to the physical holm and the role epoch of a remap entry (R64). -/
def NetReq.reissued (m : Remap) (r : NetReq) : NetReq :=
  { r with tgtPhys := 68 * (r.tgtLg / 64) + m.phys, epoch := m.epoch, accepted := false, arrived := 0, resp := none, held := false }

theorem epoch_of_phys {lg q : Nat} (hq : s.physOf? lg = some q) :
    68 * (lg / 64) + (s.remap.getD lg ⟨0, false, 0⟩).phys = q ∧ (s.remap.getD lg ⟨0, false, 0⟩).epoch = s.epochOf lg := by
  unfold State.physOf? at hq
  unfold State.epochOf AMap.getD
  split at hq
  · rename_i x hx
    split at hq
    · cases hq
      simp [hx]
    · cases hq
  · cases hq

end Sys2Proof.Machine

namespace Sys2Proof.Proofs

open Sys2Proof.Machine Sys2Proof.Machine.State

/-- Settles O14: a request at its target by its role and exposure, its response, and what firmware does with it. -/
theorem remoteAccesses : Obligations.RemoteAccesses := by
  unfold Obligations.RemoteAccesses
  intro s i r hr g last
  refine ⟨fun hkind hresp hg => ⟨fun hrole hpart hexp => ?_, fun hrole hre hst => ?_⟩, ?_, fun hresp => ?_, ?_⟩
  · have hrun : exec (.remoteAccessArrival i) s = .next (s.serve i r) := by
      refine congrArg Host.Outcome.next ?_
      simp only [hr]
      exact if_neg (by simp [hkind, hresp])
    rw [serve_served hg hrole hpart hexp] at hrun
    refine ⟨fun hread hlag hclean => hrun.trans (congrArg _ ?_), fun hwrite => hrun.trans (congrArg _ (if_neg (by rw [hwrite]; decide)))⟩
    refine (if_pos hread).trans ((if_neg ?_).trans ((if_neg (Bool.eq_false_iff.mp hclean)).trans ?_))
    · rintro ⟨hnone, hlow⟩
      exact hlag.elim (fun hsome => by simp [g, Option.isNone_iff_eq_none.mp hnone] at hsome) fun hle => absurd hlow (Nat.not_lt.mpr hle)
    · rfl
  · refine congrArg Host.Outcome.next ?_
    simp only [hr]
    exact (if_neg (by simp [hkind, hresp])).trans (serve_stale hg hrole hre hst)
  · intro hresp hst hkind h1
    refine congrArg Host.Outcome.next ?_
    simp only [hr, hresp]
    exact (if_neg (by simp)).trans ((if_neg (not_not_intro hst)).trans ((if_neg hkind).trans (if_pos rfl)))
  · refine congrArg Host.Outcome.next ?_
    simp only [hr]
    exact if_neg (by simp [hresp])
  · intro v q hresp hcause hq hv hrec
    let m : Remap := s.remap.getD r.tgtLg ⟨0, false, 0⟩
    have hrun : exec (.staleRoleReissue i) s = .next ((s.modReq i (NetReq.reissued m)).modWork v.work fun w => { w with degraded := true }) := by
      refine congrArg Host.Outcome.next ?_
      simp only [hr]
      refine (if_neg (by simp [hresp, reissuable, hcause, hq])).trans ?_
      simp only [hv]
      refine (if_neg ?_).trans rfl
      rw [List.any_eq_true]
      rintro ⟨c, hc, hsame⟩
      rw [Bool.and_eq_true, beq_iff_eq, beq_iff_eq] at hsame
      exact (hrec c hc).elim (· hsame.1) (· hsame.2)
    obtain ⟨hphys, hepoch⟩ := epoch_of_phys hq
    refine ⟨_, hrun, ?_, fun j hj => ?_, ?_, fun u hu => ?_, rfl, rfl, rfl, rfl⟩
    · refine (req_modReq s i i (NetReq.reissued m)).trans ?_
      rw [if_pos rfl, hr, ← hphys, ← hepoch]
      rfl
    · exact (req_modReq s i j (NetReq.reissued m)).trans (if_neg hj)
    · exact (work_modWork _ v.work v.work _).trans (if_pos rfl)
    · exact (work_modWork _ v.work u _).trans (if_neg hu)

end Sys2Proof.Proofs
end

section
/-! SUPPORT. The end of an invocation, holms that fail, and the segment watchdog (R61, R66, R232, R325, R483, R492, R499). -/

namespace Sys2Proof.Machine

namespace State

variable {s t : State} {p q : Nat} {hs : HState}

/-! ### Stopping and leaving (R83, R325) -/

theorem foldl_spoil {tag : Nat} (l : List (Nat × Nat)) (h : Holm) :
    ∃ w u, l.foldl (fun h (a, b) => h.spoil (8 * a) (8 * b + 7) tag) h = { h with written := w, undef := u } := by
  induction l generalizing h with
  | nil => exact ⟨_, _, rfl⟩
  | cons r l ih =>
    obtain ⟨w, u, hl⟩ := ih (h.spoil (8 * r.1) (8 * r.2 + 7) tag)
    exact ⟨w, u, hl⟩

/-- What is left of a holm that stops in state `hs` (R325). -/
def stopped (hs : HState) (h : Holm) : Holm :=
  { h with
    st := hs, scoreboard := [], inFlight := [], bobq := [], arrivals := [], headArrived := false, held := []
    chans := List.replicate 8 Chan.reset, fault := none, badRow := none, ramp := false }

theorem holm_stopHolm_self : ∃ w u, (s.stopHolm p hs).holm p = stopped hs { s.holm p with written := w, undef := u } := by
  obtain ⟨w, u, hl⟩ := foldl_spoil (tag := s.free) ((s.holm p).inFlight.flatMap (·.writes)) (s.holm p)
  exact ⟨w, u, (holm_setHolm _ p p _).trans ((if_pos rfl).trans (congrArg (stopped hs) hl))⟩

/-- A holm that leaves its invocation, IDLE and with nothing under way. -/
theorem holm_leaveHolm_self : ∃ w u, (s.leaveHolm p hs).holm p = { stopped hs { s.holm p with written := w, undef := u } with inv := none } := by
  obtain ⟨w, u, hl⟩ := holm_stopHolm_self (s := { s with free := s.free + 1 }) (p := p) (hs := hs)
  let k := stopped hs { s.holm p with written := w, undef := u }
  refine ⟨(k.spoil 0 (k.lagoonAt - 1) s.free).written, (k.spoil 0 (k.lagoonAt - 1) s.free).undef, ?_⟩
  refine (holm_modHolm _ p p _).trans ((if_pos rfl).trans ?_)
  rw [hl]
  rfl

/-- A holm that stops or leaves changes only holms, requests, walks and the count of free values. -/
theorem stopHolm_frame : s.stopHolm p hs = { s with
    holms := (s.stopHolm p hs).holms, reqs := (s.stopHolm p hs).reqs, kv := (s.stopHolm p hs).kv, free := (s.stopHolm p hs).free } := rfl

theorem returnHeld_holms {w stage : Nat} : (s.returnHeld w stage).holms = s.holms := by
  unfold returnHeld
  split
  · rfl
  · rfl

/-! ### Spares (R51, R66) -/

/-- The lowest spare depends only on which holms are spares. -/
theorem spareOf?_congr {k : Nat} (h : ∀ x, (t.holm x).st = .spare ↔ (s.holm x).st = .spare) : t.spareOf? k = s.spareOf? k := by
  unfold spareOf?
  refine congrArg (List.find? · _) (funext fun x => ?_)
  rw [Bool.eq_iff_iff, beq_iff_eq, beq_iff_eq]
  exact h x

theorem spare_of_spareOf? {k : Nat} (h : s.spareOf? k = some q) : (s.holm q).st = .spare := by
  unfold spareOf? at h
  exact beq_iff_eq.mp (List.find?_some (p := fun x => (s.holm x).st == .spare) h)

/-! ### The stage of a failed holm stops (R489, R492) -/

/-- The states that stopping holms other than p reaches from s. -/
def Besides (s : State) (p : Nat) (t : State) : Prop :=
  t.holm p = s.holm p ∧ t = { s with holms := t.holms, reqs := t.reqs, kv := t.kv, free := t.free }

theorem Besides.stopHolm (h : Besides s p t) (hq : p ≠ q) : Besides s p (t.stopHolm q hs) := by
  obtain ⟨hp, ht⟩ := h
  let u := t.stopHolm q hs
  have hu := congrArg (fun x : State => { x with holms := u.holms, reqs := u.reqs, kv := u.kv, free := u.free }) ht
  exact ⟨(holm_stopHolm t q p hs hq).trans hp, hu⟩

theorem stopStage_besides {w stage : Nat} (hp : (s.holm p).st ≠ .running) :
    ∃ t, Besides s p t ∧ s.stopStage w stage = t.modWork w fun x => { x with stopped := true } := by
  refine ⟨_, ?_, rfl⟩
  refine foldl_keeps (P := Besides s p) (fun t q ht => ?_) ⟨rfl, rfl⟩
  by_cases hq : (t.holm q).st = .running
  · rw [if_pos (beq_iff_eq.mpr hq)]
    refine ht.stopHolm fun hpq => hp ?_
    rw [← ht.1, hpq, hq]
  · rw [if_neg (mt beq_iff_eq.mp hq)]
    exact ht

/-! ### A holm that itself fails (R66, R492, R494) -/

/-- The record of a holm that itself fails at its head instruction. -/
def failRecord (h : Holm) : FaultRec :=
  ⟨.memoryError, h.pc, (h.program.words[h.pc]?.map fun w => fld w.toNat 0 8).getD 0, 0, false, 0, true, 0, h.tideNo⟩

theorem noteFault_failRecord {h : Holm} (hst : h.st = .running) (hf : h.fault = none) :
    h.noteFault (failRecord h) = { h with fault := some (failRecord h) } := by
  unfold Holm.noteFault
  rw [if_neg (not_not_intro hst), hf]

/-- The state in which firmware finds a holm that has itself failed: stopped, with its record kept and logged. -/
def failStopped (s : State) (p : Nat) (i : Invocation) (r : FaultRec) : State :=
  ((s.stopHolm p .faulted).modHolm p fun x => { x with record := some r }).log 2 r.status.code none (i.lg % 2 ^ 16 + 2 ^ 16 * p) r.bits

theorem holmFault_hw {i : Invocation} (hst : (s.holm p).st = .running) (hinv : (s.holm p).inv = some i) (hf : (s.holm p).fault = none) :
    s.holmFault p true = (s.failStopped p i (failRecord (s.holm p))).holmFailed p i (failRecord (s.holm p)) := by
  unfold holmFault
  dsimp only
  rw [if_pos rfl]
  have hnote := noteFault_failRecord hst hf
  unfold failRecord at hnote
  rw [hnote]
  simp only [hst, hinv]
  rfl

theorem failStopped_holm {i : Invocation} {r : FaultRec} : ∃ w u, (s.failStopped p i r).holm p =
    { stopped .faulted { s.holm p with written := w, undef := u } with record := some r } := by
  obtain ⟨w, u, hl⟩ := holm_stopHolm_self (s := s) (p := p) (hs := .faulted)
  refine ⟨w, u, ?_⟩
  unfold failStopped
  rw [log_holm, holm_modHolm, if_pos rfl, hl]

/-! ### The role of an idle holm moves (R61, R483) -/

theorem log_repairsDue {cls st u r : Nat} {tn : Option Nat} : (s.log cls st tn u r).boot.repairsDue = s.boot.repairsDue := by
  unfold log
  dsimp only
  split
  · rfl
  · rfl

theorem masked_repairsDue {k u d n : Nat} : (s.masked k u d n).boot.repairsDue = s.boot.repairsDue := by
  unfold masked
  rw [notice_boot, log_repairsDue]

theorem epoch_getD {lg : Nat} : (s.remap.getD lg ⟨0, false, 0⟩).epoch = s.epochOf lg := by
  unfold epochOf AMap.getD
  cases s.remap.get? lg
  · rfl
  · rfl

/-- A lagoon load changes one holm and the count of free values. -/
theorem loadLagoon_frame : s.loadLagoon q = { s with holms := (s.loadLagoon q).holms, free := (s.loadLagoon q).free } ∧
    ∀ x, x ≠ q → (s.loadLagoon q).holm x = s.holm x := by
  have hset (k : Holm) (x : Nat) (hx : x ≠ q) : (s.setHolm q k).holm x = s.holm x := (holm_setHolm s q x k).trans (if_neg hx)
  unfold loadLagoon
  dsimp only
  split
  · exact ⟨rfl, fun _ _ => rfl⟩
  · split
    · exact ⟨rfl, hset _⟩
    · split
      · exact ⟨rfl, hset _⟩
      · exact ⟨rfl, fun x hx => (holm_setHolm _ q x _).trans (if_neg hx)⟩

/-- A fault substitution: the role moves, the failed holm leaves service and its retirement is to be recorded. -/
theorem substitute_moves {lg : Nat} {planned : Bool} :
    (s.substitute lg p q planned).remap = s.remap.set lg ⟨q % 68, true, (s.epochOf lg + 1) % 2 ^ 24⟩ ∧
    ((s.substitute lg p q planned).holm p).st = .fusedOut ∧
    (s.substitute lg p q planned).boot.repairsDue = s.boot.repairsDue ++ [.retired p] ∧
    (s.substitute lg p q planned).mem = s.mem ∧ (s.substitute lg p q planned).kv = s.kv := by
  refine ⟨?_, ?_, rfl, rfl, rfl⟩
  · rw [← epoch_getD]
    rfl
  · exact (congrArg Holm.st ((holm_setHolm _ p p _).trans (if_pos rfl)))

/-! ### The wait graph (R499) -/

theorem logGraph_frame {edges : List (Nat × Nat)} {cyc ended : List Nat} :
    (s.logGraph edges cyc ended).flt = { s.flt with waitGraph := edges, graphs := s.flt.graphs + 1 } ∧
    (s.logGraph edges cyc ended).holms = s.holms ∧ (s.logGraph edges cyc ended).isth = s.isth ∧ (s.logGraph edges cyc ended).mem = s.mem := by
  unfold logGraph
  dsimp only
  refine foldl_keeps (P := fun t : State => ({ t.flt with waitGraph := edges, graphs := t.flt.graphs + 1 } : FaultState) =
    { s.flt with waitGraph := edges, graphs := s.flt.graphs + 1 } ∧ t.holms = s.holms ∧ t.isth = s.isth ∧ t.mem = s.mem)
    (fun t e ht => ?_) ⟨rfl, rfl, rfl, rfl⟩
  dsimp only
  rw [log_flt, log_holms, log_isth, log_mem]
  exact ht

/-- The holms that the watchdog sees from holm i: those on waits that lead away from it. -/
def seenFrom (g : List (Nat × Waits)) (lg : Nat) : List (Nat × Waits) := g.filter fun e => (reach g (g.length + 1) [lg]).contains e.1

def waitEdges (nodes : List (Nat × Waits)) : List (Nat × Nat) := nodes.flatMap fun e => e.2.who.map fun y => (e.1, y)

/-- A watchdog that finds no cycle and no holm that can never go on only logs what it saw. -/
theorem watchdog_quiet {i : Invocation} (hinv : (s.holm p).inv = some i) (hany : (s.waitGraph.any fun e => e.1 == i.lg) = true)
    (hacyc : ∀ e ∈ seenFrom s.waitGraph i.lg, (reach s.waitGraph (s.waitGraph.length + 1) e.2.who).contains e.1 = false)
    (hother : ∀ e ∈ seenFrom s.waitGraph i.lg, e.2.other = true) :
    s.watchdog p = s.logGraph (waitEdges (seenFrom s.waitGraph i.lg)) [] [] := by
  have hcyc : ((seenFrom s.waitGraph i.lg).filter fun e => (reach s.waitGraph (s.waitGraph.length + 1) e.2.who).contains e.1) = [] :=
    List.filter_eq_nil_iff.mpr fun e he => Bool.eq_false_iff.mp (hacyc e he)
  have hdead (live : Nat → Bool) : ((seenFrom s.waitGraph i.lg).filter fun e => !e.2.other && !e.2.who.any live) = [] :=
    List.filter_eq_nil_iff.mpr fun e he => by simp [hother e he]
  unfold seenFrom at hcyc hdead
  unfold watchdog
  rw [hinv]
  refine (if_neg (not_bang_of_true hany)).trans ?_
  dsimp only
  rw [hcyc, hdead]
  rfl

end State

end Sys2Proof.Machine

namespace Sys2Proof.Proofs

open Sys2Proof.Machine Sys2Proof.Machine.State

/-- Settles O15: each event by what it finds of the holm. -/
theorem holmEvents : Obligations.HolmEvents := by
  unfold Obligations.HolmEvents
  intro s p hlive h
  refine ⟨?_, ?_, ?_, ?_, ?_⟩
  · intro i wk st hst hinv hwk hstage hops hend hquiet
    have hrun : exec (.invocationComplete p) s = .next (((s.leaveHolm p .idle).returnHeld i.work i.stage).settle i.work) := by
      show execInvocationComplete p s = _
      refine onHolm_of hlive ?_
      unfold endInvocation
      simp only [h] at hst hinv hquiet
      simp only [hst, hinv, hwk, hstage, hops]
      simp [hinv, hend, hquiet]
    have hholm (q : Nat) : (((s.leaveHolm p .idle).returnHeld i.work i.stage).settle i.work).holm q = (s.leaveHolm p .idle).holm q := by
      unfold State.holm
      rw [settle_holms, returnHeld_holms]
    obtain ⟨w, u, hl⟩ := holm_leaveHolm_self (s := s) (p := p) (hs := .idle)
    refine ⟨_, hrun, ?_, ?_, ?_, ?_, fun q hq => ?_⟩
    · rw [hholm, hl]
      rfl
    · rw [hholm, hl]
    · rw [hholm, hl]
      rfl
    · rw [hholm, hl]
      rfl
    · rw [hholm, holm_leaveHolm s p q _ hq]
  · intro i q hst hinv hf htidal hspare
    have hrun : exec (.holmFault p true) s = .next ((s.failStopped p i (failRecord h)).holmFailed p i (failRecord h)) := by
      show execHolmFault p true s = _
      exact onHolm_of hlive (holmFault_hw hst hinv hf)
    obtain ⟨w, u, hl⟩ := failStopped_holm (s := s) (p := p) (i := i) (r := failRecord h)
    have hspare' : (s.failStopped p i (failRecord h)).spareOf? (p / 68) = some q := by
      refine (spareOf?_congr fun x => ?_).trans hspare
      by_cases hx : x = p
      · rw [hx, hl]
        exact iff_of_false (by simp [stopped]) (by rw [show (s.holm p).st = .running from hst]; decide)
      · unfold failStopped
        rw [log_holm, holm_modHolm, if_neg hx, holm_stopHolm s p x _ hx]
    have hgo : (s.failStopped p i (failRecord h)).holmFailed p i (failRecord h) =
        (s.failStopped p i (failRecord h)).beginRecovery ⟨0, i.work, i.stage, i.lg, p, 0, 0, false, (s.failStopped p i (failRecord h)).now⟩ := by
      unfold holmFailed
      rw [hspare']
      exact if_pos htidal
    obtain ⟨t, ⟨ht, hframe⟩, hstage⟩ := stopStage_besides (s := s.failStopped p i (failRecord h)) (p := p) (w := i.work) (stage := i.stage)
      (by rw [hl]; simp [stopped])
    rw [hgo, beginRecovery, hstage] at hrun
    have hflt : t.flt = s.flt := (congrArg State.flt hframe).trans (log_flt ..)
    have hboot : t.boot = (s.failStopped p i (failRecord h)).boot := (congrArg State.boot hframe).trans rfl
    have hmem : t.mem = s.mem := (congrArg State.mem hframe).trans (log_mem ..)
    have hremap : t.remap = s.remap := (congrArg State.remap hframe).trans (log_remap ..)
    have hnow : (s.failStopped p i (failRecord h)).now = s.now := congrArg (fun x : NetState => x.time.now) (log_net ..)
    rw [hl] at ht
    refine ⟨_, failRecord h, hrun, rfl, rfl, rfl, ?_, ?_, ?_, ?_, ?_, ?_, hmem, hremap⟩
    · exact (congrArg Holm.st ht).trans rfl
    · exact (congrArg Holm.record ht).trans rfl
    · exact (congrArg Holm.inv ht).trans hinv
    · exact (congrArg Holm.scoreboard ht).trans rfl
    · rw [hnow]
      exact congrArg (fun f : FaultState => f.recovery ++ [_]) hflt
    · refine (congrArg (fun b : BootState => b.moduleLog.next) hboot).trans ?_
      unfold failStopped
      rw [log_moduleLog]
      rfl
  · intro lg q hst hlg hspare
    have hrun : exec (.holmPulseLoss p) s = .next (((((s.substitute lg p q false).loadLagoon q).staleRequests p)).masked 0 (lg % 2 ^ 16 + 2 ^ 16 * p) 0
        ((((s.substitute lg p q false).loadLagoon q).staleRequests p).sparesOf (p / 68))) := by
      show execHolmPulseLoss p s = _
      refine onHolm_of hlive ?_
      unfold pulseLoss
      simp only [h] at hst
      simp only [hst, hlg, hspare]
    have hpq : p ≠ q := fun hpq => by
      have hsp := spare_of_spareOf? hspare
      rw [← hpq, show (s.holm p).st = .idle from hst] at hsp
      cases hsp
    obtain ⟨hremap, hfused, hdue, hmem, hkv⟩ := substitute_moves (s := s) (p := p) (q := q) (lg := lg) (planned := false)
    obtain ⟨hframe, hother⟩ := loadLagoon_frame (s := s.substitute lg p q false) (q := q)
    refine ⟨_, hrun, ?_, ?_, ?_, ?_, ?_⟩
    · rw [masked_remap]
      exact (congrArg State.remap hframe).trans hremap
    · rw [masked_holm]
      exact (congrArg Holm.st (hother p hpq)).trans hfused
    · rw [masked_repairsDue]
      exact (congrArg (fun x : State => x.boot.repairsDue) hframe).trans hdue
    · rw [masked_mem]
      exact (congrArg State.mem hframe).trans hmem
    · rw [masked_kv]
      exact (congrArg State.kv hframe).trans hkv
  · intro hst
    show execHolmPulseLoss p s = _
    refine onHolm_of hlive ?_
    unfold pulseLoss
    simp only [h] at hst
    simp only [hst]
  · intro i hinv hany g nodes hacyc hother
    have hrun : exec (.segmentWatchdog p) s = .next (s.logGraph (waitEdges nodes) [] []) := by
      show execSegmentWatchdog p s = _
      exact onHolm_of hlive (watchdog_quiet hinv hany hacyc hother)
    obtain ⟨hflt, hholms, histh, hmem⟩ := logGraph_frame (s := s) (edges := waitEdges nodes) (cyc := []) (ended := [])
    refine ⟨_, hrun, ?_, ?_, hholms, histh, hmem⟩
    · rw [hflt]
    · rw [hflt]
      rfl

end Sys2Proof.Proofs
end

section
/-! SUPPORT. The upkeep of holms: scrub, row repair, the repair table and the rated floor (R51, R85, R94 to R99, R507, R542). -/

namespace Sys2Proof.Machine

namespace State

variable {s : State} {p : Nat} {h : Holm}

/-- Errors of a line that were corrected. -/
def softErrs (errs : List (Nat × Bool)) : Nat := (errs.filter fun x => !x.2).length

/-- The words of a line that an uncorrectable error poisons. -/
def hardWords (line : Nat) (errs : List (Nat × Bool)) : List Nat :=
  (errs.filter fun x => x.2 && decide (x.1 < 8)).map fun x => 8 * line + x.1

/-- A holm after the scrubber has counted the errors of a line (R94, R96, R98). -/
def scrubbed (h : Holm) (line : Nat) (errs : List (Nat × Bool)) : Holm :=
  { h with
    ceCount := (h.ceCount + softErrs errs) % 2 ^ 32
    rowErrors := if softErrs errs = 0 then h.rowErrors else
      h.rowErrors.set line ((h.rowErrors.getD line (0, 0)).1 + 1, (h.rowErrors.getD line (0, 0)).2 + softErrs errs)
    poison := h.poison ++ (hardWords line errs).filter fun w => !h.poison.contains w }

/-- What a visit of a written line does. -/
theorem scrub_written {line : Nat} {errs : List (Nat × Bool)} (hf : (s.holm p).st ≠ .fusedOut) (hg : (s.holm p).st ≠ .gated) (hl : line < 131072)
    (hw : (s.holm p).written.has line = true) :
    s.scrub p line errs =
      if !(hardWords line errs).isEmpty then (s.setHolm p (scrubbed (s.holm p) line errs)).mapRow p (line % 64) (line / 64)
      else if rowCandidate (scrubbed (s.holm p) line errs) line && (spareRow? (s.holm p) (line % 64)).isNone && !rowTaken (s.holm p) (line % 64) (line / 64) then
        (s.setHolm p (scrubbed (s.holm p) line errs)).retireForRow p (line % 64) (line / 64)
      else s.setHolm p (scrubbed (s.holm p) line errs) :=
  if_neg (by simp [hf, hg, Nat.not_le.mpr hl, hw])

theorem mapRow_spare {bank row k : Nat} (ht : rowTaken (s.holm p) bank row = false) (hk : spareRow? (s.holm p) bank = some k) :
    s.mapRow p bank row = s.setHolm p { s.holm p with repairing := (s.holm p).repairing ++ [⟨bank, row, k, true⟩] } := by
  unfold mapRow
  dsimp only
  rw [ht, hk]
  rfl

theorem mapRow_noSpare {bank row : Nat} (ht : rowTaken (s.holm p) bank row = false) (hk : spareRow? (s.holm p) bank = none)
    (hr : (s.holm p).retirePlanned = false) :
    s.mapRow p bank row =
      (s.modHolm p fun h => { h with retirePlanned := true }).log 8 0 none (p % 2 ^ 9 + 2 ^ 9 * bank + 2 ^ 15 * row) 0 := by
  unfold mapRow retireForRow
  dsimp only
  rw [ht, hk, hr]
  rfl

theorem holm_setHolm_self : (s.setHolm p h).holm p = h := (holm_setHolm s p p h).trans (if_pos rfl)

theorem log_next {cls st u r : Nat} {tn : Option Nat} :
    (s.log cls st tn u r).boot.moduleLog.next = (s.boot.moduleLog.next + 1) % 2 ^ 32 := by
  rw [log_moduleLog]

/-! ### The repair table (R542) -/

theorem holm_writeRepairs {q : Nat} :
    (s.writeRepairs p).holm q = if q = p then { s.holm p with repairRecord := [] } else s.holm q :=
  holm_modHolm s p q fun h => { h with repairRecord := [] }

theorem mem_writeRepairs {r : Repair} : r ∈ (s.writeRepairs p).boot.repairs ↔
    r ∈ s.boot.repairs ∨ r ∈ s.boot.repairsDue ∨ r ∈ (s.holm p).repairRecord.map fun e => .rowMap p e.1 e.2.1 e.2.2 := by
  show r ∈ s.boot.repairs ++ List.eraseDups (List.filter _ (s.boot.repairsDue ++ _)) ↔ _
  rw [List.mem_append, List.mem_eraseDups, List.mem_filter, List.mem_append]
  by_cases hr : r ∈ s.boot.repairs
  · simp [hr]
  · simp [hr]

end State

end Sys2Proof.Machine

namespace Sys2Proof.Proofs

open Sys2Proof.Machine Sys2Proof.Machine.State

/-- Settles O16: each kind of upkeep by what it finds of the holm. -/
theorem holmUpkeep : Obligations.HolmUpkeep := by
  unfold Obligations.HolmUpkeep
  intro s p hlive h
  refine ⟨?_, ?_, ?_, ?_, ?_, ?_, ?_, ?_⟩
  · intro line errs hf hg hl hw bank row soft hard errsOf h1
    have hrun : exec (.scrubVisit p line errs) s = .next (s.scrub p line errs) := by
      show execScrubVisit p line errs s = _
      exact onHolm_of hlive rfl
    rw [scrub_written hf hg hl hw] at hrun
    have hempty : hard ≠ [] → (!(hardWords line errs).isEmpty) = true := fun hne =>
      bang_of_false (Bool.eq_false_iff.mpr fun he => hne (List.isEmpty_iff.mp he))
    have hself : (s.setHolm p (scrubbed (s.holm p) line errs)).holm p = h1 := holm_setHolm_self
    have hset (k : Holm) : (s.setHolm p (scrubbed (s.holm p) line errs)).setHolm p k = s.setHolm p k := setHolm_setHolm s p _ k
    refine ⟨fun hnone hcases => hrun.trans (congrArg _ ?_), fun k hne ht hk => hrun.trans (congrArg _ ((if_pos (hempty hne)).trans ?_)),
      fun hne ht hk hr => ?_⟩
    · refine (if_neg (not_bang_of_true (List.isEmpty_iff.mpr hnone))).trans ((if_neg ?_).trans rfl)
      rw [Bool.and_eq_true, Bool.and_eq_true]
      rintro ⟨⟨hcand, hspare⟩, htaken⟩
      rcases hcases with hno | ⟨k, hk⟩ | ht
      · exact absurd hcand (Bool.eq_false_iff.mp hno)
      · rw [show spareRow? (s.holm p) (line % 64) = some k from hk] at hspare
        cases hspare
      · rw [show rowTaken (s.holm p) (line % 64) (line / 64) = true from ht] at htaken
        cases htaken
    · rw [mapRow_spare (by rw [hself]; exact ht) (by rw [hself]; exact hk), hset, hself]
    · rw [if_pos (hempty hne), mapRow_noSpare (by rw [hself]; exact ht) (by rw [hself]; exact hk) (by rw [hself]; exact hr)] at hrun
      refine ⟨_, hrun, ?_, log_next, log_isth .., log_mem ..⟩
      rw [log_holms, modHolm, hself, hset]
  · intro bank row k hb hcand ht hk
    show execRowRepairCopy p bank row s = _
    exact onHolm_of hlive ((if_pos ⟨hb, hcand⟩).trans (mapRow_spare ht hk))
  · refine ⟨_, (onHolm_of hlive rfl : execRepairTableWrite p s = _), rfl, ?_, ?_, ?_, ?_, rfl, rfl⟩
    · rw [holm_writeRepairs, if_pos rfl]
    · intro r
      refine mem_writeRepairs.trans (or_congr_right (or_congr_right ?_))
      rw [List.mem_map]
      exact ⟨fun ⟨⟨b, x, k⟩, he, hr⟩ => ⟨b, x, k, he, hr.symm⟩, fun ⟨b, x, k, he, hr⟩ => ⟨(b, x, k), he, hr.symm⟩⟩
    · rw [holm_writeRepairs, if_pos rfl]
    · intro q hq
      rw [holm_writeRepairs, if_neg hq]
  · intro lg tn bs hinv hdue hlag himg hlg htn hread
    show execLagoonImageLoad p s = _
    refine onHolm_of hlive ((if_pos (by simp only [h] at hinv; rw [hinv]; rfl)).trans ?_)
    unfold loadLagoon
    simp only [h] at hdue hlag himg hread
    simp [hdue, hlag, himg, hlg, htn, hread]
    rfl
  · show execRatedFloorCheck p true false s = _
    exact onHolm_of hlive rfl
  · show execRatedFloorCheck p true true s = _
    exact onHolm_of hlive rfl
  · intro hst hlg
    show execRatedFloorCheck p false false s = _
    refine onHolm_of hlive ?_
    show s.floorFailed p = _
    unfold floorFailed
    rw [hlg]
    exact if_pos hst
  · intro lg hlg hspare hplan
    show execRatedFloorCheck p false false s = _
    refine onHolm_of hlive ?_
    show s.floorFailed p = _
    unfold floorFailed
    obtain ⟨q, hq⟩ := hspare
    rw [hlg]
    refine (if_neg (by rw [hq]; exact Bool.false_ne_true)).trans ((if_pos ?_).trans rfl)
    refine hplan.elim (fun ⟨i, hi⟩ => Or.inr ?_) Or.inl
    rw [holm_modHolm, if_pos rfl]
    exact Option.isSome_iff_exists.mpr ⟨i, hi⟩

end Sys2Proof.Proofs
end

section
/-! SUPPORT. Doorbells of queues and register accesses (R12, R13, R424, R425, R557, R561, R566). -/

namespace Sys2Proof.Machine

namespace State

variable {s : State} {fn q v : Nat}

theorem findReg_dbCmd (hq : q < 8) : findReg fn (0x1000 + 0x1000 * q) 4 = some (.dbCmd, q, 0) := by
  interval_cases q <;> rfl

theorem findReg_dbCpl (hq : q < 8) : findReg fn (0x1008 + 0x1000 * q) 4 = some (.dbCpl, q, 0) := by
  interval_cases q <;> rfl

/-- A command doorbell at a module whose boot has not failed. -/
theorem exec_dbCmdTail {ws : List (Nat × List Nat)} (hr : s.reachable fn = true) (hb : s.bootFailed = false) (hq : q < 8) (hv : v < 2 ^ 32) :
    exec (.dbCmdTail fn q v ws) s = .next ((s.hostStores ws).doorbell fn q v false) := by
  refine (onBar_reachable (s := s.hostStores ws) hr _).trans (congrArg _ ((if_pos hq).trans ?_))
  exact regWrite_found (s := s.hostStores ws) (findReg_dbCmd hq) (.inr hb) hv

theorem exec_dbCplHead (hr : s.reachable fn = true) (hb : s.bootFailed = false) (hq : q < 8) (hv : v < 2 ^ 32) :
    exec (.dbCplHead fn q v) s = .next (s.doorbell fn q v true) := by
  refine (onBar_reachable hr _).trans (congrArg _ ((if_pos hq).trans ?_))
  exact regWrite_found (findReg_dbCpl hq) (.inr hb) hv

/-- A doorbell of a queue that is not in service is a bus error (R566). -/
theorem doorbell_busError {cpl : Bool} (hp : s.boot.phase = .ready)
    (hx : ∀ x, s.que? fn q = some x → x.err = true ∨ x.stopFetch = true) :
    s.doorbell fn q v cpl = s.busError fn (0x1000 + 0x1000 * q + if cpl then 8 else 0) 4 v true := by
  unfold doorbell
  refine (if_neg (by simp [isReady, hp])).trans ?_
  dsimp only
  split
  · rfl
  · exact if_pos (hx _ ‹_›)

/-- A doorbell of a queue in service, by the value written (R425, R566). -/
theorem doorbell_serving {cpl : Bool} {x : Que} (hp : s.boot.phase = .ready) (hx : s.que? fn q = some x) (he : x.err = false)
    (hs : x.stopFetch = false) : s.doorbell fn q v cpl =
      if x.size ≤ v then s.queueError fn q .badCommand (if cpl then 2 else 1) v
      else if cpl then
        if x.cplTail < x.cplHead + (v + x.size - x.cplHead % x.size) % x.size then s.queueError fn q .badCommand (if cpl then 2 else 1) v
        else s.setQue fn q { x with cplHead := x.cplHead + (v + x.size - x.cplHead % x.size) % x.size }
      else s.setQue fn q { x with tail := v } := by
  unfold doorbell
  refine (if_neg (by simp [isReady, hp])).trans ?_
  dsimp only
  rw [hx]
  exact if_neg (by simp [he, hs])

/-! ### Register accesses (R12, R13, R557) -/

/-- An access is 4 or 8 bytes at an aligned offset (R557). -/
theorem findReg_misaligned {off size : Nat} (h : (size ≠ 4 ∧ size ≠ 8) ∨ off % size ≠ 0) : findReg fn off size = none := by
  refine if_neg ?_
  rintro (⟨rfl, h0⟩ | ⟨rfl, h0⟩)
  · exact h.elim (fun h => h.1 rfl) (· h0)
  · exact h.elim (fun h => h.2 rfl) (· h0)

/-- The registers that a write changes. -/
def writable : List RegName := [.queCmd, .queCpl, .queCfg, .dbCmd, .dbCpl, .ntcDb, .msixAddr, .msixData, .msixCtrl, .rstReq]

theorem regStore_readOnly {n : RegName} {i b : Nat} (h : n ∉ writable) : s.regStore fn n i b v = s := by
  unfold regStore
  dsimp only
  split
  case h_11 => rfl
  all_goals exact absurd (by decide) h

theorem regWrite_readOnly {n : RegName} {off size i b : Nat} (hr : findReg fn off size = some (n, i, b)) (hb : s.bootFailed = false)
    (h : n ∉ writable) : s.regWrite fn off size v = s := by
  unfold regWrite
  rw [hr]
  refine (if_neg (by simp [hb])).trans ?_
  split
  · rw [regStore_readOnly h, regStore_readOnly h]
  · exact regStore_readOnly h

end State

end Sys2Proof.Machine

namespace Sys2Proof.Proofs

open Sys2Proof.Machine Sys2Proof.Machine.State

/-- Settles O27: each doorbell by the state of its queue and the value written. -/
theorem doorbells : Obligations.Doorbells := by
  unfold Obligations.Doorbells
  intro s fn q v hr hb hq hv cmd cpl
  have hcmd : cmd = .next (s.doorbell fn q v false) := exec_dbCmdTail hr hb hq hv
  have hcpl : cpl = .next (s.doorbell fn q v true) := exec_dbCplHead hr hb hq hv
  refine ⟨fun hp => ?_, fun hp => ⟨fun hx => ?_, fun x hx => ⟨fun hstop => ?_, fun he hs => ?_⟩⟩, fun a bs hp hx => ?_⟩
  · have hnot : (!s.isReady) = true := by simp [isReady, hp]
    exact ⟨hcmd.trans (congrArg _ (if_pos hnot)), hcpl.trans (congrArg _ (if_pos hnot))⟩
  · have hno : ∀ x, s.que? fn q = some x → x.err = true ∨ x.stopFetch = true := by simp [hx]
    refine ⟨hcmd.trans (congrArg _ (doorbell_busError hp hno)), hcpl.trans (congrArg _ ((doorbell_busError hp hno).trans ?_))⟩
    exact congrArg (s.busError fn · 4 v true) (by rw [if_pos rfl]; omega)
  · have hno : ∀ y, s.que? fn q = some y → y.err = true ∨ y.stopFetch = true := fun y hy => by
      rw [hx] at hy
      cases hy
      exact hstop
    refine ⟨hcmd.trans (congrArg _ (doorbell_busError hp hno)), hcpl.trans (congrArg _ ((doorbell_busError hp hno).trans ?_))⟩
    exact congrArg (s.busError fn · 4 v true) (by rw [if_pos rfl]; omega)
  · rw [doorbell_serving hp hx he hs] at hcmd hcpl
    refine ⟨fun hv => ⟨hcmd.trans (congrArg _ (if_pos hv)), hcpl.trans (congrArg _ (if_pos hv))⟩,
      fun hv => hcmd.trans (congrArg _ (if_neg (Nat.not_le.mpr hv))), fun k hk hkv => ?_⟩
    have hlt : ¬x.size ≤ v := by
      rw [← hkv]
      exact Nat.not_le.mpr (Nat.mod_lt _ (by omega))
    rw [if_neg hlt, if_pos rfl, ring_distance hk hkv] at hcpl
    exact ⟨fun h => hcpl.trans (congrArg _ (if_neg (Nat.not_lt.mpr h))), fun h => hcpl.trans (congrArg _ (if_pos h))⟩
  · refine ⟨_, exec_dbCmdTail hr hb hq hv, ?_⟩
    rw [doorbell_busError (s := s.hostStores [(a, bs)]) hp (by simp [show (s.hostStores [(a, bs)]).que? fn q = none from hx])]
    rfl

/-- Settles O28: where the access lands, and what its register is. -/
theorem registerAccesses : Obligations.RegisterAccesses := by
  unfold Obligations.RegisterAccesses
  intro s fn off size v answer
  have hread (hr : s.reachable fn = true) (off size : Nat) : exec (.registerRead fn off size) s = .next (s.regRead fn off size) :=
    onBar_reachable hr fun s => s.regRead fn off size
  have hwrite (hr : s.reachable fn = true) (off size : Nat) : exec (.registerWrite fn off size v) s = .next (s.regWrite fn off size v) :=
    onBar_reachable hr fun s => s.regWrite fn off size v
  refine ⟨fun hr => ?_, fun hr hb => ⟨fun n i b hf => ?_, fun hf => ?_, findReg_misaligned, fun n i b hf hn => ?_,
    fun i => ⟨rfl, rfl, rfl, rfl⟩, ?_, ?_⟩⟩
  · have hnot : ¬s.reachable fn = true := Bool.eq_false_iff.mp hr
    exact ⟨congrArg Host.Outcome.next (if_neg hnot), congrArg Host.Outcome.next (if_neg hnot)⟩
  · exact (hread hr off size).trans (congrArg _ (regRead_found hf hb))
  · refine ⟨(hread hr off size).trans (congrArg _ ?_), (hwrite hr off size).trans (congrArg _ ?_)⟩
    · unfold regRead
      rw [hf]
    · unfold regWrite
      rw [hf]
  · exact (hwrite hr off size).trans (congrArg _ (regWrite_readOnly hf hb hn))
  · refine (hwrite hr 0x204 4).trans (congrArg _ ?_)
    have hf : findReg fn 0x204 4 = some (.queCmd, 0, 4) := rfl
    unfold regWrite
    rw [hf]
    refine (if_neg (by simp [hb])).trans ?_
    refine (congrArg (s.regStore fn .queCmd 0 4) rfl).trans ?_
    refine congrArg (fun w => s.modQueRegs fn fun r => { r with cmdBase := r.cmdBase % 2 ^ 32 + 2 ^ 32 * w }) ?_
    exact Nat.mod_mod v (2 ^ 32)
  · have hf : findReg fn 0x1C 4 = some (.coord, 0, 0) := rfl
    refine (hread hr 0x1C 4).trans (congrArg _ ((regRead_found hf hb).trans (congrArg (answer s) (congrArg some ?_))))
    have hfixed : s.net.claim.fixed.toNat < 2 := Bool.toNat_lt _
    show (s.net.claim.x % 4 + 2 ^ 2 * (s.net.claim.y % 4) + 2 ^ 4 * (s.net.claim.z % 4) + 2 ^ 7 * s.net.claim.fixed.toNat) / 2 ^ 0 % 2 ^ 32 = _
    omega

end Sys2Proof.Proofs
end

section
/-! SUPPORT. What a start or a reset clears and keeps (R386, R532 to R536, R549, R553). -/

namespace Sys2Proof.Machine

namespace AMap

variable {α β : Type}

/-- A lookup in a map whose values have been changed by a function of key and value. -/
theorem get?_mapVals {f : Nat → α → β} (m : AMap α) (k : Nat) :
    AMap.get? (m.map fun ((i, v) : Nat × α) => (i, f i v)) k = (AMap.get? m k).map (f k) := by
  induction m with
  | nil => rfl
  | cons e m ih =>
    obtain ⟨a, v⟩ := e
    rw [List.map_cons, AMap.get?, AMap.get?]
    split
    · rename_i h
      rw [h]
      rfl
    · exact ih

end AMap

namespace State

variable {s : State} {k : StartKind}

/-- A holm after a start or reset runs nothing and has nothing written. -/
theorem holm_cleared (p : Nat) : ((s.cleared k).holm p).written = [] ∧ ((s.cleared k).holm p).scoreboard = [] ∧ ((s.cleared k).holm p).inv = none := by
  have h := AMap.forall_getD (P := fun h : Holm => h.written = [] ∧ h.scoreboard = [] ∧ h.inv = none) (m := (s.cleared k).holms) (k := p)
    (d := Holm.reset .fusedOut) ?_ ⟨rfl, rfl, rfl⟩
  · exact h
  · intro e he
    obtain ⟨x, hx, rfl⟩ := List.mem_map.mp he
    exact ⟨rfl, rfl, rfl⟩

theorem port_cleared : ∀ q ∈ (s.cleared k).net.ports, q.st = .down := by
  intro q hq
  obtain ⟨x, hx, rfl⟩ := List.mem_map.mp hq
  split
  · rfl
  · rfl

/-- The new incarnation is not 0 and has other low bits than the last (R386). -/
theorem drawInc_fresh : s.drawInc.net.inc ≠ 0 ∧ s.drawInc.net.inc % 2 ^ 32 ≠ s.net.inc % 2 ^ 32 := by
  unfold drawInc
  dsimp only
  generalize Config.freeNat .random s.free 0 % 2 ^ 64 = r
  generalize s.net.inc = old
  split_ifs <;> omega

/-- The state in which the entry phase has written the log and the waiting repair records to flash (R535). -/
def entrySaved (s : State) : State :=
  s.saveLog.modBoot fun b => { b with
    repairs := b.repairs ++ ((b.repairsDue ++ s.holms.flatMap fun ((p, h) : Nat × Holm) => h.repairRecord.map fun (x, r, k) => Repair.rowMap p x r k).filter
      fun r => !b.repairs.contains r).eraseDups }

theorem resetEntry_due (hp : s.boot.phase = .entryDue) :
    s.resetEntry = (s.entrySaved.cleared s.boot.kind).modBoot fun b => { b with phase := .booting } := if_neg (not_not_intro hp)

theorem repairs_entrySaved : ∀ r ∈ s.boot.repairs ++ s.boot.repairsDue, r ∈ s.entrySaved.boot.repairs := by
  intro r hr
  show r ∈ s.boot.repairs ++ List.eraseDups (List.filter _ (s.boot.repairsDue ++ _))
  rw [List.mem_append, List.mem_eraseDups, List.mem_filter, List.mem_append]
  by_cases h : r ∈ s.boot.repairs
  · exact Or.inl h
  · exact Or.inr ⟨Or.inl ((List.mem_append.mp hr).resolve_left h),
      bang_of_false (Bool.eq_false_iff.mpr fun hc => h (List.contains_iff_mem.mp hc))⟩

/-- A warm or soft reset keeps the holm of each role and sets its epoch to 0 (R549). -/
theorem remap_cleared (hk : k ≠ .powerUp) (lg : Nat) : (s.cleared k).epochOf lg = 0 ∧ (s.cleared k).physOf? lg = s.physOf? lg := by
  have hget : (s.cleared k).remap.get? lg = (s.remap.get? lg).map fun r => { r with epoch := 0 } := by
    refine (congrArg (AMap.get? · lg) (if_neg ?_)).trans (AMap.get?_mapVals (f := fun _ r => { r with epoch := 0 }) s.remap lg)
    exact fun h => hk (of_decide_eq_true h)
  unfold epochOf physOf?
  rw [hget]
  cases s.remap.get? lg
  · exact ⟨rfl, rfl⟩
  · exact ⟨rfl, rfl⟩

/-- What a warm or a soft reset keeps of time and power (R549). -/
theorem hot_cleared (hk : k = .warm ∨ k = .soft) :
    (s.cleared k).net.time.now = s.net.time.now ∧ (s.cleared k).net.time.sync = s.net.time.sync ∧ (s.cleared k).pow.cap = s.pow.cap ∧
    (s.cleared k).pow.window = s.pow.window ∧ (s.cleared k).pow.energy = s.pow.energy ∧ (s.cleared k).net.rackId = s.net.rackId := by
  rcases hk with rfl | rfl
  · exact ⟨rfl, rfl, rfl, rfl, rfl, rfl⟩
  · exact ⟨rfl, rfl, rfl, rfl, rfl, rfl⟩

end State

end Sys2Proof.Machine

namespace Sys2Proof.Proofs

open Sys2Proof.Machine Sys2Proof.Machine.State

/-- Settles O29: each start and reset by what it clears, and what it does not. -/
theorem startsAndResets : Obligations.StartsAndResets := by
  unfold Obligations.StartsAndResets
  intro s
  refine ⟨fun hp ht => ?_, fun h => ?_, fun hp => ?_, fun hp => ?_, fun hp hk => ?_, fun hp => ?_, fun hp => ?_, fun hp => ?_, fun hp => ?_, fun hp => ?_⟩
  · refine ⟨_, congrArg Host.Outcome.next (if_neg (by simp [hp, ht])), rfl, rfl, rfl, rfl, rfl, rfl, rfl, rfl, rfl, rfl, rfl, rfl, rfl, rfl, rfl, rfl, rfl, rfl, rfl, rfl,
      rfl, rfl, rfl, rfl, rfl, ?_, ?_⟩
    · exact fun p => holm_cleared (s := s) (k := .powerUp) p
    · intro q hq
      obtain ⟨x, hx, rfl⟩ := List.mem_map.mp hq
      rfl
  · exact congrArg Host.Outcome.next (if_pos h)
  · refine ⟨_, congrArg Host.Outcome.next (if_neg hp), rfl, rfl, rfl, rfl, rfl, rfl, rfl, rfl, rfl, ?_, ?_⟩
    · exact fun p => (holm_cleared (k := .powerUp) p).2.2
    · exact port_cleared (k := .powerUp)
  · exact congrArg Host.Outcome.next (if_pos hp)
  · have hrun : exec .warmResetEntry s = .next s.resetEntry := rfl
    have hup : s.boot.kind ≠ .powerUp := by rintro he; simp [he] at hk
    obtain ⟨hnow, hsync, hcap, hwindow, henergy, hrack⟩ := hot_cleared (s := s.entrySaved) hk
    rw [resetEntry_due hp] at hrun
    exact ⟨_, hrun, rfl, rfl, rfl, rfl, rfl, rfl, rfl, rfl, rfl, repairs_entrySaved, hnow, hsync, hcap, hwindow, henergy, rfl, hrack,
      fun p => ⟨(holm_cleared p).2.2, (holm_cleared p).1⟩, remap_cleared hup, port_cleared⟩
  · exact congrArg Host.Outcome.next (if_pos hp)
  · refine ⟨_, congrArg Host.Outcome.next (if_pos hp), rfl, rfl, drawInc_fresh.1, drawInc_fresh.2, rfl, rfl, rfl, rfl, rfl, rfl⟩
  · exact congrArg Host.Outcome.next (if_neg hp)
  · exact congrArg Host.Outcome.next (if_pos hp)
  · exact congrArg Host.Outcome.next (if_neg hp)

end Sys2Proof.Proofs
end

section
/-! SUPPORT. The boot stages: when one may complete, and what it then does (R533 to R548). -/

namespace Sys2Proof.Machine

namespace State

variable {s : State} {k : Nat} {f : BootFound}

/-- No port is in training, which is what stage PORTS waits for (R546). -/
def portsSettled (s : State) : Prop := ∀ q ∈ s.net.ports, q.st ∈ [PortSt.down, .charted, .failed, .chart]

theorem stageMay_iff : s.stageMay k = true ↔ s.boot.phase = .booting ∧ (1 ≤ k ∧ k ≤ 10) ∧ k ∉ s.boot.stages ∧ (∀ j ∈ stageAfter k, j ∈ s.boot.stages) ∧
    (k = 9 → s.boot.pins.perstN = true) ∧ (k = 8 → s.portsSettled) := by
  have h9 : (k = 9 → s.boot.pins.perstN = true) ↔ k ≠ 9 ∨ s.boot.pins.perstN = true := imp_iff_not_or
  have h8 : (k = 8 → s.portsSettled) ↔ k ≠ 8 ∨ s.portsSettled := imp_iff_not_or
  unfold stageMay
  rw [h9, h8]
  simp only [Bool.and_eq_true, Bool.or_eq_true, beq_iff_eq, bne_iff_ne, decide_eq_true_eq, Bool.not_eq_true', List.all_eq_true,
    List.contains_eq_mem, decide_eq_false_iff_not, and_assoc, portsSettled]
  refine and_congr_right fun _ => and_congr_right fun _ => and_congr_right fun _ => and_congr_right fun _ => and_congr_right fun _ =>
    and_congr_right fun _ => or_congr_right (forall₂_congr fun q _ => ?_)
  cases q.st
  all_goals decide

/-- A boot that fails (R533, R577). -/
theorem failBoot_fails {stage c : Nat} : (s.failBoot stage c).boot.phase = .failed c ∧ (s.failBoot stage c).boot.vfEnable = false ∧
    (s.failBoot stage c).mem.hostLinkUp = s.boot.pins.perstN ∧
    (s.failBoot stage c).boot.moduleLog.next = (s.boot.moduleLog.next + 1) % 2 ^ 32 ∧ (s.failBoot stage c).holms = s.holms ∧
    (s.failBoot stage c).isth = s.isth ∧ (s.failBoot stage c).net = s.net := by
  exact ⟨rfl, rfl, rfl, rfl, rfl, rfl, rfl⟩

theorem stageRails_fresh {again : List (Nat × Nat × Nat)} (h : s.boot.repairs = []) : (s.stageRails again).pow.rails = railsReset := by
  unfold stageRails
  rw [h]
  rfl

theorem stageCores_good : s.stageCores [] = s := by
  have hall : ((s.boot.repairs.zipIdx.filter fun _ => true).map (·.1)) = s.boot.repairs := by
    rw [List.filter_true, List.zipIdx_map_fst]
  exact congrArg (fun l => { s with boot := { s.boot with repairs := l } }) hall

theorem stageDieLinks_fresh {again : List (Nat × Nat × Nat)} (h : s.boot.repairs = []) (l : Nat) :
    (s.stageDieLinks again).flt.laneSpares.getD l 8 = 8 := by
  unfold stageDieLinks
  rw [h]
  refine AMap.forall_getD (P := fun n : Nat => n = 8) (fun e he => ?_) rfl
  obtain ⟨k, hk, rfl⟩ := List.mem_map.mp he
  rfl

theorem get?_mapKeys {α : Type} {f : Nat → α} {l : List Nat} {k : Nat} (hk : k ∈ l) : AMap.get? (l.map fun i => (i, f i)) k = some (f k) := by
  induction l with
  | nil => cases hk
  | cons i l ih =>
    rw [List.map_cons, AMap.get?]
    split
    · rename_i h
      rw [h]
    · rename_i h
      exact ih ((List.mem_cons.mp hk).resolve_left fun he => h he.symm)

/-- HOLM_TEST builds an entry of epoch 0 for every logical holm (R543, R545). -/
theorem stageHolmTest_remap {found : BootFound} {lg : Nat} (hl : lg < 256) :
    ∃ r, (s.stageHolmTest found).remap.get? lg = some r ∧ r.epoch = 0 ∧ r.phys < 68 := by
  unfold stageHolmTest
  extract_lets recs made tested rows pass all kept gone maps places
  have hplaces : ∀ e ∈ places, e.2 < 68 := by
    intro e he
    obtain ⟨q, -, he⟩ := List.mem_flatMap.mp he
    obtain ⟨x, hx, rfl⟩ := List.mem_map.mp he
    exact State.place_lt (fun j hj => List.mem_range.mp (List.mem_of_mem_filter hj)) x hx
  clear_value places
  refine ⟨_, get?_mapKeys (List.mem_range.mpr hl), ?_⟩
  dsimp only
  split
  · rename_i e he
    exact ⟨rfl, hplaces _ (List.mem_of_find?_eq_some he)⟩
  · exact ⟨rfl, by decide⟩

/-- With every member of a tier present, MEMORY goes on (R545). -/
theorem tooMany_none {m : MemState} (hst : m.failedStacks = []) (hpc : m.failedPcs = []) (hpk : m.failedPkgs = []) : tooMany m = false := by
  unfold tooMany
  rw [hst, hpc, hpk]
  simp

/-- A stack that has failed is too much for a tier without parity (R545). -/
theorem tooMany_stack {m : MemState} (hpar : m.hbmParity = false) (hst : 0 ∈ m.failedStacks) : tooMany m = true := by
  unfold tooMany
  rw [Bool.or_eq_true]
  refine Or.inl (List.any_eq_true.mpr ⟨0, by decide, decide_eq_true ?_⟩)
  rw [hpar]
  refine List.length_pos_of_mem (a := 0) (List.mem_filter.mpr ⟨by decide, ?_⟩)
  rw [List.contains_iff_mem.mpr hst]
  rfl

theorem stageReady_done : (s.stageReady).boot.phase = .ready ∧ s.stageReady.boot.moduleLog.next = (s.boot.moduleLog.next + 1) % 2 ^ 32 ∧
   s.boot.minSvn ≤ s.stageReady.boot.minSvn ∧ s.stageReady.boot.stages = s.boot.stages ∧ s.stageReady.boot.kind = s.boot.kind ∧
    ∃ b, s.stageReady = { s with boot := b } := by
  unfold stageReady
  dsimp only
  split
  · split
    · rename_i h
      exact ⟨rfl, rfl, Nat.le_of_lt h.2, rfl, rfl, _, rfl⟩
    · exact ⟨rfl, rfl, Nat.le_refl _, rfl, rfl, _, rfl⟩
  · exact ⟨rfl, rfl, Nat.le_refl _, rfl, rfl, _, rfl⟩
end State

end Sys2Proof.Machine

namespace Sys2Proof.Proofs

open Sys2Proof.Machine Sys2Proof.Machine.State

/-- Settles O30: when a stage may complete, then each stage by what it found. -/
theorem bootStages : Obligations.BootStages := by
  unfold Obligations.BootStages
  intro s k f before ends failed done
  refine ⟨fun h => ?_, fun hp hk hb => ⟨?_, ?_, ?_, ?_, ?_, ?_, ?_, ?_, ?_, ?_, ?_, ?_, ?_, ?_, ?_⟩⟩
  · refine congrArg Host.Outcome.next (if_neg fun hmay => ?_)
    obtain ⟨hp, hk, hnew, hbefore, hperst, _⟩ := stageMay_iff.mp hmay
    rcases h with h | h | h | h | ⟨j, hj, hn⟩ | ⟨h9, hn⟩
    · exact h hp
    · exact hnew h
    · omega
    · omega
    · exact hn (hbefore j hj)
    · simp [hperst h9] at hn
  all_goals have hmay (hr : 1 ≤ k ∧ k ≤ 10) (h9 : k = 9 → s.boot.pins.perstN = true) (h8 : k = 8 → s.portsSettled) : ends = .next (s.stageDone k f) :=
    congrArg Host.Outcome.next (if_pos (stageMay_iff.mpr ⟨hp, hr, hk, hb, h9, h8⟩))
  all_goals have hruns (hr : 1 ≤ k ∧ k ≤ 10) (h9 : k ≠ 9) (h8 : k ≠ 8) := hmay hr (absurd · h9) (absurd · h8)
  · rintro rfl
    exact hruns (by decide) (by decide) (by decide)
  · rintro rfl hok
    have hauth : s.stageDone 2 f = _ := if_pos hok
    rw [hauth] at hruns
    exact ⟨_, hruns (by decide) (by decide) (by decide), ⟨rfl, rfl, rfl, rfl⟩, hp, rfl, drawInc_fresh.1, drawInc_fresh.2, rfl, rfl, rfl⟩
  · rintro rfl hbad hbad'
    have hauth : s.stageDone 2 f = _ := (if_neg (Bool.eq_false_iff.mp hbad)).trans (if_neg (Bool.eq_false_iff.mp hbad'))
    rw [hauth] at hruns
    exact ⟨_, hruns (by decide) (by decide) (by decide), rfl, rfl, rfl⟩
  · rintro rfl hok
    exact ⟨_, (hruns (by decide) (by decide) (by decide)).trans (congrArg _ (if_neg (Bool.eq_false_iff.mp hok))), failBoot_fails⟩
  · rintro rfl hok
    exact ⟨_, (hruns (by decide) (by decide) (by decide)).trans (congrArg _ (if_neg (Bool.eq_false_iff.mp hok))), failBoot_fails⟩
  · rintro rfl hok
    exact ⟨_, (hruns (by decide) (by decide) (by decide)).trans (congrArg _ (if_neg (Bool.eq_false_iff.mp hok))), failBoot_fails⟩
  · rintro rfl hok hrep
    refine ⟨_, (hruns (by decide) (by decide) (by decide)).trans (congrArg _ (if_pos hok)), ⟨rfl, rfl, rfl, rfl⟩, ?_, rfl, rfl⟩
    exact stageRails_fresh (s := s.modBoot fun b => { b with stages := b.stages ++ [3] }) hrep
  · rintro rfl hok hrec
    refine ⟨_, (hruns (by decide) (by decide) (by decide)).trans (congrArg _ (if_pos hok)), ?_⟩
    rw [hrec, stageCores_good]
    exact ⟨⟨rfl, rfl, rfl, rfl⟩, rfl, rfl, rfl⟩
  · rintro rfl hok hrep
    refine ⟨_, (hruns (by decide) (by decide) (by decide)).trans (congrArg _ (if_pos hok)), ⟨rfl, rfl, rfl, rfl⟩, ?_, rfl⟩
    exact stageDieLinks_fresh (s := s.modBoot fun b => { b with stages := b.stages ++ [5] }) hrep
  · rintro rfl
    refine ⟨_, hruns (by decide) (by decide) (by decide), ⟨rfl, rfl, rfl, rfl⟩, rfl, rfl, ?_⟩
    exact fun lg hl => stageHolmTest_remap hl
  · rintro rfl hel hst hpc hpk hkind
    have hrun := hruns (by decide) (by decide) (by decide)
    have hflash : decide (s.boot.kind = .powerUp ∨ s.boot.kind = .cold) = true := decide_eq_true hkind
    let m : MemState := { s.mem with hbmParity := s.mem.hbmParityNext, lpdParity := s.mem.lpdParityNext, pprRows := [] }
    have hmem : (s.modBoot fun b => { b with stages := b.stages ++ [7] }).stageMemory f =
        { s with boot := { s.boot with stages := s.boot.stages ++ [7] }, mem := m } := by
      unfold stageMemory
      rw [hel]
      exact congrArg (fun x => { s with boot := { s.boot with stages := s.boot.stages ++ [7] }, mem := x }) (if_pos hflash)
    have hgo : s.stageDone 7 f = { s with boot := { s.boot with stages := s.boot.stages ++ [7] }, mem := m } := by
      refine (if_neg ?_).trans hmem
      rw [hmem]
      exact Bool.eq_false_iff.mp (tooMany_none (m := m) hst hpc hpk)
    exact ⟨_, hrun.trans (congrArg _ hgo), ⟨rfl, rfl, rfl, rfl⟩, hp, rfl, rfl, rfl⟩
  · rintro rfl hnext hpar hel
    have hrun := hruns (by decide) (by decide) (by decide)
    have hmany : tooMany ((s.modBoot fun b => { b with stages := b.stages ++ [7] }).stageMemory f).mem = true := by
      unfold stageMemory
      rw [hel]
      refine tooMany_stack ?_ (List.mem_append_right _ (List.mem_singleton.mpr rfl))
      show (if decide (s.boot.kind = .powerUp ∨ s.boot.kind = .cold) = true then _ else s.mem : MemState).hbmParity = false
      split
      · exact hnext
      · exact hpar
    exact ⟨_, hrun.trans (congrArg _ (if_pos hmany)), failBoot_fails⟩
  · rintro rfl hports
    exact ⟨_, hmay (by decide) (absurd · (by decide)) (fun _ => hports), ⟨rfl, rfl, rfl, rfl⟩, rfl, rfl⟩
  · rintro rfl hperst
    exact hmay (by decide) (fun _ => hperst) (absurd · (by decide))
  · rintro rfl
    refine ⟨_, hruns (by decide) (by decide) (by decide), ?_⟩
    obtain ⟨hphase, hlog, hsvn, hstages, hkind, b, hb⟩ := stageReady_done (s := s.modBoot fun b => { b with stages := b.stages ++ [10] })
    exact ⟨⟨hstages, hkind, (congrArg State.ten hb).trans rfl, (congrArg State.kv hb).trans rfl⟩, hphase, hlog, (congrArg State.holms hb).trans rfl, (congrArg State.mem hb).trans rfl,
      (congrArg State.net hb).trans rfl, hsvn⟩

end Sys2Proof.Proofs
end

section
/-! SUPPORT. The host link, PERST_N and the module's own parts (R22, R349, R482, R500, R504, R529, R532, R537, R584, R585). -/

namespace Sys2Proof.Machine

/-- What a command of a live module answers. -/
theorem onLive_of {s t : State} {f : State → State} (h : s.live = true) (ht : f s = t) : onLive s f = .next t := by
  rw [onLive_next h, ht]

namespace State

variable {s : State}

/-- Without a move of tier 3 the host link only goes down (R349). -/
theorem hostDown_noMoves (h : ∀ v ∈ s.mem.moves, v.srcTier ≠ 3 ∧ v.dstTier ≠ 3) :
    s.hostDown = { s with mem := { s.mem with hostLinkUp := false } } := by
  have hnone : (s.mem.moves.filter fun v => v.srcTier == 3 || v.dstTier == 3) = [] :=
    List.filter_eq_nil_iff.mpr fun v hv => by simp [h v hv]
  unfold hostDown
  rw [hnone]
  rfl

/-- A move that is the only one ends, and leaves nothing under way (R351). -/
theorem failMoves_only {v : Move} {st : Status} (hv : s.mem.moves = [v]) :
    (s.failMoves v st).mem.moves = [] ∧ (s.failMoves v st).mem.hostLinkUp = s.mem.hostLinkUp ∧ (s.failMoves v st).holms = s.holms ∧
    (s.failMoves v st).isth.works = s.isth.works := by
  have hmine : s.movesOf v = [v] := by
    unfold movesOf
    rw [hv, List.filter_cons_of_pos, List.filter_nil]
    split
    · exact beq_self_eq_true v.cmd
    · exact beq_self_eq_true v
  have hgone : (s.dropMove v).mem.moves = [] := (congrArg (List.erase · v) hv).trans (List.erase_cons_head v [])
  unfold failMoves
  rw [hmine]
  dsimp only [List.foldl]
  split
  · exact ⟨hgone, rfl, rfl, rfl⟩
  · exact ⟨hgone, rfl, rfl, rfl⟩

theorem phase_of_live (h : s.live = true) : s.boot.phase ≠ .off := fun hp => by
  simp [live, hp] at h

theorem powered_of_live (h : s.live = true) : s.powered = true := bne_iff_ne.mpr (phase_of_live h)

/-! ### Operations that write only the logs and the Isthmus state -/

/-- From s to t only the error logs and the Isthmus state have changed. -/
def Logged (s t : State) : Prop :=
  t = { s with isth := t.isth, boot := { s.boot with moduleLog := t.boot.moduleLog, fnLogs := t.boot.fnLogs } }

namespace Logged

variable {t u : State}

theorem refl (s : State) : Logged s s := rfl

theorem trans (h : Logged s t) (k : Logged t u) : Logged s u := by
  have hi := congrArg (fun x : State => { x with
    isth := u.isth, boot := { x.boot with moduleLog := u.boot.moduleLog, fnLogs := u.boot.fnLogs } }) h
  exact Eq.trans k hi

theorem log {cls st a b : Nat} {tn : Option Nat} : Logged s (s.log cls st tn a b) := by
  unfold Logged State.log
  dsimp only
  split
  · rfl
  · rfl

theorem notice {fn code body : Nat} : Logged s (s.notice fn code body) := (notice_isth s fn code body).trans (by rw [notice_boot])

theorem noticeTenant {tn code body : Nat} : Logged s (s.noticeTenant tn code body) := by
  unfold State.noticeTenant
  split
  · exact notice
  · exact refl s

theorem modWork {w : Nat} {f : Work → Work} : Logged s (s.modWork w f) := rfl

theorem masked {k a d n : Nat} : Logged s (s.masked k a d n) := log.trans notice

theorem foldl {α : Type} {f : State → α → State} (hf : ∀ t a, Logged t (f t a)) (l : List α) : Logged s (l.foldl f s) :=
  foldl_keeps (P := Logged s) (fun t a ht => ht.trans (hf t a)) (refl s)

theorem suspendTide {w : Nat} : Logged s (s.suspendTide w) := by
  unfold State.suspendTide
  split
  · exact refl s
  · split
    · exact refl s
    · split
      · exact refl s
      · dsimp only
        split
        · exact modWork
        · exact modWork.trans (log.trans (notice.trans noticeTenant))

theorem suspendTides : Logged s s.suspendTides := foldl (fun _ _ => suspendTide) _

end Logged

/-! ### Die-to-die lanes (R22, R483) -/

/-- Work that a masked lane fault has touched, as a measurement says. -/
def laneTouched (s : State) : AMap Work :=
  s.isth.works.map fun ((i, w) : Nat × Work) =>
    (i, if w.running && Config.freeNat .measure s.free (1 + i) % 2 == 1 then { w with degraded := true } else w)

/-- The state in which a spare die-to-die lane has taken the place of one that failed. -/
def laneMoved (s : State) (link lane : Nat) : State :=
  ({ s with
      free := s.free + 1, flt := { s.flt with laneSpares := s.flt.laneSpares.set (laneKey link lane) (s.flt.laneSpares.getD (laneKey link lane) 8 - 1) }
      isth := { s.isth with works := s.laneTouched } } : State).recordRepair (.dieLane link lane)

theorem laneFault_spare {link lane : Nat} (hk : link < 8) (hn : lane < 512) (hs : 0 < s.flt.laneSpares.getD (laneKey link lane) 8) :
    s.laneFault link lane = (s.laneMoved link lane).masked 6 (link + 2 ^ 3 * lane) (Config.freeNat .measure s.free 0 % 5001)
      (s.flt.laneSpares.getD (laneKey link lane) 8 - 1) :=
  (if_neg (by omega)).trans ((if_neg (Nat.pos_iff_ne_zero.mp hs)).trans rfl)

/-! ### The lowest operating state and thermal trips (R525, R529) -/

theorem enterLowest_enters {c : LowCause} : (s.enterLowest c).pow.lowest = true ∧ c ∈ (s.enterLowest c).pow.lowCauses ∧
    (s.enterLowest c).pow.temps = s.pow.temps ∧ (s.enterLowest c).boot.pins = s.boot.pins ∧
    ∀ x ∈ (s.enterLowest c).holms, x.2.freq = 1000 ∧ x.2.throttle = 1 := by
  let s1 := (s.modPow fun x => { x with
    lowCauses := if x.lowCauses.contains c then x.lowCauses else x.lowCauses ++ [c]
    lowCause := if x.lowest then x.lowCause else c, lowest := true }).setLowest
  have hl : Logged s1 (s.enterLowest c) := Logged.suspendTides
  have hpow : (s.enterLowest c).pow = s1.pow := (congrArg State.pow hl).trans rfl
  refine ⟨(congrArg PowerState.lowest hpow).trans rfl, ?_, (congrArg PowerState.temps hpow).trans rfl,
    (congrArg (fun x : State => x.boot.pins) hl).trans rfl, ?_⟩
  · rw [hpow]
    show c ∈ if s.pow.lowCauses.contains c then s.pow.lowCauses else s.pow.lowCauses ++ [c]
    split
    · exact List.contains_iff_mem.mp ‹_›
    · exact List.mem_append_right _ (List.mem_singleton.mpr rfl)
  · intro x hx
    rw [show (s.enterLowest c).holms = s1.holms from (congrArg State.holms hl).trans rfl] at hx
    obtain ⟨y, hy, rfl⟩ := List.mem_map.mp hx
    exact ⟨rfl, rfl⟩

end State

end Sys2Proof.Machine

namespace Sys2Proof.Proofs

open Sys2Proof.Machine Sys2Proof.Machine.State

/-- Settles O31: each event of the pin and of the link by the phase and the moves that it finds. -/
theorem hostLinkAndPins : Obligations.HostLinkAndPins := by
  unfold Obligations.HostLinkAndPins
  intro s
  refine ⟨fun hc hp hm => ?_, fun hc => ⟨?_, ?_⟩, fun hc => ?_, fun h => ?_, fun v hv ht => ?_, fun hp hr => ?_, fun h => ?_⟩
  · have hdown := hostDown_noMoves (s := s) (by simp [hm])
    have hrun : exec .perstAssert s = .next s.perstLow := congrArg Host.Outcome.next (if_pos hc)
    unfold perstLow at hrun
    rw [hdown, hp] at hrun
    refine ⟨_, hrun, rfl, rfl, rfl, rfl, rfl, ?_, rfl, rfl, rfl⟩
    show 91 ∈ if s.pow.gated.contains 91 then s.pow.gated else s.pow.gated ++ [91]
    split
    · exact List.contains_iff_mem.mp ‹_›
    · exact List.mem_append_right _ (List.mem_singleton.mpr rfl)
  · exact congrArg Host.Outcome.next (if_neg (Bool.eq_false_iff.mp hc))
  · exact congrArg Host.Outcome.next (if_neg (Bool.eq_false_iff.mp hc))
  · exact congrArg Host.Outcome.next (if_pos hc)
  · exact congrArg Host.Outcome.next (hostDown_noMoves h)
  · let s1 : State := { s with mem := { s.mem with hostLinkUp := false } }
    have hrun : exec .hostLinkDown s = .next (s1.failMoves v .linkLost) := by
      refine congrArg Host.Outcome.next ?_
      have hone : (s.mem.moves.filter fun v => v.srcTier == 3 || v.dstTier == 3) = [v] := by
        rw [hv, List.filter_cons_of_pos (by simpa using ht), List.filter_nil]
      unfold hostDown
      rw [hone]
      refine if_pos (List.contains_iff_mem.mpr ?_)
      rw [hv]
      exact List.mem_singleton.mpr rfl
    obtain ⟨hmoves, hlink, hholms, hworks⟩ := failMoves_only (s := s1) (st := .linkLost) hv
    exact ⟨_, hrun, hmoves, hlink, hholms, hworks⟩
  · exact congrArg Host.Outcome.next (if_pos ⟨hp, hr⟩)
  · refine congrArg Host.Outcome.next (if_neg ?_)
    rintro ⟨hp, hr⟩
    exact h.elim (· hp) fun hn => by simp [hr] at hn

/-- Settles O32: each fault by whether a spare is left, each reading by its highest temperature. -/
theorem partFaults : Obligations.PartFaults := by
  unfold Obligations.PartFaults
  intro s hlive warm
  refine ⟨fun c a b hc hp hab => ?_, fun x hc hp => ?_, fun link lane hk hn hs => ?_, fun link lane hk hn hs hp => ?_, fun a b c d e ht ha hb hc hd he => ?_,
    fun l b ht hx => ?_, fun ht => ?_⟩
  · have hrun : exec (.mgmtCoreFault (some a)) s = .next (({ s with free := s.free + 1, flt := { s.flt with pair := [c, a], spareCore := none } } : State).masked 8
        (([a, b].find? fun x => some x != some a).getD 0) (Config.freeNat .measure s.free 0 % 20001) 0) := by
      show execMgmtCoreFault (some a) s = _
      refine onLive_of hlive ?_
      have hkeep : (some a).filter [a, b].contains = some a := by simp
      unfold coreFault
      rw [hc]
      dsimp only
      rw [hp, hkeep]
      rfl
    refine ⟨_, hrun, ?_, ?_, masked_holms .., masked_mem .., masked_net .., ?_, ?_⟩
    · rw [masked_flt]
    · rw [masked_flt]
    · exact (congrArg (fun x : State => x.boot.phase) Logged.masked).trans rfl
    · unfold masked
      rw [notice_boot, log_next]
  · show execMgmtCoreFault x s = _
    refine onLive_of hlive ?_
    unfold coreFault
    rw [hc]
    exact if_pos hp
  · have hrun : exec (.dieToDieLaneFailure link lane) s = .next (s.laneFault link lane) := by
      show execDieToDieLaneFailure link lane s = _
      exact onLive_of hlive rfl
    have hfault := laneFault_spare hk hn hs
    rw [hfault] at hrun
    refine ⟨_, hrun, ?_, ?_, ?_, masked_holms .., masked_mem .., masked_net .., ?_⟩
    · rw [masked_flt]
      exact AMap.getD_set_self _ _ _ _
    · exact masked_repairsDue
    · unfold masked
      rw [notice_boot, log_next]
      rfl
    · exact (congrArg (fun x : State => x.boot.phase) Logged.masked).trans rfl
  · show execDieToDieLaneFailure link lane s = _
    refine onLive_of hlive ?_
    unfold laneFault
    exact (if_neg (by omega)).trans ((if_pos hs).trans (if_pos hp))
  · have hcon : s.controlled = true := by simp [controlled, powered_of_live hlive, ht]
    have hcool : ([a, b, c, d, e].any (120 ≤ ·)) = false := by simp [*]
    refine ⟨?_, ?_⟩
    · refine congrArg Host.Outcome.next ((if_pos hcon).trans ((if_neg (Bool.eq_false_iff.mp hcool)).trans rfl))
    · obtain ⟨hlow, hcause, htemps, hpins, hholms⟩ := enterLowest_enters (c := .vrAlert)
        (s := { s with pow := { s.pow with temps := [a, b, c, d, e] }, boot := { s.boot with pins := { s.boot.pins with alertN := false } } })
      exact ⟨_, congrArg Host.Outcome.next ((if_pos hcon).trans (if_neg (Bool.eq_false_iff.mp hcool))), htemps, hlow, hcause,
        (congrArg Pins.alertN hpins).trans rfl, hholms⟩
  · have hcon : s.controlled = true := by simp [controlled, powered_of_live hlive, ht]
    have hhot : l.any (120 ≤ ·) = true := by simpa using hx
    let s1 := s.modPow fun x => { x with temps := (List.range 5).map fun i => l.getD i 0 }
    have hloss : s1.powerLoss = (s1.saveLog.cleared .powerUp).modBoot fun b => { b with phase := .off, kind := .powerUp } :=
      if_neg (phase_of_live hlive)
    have hrun : exec (.thermalRead l b) s = .next s1.thermalTrip := congrArg Host.Outcome.next ((if_pos hcon).trans (if_pos hhot))
    unfold thermalTrip at hrun
    rw [hloss] at hrun
    exact ⟨_, hrun, rfl, rfl, rfl, rfl, rfl, _, congrArg Host.Outcome.next (if_pos rfl), rfl, rfl, rfl⟩
  · exact congrArg Host.Outcome.next (if_neg (Bool.eq_false_iff.mp ht))

end Sys2Proof.Proofs
end

section
/-! SUPPORT. The SMBus and JTAG interfaces (R387, R532, R540, R541, R591, R592). -/

namespace Sys2Proof.Machine.State

variable {s : State}

/-- The fields that an image has from its header (R538). -/
theorem imageOf?_fields {h : Nat} {a : Bool} {m : FwImage} (hm : s.imageOf? h a = some m) :
    m.release = fld h 64 64 ∧ m.gen = fld h 0 16 ∧ m.svn = fld h 24 6 ∧ m.keyIndex = fld h 16 2 ∧ m.authentic = a := by
  unfold imageOf? at hm
  dsimp only at hm
  split at hm
  · cases hm
  · cases hm
    exact ⟨rfl, rfl, rfl, rfl, rfl⟩

end Sys2Proof.Machine.State

namespace Sys2Proof.Proofs

open Sys2Proof.Machine Sys2Proof.Machine.State

/-- Settles O33: each request by the value it carries and the phase that it finds. -/
theorem sidebandRequests : Obligations.SidebandRequests := by
  unfold Obligations.SidebandRequests
  intro s hup answer
  have hbus (t : State) : Host.Outcome.next (if s.smbusUp then t else s) = (.next t : Out) := congrArg Host.Outcome.next (if_pos hup)
  refine ⟨fun v h0 hv hid => ?_, fun v h0 hv hn hne => ?_, ?_, fun hr => ⟨?_, ?_⟩, fun c hc hr => ?_, fun h b hp => ?_, fun h m hp hm hgen hkey hsvn => ?_,
    fun h m hp hm => ?_, ?_, fun h => ?_, fun hp hr => ?_, fun h => ?_, fun h => ?_⟩
  · exact (hbus _).trans (congrArg _ ((if_neg (by omega)).trans (if_pos hid)))
  · exact (hbus _).trans (congrArg _ ((if_neg (by omega)).trans (if_neg (by simp [hn, hne]))))
  · exact hbus _
  · exact (hbus _).trans (congrArg _ ((if_neg (by decide)).trans (if_neg (Bool.eq_false_iff.mp hr))))
  · exact (hbus _).trans (congrArg _ ((if_neg (by decide)).trans (if_neg (Bool.eq_false_iff.mp hr))))
  · exact (hbus _).trans (congrArg _ ((if_neg (by omega)).trans (if_pos hr)))
  · exact (hbus _).trans (congrArg _ (if_pos hp))
  · obtain ⟨hrel, hg, hs, hk, ha⟩ := imageOf?_fields hm
    have hok : s.imageOk m = true := by
      unfold imageOk
      rw [ha, hg, hs, hk, hgen]
      simpa using ⟨hkey, hsvn⟩
    have hgo : s.pldmImage h true = ({ s with
        free := s.free + 1, isth := { s.isth with slots := setAt s.isth.slots s.isth.active m }
        boot := { s.boot with phase := .booting, stages := [1, 2], release := m.release } } : State).smbusAnswer [0] := by
      unfold pldmImage
      rw [hm]
      exact (if_neg (not_not_intro hp)).trans (if_neg (not_bang_of_true hok))
    exact ⟨_, (hbus _).trans (congrArg _ hgo), rfl, rfl, hrel, rfl, rfl, rfl, rfl, rfl⟩
  · have hok : s.imageOk m = false := by
      unfold imageOk
      rw [(imageOf?_fields hm).2.2.2.2]
      rfl
    refine (hbus _).trans (congrArg _ ?_)
    unfold pldmImage
    rw [hm]
    exact (if_neg (not_not_intro hp)).trans (if_pos (bang_of_false hok))
  · refine ⟨_, hbus _, ?_, ?_, rfl, rfl, rfl, rfl⟩
    · exact (List.length_map ..).trans List.length_range
    · intro x hx
      obtain ⟨i, -, rfl⟩ := List.mem_map.mp hx
      exact Nat.mod_lt _ (by decide)
  · refine congrArg Host.Outcome.next (if_pos ?_)
    unfold extestOk
    rcases h with hp | ⟨c, hp⟩ | ⟨hr, ht⟩
    · rw [hp]
    · rw [hp]
    · have hon : s.boot.phase ≠ .off := fun hp => by
        simp [smbusUp, controlled, powered, hp] at hup
      split
      · rfl
      · rfl
      · exact absurd ‹_› hon
      · rw [hr, ht]
        rfl
  · refine congrArg Host.Outcome.next (if_neg ?_)
    unfold extestOk
    rw [hp, hr]
    simp
  · exact congrArg Host.Outcome.next (if_pos h)
  · exact congrArg Host.Outcome.next (if_neg (Bool.eq_false_iff.mp h))

end Sys2Proof.Proofs
end

section
/-! SUPPORT. The power controller: operating points, energy, caps and rails (R502 to R530). -/

namespace Sys2Proof.Machine

/-- What the power controller makes of a command while it runs. -/
theorem onPower_of {s t : State} {f : State → State} (h : s.controlled = true) (ht : f s = t) : onPower s f = .next t :=
  congrArg Host.Outcome.next ((if_pos h).trans ht)

namespace State

variable {s t u : State}

/-! ### Operating points -/

/-- From s to t the controller has set frequencies, throttle levels, voltages and service levels, and nothing else (R508, R510, R513). -/
def Retuned (s t : State) : Prop :=
  t = { s with holms := t.holms, free := t.free, pow := { s.pow with volts := t.pow.volts, service := t.pow.service } } ∧
    ∀ p, ∃ f n, t.holm p = { s.holm p with freq := f, throttle := n }

namespace Retuned

theorem trans (h : Retuned s t) (k : Retuned t u) : Retuned s u := by
  obtain ⟨hst, hsh⟩ := h
  obtain ⟨htu, htp⟩ := k
  have hi := congrArg (fun x : State => { x with
    holms := u.holms, free := u.free, pow := { x.pow with volts := u.pow.volts, service := u.pow.service } }) hst
  refine ⟨Eq.trans htu hi, fun p => ?_⟩
  obtain ⟨f, n, hp⟩ := hsh p
  obtain ⟨g, m, hq⟩ := htp p
  exact ⟨g, m, by rw [hq, hp]⟩

theorem refl (s : State) : Retuned s s := ⟨rfl, fun _ => ⟨_, _, rfl⟩⟩

theorem volts (s : State) (v : List Nat) : Retuned s (s.modPow fun x => { x with volts := v }) := ⟨rfl, fun _ => ⟨_, _, rfl⟩⟩

theorem service (s : State) (v : List Nat) : Retuned s (s.modPow fun x => { x with service := v }) := ⟨rfl, fun _ => ⟨_, _, rfl⟩⟩

theorem free (s : State) (n : Nat) : Retuned s { s with free := n } := ⟨rfl, fun _ => ⟨_, _, rfl⟩⟩

theorem modHolm {p : Nat} {f : Holm → Holm} (hf : ∀ h, ∃ a n, f h = { h with freq := a, throttle := n }) : Retuned s (s.modHolm p f) := by
  refine ⟨rfl, fun q => ?_⟩
  rw [holm_modHolm]
  split
  · rename_i hq
    rw [hq]
    exact hf _
  · exact ⟨_, _, rfl⟩

theorem foldl {α : Type} {f : State → α → State} (hf : ∀ t a, Retuned t (f t a)) (l : List α) : Retuned s (l.foldl f s) :=
  foldl_keeps (P := fun t => Retuned s t) (fun t a h => h.trans (hf t a)) (Retuned.refl s)

theorem setQuad (q : Nat) : Retuned s (s.setQuad q) := by
  unfold State.setQuad
  dsimp only
  refine .trans (.trans (volts s _) (foldl (fun t p => modHolm fun h => ⟨_, _, rfl⟩) _)) (foldl (fun t p => modHolm fun h => ?_) _)
  split
  · exact ⟨_, _, rfl⟩
  · exact ⟨_, _, rfl⟩

end Retuned

/-- Every holm at the lowest operating state has its least frequency and throttle level (R525). -/
theorem setLowest_retuned : Retuned s s.setLowest := by
  refine ⟨rfl, fun p => ?_⟩
  have hget : s.setLowest.holms.get? p = (s.holms.get? p).map fun h => { h with freq := 1000, throttle := 1 } :=
    AMap.get?_mapVals (f := fun _ (h : Holm) => ({ h with freq := 1000, throttle := 1 } : Holm)) s.holms p
  unfold holm AMap.getD
  rw [hget]
  cases s.holms.get? p with
  | none => exact ⟨_, _, rfl⟩
  | some h => exact ⟨_, _, rfl⟩

theorem setPoints_retuned : Retuned s s.setPoints := by
  unfold setPoints
  split
  · exact setLowest_retuned
  · exact .trans (.trans (.service s _) (.foldl (fun t q => .setQuad q) _)) (.free _ _)

/-! ### Energy and caps -/

/-- One interval's readings, and what no tenant takes of its energy (R512, R530). -/
def measuredTick (s : State) (estimate measured own : Nat) : State :=
  s.modPow fun x => { x with
    estimate := estimate, measured := measured / 4, energy := (x.energy + measured) % 2 ^ 64, unattr := (x.unattr + (measured - own)) % 2 ^ 64 }

theorem estimateTick_noShares (est m : Nat) : s.estimateTick est m [] [] = (s.measuredTick est m 0).setPoints :=
  by
  unfold estimateTick
  exact (if_neg (Nat.not_lt_zero m)).trans rfl

theorem estimateTick_oneShare {est : Nat} {e : Share} (h : (s.tenant? e.tenant).isSome = true) :
    s.estimateTick est e.nj [e] [] = ((s.measuredTick est e.nj e.nj).attribute_ e).setPoints := by
  have hown : (([e].filter fun e => (s.tenant? e.tenant).isSome).map (·.nj)) = [e.nj] := by simp [h]
  unfold estimateTick
  dsimp only
  rw [hown]
  exact (if_neg (by simp)).trans rfl

theorem mem_insertBy {α : Type} {before : α → α → Bool} {x y : α} {l : List α} : y ∈ insertBy before x l ↔ y = x ∨ y ∈ l := by
  induction l with
  | nil => exact List.mem_cons
  | cons z l ih =>
    unfold insertBy
    split
    · exact List.mem_cons
    · rw [List.mem_cons, ih, List.mem_cons]
      exact or_left_comm

theorem mem_sortBy {α : Type} {before : α → α → Bool} {y : α} {l : List α} : y ∈ sortBy before l ↔ y ∈ l := by
  induction l with
  | nil => exact Iff.rfl
  | cons x l ih => rw [sortBy, mem_insertBy, ih, List.mem_cons]

/-- A plan that enforcement may lower is a plan that has started (R518). -/
theorem lowerable_started {h : Nat} (hh : h ∈ s.lowerable) : ∃ e ∈ s.isth.works, e.2.kind = .plan ∧ e.2.started = true ∧ e.2.handle = h := by
  obtain ⟨w, hw, rfl⟩ := List.mem_map.mp hh
  obtain ⟨hmem, hplan⟩ := List.mem_filter.mp (mem_sortBy.mp hw)
  obtain ⟨e, he, rfl⟩ := List.mem_map.mp hmem
  obtain ⟨hkind, hstart⟩ := Bool.and_eq_true_iff.mp hplan
  exact ⟨e, he, beq_iff_eq.mp hkind, hstart, rfl⟩

/-- Lowering plans adds some of the started ones to those affected, and writes logs and notices (R518). -/
theorem lowerPlans_lowers : ∃ l, Logged ({ s with free := s.free + 1, pow := { s.pow with affected := s.pow.affected ++ l } }) s.lowerPlans ∧
    ∀ h ∈ l, h ∈ s.lowerable :=
  ⟨_, Logged.suspendTides, fun _ hh => List.mem_of_mem_take (List.mem_of_mem_filter hh)⟩

/-- The check of a millisecond with its target set and what is left divided (R516, R517). -/
def capChecked (s : State) (avg : Nat) : State := (s.modPow fun x => { x with enforced := avg, target := s.steer avg }).dividePower

theorem steer_enforced {avg : Nat} (h : s.pow.enforcing = true ∨ (s.pow.excess = none ∧ s.pow.enforceFrom ≤ s.now)) :
    s.steer avg = max s.pow.floor (s.pow.effCap - (avg - s.pow.effCap)) := by
  have hon : s.enforced = true := by simpa [State.enforced] using h
  unfold steer
  rw [hon]
  rfl

theorem steer_free {avg : Nat} (h : ¬(s.pow.enforcing = true ∨ (s.pow.excess = none ∧ s.pow.enforceFrom ≤ s.now))) :
    s.steer avg = max s.pow.floor s.pow.effCap := by
  have hoff : s.enforced = false := Bool.eq_false_iff.mpr fun hon => h (by simpa [State.enforced] using hon)
  unfold steer
  rw [hoff]
  rfl

end State

end Sys2Proof.Machine

namespace Sys2Proof.Proofs

open Sys2Proof.Machine Sys2Proof.Machine.State

/-- Settles O35: each tick by what it adds, and the check by whether the cap is enforced and exceeded. -/
theorem powerTicks : Obligations.PowerTicks := by
  unfold Obligations.PowerTicks
  intro s hc
  refine ⟨fun est m sh pl h => ?_, fun est m => ?_, fun est e he => ?_, fun m => ?_, fun e m he => ⟨fun h9 h11 => ?_, fun hout => ?_⟩,
    fun avg => ⟨fun hno => ?_, fun hen hover => ?_⟩, fun h => ?_, fun e he hen => ?_⟩
  · show execPowerEstimateTick est m sh pl s = _
    exact onPower_of hc (if_pos h)
  · obtain ⟨heq, hholm⟩ := setPoints_retuned (s := s.measuredTick est m 0)
    have hrun : exec (.powerEstimateTick est m [] []) s = .next (s.measuredTick est m 0).setPoints := by
      show execPowerEstimateTick est m [] [] s = _
      exact onPower_of hc (estimateTick_noShares est m)
    refine ⟨_, hrun, ?_⟩
    rw [heq]
    refine ⟨rfl, rfl, rfl, rfl, rfl, fun p => ?_, rfl, rfl, rfl, rfl, rfl⟩
    rw [← heq]
    obtain ⟨f, n, hp⟩ := hholm p
    rw [hp]
    exact ⟨rfl, rfl, rfl⟩
  · obtain ⟨heq, -⟩ := setPoints_retuned (s := (s.measuredTick est e.nj e.nj).attribute_ e)
    have hrun : exec (.powerEstimateTick est e.nj [e] []) s = .next ((s.measuredTick est e.nj e.nj).attribute_ e).setPoints := by
      show execPowerEstimateTick est e.nj [e] [] s = _
      exact onPower_of hc (estimateTick_oneShare he)
    refine ⟨_, hrun, ?_⟩
    rw [heq]
    refine ⟨rfl, ?_, ?_, rfl, rfl, rfl⟩
    · show (s.pow.unattr + (e.nj - e.nj)) % 2 ^ 64 = _
      rw [Nat.sub_self, Nat.add_zero]
    · show AMap.getD (if (s.tenant? e.tenant).isSome = true then s.pow.eTenant.set e.tenant _ else s.pow.eTenant) e.tenant 0 = _
      rw [if_pos he, AMap.getD_set_self]
      rfl
  · show execEnergyCorrection 0 m s = _
    exact onPower_of hc rfl
  · have hf : max 900 (min 1100 (s.pow.factor * m / e)) = s.pow.factor * m / e := by omega
    show execEnergyCorrection e m s = _
    refine onPower_of hc ((if_neg he).trans ((if_neg (by omega)).trans ?_))
    show s.modPow (fun x => { x with msMean := m / 1000000, factor := max 900 (min 1100 (s.pow.factor * m / e)) }) = _
    rw [hf]
    rfl
  · have hf : max 900 (min 1100 (s.pow.factor * m / e)) = if s.pow.factor * m / e < 900 then 900 else 1100 := by split <;> omega
    let s1 := s.modPow fun x => { x with msMean := m / 1000000, factor := max 900 (min 1100 (s.pow.factor * m / e)) }
    have hrun : exec (.energyCorrection e m) s = .next s1.powerLog := by
      show execEnergyCorrection e m s = _
      exact onPower_of hc ((if_neg he).trans (if_pos hout))
    refine ⟨_, hrun, ?_, log_next .., rfl, rfl, rfl, rfl⟩
    rw [← hf]
    rfl
  · have hrun : exec (.capCheck avg) s = .next (s.capChecked avg) := by
      show execCapCheck avg s = _
      refine onPower_of hc (if_neg ?_)
      exact fun ⟨hen, hover⟩ => hno.elim (fun h => Bool.false_ne_true (h.symm.trans hen)) (Nat.not_le_of_lt hover)
    exact ⟨_, hrun, rfl, fun hon => (steer_enforced hon).trans rfl, fun hoff => (steer_free hoff).trans rfl, rfl, rfl, rfl, rfl, rfl, rfl, rfl⟩
  · obtain ⟨l, hl, hstart⟩ := lowerPlans_lowers (s := s.capChecked avg)
    have hrun : exec (.capCheck avg) s = .next (s.capChecked avg).lowerPlans := by
      show execCapCheck avg s = _
      exact onPower_of hc (if_pos ⟨hen, hover⟩)
    refine ⟨_, l, hrun, ?_⟩
    rw [hl]
    exact ⟨rfl, (steer_enforced (.inl hen)).trans rfl, rfl, fun h hh => lowerable_started (hstart h hh), rfl, rfl, rfl⟩
  · show execCapEnforcementInstant s = _
    refine onPower_of hc ?_
    unfold enforce
    split
    · rfl
    · rename_i e he
      exact if_pos (h.resolve_left fun hn => nomatch he.symm.trans hn)
  · let s1 : State := s.modPow fun x => { x with enforcing := true }
    have hrun : exec .capEnforcementInstant s = .next s1.lowerPlans.setPoints := by
      show execCapEnforcementInstant s = _
      refine onPower_of hc ?_
      unfold enforce
      rw [he]
      exact if_neg (Bool.eq_false_iff.mp hen)
    obtain ⟨l, hl, -⟩ := lowerPlans_lowers (s := s1)
    obtain ⟨heq, -⟩ := setPoints_retuned (s := s1.lowerPlans)
    refine ⟨_, hrun, ?_⟩
    rw [heq, hl]
    exact ⟨rfl, he, rfl, rfl, rfl, rfl⟩

end Sys2Proof.Proofs
end

section
/-! SUPPORT. The lowest operating state, rails, droop and regulator phases (R502, R514, R524 to R528). -/

namespace Sys2Proof.Machine

namespace State

variable {s t : State}

/-- The holms after a step for each of a list of holms, where a step changes its own holm alone. -/
theorem holm_foldl {f : State → Nat → State} {g : Nat → Holm → Holm}
    (hf : ∀ t p q, (f t p).holm q = if q = p then g q (t.holm q) else t.holm q) {l : List Nat} (hl : l.Nodup) (q : Nat) :
    (l.foldl f s).holm q = if q ∈ l then g q (s.holm q) else s.holm q := by
  induction l generalizing s with
  | nil => exact (if_neg List.not_mem_nil).symm
  | cons p l ih =>
    obtain ⟨hp, hl⟩ := List.nodup_cons.mp hl
    rw [List.foldl_cons, ih hl, hf]
    by_cases hq : q = p
    · rw [hq, if_neg hp, if_pos rfl, if_pos List.mem_cons_self]
    · simp [hq]

/-- The physical holms of a quadrant, each once. -/
theorem quadrant_nodup (r : Nat) : ((List.range 68).map (68 * r + ·)).Nodup :=
  List.Nodup.map (fun _ _ h => Nat.add_left_cancel h) List.nodup_range

theorem mem_quadrant {r p : Nat} : p ∈ (List.range 68).map (68 * r + ·) ↔ p / 68 = r := by
  rw [List.mem_map]
  refine ⟨fun ⟨i, hi, he⟩ => ?_, fun h => ⟨p % 68, List.mem_range.mpr (Nat.mod_lt p (by decide)), ?_⟩⟩
  · have := List.mem_range.mp hi
    omega
  · omega

/-- The holm of a rail at its limit after it: throttled where it runs what no plan makes sure of (R514). -/
def atRailLimit (s : State) (r p : Nat) (h : Holm) : Holm :=
  if h.st = .running ∧ p ∉ s.sureHolms r then { h with throttle := 1 } else h

theorem railLimit_step (r : Nat) (t : State) (p q : Nat) :
    (if (t.holm p).st == .running && !(s.sureHolms r).contains p then t.modHolm p fun h => { h with throttle := 1 } else t).holm q =
      if q = p then s.atRailLimit r q (t.holm q) else t.holm q := by
  unfold atRailLimit
  by_cases hq : q = p
  · subst hq
    split
    · rename_i h
      rw [holm_modHolm, if_pos rfl, if_pos rfl, if_pos (by simpa using h)]
    · rename_i h
      rw [if_pos rfl, if_neg (by simpa using h)]
  · rw [if_neg hq]
    split
    · rw [holm_modHolm, if_neg hq]
    · rfl

/-- A core rail at its limit lowers the throttle level of the running holms of its quadrant that no plan makes sure of (R514). -/
theorem holm_railLimit (r p : Nat) :
    (s.railLimit r false).holm p = if p / 68 = r then s.atRailLimit r p (s.holm p) else s.holm p := by
  unfold railLimit
  dsimp only
  rw [if_neg Bool.false_ne_true, holm_foldl (railLimit_step r) (quadrant_nodup r)]
  simp only [mem_quadrant]

/-- Besides the holms, a core rail at its limit changes nothing (R514). -/
theorem railLimit_frame (r : Nat) : s.railLimit r false = { s with holms := (s.railLimit r false).holms } := by
  unfold railLimit
  dsimp only
  rw [if_neg Bool.false_ne_true]
  refine foldl_keeps (P := fun t : State => t = { s with holms := t.holms }) (fun t p ht => ?_) rfl
  split
  · exact (congrArg (fun x : State => x.modHolm p fun h => { h with throttle := 1 }) ht).trans rfl
  · exact ht

theorem railLimit_sustained (r : Nat) : s.railLimit r true = (s.railLimit r false).vrAlert := by
  unfold railLimit
  dsimp only
  rw [if_pos rfl, if_neg Bool.false_ne_true]

/-- What VR_ALERT or PWR_BRAKE_N leaves: the lowest operating state, and nothing else but logs and notices (R525). -/
theorem enterLowest_eq (c : LowCause) : Logged ((s.modPow fun x => { x with
    lowCauses := if x.lowCauses.contains c then x.lowCauses else x.lowCauses ++ [c]
    lowCause := if x.lowest then x.lowCause else c, lowest := true }).setLowest) (s.enterLowest c) := Logged.suspendTides

theorem pow_foldl {α : Type} {f : State → α → State} (hf : ∀ t a, (f t a).pow = t.pow) (l : List α) (t : State) : (l.foldl f t).pow = t.pow :=
  foldl_keeps (P := fun u : State => u.pow = t.pow) (fun u a hu => (hf u a).trans hu) rfl

theorem service_setQuad (q : Nat) : (s.setQuad q).pow.service = s.pow.service := by
  unfold setQuad
  dsimp only
  rw [pow_foldl, pow_foldl]
  · rfl
  · exact fun _ _ => rfl
  · exact fun _ _ => rfl

theorem vrAlert_enters : s.vrAlert.pow.lowest = true ∧ s.vrAlert.boot.pins.alertN = false ∧ s.vrAlert.mem = s.mem := by
  let s1 : State := { s with boot := { s.boot with pins := { s.boot.pins with alertN := false } } }
  obtain ⟨hlowest, -, -, hpins, -⟩ := enterLowest_enters (c := .vrAlert) (s := s1)
  exact ⟨hlowest, congrArg Pins.alertN hpins, (congrArg State.mem (enterLowest_eq (s := s1) .vrAlert)).trans rfl⟩

/-- The settings outside the lowest operating state give every service its highest level (R510). -/
theorem service_setPoints (h : s.pow.lowest = false) : s.setPoints.pow.service = [16, 16, 16, 16, 16] := by
  have hall : ∀ (l : List Nat) (t : State), (l.foldl (fun (s : State) q => s.setQuad q) t).pow.service = t.pow.service := fun l t =>
    foldl_keeps (P := fun u : State => u.pow.service = t.pow.service) (fun u q hu => (service_setQuad q).trans hu) rfl
  unfold setPoints
  rw [if_neg (Bool.eq_false_iff.mp h)]
  dsimp only
  rw [hall]
  rfl

/-! ### Droop (R524) -/

/-- The holm whose stretch ends, with the stretched time counted (R524). -/
def unstretched (s : State) (h : Holm) : Holm :=
  { h with stretched := false, stretchTime := h.stretchTime + (s.net.time.ticks - h.stretchFrom) }

variable {p : Nat}

theorem unstretch_idle (h : (s.holm p).stretched = false) : s.unstretch p = s := if_pos (by simp [h])

theorem unstretch_free (h : (s.holm p).stretched = true) (hi : (s.holm p).inv = none) :
    s.unstretch p = s.setHolm p (s.unstretched (s.holm p)) := by
  unfold unstretch
  dsimp only
  rw [if_neg (by simp [h])]
  split
  · rfl
  · rename_i j hj
    exact nomatch hi.symm.trans hj

/-- The stretch of a holm has ended, and the droop guard of its quadrant has risen by 5 mV (R508, R524). -/
def guardRaised (s : State) (p : Nat) : State := (s.setHolm p (s.unstretched (s.holm p))).modPow fun x => { x with
  guard_ := setAt x.guard_ (p / 68) (s.pow.guard_.getD (p / 68) 50 + 5) }

/-- A stretch whose tide has now stretched too long raises the droop guard of its quadrant, and is logged (R508, R524). -/
theorem unstretch_late {i : Invocation} {w : Work} (h : (s.holm p).stretched = true) (hi : (s.holm p).inv = some i) (hw : s.work? i.work = some w)
    (ht : i.tidal = true) (hlate : w.period < 100 * (s.unstretched (s.holm p)).stretchTime) (hwas : 100 * (s.holm p).stretchTime ≤ w.period)
    (hg : s.pow.guard_.getD (p / 68) 50 < 50) : s.unstretch p = (s.guardRaised p).powerLog := by
  have hcond : i.tidal = true ∧ (Option.map (·.period) (s.work? i.work)).getD 0 < 100 * (s.unstretched (s.holm p)).stretchTime ∧
      100 * (s.holm p).stretchTime ≤ (Option.map (·.period) (s.work? i.work)).getD 0 ∧ s.pow.guard_.getD (p / 68) 50 < 50 := by
    rw [hw]
    exact ⟨ht, hlate, hwas, hg⟩
  unfold unstretch
  dsimp only
  rw [if_neg (by simp [h])]
  split
  · rename_i hj
    exact nomatch hi.symm.trans hj
  · rename_i j hj
    obtain rfl : i = j := Option.some.inj (hi.symm.trans hj)
    exact if_pos hcond

end State

end Sys2Proof.Machine

namespace Sys2Proof.Proofs

open Sys2Proof.Machine Sys2Proof.Machine.State

/-- Settles O36: each signal by what it sets, the exit by whether a brake is asserted, and a droop stretch by whether one is under way. -/
theorem lowestOperatingState : Obligations.LowestOperatingState := by
  unfold Obligations.LowestOperatingState
  intro s hc low
  have hlow : ∀ (c : LowCause) (t : State), t = { s with boot := t.boot } → low (t.enterLowest c) := by
    intro c t ht
    show _ ∧ _
    rw [enterLowest_eq c, ht]
    exact ⟨rfl, rfl, rfl, rfl, rfl, rfl, rfl, rfl⟩
  refine ⟨fun c hc5 => ?_, fun c hc5 => ?_, ?_, ?_, fun h => ?_, fun hl hb => ?_, fun r hr => ?_, fun r hr => ?_, fun r b hr4 hr8 => ?_,
    fun p hp hlive => ?_⟩
  · obtain ⟨-, hcause, -, hpins, -⟩ := enterLowest_enters (c := .vrAlert)
      (s := { s with boot := { s.boot with pins := { s.boot.pins with alertN := false } } })
    have hrun : exec (.vrAlert c) s = .next s.vrAlert := by
      show execVrAlert c s = _
      exact onPower_of hc (if_pos hc5)
    exact ⟨_, hrun, hlow .vrAlert _ rfl, hcause, hpins⟩
  · show execVrAlert c s = _
    exact onPower_of hc (if_neg (Nat.not_lt.mpr hc5))
  · let s1 : State := { s with boot := { s.boot with pins := { s.boot.pins with pwrBrakeN := false } } }
    obtain ⟨-, hcause, -, hpins, -⟩ := enterLowest_enters (c := .pwrBrake) (s := s1)
    have hrun : exec .pwrBrakeN s = .next (s1.enterLowest .pwrBrake) := by
      show execPwrBrakeN s = _
      exact onPower_of (s := s1) hc rfl
    exact ⟨_, hrun, hlow .pwrBrake _ rfl, hcause, hpins⟩
  · show execPwrBrakeNDeassert s = _
    exact onPower_of (s := { s with boot := { s.boot with pins := { s.boot.pins with pwrBrakeN := true } } }) hc rfl
  · show execLowestStateExit s = _
    refine onPower_of hc (if_pos (h.imp (fun h => by simp [h]) List.contains_iff_mem.mpr))
  · let s1 : State := { s.modPow (fun x => { x with lowest := false, lowCauses := [] }) with
      boot := { s.boot with pins := { s.boot.pins with alertN := true } } }
    have hrun : exec .lowestStateExit s = .next s1.setPoints := by
      show execLowestStateExit s = _
      exact onPower_of hc (if_neg (by simp [hl, hb]))
    obtain ⟨heq, hholm⟩ := setPoints_retuned (s := s1)
    have hserv : s1.setPoints.pow.service = [16, 16, 16, 16, 16] := service_setPoints rfl
    generalize s1.setPoints = t at hrun heq hholm hserv
    refine ⟨t, hrun, (congrArg (fun x : State => x.pow.lowest) heq).trans rfl, (congrArg (fun x : State => x.pow.lowCauses) heq).trans rfl,
      (congrArg (fun x : State => x.boot.pins) heq).trans rfl, hserv, fun p => ?_, (congrArg State.mem heq).trans rfl,
      (congrArg State.net heq).trans rfl, (congrArg State.isth heq).trans rfl⟩
    obtain ⟨f, n, hp⟩ := hholm p
    rw [hp]
    exact ⟨rfl, rfl, rfl⟩
  · have hrun : exec (.railCurrentLimit r false) s = .next (s.railLimit r false) := by
      show execRailCurrentLimit r false s = _
      exact (if_neg (by omega)).trans (onPower_of hc (if_pos hr))
    have hf := railLimit_frame (s := s) r
    refine ⟨_, hrun, fun p => ?_, ?_⟩
    · rw [holm_railLimit]
      unfold atRailLimit
      by_cases hp : p / 68 = r
      · simp only [hp, true_and, if_true]
      · rw [if_neg hp, if_neg fun h => hp h.1]
    · rw [hf]
      exact ⟨rfl, rfl, rfl, rfl, rfl⟩
  · have hrun : exec (.railCurrentLimit r true) s = .next (s.railLimit r false).vrAlert := by
      show execRailCurrentLimit r true s = _
      exact (if_neg (by omega)).trans (onPower_of hc ((if_pos hr).trans (railLimit_sustained r)))
    obtain ⟨hlowest, hpin, hmem⟩ := vrAlert_enters (s := s.railLimit r false)
    exact ⟨_, hrun, hlowest, hpin, hmem.trans ((congrArg State.mem (railLimit_frame r)).trans rfl)⟩
  · show execRailCurrentLimit r b s = _
    exact (if_neg (by omega)).trans (onPower_of hc (if_neg (by omega)))
  · intro h
    have hholm : s.liveHolm p := ⟨hp, hlive⟩
    refine ⟨fun hst hg hf => ?_, fun hst => ?_, fun hst => ?_, fun hst hinv => ?_, fun i w hst hinv hw htid hlate hwas hguard hlen => ?_⟩
    · show execDroopStretch p s = _
      refine onHolm_of hholm ((if_pos hc).trans (if_neg ?_))
      exact fun hbad => hbad.elim (fun hx => Bool.false_ne_true (hst.symm.trans hx)) fun hbad => hbad.elim hg hf
    · show execDroopStretch p s = _
      exact onHolm_of hholm ((if_pos hc).trans (if_pos (.inl hst)))
    · show execDroopStretchEnd p s = _
      exact onHolm_of hholm ((if_pos hc).trans (unstretch_idle hst))
    · show execDroopStretchEnd p s = _
      exact onHolm_of hholm ((if_pos hc).trans (unstretch_free hst hinv))
    · have hrun : exec (.droopStretchEnd p) s = .next (s.guardRaised p).powerLog := by
        show execDroopStretchEnd p s = _
        exact onHolm_of hholm ((if_pos hc).trans (unstretch_late hst hinv hw htid hlate hwas hguard))
      refine ⟨_, hrun, ?_, ?_, log_next .., fun q hq => ?_, rfl, rfl⟩
      · exact (holm_setHolm ..).trans (if_pos rfl)
      · exact (getD_setAt ..).trans (if_pos ⟨rfl, hlen⟩)
      · exact (holm_setHolm ..).trans (if_neg hq)

end Sys2Proof.Proofs
end

section
/-! SUPPORT. Regulator phases and current senses (R502, R527, R528). -/

namespace Sys2Proof.Machine

/-- A rail without a phase that has been lost. -/
def Rail.lost (x : Rail) (k : Nat) : Rail :=
  let y : Rail := { x with active := x.active.filter (· != k), failed := x.failed ++ [k], unsensed := x.unsensed.filter (· != k) }
  { y with limit := y.limitNow }

/-- A rail with a spare phase in service. -/
def Rail.relieved (x : Rail) (k : Nat) (rest : List Nat) : Rail :=
  let y : Rail := { x with active := x.active ++ [k], spare := rest }
  { y with limit := y.limitNow }

/-- A rail with a phase whose sense is out of range. -/
def Rail.blinded (x : Rail) (k : Nat) : Rail :=
  let y : Rail := { x with unsensed := x.unsensed ++ [k] }
  { y with limit := y.limitNow }

namespace State

variable {s t : State} {r k : Nat}

theorem rail_modRail_same {f : Rail → Rail} (h : r < s.pow.rails.length) : (s.modRail r f).rail r = f (s.rail r) :=
  (getD_modAt ..).trans (if_pos ⟨rfl, h⟩)

theorem rail_modRail_ne {f : Rail → Rail} {j : Nat} (h : j ≠ r) : (s.modRail r f).rail j = s.rail j :=
  (getD_modAt ..).trans (if_neg fun hj => h hj.1)

namespace Logged

theorem derated {kind rail phase limit : Nat} : Logged s (s.derated kind rail phase limit) := log.trans notice

theorem touchQuad {q : Nat} : Logged s (s.touchQuad q) := rfl

theorem ite {c : Prop} [Decidable c] {u : State} (ht : Logged s t) (hu : Logged s u) : Logged s (if c then t else u) := by
  split
  · exact ht
  · exact hu

theorem rail (h : Logged s t) (j : Nat) : t.rail j = s.rail j := (congrArg (fun x : State => x.rail j) h).trans rfl

theorem repairsDue (h : Logged s t) : t.boot.repairsDue = s.boot.repairsDue := (congrArg (fun x : State => x.boot.repairsDue) h).trans rfl

end Logged

theorem vrAlert_rails : s.vrAlert.pow.rails = s.pow.rails :=
  (congrArg (fun x : State => x.pow.rails)
    (enterLowest_eq (s := { s with boot := { s.boot with pins := { s.boot.pins with alertN := false } } }) .vrAlert)).trans rfl

/-- The state with a rail replaced and its phase recorded for the repair table (R527, R528, R542). -/
def railFailed (s : State) (r k : Nat) (y : Rail) : State := (s.modRail r fun _ => y).recordRepair (.phase r k)

/-- Losing a phase takes it from its rail and records it, and else writes logs and the Isthmus state (R527). -/
theorem losePhase_lost (h : k ∈ (s.rail r).active) : Logged (s.railFailed r k ((s.rail r).lost k)) (s.losePhase r k) := by
  unfold losePhase
  dsimp only
  rw [if_neg (by simpa using h)]
  have hlost : Logged (s.railFailed r k ((s.rail r).lost k)) (if ((s.rail r).lost k).limit < (s.rail r).limit then
      (s.railFailed r k ((s.rail r).lost k)).derated 0 r k ((s.rail r).lost k).limit else s.railFailed r k ((s.rail r).lost k)) :=
    .ite .derated (.refl _)
  exact .ite (.trans (.ite (hlost.trans .touchQuad) hlost) .masked) hlost

theorem losePhase_absent (h : k ∉ (s.rail r).active) : s.losePhase r k = s := if_pos (by simpa using h)

/-- What a phase's failure leaves as it was. -/
theorem railFailed_frame {y : Rail} (h : Logged (s.railFailed r k y) t) :
    (t.mem = s.mem ∧ t.net = s.net ∧ t.kv = s.kv ∧ t.ten = s.ten ∧ ∀ j, j ≠ r → t.rail j = s.rail j) ∧ t.holms = s.holms ∧
    t.boot.repairsDue = s.boot.repairsDue ++ [.phase r k] := by
  refine ⟨⟨?_, ?_, ?_, ?_, fun j hj => ?_⟩, ?_, ?_⟩
  · exact (congrArg State.mem h).trans rfl
  · exact (congrArg State.net h).trans rfl
  · exact (congrArg State.kv h).trans rfl
  · exact (congrArg State.ten h).trans rfl
  · exact (h.rail j).trans (rail_modRail_ne hj)
  · exact (congrArg State.holms h).trans rfl
  · exact h.repairsDue.trans rfl

end State

end Sys2Proof.Machine

namespace Sys2Proof.Proofs

open Sys2Proof.Machine Sys2Proof.Machine.State

/-- Settles O37: each event of a phase by whether it is in service, or a spare is at hand. -/
theorem regulatorPhases : Obligations.RegulatorPhases := by
  unfold Obligations.RegulatorPhases
  intro s r k hc hr hlen x amps frame
  have hrow : ∀ {f : State → State} {t : State}, f s = t → (if 8 ≤ r then .fault .noSuchRail else onPower s f) = Host.Outcome.next t :=
    fun ht => (if_neg (Nat.not_le.mpr hr)).trans (onPower_of hc ht)
  refine ⟨fun hk => ⟨?_, fun c => ?_⟩, fun hk => ?_, fun j rest hj hshort => ?_, fun h => ?_, ?_, fun hk hsense => ?_, fun hk => ?_⟩
  · show execPhaseFailOpen r k s = _
    exact hrow (losePhase_absent hk)
  · show execCurrentSenseCheck r k c s = _
    exact hrow (if_pos (by simpa using hk))
  · have hrun : exec (.phaseFailOpen r k) s = .next (s.losePhase r k) := by
      show execPhaseFailOpen r k s = _
      exact hrow rfl
    have hl := losePhase_lost hk
    obtain ⟨hframe, hholms, hdue⟩ := railFailed_frame hl
    have hrail : (s.losePhase r k).rail r = x.lost k := (hl.rail r).trans (rail_modRail_same hlen)
    exact ⟨_, hrun, hframe, hholms, by rw [hrail]; rfl, by rw [hrail]; rfl, by rw [hrail]; rfl, by rw [hrail]; rfl, hdue⟩
  · let s1 : State := s.modRail r fun _ => x.relieved j rest
    let lost := x.failed.getLast?.getD j
    have hrun : exec (.sparePhaseInService r) s = .next (s1.derated 0 r lost (x.relieved j rest).limit) := by
      show execSparePhaseInService r s = _
      refine hrow ?_
      unfold takePhase
      dsimp only
      rw [show (s.rail r).spare = j :: rest from hj]
      exact if_neg (Nat.not_le.mpr hshort)
    have hl : Logged s1 (s1.derated 0 r lost (x.relieved j rest).limit) := .derated
    have hrail := (hl.rail r).trans (rail_modRail_same hlen)
    refine ⟨_, hrun, ⟨?_, ?_, ?_, ?_, fun i hi => (hl.rail i).trans (rail_modRail_ne hi)⟩, ?_, by rw [hrail]; rfl, by rw [hrail]; rfl, by rw [hrail]; rfl, ?_⟩
    · exact (congrArg State.mem hl).trans rfl
    · exact (congrArg State.net hl).trans rfl
    · exact (congrArg State.kv hl).trans rfl
    · exact (congrArg State.ten hl).trans rfl
    · exact (congrArg State.holms hl).trans rfl
    · unfold derated
      rw [notice_boot]
      exact log_next
  · show execSparePhaseInService r s = _
    refine hrow ?_
    unfold takePhase
    dsimp only
    split
    · rfl
    · rename_i j rest hj
      exact if_pos (h.resolve_left fun hn => nomatch hj.symm.trans hn)
  · show execCurrentSenseCheck r k .good s = _
    exact hrow (ite_self s)
  · let s1 : State := s.railFailed r k (x.blinded k)
    have hrun : exec (.currentSenseCheck r k .outOfRange) s = .next (s1.derated 1 r k (x.blinded k).limit) := by
      show execCurrentSenseCheck r k .outOfRange s = _
      refine hrow ((if_neg (by simpa using hk)).trans (if_neg (by simpa using hsense)))
    have hl : Logged s1 (s1.derated 1 r k (x.blinded k).limit) := .derated
    obtain ⟨hframe, hholms, hdue⟩ := railFailed_frame hl
    have hrail := (hl.rail r).trans (rail_modRail_same hlen)
    exact ⟨_, hrun, hframe, hholms, by rw [hrail]; rfl, by rw [hrail]; rfl, by rw [hrail]; rfl, hdue⟩
  · have hrun : exec (.currentSenseCheck r k .disagrees) s = .next (s.vrAlert.losePhase r k) := by
      show execCurrentSenseCheck r k .disagrees s = _
      exact hrow ((if_neg (by simpa using hk)).trans rfl)
    obtain ⟨hlowest, hpin, hmem⟩ := vrAlert_enters (s := s)
    have hrails := vrAlert_rails (s := s)
    have hsame : s.vrAlert.rail r = x := congrArg (fun l : List Rail => l.getD r (fixedRail 6)) hrails
    have hl := losePhase_lost (s := s.vrAlert) (r := r) (k := k) (by rw [hsame]; exact hk)
    obtain ⟨⟨hm, -⟩, -⟩ := railFailed_frame hl
    have hrail := (hl.rail r).trans (rail_modRail_same (by rw [hrails]; exact hlen))
    refine ⟨_, hrun, ?_, by rw [hrail, hsame]; rfl, ?_, hm.trans hmem⟩
    · exact ((congrArg (fun x : State => x.pow.lowest) hl).trans rfl).trans hlowest
    · exact ((congrArg (fun x : State => x.boot.pins.alertN) hl).trans rfl).trans hpin

end Sys2Proof.Proofs
end

section
/-! SUPPORT. Transfers that leave on a port, power reports and loans (R373, R379, R522, R523). -/

namespace Sys2Proof.Machine

namespace State

variable {s t u : State}

/-- From s to t transfers have been handed to ports, and nothing else has changed. -/
def Sending (s t : State) : Prop :=
  t = { s with free := t.free, net := { s.net with nextXid := t.net.nextXid, sent := t.net.sent, ports := t.net.ports } } ∧
    ∀ i, ∃ l, t.port i = { s.port i with leaving := l }

namespace Sending

theorem refl (s : State) : Sending s s := ⟨rfl, fun _ => ⟨_, rfl⟩⟩

theorem trans (h : Sending s t) (k : Sending t u) : Sending s u := by
  obtain ⟨hst, hsp⟩ := h
  obtain ⟨htu, htp⟩ := k
  have hi := congrArg (fun x : State => { x with
    free := u.free, net := { x.net with nextXid := u.net.nextXid, sent := u.net.sent, ports := u.net.ports } }) hst
  refine ⟨Eq.trans htu hi, fun i => ?_⟩
  obtain ⟨l, hp⟩ := hsp i
  obtain ⟨m, hq⟩ := htp i
  exact ⟨m, by rw [hq, hp]⟩

theorem free (s : State) (n : Nat) : Sending s { s with free := n } := ⟨rfl, fun _ => ⟨_, rfl⟩⟩

theorem xid (s : State) (n : Nat) : Sending s { s with net := { s.net with nextXid := n } } := ⟨rfl, fun _ => ⟨_, rfl⟩⟩

theorem sent (s : State) (n : Nat) (l : List Sent) : Sending s { s with free := n, net := { s.net with sent := l } } := ⟨rfl, fun _ => ⟨_, rfl⟩⟩

theorem leave (s : State) (i chan : Nat) (x : Xfer) : Sending s (s.leave i chan x) := by
  refine ⟨rfl, fun j => ?_⟩
  unfold State.leave
  rw [port_modPort]
  split
  · rename_i hj
    exact ⟨_, by rw [hj.1]⟩
  · exact ⟨_, rfl⟩

theorem writeXfer {arch dst win key off eng : Nat} {d : List Nat} {x : Xfer} (h : s.writeXfer arch dst win key off eng d = some (x, t)) :
    Sending s t := by
  unfold State.writeXfer at h
  split at h
  · cases h
  · split at h
    · cases h
    · cases h
      exact xid ..

theorem sendXfer {arch chan turn : Nat} {ps : List Nat} {x : Xfer} {o : XOwner} (h : s.sendXfer arch chan ps turn x o = .ok t) : Sending s t := by
  unfold State.sendXfer at h
  split at h
  · cases h
  · split at h
    · cases h
    · dsimp only at h
      split at h
      · cases h
        exact (sent s _ _).trans (leave ..)
      · cases h
        exact sent s _ _

end Sending

/-- The neighbour over a torus group is the same while its ports, the archipelagos and the plans are (R522). -/
theorem loanPeer_sending {l : AMap Loan} {n : Nat} (h : Sending (s.modPow fun x => { x with loans := l, reportSeq := n }) t) (g : Nat) :
    t.loanPeer g = s.loanPeer g := by
  obtain ⟨heq, hport⟩ := h
  have hworks : t.isth = s.isth := (congrArg State.isth heq).trans rfl
  have harchs : t.net.archs = s.net.archs := (congrArg (fun x : State => x.net.archs) heq).trans rfl
  have hrack : t.net.rackId = s.net.rackId := (congrArg (fun x : State => x.net.rackId) heq).trans rfl
  have hst : ∀ i, (t.port i).st = (s.port i).st := fun i => by
    obtain ⟨l, hp⟩ := hport i
    rw [hp]
    rfl
  have hen : ∀ i, (t.port i).enabled = (s.port i).enabled := fun i => by
    obtain ⟨l, hp⟩ := hport i
    rw [hp]
    rfl
  have hpeer : ∀ i, (t.port i).peer = (s.port i).peer := fun i => by
    obtain ⟨l, hp⟩ := hport i
    rw [hp]
    rfl
  unfold loanPeer memberAt
  simp only [hworks, harchs, hrack, hst, hen, hpeer]

/-- A report to a neighbour is numbered, adjusts the loan and leaves on a port (R522, R523). -/
theorem sendReport_some {avg g a k : Nat} (h : s.loanPeer g = some (a, k)) :
    Sending (s.modPow fun x => { x with
      loans := x.loans.set g (adjustLoan s.pow (s.slackOf a) avg (s.pow.loans.getD g ⟨0, 0, none⟩)), reportSeq := (x.reportSeq + 1) % 2 ^ 32 })
      (s.sendReport avg g) := by
  unfold sendReport
  rw [h]
  dsimp only
  split
  · exact .refl _
  · rename_i x s2 hx
    split
    · rename_i s3 hs
      exact (Sending.writeXfer hx).trans (.sendXfer hs)
    · exact .writeXfer hx

theorem sendReport_none {avg g : Nat} (h : s.loanPeer g = none) : s.sendReport avg g = s := by
  unfold sendReport
  rw [h]

theorem foldl_id {α β : Type} {f : β → α → β} {b : β} {l : List α} (h : ∀ a ∈ l, f b a = b) : l.foldl f b = b := by
  induction l with
  | nil => rfl
  | cons a l ih => rw [List.foldl_cons, h a List.mem_cons_self, ih fun x hx => h x (List.mem_cons_of_mem a hx)]

/-- Where one group alone has a neighbour, the reports of a millisecond are the one to it (R522). -/
theorem sendReports_one {avg g a k : Nat} (hg : g < 6) (h : s.loanPeer g = some (a, k)) (ho : ∀ j, j < 6 → j ≠ g → s.loanPeer j = none) :
    s.sendReports avg = (s.sendReport avg g).modPow fun x => { x with minSlack := [] } := by
  obtain ⟨l, m, hlm⟩ := List.append_of_mem (List.mem_range.mpr hg)
  have hdisj := List.nodup_range (n := 6)
  rw [hlm, List.nodup_append] at hdisj
  obtain ⟨-, hm, hl⟩ := hdisj
  have hlt : ∀ {j}, j ∈ l ++ g :: m → j < 6 := fun hj => List.mem_range.mp (hlm ▸ hj)
  unfold sendReports
  rw [hlm, List.foldl_append, List.foldl_cons, foldl_id (b := s), foldl_id (b := s.sendReport avg g)]
  · intro j hj
    refine sendReport_none ((loanPeer_sending (sendReport_some h) j).trans (ho j ?_ ?_))
    · exact hlt (List.mem_append_right _ (List.mem_cons_of_mem g hj))
    · rintro rfl
      exact (List.nodup_cons.mp hm).1 hj
  · intro j hj
    exact sendReport_none (ho j (hlt (List.mem_append_left _ hj)) (hl j hj g List.mem_cons_self))

/-- The first report of a neighbour is kept, and what it lends is taken up to the range of the effective cap (R523). -/
theorem takeReport_first {g : Nat} {r : Report} (hnew : s.pow.loans.get? g = none) (hup : ∃ k, k < 5 ∧ (s.port (5 * g + k)).st = .up) :
    s.takeReport g r = s.modPow fun x => { x with
      loans := s.pow.loans.set g ⟨0, min r.loan.toNat (min 2500 (s.pow.cap * 3 / 2) - s.pow.effCap), some r⟩ } := by
  have hloan : s.pow.loans.getD g ⟨0, 0, none⟩ = ⟨0, 0, none⟩ := by
    unfold AMap.getD
    rw [hnew]
    rfl
  have hlive : (List.range 5).any (fun k => (s.port (5 * g + k)).st == .up) = true := by simpa using hup
  unfold takeReport
  dsimp only
  rw [hloan]
  dsimp only
  rw [hlive, if_neg (by simp)]
  simp
  rfl

/-- A report with the number of the last one is dropped (R523). -/
theorem takeReport_repeated {g : Nat} {r o : Report} {l : Loan} (hl : s.pow.loans.get? g = some l) (ho : l.report = some o) (hseq : r.seq = o.seq) :
    s.takeReport g r = s := by
  have hloan : s.pow.loans.getD g ⟨0, 0, none⟩ = l := by
    unfold AMap.getD
    rw [hl]
    rfl
  unfold takeReport
  dsimp only
  rw [hloan, ho, hseq]
  exact if_pos (.inl (by simp))

end State

end Sys2Proof.Machine

namespace Sys2Proof.Proofs

open Sys2Proof.Machine Sys2Proof.Machine.State

/-- Settles O38: the reports by the groups that have a neighbour, a received one by the loan and the ports of its group. -/
theorem powerLoans : Obligations.PowerLoans := by
  unfold Obligations.PowerLoans
  intro s hc
  refine ⟨fun avg hnone => ?_, fun avg g a k hg hpeer ho => ?_, fun g v hg => ?_, fun g v hg hnew hup => ?_, fun g v l o hg hl ho hseq => ?_,
    fun g v hg hdown => ?_, fun g b => ?_⟩
  · show execPowerReportSend avg s = _
    refine onPower_of hc ?_
    unfold sendReports
    rw [foldl_id fun j hj => sendReport_none (hnone j (List.mem_range.mp hj))]
    rfl
  · have hrun : exec (.powerReportSend avg) s = .next ((s.sendReport avg g).modPow fun x => { x with minSlack := [] }) := by
      show execPowerReportSend avg s = _
      exact onPower_of hc (sendReports_one hg hpeer ho)
    obtain ⟨heq, -⟩ := sendReport_some (avg := avg) hpeer
    refine ⟨_, _, hrun, ?_, rfl, (congrArg (fun x : State => x.pow.loans) heq).trans rfl, fun hn => ?_, ?_, ?_, ?_⟩
    · exact (congrArg (fun x : State => x.pow.reportSeq) heq).trans rfl
    · unfold AMap.getD
      rw [hn]
      rfl
    · exact (congrArg State.holms heq).trans rfl
    · exact (congrArg State.mem heq).trans rfl
    · exact (congrArg State.kv heq).trans rfl
  · show execPowerReportReceive g v s = _
    exact onPower_of hc (if_neg (Nat.not_lt.mpr hg))
  · show execPowerReportReceive g v s = _
    exact onPower_of hc ((if_pos hg).trans (takeReport_first hnew hup))
  · show execPowerReportReceive g v s = _
    exact onPower_of hc ((if_pos hg).trans (takeReport_repeated hl ho hseq))
  · show execPowerReportReceive g v s = _
    refine onPower_of hc ((if_pos hg).trans (if_pos (.inr ?_)))
    simpa using hdown
  · have hrun : exec (.loanTimeout g b) s = .next (s.loanTimeout g b) := by
      show execLoanTimeout g b s = _
      exact onPower_of hc rfl
    refine ⟨_, hrun, fun j hj => ?_, ?_, rfl⟩
    · unfold loanTimeout
      rw [modPow_pow, AMap.get?_modify, if_neg hj]
    · unfold loanTimeout
      rw [modPow_pow, AMap.get?_modify, if_pos rfl]

end Sys2Proof.Proofs
end

section
/-! SUPPORT. Power domains (R66, R84, R504, R506). -/

namespace Sys2Proof.Machine

namespace Ranges

theorem has_cons {a b x : Nat} {r : Ranges} : has ((a, b) :: r) x = ((decide (a ≤ x) && decide (x ≤ b)) || has r x) := List.any_cons

theorem has_append {r t : Ranges} {x : Nat} : has (r ++ t) x = (has r x || has t x) := List.any_append

/-- What a set of ranges holds after a range has been taken out. -/
theorem has_del {lo hi x : Nat} {r : Ranges} : (r.del lo hi).has x = true ↔ r.has x = true ∧ (x < lo ∨ hi < x) := by
  induction r with
  | nil => simp [del, has]
  | cons e r ih =>
    obtain ⟨a, b⟩ := e
    rw [del, List.flatMap_cons, has_append, Bool.or_eq_true, show (List.flatMap _ r) = del lo hi r from rfl, ih, has_cons, Bool.or_eq_true, or_and_right]
    refine or_congr ?_ Iff.rfl
    dsimp only
    split
    · rw [has_cons]
      simp [has]
      omega
    · rw [has_append, Bool.or_eq_true]
      split <;> split <;> simp [has] <;> omega

end Ranges

/-- Clearing the open water leaves the lines of the lagoon as they are (R82). -/
theorem written_clearOpen {h : Holm} {line : Nat} (hl : h.lagoon ≤ 15) (hline : h.lagoonAt / 8 ≤ line) :
    h.clearOpen.written.has line = h.written.has line := by
  have hat : 8 ≤ h.lagoonAt := by
    unfold Holm.lagoonAt
    omega
  refine Bool.eq_iff_iff.mpr (Ranges.has_del.trans (and_iff_left (.inr ?_)))
  omega

namespace State

variable {s t : State} {q c : Nat}

theorem mem_quadHolms {p : Nat} : p ∈ quadHolms q c ↔ ∃ i, i < 4 ∧ p = 68 * q + 4 * c + i := by
  unfold quadHolms
  simp only [List.mem_map, List.mem_range, eq_comm (a := p)]

theorem quadHolms_nodup : (quadHolms q c).Nodup :=
  List.Nodup.map (fun _ _ h => Nat.add_left_cancel h) List.nodup_range

/-- A step that changes one holm where it is in a state, and nothing else. -/
theorem holm_where (st : HState) (g : Holm → Holm) (t : State) (p i : Nat) :
    (if (t.holm p).st = st then t.modHolm p g else t).holm i =
      if i = p then (if (t.holm i).st = st then g (t.holm i) else t.holm i) else t.holm i := by
  by_cases hi : i = p
  · subst hi
    rw [if_pos rfl]
    split
    · exact (holm_modHolm ..).trans (if_pos rfl)
    · rfl
  · rw [if_neg hi]
    split
    · exact (holm_modHolm ..).trans (if_neg hi)
    · rfl

/-- The holms after those of a list that are in a state have changed. -/
theorem holm_foldl_where (st : HState) (g : Holm → Holm) {l : List Nat} (hl : l.Nodup) (i : Nat) :
    (l.foldl (fun (s : State) p => if (s.holm p).st = st then s.modHolm p g else s) s).holm i =
      if i ∈ l then (if (s.holm i).st = st then g (s.holm i) else s.holm i) else s.holm i :=
  holm_foldl (g := fun _ h => if h.st = st then g h else h) (holm_where st g) hl i

theorem foldl_where_frame (st : HState) (g : Holm → Holm) (l : List Nat) :
    l.foldl (fun (s : State) p => if (s.holm p).st = st then s.modHolm p g else s) s =
      { s with holms := (l.foldl (fun (s : State) p => if (s.holm p).st = st then s.modHolm p g else s) s).holms } := by
  refine foldl_keeps (P := fun t : State => t = { s with holms := t.holms }) (fun t p ht => ?_) rfl
  split
  · exact (congrArg (fun x : State => x.modHolm p g) ht).trans rfl
  · exact ht

/-- A holm that wakes from its gated domain (R84). -/
def woken (h : Holm) : Holm := { h.clearOpen with st := .idle }

/-- A holm-quad's domain is gated, or has woken, before its holms follow. -/
def domainGated (s : State) (d : Nat) : State := s.modPow fun x => { x with gated := x.gated ++ [d] }

def domainWoken (s : State) (d : Nat) : State :=
  { s with pow := { s.pow with gated := s.pow.gated.filter (· != d), wokeAt := s.pow.wokeAt.set d s.net.time.ticks } }

theorem gateQuad_may (hq : q < 4) (hc : c < 17) (hg : 22 * q + c ∉ s.pow.gated) (hm : s.mayGate q c = true) :
    s.gateQuad q c = (quadHolms q c).foldl (fun (s : State) p => if (s.holm p).st = .idle then s.modHolm p fun h => { h with st := .gated } else s)
      (s.domainGated (22 * q + c)) := by
  refine if_neg ?_
  rintro (h | h | h | h)
  · omega
  · omega
  · exact hg (List.contains_iff_mem.mp h)
  · simp [hm] at h

theorem gateQuad_not (h : 22 * q + c ∈ s.pow.gated ∨ s.mayGate q c = false) : s.gateQuad q c = s := by
  refine if_pos (.inr (.inr (h.imp List.contains_iff_mem.mpr fun h => ?_)))
  rw [h]
  rfl

/-- The module without its gated memory controllers and services is still at work on none (R504). -/
theorem deepIdle_enters (ht : s.ten.tenants = []) (hd : s.pow.deepIdle = false) : ∃ l, s.deepIdle = s.modPow fun x => { x with
    deepIdle := true, gated := (x.gated ++ (List.range 4).flatMap (fun q => [22 * q + 17, 22 * q + 18, 22 * q + 21]) ++ [88, 89, 90] ++ l).eraseDups } :=
  ⟨_, if_neg (by simp [ht, hd])⟩

end State

end Sys2Proof.Machine

namespace Sys2Proof.Proofs

open Sys2Proof.Machine Sys2Proof.Machine.State

/-- Settles O39: each domain by whether it may be gated, the holms of a holm-quad one by one. -/
theorem powerDomains : Obligations.PowerDomains := by
  unfold Obligations.PowerDomains
  intro s hc
  refine ⟨fun q c hq hc17 => ?_, fun g hg hd => ⟨fun hdown => ?_, fun k hk hup => ?_⟩,
    fun hg hi => ?_, fun hi => ?_, fun ht hd => ?_, fun ht => ?_⟩
  · intro own
    refine ⟨fun hg hm => ?_, fun h => ?_, fun hg => ?_, fun hg => ?_⟩
    · let f : State → Nat → State := fun s p => if (s.holm p).st = .idle then s.modHolm p fun h => { h with st := .gated } else s
      let t := (quadHolms q c).foldl f (s.domainGated (22 * q + c))
      have hrun : exec (.holmQuadGate q c) s = .next t := by
        show execHolmQuadGate q c s = _
        exact onPower_of hc (gateQuad_may hq hc17 hg hm)
      have hframe : t = { s.domainGated (22 * q + c) with holms := t.holms } := foldl_where_frame .idle _ _
      have hholm : ∀ p, t.holm p = if p ∈ quadHolms q c then (if (s.holm p).st = .idle then { s.holm p with st := .gated } else s.holm p) else s.holm p :=
        holm_foldl_where .idle _ quadHolms_nodup
      generalize t = t at hrun hframe hholm
      refine ⟨t, hrun, ?_, fun p hp hi => ?_, fun p hp => ?_, ?_, ?_, ?_⟩
      · exact (congrArg (fun x : State => x.pow.gated) hframe).trans rfl
      · rw [hholm, if_pos (mem_quadHolms.mpr hp), if_pos hi]
      · rw [hholm]
        rcases hp with hp | hp
        · exact if_neg fun hm => hp (mem_quadHolms.mp hm)
        · rw [if_neg hp, ite_self]
      · exact (congrArg State.mem hframe).trans rfl
      · exact (congrArg State.net hframe).trans rfl
      · exact (congrArg State.isth hframe).trans rfl
    · show execHolmQuadGate q c s = _
      exact onPower_of hc (gateQuad_not h)
    · let f : State → Nat → State := fun s p => if (s.holm p).st = .gated then s.modHolm p woken else s
      let t := (quadHolms q c).foldl f (s.domainWoken (22 * q + c))
      have hrun : exec (.holmQuadWake q c) s = .next t := by
        show execHolmQuadWake q c s = _
        exact onPower_of hc (if_pos ⟨hq, hc17, List.contains_iff_mem.mpr hg⟩)
      have hframe : t = { s.domainWoken (22 * q + c) with holms := t.holms } := foldl_where_frame .gated _ _
      have hholm : ∀ p, t.holm p = if p ∈ quadHolms q c then (if (s.holm p).st = .gated then woken (s.holm p) else s.holm p) else s.holm p :=
        holm_foldl_where .gated _ quadHolms_nodup
      generalize t = t at hrun hframe hholm
      refine ⟨t, hrun, ?_, fun p hp hi => ?_, fun p hp => ?_, ?_, ?_, ?_⟩
      · rw [(congrArg (fun x : State => x.pow.gated) hframe).trans rfl]
        exact fun hm => absurd (List.mem_filter.mp hm).2 (by simp)
      · rw [hholm, if_pos (mem_quadHolms.mpr hp), if_pos hi]
        exact ⟨rfl, rfl, fun hl line hline => written_clearOpen hl hline, rfl⟩
      · rw [hholm]
        rcases hp with hp | hp
        · exact if_neg fun hm => hp (mem_quadHolms.mp hm)
        · rw [if_neg hp, ite_self]
      · exact (congrArg State.mem hframe).trans rfl
      · exact (congrArg State.net hframe).trans rfl
      · exact (congrArg State.isth hframe).trans rfl
    · show execHolmQuadWake q c s = _
      exact onPower_of hc (if_neg fun h => hg (List.contains_iff_mem.mp h.2.2))
  · show execStraitGroupGate g s = _
    refine onPower_of hc (if_neg ?_)
    simpa [hg, hd] using hdown
  · show execStraitGroupGate g s = _
    refine onPower_of hc (if_pos (.inr (.inr ?_)))
    simpa using ⟨k, hk, hup⟩
  · show execCodecDomainGate s = _
    exact onPower_of hc (if_neg (by simp [hg, hi]))
  · show execCodecDomainGate s = _
    exact onPower_of hc (if_pos (by simp [hi]))
  · obtain ⟨l, hl⟩ := deepIdle_enters ht hd
    have hrun : exec .deepIdleEnter s = .next s.deepIdle := by
      show execDeepIdleEnter s = _
      exact onPower_of hc rfl
    rw [hl] at hrun
    refine ⟨_, hrun, rfl, fun d hd => ?_, fun q hq => ?_, rfl⟩
    · refine List.mem_eraseDups.mpr ?_
      simp [hd]
    · have hctl : ∀ d ∈ [22 * q + 17, 22 * q + 18, 22 * q + 21], d ∈ (List.range 4).flatMap fun q => [22 * q + 17, 22 * q + 18, 22 * q + 21] :=
        fun d hd => List.mem_flatMap.mpr ⟨q, List.mem_range.mpr hq, hd⟩
      refine ⟨List.mem_eraseDups.mpr ?_, List.mem_eraseDups.mpr ?_, List.mem_eraseDups.mpr ?_⟩
      · simp only [List.mem_append, hctl (22 * q + 17) (by simp), true_or, or_true]
      · simp only [List.mem_append, hctl (22 * q + 18) (by simp), true_or, or_true]
      · simp only [List.mem_append, hctl (22 * q + 21) (by simp), true_or, or_true]
  · show execDeepIdleEnter s = _
    exact onPower_of hc (if_pos (by simpa using Or.inl ht))

end Sys2Proof.Proofs
end

section
/-! SUPPORT. Requests at the memory tiers, one lemma for what each operation leaves as it was (R334 to R358). -/

namespace Sys2Proof.Machine

namespace MemState

variable {m n : MemState}

/-- From m to n only the counters of the balance monitor have changed (R352). -/
def Counted (m n : MemState) : Prop := n = { m with pcBytes := n.pcBytes, sampleCount := n.sampleCount, hot := n.hot }

theorem Counted.refl (m : MemState) : Counted m m := rfl

theorem Counted.hbm (h : Counted m n) : n.hbm = m.hbm := (congrArg MemState.hbm h).trans rfl

theorem Counted.poisoned (h : Counted m n) : n.poisoned = m.poisoned := (congrArg MemState.poisoned h).trans rfl

theorem Counted.fresh (h : Counted m n) : n.fresh = m.fresh := (congrArg MemState.fresh h).trans rfl

theorem Counted.extents (h : Counted m n) : n.extents = m.extents := (congrArg MemState.extents h).trans rfl

theorem countServed_counted (a k : Nat) : Counted m (m.countServed a k) := by
  have hpc : ∀ l : List Nat, Counted m (l.foldl (fun (m : MemState) i =>
      let p := m.place (a / 64 * 64 + 64 * i)
      let k := p.stack * 64 + p.pc
      { m with pcBytes := m.pcBytes.set k (m.pcBytes.getD k 0 + 64) }) m) := fun l =>
    foldl_keeps (P := Counted m) (fun n i hn => by
      unfold Counted at hn ⊢
      rw [hn]) (.refl m)
  have hl := hpc (List.range ((a % 64 + k + 63) / 64))
  unfold countServed
  dsimp only
  unfold Counted at hl ⊢
  split
  · rw [hl]
  · rw [hl]

/-- From m to n only HBM bytes and the marks on blocks have changed (R358). -/
def Settled (m n : MemState) : Prop := n = { m with hbm := n.hbm, badBlocks := n.badBlocks, poisoned := n.poisoned }

namespace Settled

theorem of (m : MemState) (h : Mem) (b p : List Nat) : Settled m { m with hbm := h, badBlocks := b, poisoned := p } := rfl

theorem ite {c : Prop} [Decidable c] {a b : MemState} (ha : Settled m a) (hb : Settled m b) : Settled m (if c then a else b) := by
  split
  · exact ha
  · exact hb

theorem fresh (h : Settled m n) : n.fresh = m.fresh := (congrArg MemState.fresh h).trans rfl

theorem extents (h : Settled m n) : n.extents = m.extents := (congrArg MemState.extents h).trans rfl

end Settled

theorem settleBlock_settled (b : Nat) : Settled m (m.settleBlock b) :=
  .ite (.of m m.hbm m.badBlocks m.poisoned) (.ite (.ite (.of m m.hbm m.badBlocks m.poisoned) (.of m _ _ m.poisoned))
    (.ite (.of m m.hbm m.badBlocks m.poisoned) (.of m m.hbm m.badBlocks _)))

theorem settleBlocks_settled (l : List Nat) : Settled m (l.foldl (fun (m : MemState) b => m.settleBlock b) m) :=
  foldl_keeps (P := Settled m) (fun n b hn => by
    have hb := settleBlock_settled (m := n) b
    unfold Settled at hn hb ⊢
    rw [hb, hn]) (.of m m.hbm m.badBlocks m.poisoned)

/-- With no failed element and no bad block there is nothing to settle (R358). -/
theorem settleBlocks_sound (hb : m.badBlocks = []) (hs : m.failedStacks = []) (hp : m.failedPcs = []) (l : List Nat) :
    l.foldl (fun (m : MemState) b => m.settleBlock b) m = m :=
  foldl_keeps (P := fun n => n = m) (fun n b hn => by
    rw [hn]
    exact if_pos (by simp [readable, missing, hb, hs, hp])) rfl

/-! ### Stored space of the codec -/

/-- From m to n only the segments have changed (R346). -/
def Segmented (m n : MemState) : Prop := n = { m with segments := n.segments, openSeg := n.openSeg }

theorem Segmented.refl (m : MemState) : Segmented m m := rfl

theorem Segmented.trans {o : MemState} (h : Segmented m n) (k : Segmented n o) : Segmented m o := by
  have hi := congrArg (fun x : MemState => { x with segments := o.segments, openSeg := o.openSeg }) h
  exact Eq.trans k hi

theorem Segmented.hbm (h : Segmented m n) : n.hbm = m.hbm := (congrArg MemState.hbm h).trans rfl

theorem Segmented.extents (h : Segmented m n) : n.extents = m.extents := (congrArg MemState.extents h).trans rfl

theorem dropStored_segmented (u : UnitEntry) : Segmented m (m.dropStored u) := by
  unfold dropStored
  split
  · rfl
  · rfl

theorem takeStored_segmented {p : Part} {tier k reserve a b : Nat} (h : takeStored p m tier k reserve = some (a, b, n)) : Segmented m n := by
  have hfresh : ∀ {a b : Nat} {n : MemState}, takeStored.fresh p m tier k reserve = some (a, b, n) → Segmented m n := by
    intro a b n h
    unfold takeStored.fresh at h
    split at h
    · cases h
    · dsimp only at h
      split at h
      · cases h
        rfl
      · cases h
  unfold takeStored at h
  dsimp only at h
  split at h
  · split at h
    · cases h
      rfl
    · exact hfresh h
  · exact hfresh h

/-! ### The codec -/

theorem unitReadable_sound {x : Extent} {u : UnitEntry} (ht : x.tier = 2) (hf : m.failedPkgs = []) (hu : u.poisoned = false) : unitReadable m x u = true := by
  unfold unitReadable
  rw [hu, hf]
  simp [ht]

/-- The entry of a unit of an extent without poisoned units is not poisoned. -/
theorem unit_unpoisoned {x : Extent} (hx : ∀ u ∈ x.units, u.2.poisoned = false) (k : Nat) : (x.units.getD k ⟨0, 0, 0, false⟩).poisoned = false := by
  unfold AMap.getD
  cases h : x.units.get? k with
  | none => rfl
  | some u => exact hx _ (AMap.mem_of_get? h)

/-- A read of a sound extent of tier 2 answers its bytes (R344). -/
theorem codecRead_sound {e off k : Nat} {x : Extent} (he : m.extents.get? e = some x) (ht : x.tier = 2) (hf : m.failedPkgs = [])
    (hx : ∀ u ∈ x.units, u.2.poisoned = false) : m.codecRead e off k = .ok (Mem.read x.mem off k) := by
  unfold codecRead
  rw [he]
  dsimp only
  rw [if_neg (by simp [ht]), if_pos (List.all_eq_true.mpr fun i _ => unitReadable_sound ht hf (unit_unpoisoned hx _))]

/-- A write of no more than a unit is one piece. -/
theorem pieces_one {off : Nat} {bs : List Nat} (hne : bs ≠ []) (hfit : off % 4096 + bs.length ≤ 4096) :
    pieces 4096 (bs.length + 1) off bs.length = [(off, bs.length)] := by
  have hlen : bs.length ≠ 0 := fun h => hne (List.length_eq_zero_iff.mp h)
  obtain ⟨k, hk⟩ := Nat.exists_eq_succ_of_ne_zero hlen
  rw [pieces, if_neg hlen]
  dsimp only
  rw [Nat.min_eq_left (by omega), hk, pieces, Nat.sub_self, if_pos rfl]

theorem storedSize_le (x : Extent) (u free : Nat) : storedSize x u free ≤ 16 := by
  unfold storedSize
  split <;> omega

/-- A rewrite of a sound unit of tier 2 that finds stored space replaces its bytes and takes stored space (R347). -/
theorem rewriteUnit_sound {p : Part} {e u off free : Nat} {vs : List Nat} {x : Extent} (he : m.extents.get? e = some x) (ht : x.tier = 2)
    (hf : m.failedPkgs = []) (hx : ∀ u ∈ x.units, u.2.poisoned = false)
    (hroom : ∀ n, 1 ≤ n → n ≤ 16 → (takeStored p m 2 n 64).isSome = true) :
    ∃ n y, rewriteUnit p m e u off vs free = .ok n ∧ n = { m with segments := n.segments, openSeg := n.openSeg, extents := m.extents.set e y } ∧
      y.mem = x.mem.write (4096 * u + off) vs ∧ y.tier = x.tier ∧ y.owner = x.owner := by
  let old := x.units.getD u ⟨0, 0, 0, false⟩
  let x1 : Extent := { x with mem := x.mem.write (4096 * u + off) vs }
  let y (v : UnitEntry) : Extent := { x1 with units := x1.units.set u v }
  have hread : unitReadable m x old = true := unitReadable_sound ht hf (unit_unpoisoned hx _)
  have hstep : ∀ r, (if storedSize x1 u free = 0 then
        .ok { dropStored m old with extents := m.extents.set e { x1 with units := x1.units.set u ⟨0, 0, 0, false⟩ } }
      else match takeStored p m x.tier (storedSize x1 u free) 64 with
        | none => .error .limit
        | some (seg, sec, m1) => .ok { dropStored m1 old with
            extents := m.extents.set e { x1 with units := x1.units.set u ⟨seg, sec, storedSize x1 u free, false⟩ } }) = r →
      rewriteUnit p m e u off vs free = r := by
    rintro r rfl
    unfold rewriteUnit
    rw [he]
    dsimp only
    rw [if_neg (by simp [ht]), if_neg (by simp [show unitReadable m x (x.units.getD u ⟨0, 0, 0, false⟩) = true from hread])] <;> rfl
  by_cases hz : storedSize x1 u free = 0
  · have hd := dropStored_segmented (m := m) old
    refine ⟨_, y ⟨0, 0, 0, false⟩, hstep _ (if_pos hz), ?_, rfl, rfl, rfl⟩
    exact congrArg (fun k : MemState => { k with extents := m.extents.set e { x1 with units := x1.units.set u ⟨0, 0, 0, false⟩ } }) hd
  · obtain ⟨⟨seg, sec, m1⟩, htake⟩ := Option.isSome_iff_exists.mp (hroom _ (Nat.pos_of_ne_zero hz) (storedSize_le x1 u free))
    have hd := dropStored_segmented (m := m1) old
    have hm := takeStored_segmented htake
    rw [← ht] at htake
    refine ⟨{ dropStored m1 old with extents := m.extents.set e (y ⟨seg, sec, storedSize x1 u free, false⟩) },
      y ⟨seg, sec, storedSize x1 u free, false⟩, hstep _ ((if_neg hz).trans (by rw [htake])), ?_, rfl, rfl, rfl⟩
    exact congrArg (fun k : MemState => { k with
      extents := m.extents.set e { x1 with units := x1.units.set u ⟨seg, sec, storedSize x1 u free, false⟩ } }) (hm.trans hd)

/-- A write within one unit is the rewrite of that unit. -/
theorem codecWrite_one {p : Part} {e off free : Nat} {bs : List Nat} (hne : bs ≠ []) (hfit : off % 4096 + bs.length ≤ 4096)
    (h : rewriteUnit p m e (off / 4096) (off % 4096) bs free = .ok n) : codecWrite p m e off bs free = .ok n := by
  unfold codecWrite
  rw [pieces_one hne hfit, codecWriteGo, List.take_length, h]
  rfl

end MemState

namespace State

variable {s : State} {a n : Nat}

/-- The HBM after a read has settled the blocks of its range (R358). -/
def settledMem (s : State) (a n : Nat) : MemState := (MemState.blocksOf a n).foldl (fun (m : MemState) b => m.settleBlock b) s.mem

theorem hbmReadReq_in {r : MemState × Status × List Nat} (h : a + n ≤ hbmEnd s.mem.hbmParity)
    (hr : (match s.mem.hbmRead a n with
      | some bs => ((s.settledMem a n).countServed a n, .done, bs)
      | none => (s.settledMem a n, .memoryError, [])) = r) : s.hbmReadReq a n = s.memDo r := by
  unfold hbmReadReq
  rw [if_neg (by simp [hbmRange, h]), ← hr]
  rfl

theorem hbmReadReq_out (h : hbmEnd s.mem.hbmParity < a + n) : s.hbmReadReq a n = s.memDo (s.mem, .badAddress, []) := by
  unfold hbmReadReq
  rw [if_pos (by simp [hbmRange, h])]

theorem hbmWriteReq_in {bs : List Nat} (h : a + bs.length ≤ hbmEnd s.mem.hbmParity) : s.hbmWriteReq a bs = s.memDo (s.mem.hbmStore a bs, .done, []) := by
  unfold hbmWriteReq
  rw [if_neg (by simp [hbmRange, h])]

theorem hbmWriteReq_out {bs : List Nat} (h : hbmEnd s.mem.hbmParity < a + bs.length) : s.hbmWriteReq a bs = s.memDo (s.mem, .badAddress, []) := by
  unfold hbmWriteReq
  rw [if_pos (by simp [hbmRange, h])]

theorem codecReadReq_in {e off : Nat} {r : MemState × Status × List Nat} (h : off + n ≤ regionSize)
    (hr : (match s.mem.codecRead e off n with | .ok bs => (s.mem, .done, bs) | .error st => (s.mem, st, [])) = r) :
    s.codecReadReq e off n = s.wakeCodec.memDo r := by
  unfold codecReadReq
  dsimp only
  rw [if_neg (Nat.not_lt.mpr h), ← hr]
  rfl

theorem codecWriteReq_ok {e off : Nat} {bs : List Nat} {m : MemState} (h : off + bs.length ≤ regionSize)
    (hw : MemState.codecWrite s.part s.mem e off bs s.free = .ok m) :
    s.codecWriteReq e off bs = s.wakeCodec.memDo ({ m with rewrites := m.rewrites + 1 }, .done, []) := by
  unfold codecWriteReq
  dsimp only
  rw [if_neg (Nat.not_lt.mpr h), show MemState.codecWrite s.wakeCodec.part s.wakeCodec.mem e off bs s.wakeCodec.free = .ok m from hw]

end State

end Sys2Proof.Machine

namespace Sys2Proof.Proofs

open Sys2Proof.Machine Sys2Proof.Machine.State

/-- Settles O40: each request by whether its range lies in the tier, and what the tier answers. -/
theorem memoryRequests : Obligations.MemoryRequests := by
  unfold Obligations.MemoryRequests
  intro s hlive answer awake
  refine ⟨fun a n bs hin hread => ?_, fun a n hin hread => ?_, fun a n hout => ?_, fun a bs hin => ?_, fun a bs hout => ?_, fun e off n hout => ?_,
    fun e x off n hin he ht hf hx => ?_, fun e off n hin he => ?_, fun e off bs hout => ?_, fun e x off bs hne hfit hin he ht hf hx hroom => ?_⟩
  · have hrun : exec (.hbmRead a n) s = .next (s.memDo ((s.settledMem a n).countServed a n, .done, bs)) := by
      show execHbmRead a n s = _
      exact onLive_of hlive (hbmReadReq_in hin (by rw [hread]))
    have hcount := MemState.countServed_counted (m := s.settledMem a n) a n
    have hset : MemState.Settled s.mem (s.settledMem a n) := MemState.settleBlocks_settled _
    refine ⟨_, hrun, rfl, fun hb hs hp => ?_, hcount.fresh.trans hset.fresh, hcount.extents.trans hset.extents, rfl, rfl, rfl, rfl⟩
    have hsame : s.settledMem a n = s.mem := MemState.settleBlocks_sound hb hs hp _
    rw [hsame] at hcount ⊢
    exact ⟨hcount.hbm, hcount.poisoned⟩
  · have hrun : exec (.hbmRead a n) s = .next (s.memDo (s.settledMem a n, .memoryError, [])) := by
      show execHbmRead a n s = _
      exact onLive_of hlive (hbmReadReq_in hin (by rw [hread]))
    have hset : MemState.Settled s.mem (s.settledMem a n) := MemState.settleBlocks_settled _
    exact ⟨_, hrun, rfl, hset.extents, rfl, rfl, rfl⟩
  · show execHbmRead a n s = _
    exact onLive_of hlive (hbmReadReq_out hout)
  · show execHbmWrite a bs s = _
    exact onLive_of hlive (hbmWriteReq_in hin)
  · show execHbmWrite a bs s = _
    exact onLive_of hlive (hbmWriteReq_out hout)
  · show execCodecRead e off n s = _
    exact onLive_of hlive (congrArg awake.memDo (if_pos hout))
  · show execCodecRead e off n s = _
    exact onLive_of hlive (codecReadReq_in hin (by rw [MemState.codecRead_sound he ht hf hx]))
  · show execCodecRead e off n s = _
    refine onLive_of hlive (codecReadReq_in (r := (s.mem, .badAddress, [])) hin ?_)
    unfold MemState.codecRead
    rw [he]
  · show execCodecRewrite e off bs s = _
    exact onLive_of hlive (congrArg awake.memDo (if_pos hout))
  · obtain ⟨m, y, hw, hm, hmem, htier, hown⟩ := MemState.rewriteUnit_sound (u := off / 4096) (off := off % 4096) (free := s.free) (vs := bs) he ht hf hx hroom
    have hrun : exec (.codecRewrite e off bs) s = .next (s.wakeCodec.memDo ({ m with rewrites := m.rewrites + 1 }, .done, [])) := by
      show execCodecRewrite e off bs s = _
      exact onLive_of hlive (codecWriteReq_ok hin (MemState.codecWrite_one hne hfit hw))
    have hext : m.extents = s.mem.extents.set e y := (congrArg MemState.extents hm).trans rfl
    have hhbm : m.hbm = s.mem.hbm := (congrArg MemState.hbm hm).trans rfl
    refine ⟨_, y, hrun, rfl, hext, ?_, htier, hown, hhbm, rfl, rfl, rfl⟩
    rw [hmem, Nat.div_add_mod]

end Sys2Proof.Proofs
end

section
/-! SUPPORT. Failed elements, patrol scrub, moves, compaction and zeroing (R331 to R358). -/

namespace Sys2Proof.Machine

namespace MemState

variable {m n : MemState}

/-! ### Writes of HBM bytes -/

/-- From m to n only HBM bytes have changed (R337). -/
def Written (m n : MemState) : Prop := n = { m with hbm := n.hbm }

theorem Written.refl (m : MemState) : Written m m := rfl

theorem Written.of (m : MemState) (h : Mem) : Written m { m with hbm := h } := rfl

theorem Written.ite {c : Prop} [Decidable c] {a b : MemState} (ha : Written m a) (hb : Written m b) : Written m (if c then a else b) := by
  split
  · exact ha
  · exact hb

theorem Written.trans {o : MemState} (h : Written m n) (k : Written n o) : Written m o := by
  have hi := congrArg (fun x : MemState => { x with hbm := o.hbm }) h
  exact Eq.trans k hi

theorem hbmWriteBytes_written (a : Nat) (vs : List Nat) : Written m (m.hbmWriteBytes a vs) := by
  induction vs generalizing m a with
  | nil => exact .refl m
  | cons v vs ih =>
    have hb : Written m (m.hbmWriteByte a v) := .ite (.of m _) (.ite (.of m _) (.ite (.of m _) (.of m _)))
    exact hb.trans (ih (m := m.hbmWriteByte a v) (a + 1))

/-! ### Compaction -/

/-- From m to n the HBM and the bytes of every extent are the same (R346). -/
def SameBytes (m n : MemState) : Prop := n.hbm = m.hbm ∧ ∀ e, (n.extents.get? e).map (·.mem) = (m.extents.get? e).map (·.mem)

theorem SameBytes.refl (m : MemState) : SameBytes m m := ⟨rfl, fun _ => rfl⟩

theorem SameBytes.trans {o : MemState} (h : SameBytes m n) (k : SameBytes n o) : SameBytes m o :=
  ⟨k.1.trans h.1, fun e => (k.2 e).trans (h.2 e)⟩

theorem Segmented.sameBytes (h : Segmented m n) : SameBytes m n := ⟨h.hbm, fun e => by rw [h.extents]⟩

theorem modExtent_sameBytes {e : Nat} {f : Extent → Extent} (hf : ∀ x, (f x).mem = x.mem) : SameBytes m { m with extents := m.extents.modify e f } := by
  refine ⟨rfl, fun i => ?_⟩
  show ((m.extents.modify e f).get? i).map (·.mem) = _
  rw [AMap.get?_modify]
  split
  · cases m.extents.get? i with
    | none => rfl
    | some x => exact congrArg some (hf x)
  · rfl

end MemState

namespace State

variable {s : State}

theorem masked_next {k u d n : Nat} : (s.masked k u d n).boot.moduleLog.next = (s.boot.moduleLog.next + 1) % 2 ^ 32 := by
  unfold masked
  rw [notice_boot]
  exact log_next

/-- The state after an element has been declared failed, before the masked fault is told. -/
def degradedBy (s : State) (m : MemState) : State := { s with mem := { m with degraded := true } }

theorem failElement_stack {k : Nat} (hk : k < 8) (hnew : k ∉ s.mem.failedStacks) : ∃ d, s.failElement (.stack k) =
    if (s.mem.hbmParity && (s.mem.failedStacks.isEmpty && s.mem.failedPcs.isEmpty)) = true then
      ({ s.degradedBy { s.mem with failedStacks := s.mem.failedStacks ++ [k] } with free := s.free + 1 } : State).masked 2 (k + 2 ^ 9 * 2) d 0
    else s.degradedBy { s.mem with failedStacks := s.mem.failedStacks ++ [k] } :=
  ⟨_, if_neg (by simp [hnew, hk])⟩

theorem failElement_package {k : Nat} (hk : k < 12) (hnew : k ∉ s.mem.failedPkgs) : ∃ d, s.failElement (.package k) =
    if (s.mem.lpdParity && s.mem.failedPkgs.isEmpty) = true then
      ({ s.degradedBy { s.mem with failedPkgs := s.mem.failedPkgs ++ [k] } with free := s.free + 1 } : State).masked 3 k d 0
    else s.degradedBy { s.mem with failedPkgs := s.mem.failedPkgs ++ [k] } :=
  ⟨_, if_neg (by simp [hnew, hk])⟩

/-- The state after patrol scrub has corrected an error of a block of HBM (R357). -/
def blockCorrected (s : State) (a : Nat) : State :=
  let st := (s.mem.place a).stack
  { s with mem := { s.mem with
    ceHbm := s.mem.ceHbm.set st ((s.mem.ceHbm.getD st 0 + 1) % 2 ^ 32)
    scrubRows := s.mem.scrubRows.set (a / 64) (s.mem.scrubRows.getD (a / 64) 0 + 1) } }

theorem patrol_good {a : Nat} (h : dpaKind s.part s.mem a = .hbm) : s.patrol a 0 = s := by
  unfold patrol
  rw [h]
  rfl

theorem patrol_corrected {a : Nat} (h : dpaKind s.part s.mem a = .hbm) (hn : s.mem.scrubRows.getD (a / 64) 0 ≠ 1) : s.patrol a 1 = s.blockCorrected a := by
  unfold patrol
  rw [h]
  exact (if_pos rfl).trans (if_pos fun h2 => hn (Nat.succ.inj h2))

theorem patrol_twice {a : Nat} (h : dpaKind s.part s.mem a = .hbm) (hn : s.mem.scrubRows.getD (a / 64) 0 = 1) : ∃ u, s.patrol a 1 =
    ({ (s.blockCorrected a).recordRepair (.ppr (a / 64)) with mem := { (s.blockCorrected a).mem with pprRows := s.mem.pprRows ++ [a / 64] } } : State).log 8 0 none u 1 := by
  unfold patrol
  rw [h]
  exact ⟨_, (if_pos rfl).trans (if_neg fun h2 => h2 (congrArg (· + 1) hn))⟩

/-- Issuing a free region changes which regions are issued and their keys (R331, R335). -/
theorem takePlace_hbm {m n : MemState} {t free dst : Nat} (h : m.takePlace 1 t free = some (dst, n)) :
    n.moves = m.moves ∧ n.hbm = m.hbm ∧ n.issued = m.issued.set dst t := by
  unfold MemState.takePlace at h
  rw [if_pos rfl] at h
  obtain ⟨r, -, hr⟩ := Option.map_eq_some_iff.mp h
  cases hr
  exact ⟨rfl, rfl, rfl⟩

/-- A hot region that may move gets a new region and key, and its move begins (R352). -/
theorem rekey_moves {r t page dst : Nat} {m : MemState} (hr : s.pageOfRegion r = some (t, page)) (hskew : s.mem.skewReported = true)
    (hsec : s.mem.rekeysInSecond = []) (hkeys : s.mem.rekeys = []) (hmoves : s.mem.moves = []) (hplace : s.mem.takePlace 1 t s.free = some (dst, m)) :
    ∃ pc load keys sec, s.rekey r = (({ s with
      mem := { m with moves := m.moves ++ [⟨t, page, 1, r, 1, dst, 0, none, none, s.now⟩], rekeys := keys, rekeysInSecond := sec }
      free := s.free + 1 } : State).modPage t page fun e => { e with mig := true }).balanceNotice pc load 1 false false := by
  unfold rekey
  rw [hr]
  dsimp only
  rw [if_neg (by simp [hskew, hsec, hmoves]), if_neg (by simp [hkeys, AMap.getD, AMap.get?]), hplace]
  exact ⟨_, _, _, _, rfl⟩

/-- A window in which nothing was served is not skewed (R352). -/
theorem balanceWindow_idle (h : s.mem.pcBytes = []) : s.balanceWindow = { s with mem := { s.mem with skewRun := 0, skewReported := false } } := by
  have hb : busiest s.mem = (0, 0, 0) := by
    unfold busiest
    rw [h]
    rfl
  unfold balanceWindow
  rw [hb, ← h]
  simp

theorem zeroNext_codec {i : Nat} {z : Zeroing} (hz : s.mem.zeroing[i]? = some z) (ht : z.tier ≠ 1) :
    ∃ m, s.zeroNext i = { s with mem := m } ∧ m.zeroing = s.mem.zeroing.erase z ∧ m.hbm = s.mem.hbm ∧
      ∀ e, m.extents.get? e = if e = z.target then none else s.mem.extents.get? e := by
  unfold zeroNext
  rw [hz]
  dsimp only
  rw [if_neg ht]
  split
  · rename_i hn
    refine ⟨_, rfl, rfl, rfl, fun e => ?_⟩
    split
    · rename_i he
      exact he ▸ hn
    · rfl
  · rename_i x hx
    let m0 : MemState := { s.mem with zeroing := s.mem.zeroing.erase z }
    have hseg : MemState.Segmented m0 (x.units.foldl (fun (m : MemState) (_, u) => m.dropStored u) m0) :=
      foldl_keeps (P := MemState.Segmented m0) (fun m u hm => hm.trans (MemState.dropStored_segmented u.2)) (.refl m0)
    refine ⟨_, rfl, (congrArg MemState.zeroing hseg).trans rfl, hseg.hbm, fun e => ?_⟩
    show AMap.get? (AMap.del _ z.target) e = _
    rw [AMap.get?_del, hseg.extents]

/-- A region of HBM after bytes have been written over it and its blocks are sound again (R331). -/
def overwritten (m : MemState) (a : Nat) (vs : List Nat) : MemState :=
  let m1 := m.hbmWriteBytes a vs
  { m1 with
    fresh := m1.fresh.filter fun (k, _) => decide (k < a / 4096) || decide (a / 4096 + 512 ≤ k)
    poisoned := m1.poisoned.filter fun b => decide (b < a / 64) || decide ((a + regionSize) / 64 ≤ b) }

theorem overwritten_frame (m : MemState) (a : Nat) (vs : List Nat) :
    (overwritten m a vs).zeroing = m.zeroing ∧ (overwritten m a vs).extents = m.extents ∧
    (overwritten m a vs).poisoned = m.poisoned.filter fun b => decide (b < a / 64) || decide ((a + regionSize) / 64 ≤ b) := by
  have hw := MemState.hbmWriteBytes_written (m := m) a vs
  exact ⟨(congrArg MemState.zeroing hw).trans rfl, (congrArg MemState.extents hw).trans rfl,
    congrArg (List.filter _) ((congrArg MemState.poisoned hw).trans rfl)⟩

theorem zeroNext_hbm {i : Nat} {z : Zeroing} (hz : s.mem.zeroing[i]? = some z) (ht : z.tier = 1) :
    ∃ vs, s.zeroNext i = { s with mem := overwritten { s.mem with zeroing := s.mem.zeroing.erase z } (z.target * regionSize) vs } := by
  unfold zeroNext
  rw [hz]
  dsimp only
  rw [if_pos ht]
  unfold overwritten
  exact ⟨_, rfl⟩

/-- Compaction moves stored copies; it changes no byte (R346). -/
theorem compact_sameBytes (seg : Nat) : s.compact seg = { s with mem := (s.compact seg).mem } ∧ MemState.SameBytes s.mem (s.compact seg).mem := by
  unfold compact
  split
  · exact ⟨rfl, .refl _⟩
  · split
    · exact ⟨rfl, .refl _⟩
    · refine ⟨rfl, foldl_keeps (P := MemState.SameBytes s.mem) (fun m u hm => ?_) (.refl _)⟩
      dsimp only
      split
      · exact hm
      · rename_i seg sec m1 ht
        refine hm.trans ((MemState.takeStored_segmented ht).sameBytes.trans (.trans (MemState.modExtent_sameBytes ?_)
          (MemState.dropStored_segmented _).sameBytes))
        exact fun _ => rfl

end State

end Sys2Proof.Machine

namespace Sys2Proof.Proofs

open Sys2Proof.Machine Sys2Proof.Machine.State

/-- Settles O41: each event of the tiers by what it finds. -/
theorem memoryEvents : Obligations.MemoryEvents := by
  unfold Obligations.MemoryEvents
  intro s hlive frame
  refine ⟨fun k hk hnew => ?_, fun k hk hnew => ?_, fun k hk => ?_, fun a hkind => ?_, fun hpc => ?_, fun r hr => ?_,
    fun r t page dst m hr hskew hsec hkeys hmoves hplace => ?_, fun i v bs m hv hnext hread hwrite => ?_, fun i hi => ?_, fun seg => ?_, fun i z hz => ?_,
    fun c tb hc hok => ?_, fun c tb hok => ?_⟩
  · obtain ⟨d, hd⟩ := failElement_stack hk hnew
    have hrun : exec (.elementFailureDeclare (.stack k)) s = .next (s.failElement (.stack k)) := by
      show execElementFailureDeclare (.stack k) s = _
      exact onLive_of hlive rfl
    rw [hd] at hrun
    split at hrun
    · rename_i hmask
      refine ⟨_, hrun, ⟨masked_holms .., masked_kv .., masked_net ..⟩, masked_mem .., fun _ _ _ => masked_next, fun hpar => ?_⟩
      simp [hpar] at hmask
    · rename_i hmask
      refine ⟨_, hrun, ⟨rfl, rfl, rfl⟩, rfl, fun hpar hst hpcs => ?_, fun _ => ⟨rfl, rfl⟩⟩
      exact absurd (by simp [hpar, hst, hpcs]) hmask
  · obtain ⟨d, hd⟩ := failElement_package hk hnew
    have hrun : exec (.elementFailureDeclare (.package k)) s = .next (s.failElement (.package k)) := by
      show execElementFailureDeclare (.package k) s = _
      exact onLive_of hlive rfl
    rw [hd] at hrun
    split at hrun
    · exact ⟨_, hrun, ⟨masked_holms .., masked_kv .., masked_net ..⟩, masked_mem ..⟩
    · exact ⟨_, hrun, ⟨rfl, rfl, rfl⟩, rfl⟩
  · show execElementFailureDeclare (.stack k) s = _
    exact onLive_of hlive (if_pos (.inr (List.contains_iff_mem.mpr hk)))
  · refine ⟨?_, fun hn => ?_, fun hn => ?_⟩
    · show execPatrolScrub a 0 s = _
      exact onLive_of hlive (patrol_good hkind)
    · show execPatrolScrub a 1 s = _
      exact onLive_of hlive (patrol_corrected hkind hn)
    · obtain ⟨u, hu⟩ := patrol_twice hkind hn
      have hrun : exec (.patrolScrub a 1) s = .next (s.patrol a 1) := by
        show execPatrolScrub a 1 s = _
        exact onLive_of hlive rfl
      rw [hu] at hrun
      exact ⟨_, hrun, ⟨rfl, rfl, rfl⟩, rfl, rfl, log_next⟩
  · show execBalanceWindow s = _
    exact onLive_of hlive (balanceWindow_idle hpc)
  · show execRegionRekey r s = _
    refine onLive_of hlive ?_
    unfold rekey
    rw [hr]
  · obtain ⟨pc, load, keys, sec, hmoved⟩ := rekey_moves hr hskew hsec hkeys hmoves hplace
    obtain ⟨hmv, hhbm, hissued⟩ := takePlace_hbm hplace
    have hrun : exec (.regionRekey r) s = .next (s.rekey r) := by
      show execRegionRekey r s = _
      exact onLive_of hlive rfl
    rw [hmoved] at hrun
    refine ⟨_, hrun, ?_, (congrArg MemState.hbm (notice_mem ..)).trans hhbm, (congrArg MemState.issued (notice_mem ..)).trans hissued,
      notice_holms .., notice_kv .., notice_net ..⟩
    refine (congrArg MemState.moves (notice_mem ..)).trans ?_
    show m.moves ++ _ = _
    rw [hmv, hmoves]
    rfl
  · show execMigrationUnitCopy i s = _
    refine onLive_of hlive ?_
    unfold copyUnit
    rw [hv]
    dsimp only
    rw [if_neg (by omega), hread]
    dsimp only
    rw [hwrite]
    exact if_neg (by omega)
  · show execMigrationUnitCopy i s = _
    refine onLive_of hlive ?_
    unfold copyUnit
    rw [hi]
  · obtain ⟨heq, hhbm, hext⟩ := compact_sameBytes (s := s) seg
    have hrun : exec (.segmentCompaction seg) s = .next (s.compact seg) := by
      show execSegmentCompaction seg s = _
      exact onLive_of hlive rfl
    generalize s.compact seg = t at hrun heq hhbm hext
    exact ⟨t, hrun, ⟨(congrArg State.holms heq).trans rfl, (congrArg State.kv heq).trans rfl, (congrArg State.net heq).trans rfl⟩,
      (congrArg State.isth heq).trans rfl, hhbm, hext⟩
  · have hrun : exec (.regionZeroing i) s = .next (s.zeroNext i) := by
      show execRegionZeroing i s = _
      exact onLive_of hlive rfl
    by_cases ht : z.tier = 1
    · obtain ⟨vs, heq⟩ := zeroNext_hbm hz ht
      obtain ⟨hzero, hext, hpois⟩ := overwritten_frame { s.mem with zeroing := s.mem.zeroing.erase z } (z.target * regionSize) vs
      rw [heq] at hrun
      refine ⟨_, hrun, ⟨rfl, rfl, rfl⟩, hzero, fun hne => absurd ht hne, fun _ => ⟨hext, fun b hlo hhi hmem => ?_⟩⟩
      have hout := (List.mem_filter.mp (hpois ▸ hmem)).2
      rw [Nat.add_one_mul] at hhi
      simp only [Bool.or_eq_true, decide_eq_true_eq] at hout
      omega
    · obtain ⟨m, heq, hzero, hhbm, hext⟩ := zeroNext_codec hz ht
      rw [heq] at hrun
      exact ⟨_, hrun, ⟨rfl, rfl, rfl⟩, hzero, fun _ => ⟨(hext _).trans (if_pos rfl), hhbm, fun e he => (hext e).trans (if_neg he)⟩, fun h1 => absurd h1 ht⟩
  · show execSlotTableSwap c tb s = _
    exact onLive_of hlive (if_pos ⟨hc, hok⟩)
  · show execSlotTableSwap c tb s = _
    exact onLive_of hlive (if_neg fun h => Bool.false_ne_true (hok.symm.trans h.2))

end Sys2Proof.Proofs
end

section
/-! SUPPORT. What messages and notices leave of the Isthmus state, and the posting of completions (R424 to R431, R435, R576). -/

namespace Sys2Proof.Machine

/-- A number in n bytes. -/
@[simp] theorem length_toBytes (v n : Nat) : (toBytes v n).length = n := by
  induction n generalizing v with
  | zero => rfl
  | succ n ih => exact congrArg Nat.succ (ih _)

/-- The queue after a completion has been written at its tail, counted for interrupts or not (R429). -/
def Que.posted (x : Que) (counted : Bool) : Que :=
  let n := if counted then x.unsignalled + 1 else x.unsignalled
  { x with cplTail := x.cplTail + 1, unsignalled := if counted && (decide (x.c ≤ n) || x.t == 0) then 0 else n }

namespace State

variable {s t u : State} {fn q : Nat}

/-- From s to t the host has been told of something: host memory, interrupt vectors and notice rings have changed, and nothing else. -/
def Told (s t : State) : Prop :=
  t = { s with isth := { s.isth with
    host := t.isth.host, msix := t.isth.msix, rings := t.isth.rings, ntcSeq := t.isth.ntcSeq, ntcLost := t.isth.ntcLost } }

namespace Told

theorem refl (s : State) : Told s s := rfl

theorem trans (h : Told s t) (k : Told t u) : Told s u := by
  have hi := congrArg (fun x : State => { x with isth := { x.isth with
    host := u.isth.host, msix := u.isth.msix, rings := u.isth.rings, ntcSeq := u.isth.ntcSeq, ntcLost := u.isth.ntcLost } }) h
  exact Eq.trans k hi

theorem of (s : State) (h : Mem) (m : AMap Msix) (r : AMap NtcRing) (a b : AMap Nat) :
    Told s { s with isth := { s.isth with host := h, msix := m, rings := r, ntcSeq := a, ntcLost := b } } := rfl

theorem ite {c : Prop} [Decidable c] (ht : Told s t) (hu : Told s u) : Told s (if c then t else u) := by
  split
  · exact ht
  · exact hu

theorem hostWrite {a : Nat} {vs : List Nat} (h : s.hostWrite a vs = some t) : Told s t := by
  rw [(hostWrite_some h).2]
  exact of s _ _ _ _ _

theorem signal {v : Nat} : Told s (s.signal fn v) := by
  unfold State.signal
  dsimp only
  split
  · exact of s _ _ _ _ _
  · cases h : s.hostWrite _ _ with
    | none => exact refl s
    | some t => exact hostWrite h

theorem notice {code body : Nat} : Told s (s.notice fn code body) := by
  have hmiss : ∀ a b, Told s { s with isth := { s.isth with ntcSeq := a, ntcLost := b } } := fun a b => of s _ _ _ a b
  unfold State.notice
  dsimp only
  split
  · exact hmiss _ _
  · split
    · exact hmiss _ _
    · split
      · exact hmiss _ _
      · rename_i h
        have hseq : Told s { s with isth := { s.isth with ntcSeq := s.isth.ntcSeq.set fn ((s.isth.ntcSeq.getD fn 0 + 1) % 2 ^ 32) } } :=
          of s _ _ _ _ _
        exact (hseq.trans (hostWrite h)).trans ((of _ _ _ _ _ _).trans signal)

theorem noticeTenant {tn code body : Nat} : Told s (s.noticeTenant tn code body) := by
  unfold State.noticeTenant
  split
  · exact notice
  · exact refl s

theorem cmds (h : Told s t) : t.isth.cmds = s.isth.cmds := (congrArg (fun x : State => x.isth.cmds) h).trans rfl

theorem works (h : Told s t) : t.isth.works = s.isth.works := (congrArg (fun x : State => x.isth.works) h).trans rfl

theorem queues (h : Told s t) : t.isth.queues = s.isth.queues := (congrArg (fun x : State => x.isth.queues) h).trans rfl

theorem que (h : Told s t) (gn r : Nat) : t.que? gn r = s.que? gn r := congrArg (AMap.get? · (queKey gn r)) h.queues

theorem work (h : Told s t) (w : Nat) : t.work? w = s.work? w := congrArg (AMap.get? · w) h.works

theorem holms (h : Told s t) : t.holms = s.holms := (congrArg State.holms h).trans rfl
theorem mem (h : Told s t) : t.mem = s.mem := (congrArg State.mem h).trans rfl
theorem kv (h : Told s t) : t.kv = s.kv := (congrArg State.kv h).trans rfl
theorem net (h : Told s t) : t.net = s.net := (congrArg State.net h).trans rfl
theorem ten (h : Told s t) : t.ten = s.ten := (congrArg State.ten h).trans rfl
theorem boot (h : Told s t) : t.boot = s.boot := (congrArg State.boot h).trans rfl

end Told

/-! ### A vector's message -/

theorem signal_masked {v : Nat} (h : (s.isth.msix.getD (8 * fn + v) ⟨0, 0, true, false⟩).masked = true) :
    s.signal fn v = { s with isth := { s.isth with
      msix := s.isth.msix.set (8 * fn + v) { s.isth.msix.getD (8 * fn + v) ⟨0, 0, true, false⟩ with pending := true } } } := if_pos h

theorem signal_unmasked {v : Nat} (h : (s.isth.msix.getD (8 * fn + v) ⟨0, 0, true, false⟩).masked = false)
    (hok : s.hostOk (s.isth.msix.getD (8 * fn + v) ⟨0, 0, true, false⟩).addr 4 = true) :
    s.signal fn v = { s with isth := { s.isth with
      host := s.isth.host.write (s.isth.msix.getD (8 * fn + v) ⟨0, 0, true, false⟩).addr
        (toBytes (s.isth.msix.getD (8 * fn + v) ⟨0, 0, true, false⟩).data 4) } } := by
  refine (if_neg (Bool.eq_false_iff.mp h)).trans ?_
  unfold hostWrite
  rw [length_toBytes, if_pos hok]
  rfl

/-! ### Completions -/

/-- The state after a completion has been written, before a message for it (R424). -/
def posted (s : State) (fn q : Nat) (x : Que) (c : Cpl) (counted : Bool) : State :=
  let at_ := x.cplBase + 32 * (x.cplTail % x.size)
  let entry := toBytes (c.bits (phaseBit x.cplTail x.size)) 32
  ({ s with isth := { s.isth with host := s.isth.host.write at_ entry } } : State).setQue fn q (x.posted counted)

theorem posted_told {x : Que} {c : Cpl} {counted : Bool} : Told (s.setQue fn q (x.posted counted)) (s.posted fn q x c counted) := by
  unfold posted
  exact .of (s.setQue fn q (x.posted counted)) _ _ _ _ _

/-- A completion with a free entry in memory that takes it is posted, and perhaps a message sent (R424, R429). -/
theorem postCpl_ok {x : Que} {c : Cpl} {counted : Bool} (hx : s.que? fn q = some x) (hfree : x.free ≠ 0)
    (hok : s.hostOk (x.cplBase + 32 * (x.cplTail % x.size)) 32 = true) :
    ∃ t, s.postCpl fn q c counted = (t, true) ∧ Told (s.setQue fn q (x.posted counted)) t ∧ (counted = false → t = s.posted fn q x c counted) := by
  unfold postCpl
  rw [hx]
  dsimp only
  rw [if_neg hfree]
  unfold hostWrite
  rw [length_toBytes, if_pos hok]
  cases counted with
  | false => exact ⟨s.posted fn q x c false, rfl, posted_told, fun _ => rfl⟩
  | true =>
    refine ⟨_, rfl, ?_, fun hc => nomatch hc⟩
    show Told _ (if _ then (s.posted fn q x c true).signal fn x.vector else s.posted fn q x c true)
    exact posted_told.trans (.ite .signal (.refl _))

/-- A queue in service stays as it is when a command of it has left. -/
theorem queueStopped_serving {x : Que} (hx : s.que? fn q = some x) (hs : x.stopFetch = false) : s.queueStopped fn q = s := by
  unfold queueStopped
  rw [hx]
  exact if_neg (by simp [hs])

/-- A stopping queue without commands is removed (R430). -/
theorem queueStopped_gone {x : Que} (hx : s.que? fn q = some x) (hs : x.stopFetch = true) (hn : s.inProgress fn q = 0) :
    ∃ cmds nextEnd, s.queueStopped fn q = { s with
      isth := { s.isth with queues := s.isth.queues.del (queKey fn q), cmds := cmds, nextEnd := nextEnd }
      pow := { s.pow with eQueue := s.pow.eQueue.del (queKey fn q) } } := by
  unfold queueStopped
  rw [hx]
  dsimp only
  rw [if_pos ⟨hs, hn⟩, endCmds_eq]
  exact ⟨_, _, rfl⟩

/-! ### Fetching -/

theorem mayFetch_iff {x : Que} : s.mayFetch fn q x = true ↔ s.boot.phase = .ready ∧ s.mem.hostLinkUp = true ∧ x.err = false ∧ x.stopFetch = false ∧
    x.head ≠ x.tail ∧ s.inProgress fn q < 256 ∧ s.inProgress fn q + x.reserve < x.free := by
  simp [mayFetch, isReady, and_assoc]

/-- The state after a fetched command has joined those of its queue. -/
def fetched (s : State) (fn q : Nat) (x : Que) (raw : Nat) (objs pages : List (Nat × Nat)) : State := { s with isth := { s.isth with
  queues := s.isth.queues.set (queKey fn q) { x with head := (x.head + 1) % x.size }
  cmds := s.isth.cmds ++ [⟨fn, q, s.isth.nextCmd, raw, .accepted, 0, s.now, objs, pages⟩], nextCmd := s.isth.nextCmd + 1 } }

variable {x : Que} {bs : List Nat}

theorem fetch_accepted (hx : s.que? fn q = some x) (hm : s.mayFetch fn q x = true) (hbs : s.hostRead (x.cmdBase + 128 * x.head) 128 = some bs)
    (hok : acceptCheck fn x.minor (s.boundTo fn).isSome (ofBytes bs) = none) :
    s.fetch_ fn q = s.fetched fn q x (ofBytes bs) (s.namedObjs fn (ofBytes bs)) (s.namedPages fn (ofBytes bs)) := by
  unfold fetch_
  rw [hx]
  dsimp only
  rw [hm, hbs]
  dsimp only
  rw [hok]
  rfl

theorem fetch_failed {st : Status} (hx : s.que? fn q = some x) (hm : s.mayFetch fn q x = true)
    (hbs : s.hostRead (x.cmdBase + 128 * x.head) 128 = some bs) (hbad : acceptCheck fn x.minor (s.boundTo fn).isSome (ofBytes bs) = some st) :
    s.fetch_ fn q = (s.fetched fn q x (ofBytes bs) [] []).endCmd (fn, q, s.isth.nextCmd) st 0 false := by
  unfold fetch_
  rw [hx]
  dsimp only
  rw [hm, hbs]
  dsimp only
  rw [hbad]
  rfl

theorem fetch_unreadable (hx : s.que? fn q = some x) (hm : s.mayFetch fn q x = true) (hbs : s.hostRead (x.cmdBase + 128 * x.head) 128 = none) :
    s.fetch_ fn q = s.queueError fn q .badAddress 1 x.head := by
  unfold fetch_
  rw [hx]
  dsimp only
  rw [hm, hbs]
  rfl

/-- A queue error marks the queue and tells the host; only queue 0 writes the error registers too (R425, R563). -/
theorem queueError_marks {st : Status} {src v : Nat} (hx : s.que? fn q = some x) :
    ∃ regs, Told { s with isth := { s.isth with queues := s.isth.queues.set (queKey fn q) { x with err := true }, regs := regs } } (s.queueError fn q st src v) := by
  unfold queueError
  rw [hx]
  dsimp only
  split
  · exact ⟨s.isth.regs, .notice⟩
  · exact ⟨_, .notice⟩

theorem setQue_work {w : Nat} : (s.setQue fn q x).work? w = s.work? w := rfl

/-! ### Posting the command that ended first -/

/-- The state without a command, whose completion has been posted. -/
def withoutCmd (t : State) (c : Cmd) : State := { t with isth := { t.isth with cmds := t.isth.cmds.filter fun d => d.name != c.name } }

theorem withoutCmd_que (c : Cmd) : (s.withoutCmd c).que? fn q = s.que? fn q := rfl

theorem post_some {c : Cmd} {st : Status} {r n : Nat} {f : Bool} (hx : s.que? fn q = some x) (he : s.firstEnded fn q = some (c, st, r, f, n)) (hfree : x.free ≠ 0)
    (hok : s.hostOk (x.cplBase + 32 * (x.cplTail % x.size)) 32 = true) :
    ∃ t, s.post_ fn q = (t.withoutCmd c).queueStopped fn q ∧
      Told (s.setQue fn q (x.posted (!c.noIntr))) t ∧
      (c.noIntr = true → t = s.posted fn q x ⟨st, false, f, x.head, c.tag, r, c.energy⟩ (!c.noIntr)) := by
  obtain ⟨t, ht, htold, hsame⟩ := postCpl_ok (c := ⟨st, false, f, x.head, c.tag, r, c.energy⟩) (counted := !c.noIntr) hx hfree hok
  refine ⟨t, ?_, htold, fun h => hsame (by rw [h]; rfl)⟩
  unfold post_
  rw [hx, he]
  dsimp only
  rw [if_neg hfree, ht]
  rfl

/-- With no ended command or no free entry nothing is posted. -/
theorem post_nothing (hx : s.que? fn q = some x) (h : s.firstEnded fn q = none ∨ x.free = 0) : s.post_ fn q = s := by
  unfold post_
  rw [hx]
  cases he : s.firstEnded fn q with
  | none => rfl
  | some e => exact if_pos (h.resolve_left fun hn => nomatch he.symm.trans hn)

/-- A completion counted for interrupts leaves none unsignalled where the threshold is reached or there is no timer (R429). -/
theorem posted_counted : x.posted true = { x with
    cplTail := x.cplTail + 1, unsignalled := if x.c ≤ x.unsignalled + 1 ∨ x.t = 0 then 0 else x.unsignalled + 1 } := by
  unfold Que.posted
  simp

/-- A completion that is not counted only moves the tail of its queue (R429). -/
theorem posted_silent {c : Cpl} : s.posted fn q x c false = { s with isth := { s.isth with
    host := s.isth.host.write (x.cplBase + 32 * (x.cplTail % x.size)) (toBytes (c.bits (phaseBit x.cplTail x.size)) 32)
    queues := s.isth.queues.set (queKey fn q) { x with cplTail := x.cplTail + 1 } } } := by
  dsimp only [posted, Que.posted, setQue, Bool.false_and]
  rfl

section post

variable {c : Cmd} {st : Status} {r n : Nat} {f : Bool} (hx : s.que? fn q = some x) (he : s.firstEnded fn q = some (c, st, r, f, n)) (hfree : x.free ≠ 0)
  (hok : s.hostOk (x.cplBase + 32 * (x.cplTail % x.size)) 32 = true)

include hx he hfree hok

/-- Posting a completion without an interrupt writes it and takes the command away, where the queue stays in service. -/
theorem post_silent (hno : c.noIntr = true) (hs : x.stopFetch = false) : s.post_ fn q = { s with isth := { s.isth with
    host := s.isth.host.write (x.cplBase + 32 * (x.cplTail % x.size))
      (toBytes (Cpl.bits ⟨st, false, f, x.head, c.tag, r, c.energy⟩ (phaseBit x.cplTail x.size)) 32)
    queues := s.isth.queues.set (queKey fn q) { x with cplTail := x.cplTail + 1 }, cmds := s.isth.cmds.filter fun d => d.name != c.name } } := by
  obtain ⟨t, ht, htold, hsame⟩ := post_some hx he hfree hok
  have hque := (withoutCmd_que c).trans ((htold.que fn q).trans (AMap.get?_set_self ..))
  have ht' := hsame hno
  rw [hno, Bool.not_true, posted_silent] at ht'
  rw [ht, queueStopped_serving hque hs, ht']
  dsimp only [withoutCmd]

/-- Posting a counted completion takes the command away, where the queue stays in service. -/
theorem post_told (hno : c.noIntr = false) (hs : x.stopFetch = false) : ∃ t, s.post_ fn q = t ∧
    t.isth.cmds = (s.isth.cmds.filter fun d => d.name != c.name) ∧ t.que? fn q = some (x.posted true) ∧
    t.holms = s.holms ∧ t.mem = s.mem ∧ t.kv = s.kv ∧ t.net = s.net ∧ t.ten = s.ten ∧ t.boot = s.boot := by
  obtain ⟨t, ht, htold, -⟩ := post_some hx he hfree hok
  rw [hno] at htold
  have hque := (withoutCmd_que c).trans ((htold.que fn q).trans (AMap.get?_set_self ..))
  rw [queueStopped_serving hque hs] at ht
  exact ⟨_, ht, congrArg (List.filter _) htold.cmds, hque, htold.holms, htold.mem, htold.kv, htold.net, htold.ten, htold.boot⟩

/-- Posting the last completion of a stopping queue removes it (R430). -/
theorem post_last (hs : x.stopFetch = true) (honly : ∀ d ∈ s.isth.cmds, d.fn = fn → d.q = q → d.name = c.name) : ∃ t, s.post_ fn q = t ∧
    t.que? fn q = none ∧ t.holms = s.holms ∧ t.mem = s.mem ∧ t.net = s.net := by
  obtain ⟨t, ht, htold, -⟩ := post_some hx he hfree hok
  have hque := (withoutCmd_que c).trans ((htold.que fn q).trans (AMap.get?_set_self ..))
  have hempty : (t.withoutCmd c).inProgress fn q = 0 := by
    unfold inProgress withoutCmd
    rw [List.length_eq_zero_iff, List.filter_filter, List.filter_eq_nil_iff, htold.cmds]
    intro d hd hbad
    simp only [Bool.and_eq_true, beq_iff_eq, bne_iff_ne] at hbad
    exact hbad.2 (honly d hd hbad.1.1 hbad.1.2)
  obtain ⟨cmds, nextEnd, hgone⟩ := queueStopped_gone hque hs hempty
  rw [hgone] at ht
  exact ⟨_, ht, (AMap.get?_del ..).trans (if_pos rfl), htold.holms, htold.mem, htold.net⟩

end post

end State

end Sys2Proof.Machine

namespace Sys2Proof.Proofs

open Sys2Proof.Machine Sys2Proof.Machine.State

/-- Settles O42: a fetch, a post and the timer by the queue they find; what a message to the host changes is apart from the rest. -/
theorem fetchAndPost : Obligations.FetchAndPost := by
  unfold Obligations.FetchAndPost
  intro s fn q
  refine ⟨fun hx => ⟨?_, ?_, ?_⟩, fun x hx => ?_, fun w hw => ?_, fun w x hw hheld => ?_, fun w x c rest y hw hheld hy herr hroom hok => ?_⟩
  · show execCommandFetch fn q s = _
    refine congrArg Host.Outcome.next ?_
    unfold fetch_
    rw [hx]
  · show execCommandCompletionPost fn q s = _
    refine congrArg Host.Outcome.next ?_
    unfold post_
    rw [hx]
    exact ite_self s
  · show execInterruptCoalesceTimer fn q s = _
    refine congrArg Host.Outcome.next ?_
    rw [hx]
  · intro free may taken
    have hmay : s.mayFetch fn q x = true ↔ may := mayFetch_iff
    refine ⟨fun hno => ?_, fun bs hm hbs => ⟨fun hok => ?_, fun st hbad => ?_⟩, fun hm hbs => ?_, fun hnone => ?_,
      fun c st r f n he hphase hlink hfree => ?_, ?_⟩
    · show execCommandFetch fn q s = _
      refine congrArg Host.Outcome.next ?_
      unfold fetch_
      rw [hx]
      exact if_pos (by simpa using fun h => hno (hmay.mp h))
    · exact congrArg Host.Outcome.next (fetch_accepted hx (hmay.mpr hm) hbs hok)
    · exact congrArg Host.Outcome.next (fetch_failed hx (hmay.mpr hm) hbs hbad)
    · have hrun : exec (.commandFetch fn q) s = .next (s.queueError fn q .badAddress 1 x.head) :=
        congrArg Host.Outcome.next (fetch_unreadable hx (hmay.mpr hm) hbs)
      obtain ⟨regs, ht⟩ := queueError_marks (st := .badAddress) (src := 1) (v := x.head) hx
      exact ⟨_, hrun, (ht.que fn q).trans (AMap.get?_set_self ..), ht.cmds, ht.holms, ht.mem, ht.kv, ht.net⟩
    · show execCommandCompletionPost fn q s = _
      refine congrArg Host.Outcome.next ?_
      rw [post_nothing hx hnone]
      exact ite_self s
    · intro at_ entry rest hok
      have hpost : exec (.commandCompletionPost fn q) s = .next (s.post_ fn q) :=
        congrArg Host.Outcome.next (if_pos ⟨by simp [isReady, hphase], hlink⟩)
      refine ⟨fun hno hs => ?_, fun hno hs => ?_, fun hs honly => ?_⟩
      · exact hpost.trans (congrArg Host.Outcome.next (post_silent hx he hfree hok hno hs))
      · obtain ⟨t, ht, hcmds, hque, hrest⟩ := post_told hx he hfree hok hno hs
        exact ⟨t, hpost.trans (congrArg Host.Outcome.next ht), hcmds, hque.trans (congrArg some posted_counted), hrest⟩
      · obtain ⟨t, ht, hrest⟩ := post_last hx he hfree hok hs honly
        exact ⟨t, hpost.trans (congrArg Host.Outcome.next ht), hrest⟩
    · intro m told
      refine ⟨fun h0 => ?_, fun hn hm => ?_, fun hn hm hok => ?_⟩
      · refine congrArg Host.Outcome.next ?_
        rw [hx]
        exact if_pos h0
      · refine congrArg Host.Outcome.next ?_
        rw [hx]
        exact (if_neg hn).trans (signal_masked (s := s.setQue fn q { x with unsignalled := 0 }) hm)
      · refine congrArg Host.Outcome.next ?_
        rw [hx]
        exact (if_neg hn).trans (signal_unmasked (s := s.setQue fn q { x with unsignalled := 0 }) hm hok)
  · refine congrArg Host.Outcome.next ?_
    rw [hw]
  · refine congrArg Host.Outcome.next ?_
    rw [hw]
    dsimp only
    rw [hheld]
  · have hroom' : s.tideRoom x.fn x.q = true := by
      unfold tideRoom
      rw [hy]
      simp only [herr, Bool.not_false, Bool.true_and]
      exact decide_eq_true hroom
    have hfree : y.free ≠ 0 := Nat.ne_of_gt (Nat.lt_of_le_of_lt (Nat.zero_le _) hroom)
    obtain ⟨t, ht, htold, -⟩ := postCpl_ok (c := tideEntry c x.tag) (counted := true) hy hfree hok
    have hrun : exec (.heldCompletionPost w) s = .next (t.modWork w fun y => { y with held := rest }) := by
      refine congrArg Host.Outcome.next ?_
      rw [hw]
      dsimp only
      rw [hheld]
      dsimp only
      rw [if_pos hroom', ht]
    refine ⟨_, hrun, ?_, ?_, htold.cmds, htold.holms, htold.mem, htold.kv⟩
    · rw [work_modWork, htold.work]
      rw [if_pos rfl, setQue_work, hw]
      rfl
    · show (t.que? x.fn x.q).map _ = _
      rw [htold.que, que_setQue, if_pos rfl]
      rfl

end Sys2Proof.Proofs
end

section
/-! SUPPORT. How a command of the isthmus starts and what it answers (R426, R434, R440). -/

namespace Sys2Proof.Machine

namespace State

variable {s t : State} {code fn q r : Nat} {c : Cmd} {st : Status}

/-- Without a command of its code that may start, nothing happens (R426). -/
theorem runCmd_waits {f : State → Cmd → CmdEff} (h : ∀ c, ¬ s.starts code fn q c) : runCmd code fn q s f = .next s := by
  refine congrArg Host.Outcome.next ?_
  split
  · rfl
  · rename_i c hc
    refine if_pos ?_
    by_contra hno
    simp only [not_or, not_not, Bool.not_eq_true, Bool.not_eq_false'] at hno
    exact h c ⟨hc, hno.1, hno.2.1, hno.2.2⟩

theorem runCmd_starts {f : State → Cmd → CmdEff} (h : s.starts code fn q c) : runCmd code fn q s f = .next (match f (s.begun c) c with
    | (u, some (st, r)) => u.endCmd c.name st r false
    | (u, none) => u) := by
  obtain ⟨hw, hop, hready, hmay⟩ := h
  unfold runCmd
  rw [hw]
  dsimp only
  rw [if_neg (by simp [hop, hready, hmay])]
  rfl

/-- A command that ends as it starts. -/
theorem runCmd_ends {f : State → Cmd → CmdEff} (h : s.starts code fn q c) (hf : f (s.begun c) c = (t, some (st, r))) :
    runCmd code fn q s f = .next (t.endCmd c.name st r false) := by
  rw [runCmd_starts h, hf]

/-- A command that goes on after it has started. -/
theorem runCmd_goesOn {f : State → Cmd → CmdEff} (h : s.starts code fn q c) (hf : f (s.begun c) c = (t, none)) :
    runCmd code fn q s f = .next t := by
  rw [runCmd_starts h, hf]

/-- A tenant's command on a function without a tenant (R440). -/
theorem runVf_unbound {f : State → Cmd → Nat → CmdEff} (h : s.starts code fn q c) (hb : s.boundTo fn = none) :
    runVf code fn q s f = .next ((s.begun c).endCmd c.name .noPermission 0 false) :=
  runCmd_ends h (by rw [show (s.begun c).boundTo fn = none from hb])

theorem runVf_ends {tn : Nat} {f : State → Cmd → Nat → CmdEff} (h : s.starts code fn q c) (hb : s.boundTo fn = some tn)
    (hf : f (s.begun c) c tn = (t, some (st, r))) : runVf code fn q s f = .next (t.endCmd c.name st r false) :=
  runCmd_ends h (by rw [show (s.begun c).boundTo fn = some tn from hb]; exact hf)

theorem runVf_goesOn {tn : Nat} {f : State → Cmd → Nat → CmdEff} (h : s.starts code fn q c) (hb : s.boundTo fn = some tn)
    (hf : f (s.begun c) c tn = (t, none)) : runVf code fn q s f = .next t :=
  runCmd_goesOn h (by rw [show (s.begun c).boundTo fn = some tn from hb]; exact hf)

/-- What every tenant's command does before it starts, and on a function without a tenant. -/
theorem runVf_waits {f : State → Cmd → Nat → CmdEff} :
    ((∀ c, ¬ s.starts code fn q c) → runVf code fn q s f = .next s) ∧
    ∀ c, s.starts code fn q c → s.boundTo fn = none → runVf code fn q s f = .next ((s.begun c).endCmd c.name .noPermission 0 false) :=
  ⟨runCmd_waits, fun _ h hb => runVf_unbound h hb⟩

end State

end Sys2Proof.Machine

namespace Sys2Proof.Proofs

open Sys2Proof.Machine Sys2Proof.Machine.State

/-- Settles O43: every row is a command of its code, and waits as one. -/
theorem commandsWait : Obligations.CommandsWait := by
  unfold Obligations.CommandsWait
  intro s fn q b v adm
  dsimp only [exec]
  exact ⟨runCmd_waits, runCmd_waits, runCmd_waits, runCmd_waits, runCmd_waits, runVf_waits, runVf_waits, runCmd_waits, runVf_waits,
    runVf_waits, runVf_waits, runVf_waits, runVf_waits, runVf_waits, runVf_waits, runVf_waits, runVf_waits, runVf_waits, runVf_waits,
    runVf_waits, runVf_waits, runVf_waits, runVf_waits, runVf_waits, runVf_waits, runVf_waits, runVf_waits, runVf_waits, runVf_waits,
    runVf_waits, runVf_waits, runVf_waits, runVf_waits, runCmd_waits, runCmd_waits, runVf_waits, runVf_waits, runVf_waits, runCmd_waits,
    runCmd_waits, runCmd_waits, runCmd_waits, runCmd_waits, runCmd_waits, runCmd_waits, runCmd_waits, runCmd_waits⟩

end Sys2Proof.Proofs
end

section
/-! SUPPORT. Commands of family 0x01 (R423, R425, R430, R431, R437, R569). -/

namespace Sys2Proof.Machine

namespace State

variable {s t : State} {fn q k : Nat} {c : Cmd}

theorem hostForm_iff {a : Nat} : hostForm a 4096 = true ↔ bitAt a 63 = true ∧ a % 4096 = 0 := by
  unfold hostForm
  rw [Bool.and_eq_true, beq_iff_eq]

/-- That a command has started does not change how many are in progress. -/
theorem inProgress_begun : (s.begun c).inProgress fn q = s.inProgress fn q := by
  unfold inProgress begun
  dsimp only
  rw [List.filter_map, List.length_map]
  refine congrArg List.length (List.filter_congr fun d _ => ?_)
  dsimp only [Function.comp_apply]
  split <;> rfl

/-- The command that may start is one of the queue's. -/
theorem starts_mem {code : Nat} (h : s.starts code fn q c) : c ∈ s.isth.cmds ∧ c.fn = fn ∧ c.q = q ∧ c.opc = code := by
  obtain ⟨hw, hop, -, -⟩ := h
  obtain ⟨hmem, hon⟩ := List.mem_filter.mp (List.mem_of_find?_eq_some hw)
  rw [Bool.and_eq_true, beq_iff_eq, beq_iff_eq] at hon
  exact ⟨hmem, hon.1, hon.2, hop⟩

/-! ### Ended commands -/

/-- Every command of a name has ended with DONE and result 0. -/
def endedDone (s : State) (id : CmdId) : Prop := ∀ d ∈ s.isth.cmds, d.name = id → ∃ n, d.st = .ended .done 0 false n

theorem endedDone_endCmd (id : CmdId) : (s.endCmd id .done 0 false).endedDone id := by
  intro d hd hname
  obtain ⟨e, -, rfl⟩ := List.mem_map.mp hd
  split at hname
  · rename_i h
    rw [if_pos h]
    exact ⟨_, rfl⟩
  · rename_i h
    refine absurd ?_ h
    rw [← hname]
    simp [Cmd.name]

theorem endedDone_keeps {id : CmdId} (h : s.endedDone id) (i : CmdId) : (s.endCmd i .done 0 false).endedDone id := by
  intro d hd hname
  obtain ⟨e, he, rfl⟩ := List.mem_map.mp hd
  split
  · exact ⟨_, rfl⟩
  · rename_i hne
    rw [if_neg hne] at hname
    exact h e he hname

theorem endedDone_endCmds {ids : List CmdId} {id : CmdId} (h : id ∈ ids) : (s.endCmds ids .done 0).endedDone id := by
  unfold endCmds
  induction ids generalizing s with
  | nil => cases h
  | cons i ids ih =>
    rw [List.foldl_cons]
    rcases List.mem_cons.mp h with rfl | h
    · exact foldl_keeps (P := fun t : State => t.endedDone id) (fun t i ht => endedDone_keeps ht i) (endedDone_endCmd id)
    · exact ih h

/-- A deletion of a queue without commands in progress removes it, and is done itself (R430). -/
theorem stopQueue_deleted {x : Que} {d : Cmd} (hq : s.que? fn k = some x) (hn : s.inProgress fn k = 0) (hd : d ∈ s.isth.cmds)
    (hdel : Cmd.deletes d fn k = true) : (s.stopQueue fn k).que? fn k = none ∧ (s.stopQueue fn k).endedDone d.name ∧
      (s.stopQueue fn k).holms = s.holms ∧ (s.stopQueue fn k).mem = s.mem ∧ (s.stopQueue fn k).net = s.net ∧ (s.stopQueue fn k).kv = s.kv := by
  obtain ⟨cmds, nextEnd, heq⟩ := stopQueue_idle hq hn
  refine ⟨?_, ?_, ?_⟩
  · rw [heq]
    exact (AMap.get?_del ..).trans (if_pos rfl)
  · have hn' : (s.setQue fn k { x with stopFetch := true }).inProgress fn k = 0 := hn
    simp only [stopQueue, hq, queueStopped, que_setQue, hn', if_true, and_self]
    exact endedDone_endCmds (List.mem_map.mpr ⟨d, List.mem_filter.mpr ⟨hd, hdel⟩, rfl⟩)
  · rw [heq]
    exact ⟨rfl, rfl, rfl, rfl⟩

theorem deleteQueue_stops {x : Que} (h1 : 1 ≤ c.arg 32 1) (h7 : c.arg 32 1 ≤ 7) (hne : c.arg 32 1 ≠ c.q) (hx : s.que? fn (c.arg 32 1) = some x)
    (hs : x.stopFetch = false) (hp : s.planOn fn (c.arg 32 1) = false) : s.deleteQueue fn c = (s.stopQueue fn (c.arg 32 1), none) := by
  refine (if_neg (by omega)).trans ?_
  rw [hx]
  exact if_neg (by simp [hs, hp])

/-! ### QUEUE_CREATE -/

section create

variable (haddr : (bitAt (c.arg 40 8) 63 = true ∧ c.arg 40 8 % 4096 = 0 ∧ s.argMapped none (c.arg 40 8) = true) ∧
  bitAt (c.arg 48 8) 63 = true ∧ c.arg 48 8 % 4096 = 0 ∧ s.argMapped none (c.arg 48 8) = true)

theorem createQueue_badAddress (h : ¬((bitAt (c.arg 40 8) 63 = true ∧ c.arg 40 8 % 4096 = 0 ∧ s.argMapped none (c.arg 40 8) = true) ∧
    bitAt (c.arg 48 8) 63 = true ∧ c.arg 48 8 % 4096 = 0 ∧ s.argMapped none (c.arg 48 8) = true)) : s.createQueue fn c = s.fails .badAddress := by
  refine if_pos ?_
  by_contra hno
  simp only [Bool.or_eq_true, Bool.not_eq_true', not_or, Bool.not_eq_false, hostForm_iff] at hno
  exact h ⟨⟨hno.1.1.1.1, hno.1.1.1.2, hno.1.2⟩, hno.1.1.2.1, hno.1.1.2.2, hno.2⟩

include haddr

theorem createQueue_addr : ¬((!hostForm (c.arg 40 8) 4096 || !hostForm (c.arg 48 8) 4096 || !s.argMapped none (c.arg 40 8) ||
    !s.argMapped none (c.arg 48 8)) = true) := by
  obtain ⟨⟨h1, h2, h3⟩, h4, h5, h6⟩ := haddr
  rw [hostForm_iff.mpr ⟨h1, h2⟩, hostForm_iff.mpr ⟨h4, h5⟩, h3, h6]
  exact Bool.false_ne_true

theorem createQueue_badCommand (h : ¬(1 ≤ c.arg 32 1 ∧ c.arg 32 1 ≤ 7 ∧ c.arg 33 1 ≤ 7 ∧ c.arg 36 2 ≤ 1023 ∧ 6 ≤ c.arg 38 1 ∧ c.arg 38 1 ≤ 16)) :
    s.createQueue fn c = s.fails .badCommand :=
  (if_neg (createQueue_addr haddr)).trans (if_pos (by omega))

variable (hfields : 1 ≤ c.arg 32 1 ∧ c.arg 32 1 ≤ 7 ∧ c.arg 33 1 ≤ 7 ∧ c.arg 36 2 ≤ 1023 ∧ 6 ≤ c.arg 38 1 ∧ c.arg 38 1 ≤ 16)

include hfields

theorem createQueue_version (h : ¬(s.minors.1 ≤ c.arg 39 1 ∧ c.arg 39 1 ≤ s.minors.2)) : s.createQueue fn c = s.fails .version :=
  (if_neg (createQueue_addr haddr)).trans ((if_neg (by omega)).trans (if_pos (by omega)))

theorem createQueue_named (h : s.minors.1 ≤ c.arg 39 1 ∧ c.arg 39 1 ≤ s.minors.2) : s.createQueue fn c =
    match s.que? fn (c.arg 32 1) with
    | none => ({ s.setQue fn (c.arg 32 1) (Que.armed (c.arg 40 8) (c.arg 48 8) (c.arg 38 1) (c.arg 39 1) (c.arg 33 1) (c.arg 34 1 + 1) (c.arg 36 2)) with
        pow := { s.pow with eQueue := s.pow.eQueue.del (queKey fn (c.arg 32 1)) } }, some (.done, 0))
    | some x =>
      if !x.err || x.stopFetch then s.fails .limit
      else if c.arg 39 1 < 4 ∧ s.planNeedsNew fn (c.arg 32 1) then s.fails .version
      else (s.setQue fn (c.arg 32 1) (Que.armed (c.arg 40 8) (c.arg 48 8) (c.arg 38 1) (c.arg 39 1) (c.arg 33 1) (c.arg 34 1 + 1) (c.arg 36 2))).ends 0 :=
  (if_neg (createQueue_addr haddr)).trans ((if_neg (by omega)).trans ((if_neg (by omega)).trans rfl))

end create

theorem noticeRing_addr {a : Nat} (h : bitAt a 63 = true ∧ a % 4096 = 0 ∧ s.argMapped none a = true) :
    ¬((!hostForm a 4096 || !s.argMapped none a) = true) := by
  obtain ⟨h1, h2, h3⟩ := h
  rw [hostForm_iff.mpr ⟨h1, h2⟩, h3]
  exact Bool.false_ne_true

end State

end Sys2Proof.Machine

namespace Sys2Proof.Proofs

open Sys2Proof.Machine Sys2Proof.Machine.State

/-- Settles O44: each command by the first check that it fails. -/
theorem queueCommands : Obligations.QueueCommands := by
  unfold Obligations.QueueCommands
  intro s fn q c b ends hosted
  refine ⟨fun h => ?_, fun h => ⟨fun hmap => ?_, fun t hmap hw => ?_⟩, fun h => ?_, fun h => ?_, fun h => ⟨fun ha => ?_, fun ha hf => ?_, fun ha h6 h12 h7 => ?_⟩⟩
  · show execIciVersion fn q s = _
    exact runCmd_ends h rfl
  · show execQueryCaps fn q s = _
    exact runCmd_ends h (if_neg (Bool.eq_false_iff.mp hmap))
  · show execQueryCaps fn q s = _
    refine runCmd_ends h ((if_pos hmap).trans ?_)
    unfold putResult
    rw [show b.argWrite (b.boundTo fn) (c.arg 32 8) (b.capBytes fn) = .ok t from hw]
  · intro k addrs fields minor new
    have hrun : ∀ {t : State} {st : Status} {r : Nat}, b.createQueue fn c = (t, some (st, r)) → ends (.queueCreate fn q) t st r :=
      fun hr => by
        show execQueueCreate fn q s = _
        exact runCmd_ends h hr
    refine ⟨fun ha => hrun (createQueue_badAddress (s := b) ha), fun ha hf => hrun (createQueue_badCommand (s := b) ha hf),
      fun ha hf hm => hrun (createQueue_version (s := b) ha hf hm), fun ha hf hm hnew => ?_, fun x ha hf hm hx => ⟨fun hs => ?_, fun he hs hlow hneed => ?_,
      fun he hs hok => ?_⟩⟩
    · refine hrun ((createQueue_named (s := b) ha hf hm).trans ?_)
      rw [show b.que? fn (c.arg 32 1) = none from hnew] <;> rfl
    · refine hrun ((createQueue_named (s := b) ha hf hm).trans ?_)
      rw [show b.que? fn (c.arg 32 1) = some x from hx]
      exact if_pos (by simpa using hs)
    · refine hrun ((createQueue_named (s := b) ha hf hm).trans ?_)
      rw [show b.que? fn (c.arg 32 1) = some x from hx]
      exact (if_neg (by simp [he, hs])).trans (if_pos ⟨hlow, hneed⟩)
    · refine hrun ((createQueue_named (s := b) ha hf hm).trans ?_)
      rw [show b.que? fn (c.arg 32 1) = some x from hx]
      refine (if_neg (by simp [he, hs])).trans (if_neg ?_)
      rintro ⟨hlow, hneed⟩
      exact hok.elim (fun h4 => Nat.not_lt.mpr h4 hlow) fun hn => Bool.false_ne_true (hn.symm.trans hneed)
  · intro k
    obtain ⟨hmem, hfn, hq, hop⟩ := starts_mem h
    refine ⟨fun hbad => ?_, fun h1 h7 hne hnone => ?_, fun x h1 h7 hne hx => ⟨fun hs => ?_, fun hs hp hn => ?_, fun hs hp hn => ?_⟩⟩
    · show execQueueDelete fn q s = _
      exact runCmd_ends h (if_pos hbad)
    · show execQueueDelete fn q s = _
      refine runCmd_ends h ((if_neg (by omega)).trans ?_)
      rw [show b.que? fn (c.arg 32 1) = none from hnone] <;> rfl
    · show execQueueDelete fn q s = _
      refine runCmd_ends h ((if_neg (by omega)).trans ?_)
      rw [show b.que? fn (c.arg 32 1) = some x from hx]
      exact if_pos hs
    · show execQueueDelete fn q s = _
      refine (runCmd_goesOn h (deleteQueue_stops (s := b) h1 h7 hne hx hs hp)).trans (congrArg Host.Outcome.next ?_)
      exact stopQueue_busy hx (inProgress_begun.trans_ne hn)
    · have hrun : exec (.queueDelete fn q) s = .next (b.stopQueue fn k) := by
        show execQueueDelete fn q s = _
        exact runCmd_goesOn h (deleteQueue_stops (s := b) h1 h7 hne hx hs hp)
      have hd : { c with st := .running } ∈ b.isth.cmds := List.mem_map.mpr ⟨c, hmem, if_pos rfl⟩
      have hdel : Cmd.deletes { c with st := .running } fn k = true := by
        have hcode : fld c.raw 0 16 = 0x0104 := hop
        have hk : fld c.raw 256 8 = k := rfl
        simp [Cmd.deletes, hfn, hcode, hk]
      exact ⟨_, hrun, stopQueue_deleted (d := { c with st := .running }) hx (inProgress_begun.trans hn) hd hdel⟩
  · show execNoticeRingSet fn q s = _
    refine runCmd_ends h (if_pos ?_)
    by_contra hno
    simp only [Bool.or_eq_true, Bool.not_eq_true', not_or, Bool.not_eq_false, hostForm_iff] at hno
    exact ha ⟨hno.1.1, hno.1.2, hno.2⟩
  · show execNoticeRingSet fn q s = _
    exact runCmd_ends h ((if_neg (noticeRing_addr ha)).trans (if_pos hf))
  · show execNoticeRingSet fn q s = _
    exact runCmd_ends h ((if_neg (noticeRing_addr ha)).trans ((if_neg (by omega)).trans rfl))

end Sys2Proof.Proofs
end

section
/-! SUPPORT. A state in which REGION_FREE leaves a page mapped (R460). -/

namespace Sys2Proof.Machine.State

/-- REGION_FREE of pages 0 and 1 by the tenant of VF 1. -/
def freeTwo : Cmd :=
  { fn := 1, q := 1, id := 0, raw := 0x0202 + 2 ^ 145 * 2 ^ 144, st := .accepted, energy := 0, since := 0, objs := [], pages := [] }

/-- A tenant whose table lists page 1 twice: as a second mapping of page 0, and behind it as a locked page of its own. -/
def pageTwice : Tenant :=
  ⟨1, ⟨0, 0, 0, 0, 0, 0⟩, [(0, ⟨1, true, false, none, false, 0⟩), (1, ⟨1, true, false, some 0, false, 0⟩), (1, ⟨1, true, true, none, false, 1⟩)], 0⟩

/-- A module without holms, whose one tenant has that table and whose one command is that release. -/
def twiceMapped : State :=
  { State.reset with
    holms := [], remap := [], ten := { State.reset.ten with tenants := [(1, pageTwice)] }, isth := { State.reset.isth with cmds := [freeTwo] } }

theorem twiceMapped_starts : twiceMapped.starts 0x0202 1 1 freeTwo := by
  refine ⟨?_, ?_, ?_, ?_⟩
  · decide
  · decide
  · decide
  · decide

/-- The release succeeds, and page 1 is still mapped after it. -/
theorem twiceMapped_keeps : (((twiceMapped.begun freeTwo).commitEffect 1 (.free 2 0) 0).toOption.bind fun r =>
    (r.2.tenant? 1).bind fun x => x.table.get? 1).isSome = true := by
  decide

end Sys2Proof.Machine.State

namespace Sys2Proof.Proofs

open Sys2Proof.Machine Sys2Proof.Machine.State

/-- Refutes O45: a release first checks every page and then frees them one by one. Where a table lists page 1 twice, freeing page 0 takes the entry that
was checked, its second mapping, and uncovers a locked one, which stays mapped. (The tables the model itself builds list no page twice.) -/
theorem not_regionCommands : ¬ Obligations.RegionCommands := by
  unfold Obligations.RegionCommands
  intro h
  obtain ⟨-, hfree, -⟩ := h twiceMapped 1 1 freeTwo 1 (by decide)
  obtain ⟨-, -, hok⟩ := hfree twiceMapped_starts
  obtain ⟨-, hpost⟩ := hok (by decide) (by decide)
  have hkeeps := twiceMapped_keeps
  cases hrun : (twiceMapped.begun freeTwo).commitEffect 1 (.free 2 0) 0 with
  | error e =>
    rw [hrun] at hkeeps
    cases hkeeps
  | ok v =>
    obtain ⟨r, u⟩ := v
    obtain ⟨-, x, hx, hnone⟩ := hpost r u hrun
    rw [hrun] at hkeeps
    have hpage : (((u.tenant? 1).bind fun x => x.table.get? 1)).isSome = true := hkeeps
    rw [hx, Option.bind_some, show x.table.get? 1 = none from hnone 1 (by decide)] at hpage
    cases hpage

end Sys2Proof.Proofs
end

section
/-! SUPPORT. Sequences keep what they are while their lists and pages change (R241 to R246), and family 0x04 (R238 to R264, R439). -/

namespace Sys2Proof.Machine

/-- A lookup in a map whose entries have been changed under their keys. -/
theorem AMap.get?_mapEntries {α β : Type} {g : Nat × α → Nat × β} (hg : ∀ x, (g x).1 = x.1) (m : AMap α) (k : Nat) :
    AMap.get? (m.map g) k = (m.get? k).map fun v => (g (k, v)).2 := by
  rw [← AMap.get?_mapVals (f := fun i v => (g (i, v)).2)]
  exact congrArg (AMap.get? · k) (List.map_congr_left fun x _ => Prod.ext (hg x) rfl)

/-- The same sequence: its inline list, its leaf count and its mark may differ. -/
def Desc.Same (d e : Desc) : Prop := e = { d with inl := e.inl, leaves := e.leaves, taint := e.taint }

theorem Desc.Same.refl (d : Desc) : d.Same d := rfl

theorem Desc.Same.trans {d e f : Desc} (h : d.Same e) (g : e.Same f) : d.Same f := by
  unfold Desc.Same at h g ⊢
  rw [g, h]

namespace KvState

/-- Every sequence stays what it is. -/
def Keeps (k l : KvState) : Prop := ∀ i d, k.descs.get? i = some d → ∃ e, l.descs.get? i = some e ∧ d.Same e

variable {k l m : KvState}

theorem Keeps.refl (k : KvState) : k.Keeps k := fun _ d h => ⟨d, h, .refl d⟩

theorem Keeps.of (h : l.descs = k.descs) : k.Keeps l := fun _ d hd => ⟨d, h ▸ hd, .refl d⟩

theorem Keeps.trans (h : k.Keeps l) (g : l.Keeps m) : k.Keeps m := by
  intro i d hd
  obtain ⟨e, he, hde⟩ := h i d hd
  obtain ⟨f, hf, hef⟩ := g i e he
  exact ⟨f, hf, hde.trans hef⟩

theorem Keeps.modify {f : Desc → Desc} (hf : ∀ d : Desc, d.Same (f d)) (i : Nat) : k.Keeps { k with descs := k.descs.modify i f } := by
  intro j d hd
  dsimp only
  rw [AMap.get?_modify, hd]
  split
  · exact ⟨f d, rfl, hf d⟩
  · exact ⟨d, rfl, .refl d⟩

/-- A tenant's own write may mark a sequence, and does no more (R247). -/
theorem noteWrite_keeps (t : Tenant) (tid a n : Nat) : k.Keeps (k.noteWrite t tid a n) := by
  intro i d hd
  refine ⟨_, (AMap.get?_mapEntries ?_ _ i).trans (congrArg _ hd), ?_⟩
  · rintro ⟨j, e⟩
    dsimp only
    split
    · split <;> rfl
    · rfl
  · dsimp only
    split
    · split <;> rfl
    · rfl

end KvState

/-- The sequence that a handle names is the one under its index. -/
theorem KvState.validDesc_get {kv : KvState} {t h k : Nat} {d : Desc} (hd : kv.validDesc t h = some (k, d)) : kv.descs.get? k = some d ∧ d.tenant = t := by
  unfold KvState.validDesc at hd
  dsimp only at hd
  split at hd
  · rename_i e he
    split at hd
    · rename_i hok
      cases hd
      exact ⟨he, hok.1⟩
    · cases hd
  · cases hd

theorem State.kvCtx_of {s : State} {t : Nat} {c : KvCtx} (h : s.kvCtx t = some c) : c.tid = t ∧ c.kv = s.kv ∧ c.mem = s.mem := by
  obtain ⟨x, -, rfl⟩ := Option.map_eq_some_iff.mp h
  exact ⟨rfl, rfl, rfl⟩

namespace KvCtx

variable {c c' : KvCtx}

theorem write_kv {a : Nat} {vs : List Nat} (h : c.write a vs = .ok c') : c'.kv = c.kv := by
  unfold write at h
  split at h
  · cases h
  · cases h
    rfl

theorem write_keeps {a : Nat} {vs : List Nat} (h : c.write a vs = .ok c') : c.kv.Keeps c'.kv := .of (by rw [write_kv h])

/-- What every step of a fold keeps, the fold keeps. -/
theorem foldE_keeps {α : Type} {f : KvCtx → α → Except Status KvCtx} (hf : ∀ x y c c', f c x = .ok c' → y = c.kv → c'.kv = y) {l : List α}
    (h : foldE f c l = .ok c') : c'.kv = c.kv := by
  induction l generalizing c with
  | nil =>
    cases h
    rfl
  | cons x l ih =>
    unfold foldE at h
    split at h
    · cases h
    · rename_i d hd
      exact (ih h).trans (hf x _ c d hd rfl)

theorem modDesc_keeps {f : Desc → Desc} (hf : ∀ d : Desc, d.Same (f d)) (i : Nat) : c.kv.Keeps (c.modDesc i f).kv := .modify hf i

theorem modPool_keeps (n : Nat) (f : Pool → Pool) : c.kv.Keeps (c.modPool n f).kv := .of rfl

theorem setEntry_keeps {p : Pool} {idx k e : Nat} {d : Desc} (h : c.setEntry p idx d k e = .ok c') : c.kv.Keeps c'.kv := by
  unfold setEntry at h
  split at h
  · cases h
    refine .modify ?_ idx
    exact fun d => rfl
  · split at h
    · cases h
    · exact write_keeps h

theorem setEntries_keeps {p : Pool} {idx : Nat} {d : Desc} {l : List (Nat × Nat)} (h : c.setEntries p idx d l = .ok c') : c.kv.Keeps c'.kv := by
  induction l generalizing c with
  | nil =>
    cases h
    exact .refl _
  | cons x l ih =>
    obtain ⟨k, e⟩ := x
    unfold setEntries at h
    split at h
    · cases h
    · rename_i u hu
      exact (setEntry_keeps hu).trans (ih h)

theorem forkLeaves_keeps {p : Pool} {idx n : Nat} {d : Desc} (h : c.forkLeaves idx d p n = .ok c') : c.kv.Keeps c'.kv := by
  induction n generalizing c' with
  | zero =>
    cases h
    exact .refl _
  | succ n ih =>
    unfold forkLeaves at h
    split at h
    · cases h
    · rename_i c1 h1
      split at h
      · cases h
      · split at h
        · cases h
        · rename_i b q2 _
          have hmod : c1.kv.Keeps (c1.modDesc idx fun x => { x with leaves := n + 1 }).kv := by
            refine modDesc_keeps ?_ idx
            exact fun d => rfl
          refine (ih h1).trans (hmod.trans (.of ?_))
          rw [write_kv h]
          rfl

theorem takeIndex_descs {i : Nat} (h : c.takeIndex = some (i, c')) : c'.kv.descs = c.kv.descs := by
  unfold takeIndex at h
  split at h
  · cases h
    rfl
  · split at h
    · cases h
    · cases h
      rfl

/-- A new sequence is what was asked for, under the next free index, with its generation, format and list place (R243, R245). -/
theorem newDesc_ok {d0 : Desc} {i : Nat} (h : c.newDesc d0 = .ok (i, c')) : ∃ e, c'.kv.descs.get? i = some e ∧ e.tenant = d0.tenant ∧
    e.pool = d0.pool ∧ e.len = d0.len ∧ e.max = d0.max ∧ e.shard = d0.shard := by
  unfold newDesc at h
  split at h
  · cases h
  · split at h
    · cases h
    · cases h
    · rename_i p _ _
      dsimp only at h
      generalize (if d0.capE p ≤ 8 then 0 else if d0.capE p ≤ 262144 then 1 else 2) = fmt at h
      split at h
      · cases h
        exact ⟨_, AMap.get?_set_self _ _ _, rfl, rfl, rfl, rfl, rfl⟩
      · split at h
        · cases h
        · split at h
          · cases h
          · rename_i c3 h3
            cases h
            rw [write_kv h3]
            exact ⟨_, AMap.get?_set_self _ _ _, rfl, rfl, rfl, rfl, rfl⟩

theorem seqCreate_ok {n max split pos0 pos1 i : Nat} {shard : Bool} (h : c.seqCreate n max split pos0 pos1 shard = .ok (i, c')) :
    ∃ e, c'.kv.descs.get? i = some e ∧ e.tenant = c.tid ∧ e.pool = n ∧ e.len = 0 ∧ e.max = max ∧ e.shard = shard := by
  unfold seqCreate at h
  split at h
  · cases h
  · iterate 4
      split at h
      · cases h
    exact newDesc_ok h

/-- A fork is a sequence of its parent's pool, as long as was asked for (R262). -/
theorem seqFork_ok {handle f k i : Nat} {d : Desc} (hd : c.kv.validDesc c.tid handle = some (k, d)) (h : c.seqFork handle f = .ok (i, c')) :
    ∃ e, c'.kv.descs.get? i = some e ∧ e.tenant = d.tenant ∧ e.pool = d.pool ∧ e.len = f := by
  unfold seqFork at h
  rw [hd] at h
  dsimp only at h
  split at h
  · cases h
  split at h
  · cases h
  split at h
  · cases h
  split at h
  · cases h
  split at h
  · cases h
  rename_i idx c1 h1
  split at h
  · cases h
  rename_i c2 h2
  split at h
  · cases h
  rename_i c3 h3
  obtain ⟨e1, he1, ht, hp, -⟩ := newDesc_ok h1
  have hleaves : c1.kv.Keeps c2.kv := by
    split at h2
    · exact forkLeaves_keeps h2
    · cases h2
      exact .refl _
  obtain ⟨e3, he3, hsame⟩ := (hleaves.trans (setEntries_keeps h3)) idx e1 he1
  have hlen : (c3.modDesc idx fun x => { x with len := f }).kv.descs.get? idx = some { e3 with len := f } := by
    unfold modDesc
    dsimp only
    rw [AMap.get?_modify, if_pos rfl, he3]
    rfl
  have hend : ∀ c6 : KvCtx, c6.kv.descs = (c3.modDesc idx fun x => { x with len := f }).kv.descs →
      ∃ e, c6.kv.descs.get? idx = some e ∧ e.tenant = d.tenant ∧ e.pool = d.pool ∧ e.len = f := fun c6 h6 =>
    ⟨_, h6 ▸ hlen, by rw [hsame]; exact ht, by rw [hsame]; exact hp, rfl⟩
  split at h
  · cases h
    exact hend _ rfl
  · split at h
    · cases h
    · rename_i c6 h6
      cases h
      exact hend _ (by rw [write_kv h6]; rfl)

theorem resummarise_kv {p : Pool} {pg n : Nat} (h : c.resummarise p pg n = .ok c') : c'.kv = c.kv := by
  refine foldE_keeps (fun x y u u' hu hy => ?_) h
  split at hu
  · cases hu
  · split at hu
    · cases hu
      exact hy.symm
    · exact (write_kv hu).trans hy.symm

/-- A truncated sequence has the length asked for and stays what it is (R263). -/
theorem seqTruncate_ok {handle n k i : Nat} {d : Desc} (hd : c.kv.validDesc c.tid handle = some (k, d)) (h : c.seqTruncate handle n = .ok (i, c')) :
    ∃ e, c'.kv.descs.get? k = some e ∧ e.len = n ∧ e.gen = d.gen := by
  have hget : c.kv.descs.get? k = some d := (KvState.validDesc_get hd).1
  unfold seqTruncate at h
  rw [hd] at h
  dsimp only at h
  split at h
  · cases h
  split at h
  · cases h
  split at h
  · cases h
  split at h
  · cases h
  split at h
  · cases h
  rename_i c1 h1
  have hlen : c1.kv.descs.get? k = some d := by
    rw [foldE_keeps (fun _ _ _ _ hu hy => (resummarise_kv hu).trans hy.symm) h1]
    exact hget
  have hend : ∀ c6 : KvCtx, c6.kv.descs = c1.kv.descs.modify k (fun x => { x with len := n }) →
      ∃ e, c6.kv.descs.get? k = some e ∧ e.len = n ∧ e.gen = d.gen := by
    intro c6 h6
    refine ⟨{ d with len := n }, ?_, rfl, rfl⟩
    rw [h6, AMap.get?_modify, if_pos rfl, hlen]
    rfl
  split at h
  · cases h
    exact hend _ rfl
  · split at h
    · cases h
    · rename_i c4 h4
      cases h
      refine hend _ ?_
      rw [write_kv h4]
      rfl

/-- A freed sequence is gone, and its index starts its next generation (R243, R264). -/
theorem seqFree_ok {handle k i : Nat} {d : Desc} (hd : c.kv.validDesc c.tid handle = some (k, d)) (h : c.seqFree handle = .ok (i, c')) :
    c'.kv.descs.get? k = none ∧ c'.kv.gens.get? k = some ((d.gen + 1) % 4096) ∧ c'.mem = c.mem := by
  unfold seqFree releaseBlocks at h
  rw [hd] at h
  dsimp only at h
  iterate 3
    split at h
    · cases h
  cases h
  exact ⟨by dsimp only; rw [AMap.get?_del, if_pos rfl], AMap.get?_set_self _ _ _, rfl⟩

end KvCtx

namespace State

variable {s u : State} {t k r a : Nat} {d : Desc}

/-- A write at an address argument changes memory, marks of pages and lists, and no sequence besides. -/
theorem argWrite_keeps {o : Option Nat} {bs : List Nat} (h : s.argWrite o a bs = .ok u) : s.kv.Keeps u.kv ∧ u.holms = s.holms := by
  unfold argWrite at h
  split at h
  · unfold hostWrite at h
    split at h
    · rename_i v hv
      cases h
      split at hv
      · cases hv
        exact ⟨.refl _, rfl⟩
      · cases hv
    · cases h
  · unfold memWrite at h
    split at h
    · cases h
    · split at h
      · cases h
      · cases h
        exact ⟨KvState.noteWrite_keeps _ _ _ _, rfl⟩
  · cases h

theorem putImage_keeps {i : Nat} (h : s.putImage t i a = .ok u) : s.kv.Keeps u.kv ∧ u.holms = s.holms := by
  unfold putImage at h
  split at h
  · exact argWrite_keeps h
  · cases h
    exact ⟨.refl _, rfl⟩

/-- The word a sequence command answers: the handle of a new sequence, else 0 (R241, R439). -/
def seqAnswer (handle : Nat) : SeqOp → Nat
  | .create .. => handle
  | .fork .. => handle
  | .truncate .. => 0
  | .free _ => 0

/-- A sequence command that takes effect: the change of the sequences, then the image in its result buffer (R261, R439). -/
theorem seqEffect_ok {op : SeqOp} (h : s.seqEffect t op 0 = .ok (r, u)) : ∃ c i c1, s.kvCtx t = some c ∧ c.seqRun op = .ok (i, c1) ∧
    c1.kv.Keeps u.kv ∧ u.holms = s.holms ∧ r = seqAnswer (((c1.kv.descs.get? i).map fun d => d.handle i).getD 0) op % 2 ^ 32 ∧
    ∀ n, op = .free n → u = s.putKv c1 := by
  unfold seqEffect at h
  split at h
  · cases h
  rename_i c hc
  split at h
  · cases h
  rename_i i c1 h1
  refine ⟨c, i, c1, hc, h1, ?_⟩
  dsimp only at h
  split at h
  · cases h
  rename_i s2 h2
  cases op with
  | create | fork | truncate =>
    cases h
    obtain ⟨hkeeps, hholms⟩ := putImage_keeps h2
    exact ⟨hkeeps, hholms, by simp [seqAnswer, putKv], fun _ hf => nomatch hf⟩
  | free n =>
    cases h2
    cases h
    exact ⟨.refl _, rfl, rfl, fun _ _ => rfl⟩

theorem seqEffect_create {n max split pos0 pos1 buf : Nat} {shard : Bool}
    (h : s.seqEffect t (.create n max split pos0 pos1 shard buf) 0 = .ok (r, u)) :
    ∃ k d, u.kv.descs.get? k = some d ∧ r = (k + 2 ^ 20 * d.gen) % 2 ^ 32 ∧ d.tenant = t ∧ d.pool = n ∧ d.len = 0 ∧ d.max = max ∧
      d.shard = shard ∧ u.holms = s.holms := by
  obtain ⟨c, i, c1, hc, h1, hkeeps, hholms, hr, -⟩ := seqEffect_ok h
  obtain ⟨e, he, hten, hpool, hlen, hmax, hshard⟩ := KvCtx.seqCreate_ok h1
  obtain ⟨f, hf, hsame⟩ := hkeeps i e he
  refine ⟨i, f, hf, ?_⟩
  rw [hr, he, hsame, ← (kvCtx_of hc).1]
  exact ⟨rfl, hten, hpool, hlen, hmax, hshard, hholms⟩

theorem seqEffect_fork {h n buf : Nat} (hd : s.kv.validDesc t h = some (k, d)) (hu : s.seqEffect t (.fork h n buf) 0 = .ok (r, u)) :
    ∃ j e, u.kv.descs.get? j = some e ∧ r = (j + 2 ^ 20 * e.gen) % 2 ^ 32 ∧ e.tenant = t ∧ e.pool = d.pool ∧ e.len = n ∧ u.holms = s.holms := by
  obtain ⟨c, i, c1, hc, h1, hkeeps, hholms, hr, -⟩ := seqEffect_ok hu
  obtain ⟨htid, hkv, -⟩ := kvCtx_of hc
  obtain ⟨e, he, hten, hpool, hlen⟩ := KvCtx.seqFork_ok (by rw [htid, hkv]; exact hd) h1
  obtain ⟨f, hf, hsame⟩ := hkeeps i e he
  refine ⟨i, f, hf, ?_⟩
  rw [hr, he, hsame]
  exact ⟨rfl, hten.trans (KvState.validDesc_get hd).2, hpool, hlen, hholms⟩

theorem seqEffect_truncate {h n buf : Nat} (hd : s.kv.validDesc t h = some (k, d)) (hu : s.seqEffect t (.truncate h n buf) 0 = .ok (r, u)) :
    r = 0 ∧ ∃ e, u.kv.descs.get? k = some e ∧ e.len = n ∧ e.gen = d.gen ∧ u.holms = s.holms := by
  obtain ⟨c, i, c1, hc, h1, hkeeps, hholms, hr, -⟩ := seqEffect_ok hu
  obtain ⟨htid, hkv, -⟩ := kvCtx_of hc
  obtain ⟨e, he, hlen, hgen⟩ := KvCtx.seqTruncate_ok (by rw [htid, hkv]; exact hd) h1
  obtain ⟨f, hf, hsame⟩ := hkeeps k e he
  refine ⟨hr, f, hf, ?_⟩
  rw [hsame]
  exact ⟨hlen, hgen, hholms⟩

theorem seqEffect_free {h : Nat} (hd : s.kv.validDesc t h = some (k, d)) (hu : s.seqEffect t (.free h) 0 = .ok (r, u)) :
    r = 0 ∧ u.kv.descs.get? k = none ∧ u.kv.gens.get? k = some ((d.gen + 1) % 4096) ∧ u.holms = s.holms ∧ u.mem = s.mem := by
  obtain ⟨c, i, c1, hc, h1, -, hholms, hr, hfree⟩ := seqEffect_ok hu
  obtain ⟨htid, hkv, hmem⟩ := kvCtx_of hc
  obtain ⟨hgone, hgens, hsame⟩ := KvCtx.seqFree_ok (by rw [htid, hkv]; exact hd) h1
  refine ⟨hr, ?_⟩
  rw [hfree h rfl]
  exact ⟨hgone, hgens, rfl, hsame.trans hmem⟩

/-! ### The commands -/

section
variable {code fn q : Nat} {c : Cmd}

theorem runVf_starts {f : State → Cmd → Nat → CmdEff} (h : s.starts code fn q c) (hb : s.boundTo fn = some t) :
    runVf code fn q s f = .next (match f (s.begun c) c t with
      | (u, some (st, r)) => u.endCmd c.name st r false
      | (u, none) => u) :=
  (runCmd_starts h).trans (by rw [show (s.begun c).boundTo fn = some t from hb] <;> rfl)

/-- A command whose change takes effect at once or at a commit point. -/
theorem runVf_changes {op : CommitOp} {f : State → Cmd → Nat → CmdEff} (h : s.starts code fn q c) (hb : s.boundTo fn = some t)
    (hf : f (s.begun c) c t = (s.begun c).atCommit c t op) : s.changeEnds c t op (runVf code fn q s f) := by
  rw [changeEnds, runVf_starts h hb, hf]
  unfold atCommit
  dsimp only
  refine ⟨fun hp => ?_, fun hp => ?_⟩
  · rw [if_pos (by rw [show (s.begun c).hasPlan t = false from hp]; rfl)]
    exact ⟨fun r u hu => by rw [hu]; rfl, fun e he => by rw [he]; rfl⟩
  · rw [if_neg (by rw [show (s.begun c).hasPlan t = true from hp]; simp)]
    refine ⟨fun e hne he => ?_, fun hlimit => ?_⟩
    · rw [he]
      dsimp only
      rw [if_neg hne]
      rfl
    · cases hnow : (s.begun c).commitEffect t op 0 with
      | ok x => rfl
      | error e =>
        dsimp only
        rw [if_pos (hlimit e hnow)]
        rfl

theorem seqCmd_unmapped {op : SeqOp} {buf : Nat} (hbuf : ¬ s.argMapped (some t) buf = true) :
    s.seqCmd c t (some buf) op = s.fails .badAddress := if_pos (by simpa using hbuf)

theorem seqCmd_changes {op : SeqOp} {buf : Nat} (hbuf : s.argMapped (some t) buf = true) :
    s.seqCmd c t (some buf) op = s.atCommit c t (.seq op) := if_neg (by simp [hbuf])

theorem admitted_unbounded {adm : Option Verdict} {f : CmdEff} (h : c.bounded = false) : s.admitted c t adm f = f := by
  unfold admitted boundedRefusal
  rw [h]
  rfl

/-- Work that ends without an error ends with DONE or DONE_DEGRADED (R359). -/
theorem doneOr_done (rs : List (Nat × Nat)) : (s.doneOr t rs).isDone = true := by
  unfold doneOr
  exact ite_ind (P := fun x : Status => x.isDone = true) rfl rfl

/-- POOL_CREATE after its operands: what it keeps, or why it is refused (R238, R596). -/
theorem createPool_of {kf vf : EFmt} {x : Tenant} {r : CmdEff}
    (hregion : s.tenantMapped t (c.arg 48 8) 4096 = true) (harena : s.tenantMapped t (c.arg 56 8) 4096 = true)
    (hkf : EFmt.ofCode? (c.arg 36 1) = some kf) (hvf : EFmt.ofCode? (c.arg 37 1) = some vf) (hx : s.tenant? t = some x)
    (hr : (match KvCtx.poolCreate ⟨s.part, s.mem, t, x, s.kv, s.free⟩ (c.arg 32 1)
        { tenant := t, p := 2 ^ min (c.arg 33 1) 16, h := c.arg 34 1, d := 16 * c.arg 35 1, kf := kf, vf := vf, layers := c.arg 38 1
          cap := c.arg 40 4, sums := bitAt c.raw 312, region := c.arg 48 8, arena := c.arg 56 8, blocks := c.arg 44 4
          freePages := [(0, c.arg 40 4 - 1)], freeBlocks := [(0, c.arg 44 4 - 1)], refs := [], sumOne := [], waiting := [], taint := [] }
        (s.rangeMapped t) with
      | .ok y => (s.putKv y).ends 0
      | .error e => s.fails e) = r) : s.createPool c t = r := by
  have hctx : s.kvCtx t = some ⟨s.part, s.mem, t, x, s.kv, s.free⟩ := by rw [kvCtx, hx]; rfl
  unfold createPool
  rw [if_neg (by simp [hregion, harena])]
  dsimp only
  rw [hkf, hvf, hctx]
  exact hr

end

end State
end Sys2Proof.Machine
end

section
namespace Sys2Proof.Proofs

open Sys2Proof.Machine Sys2Proof.Machine.State

/-- Settles O46: a change of a sequence is one of its descriptor, and what follows it (list entries, leaf blocks, marks, the image) keeps the
descriptor's identity. -/
theorem sequenceCommands : Obligations.SequenceCommands := by
  unfold Obligations.SequenceCommands
  intro s fn q c t hb b ends h buf
  refine ⟨?create, ?seqCreate, ?fork, ?truncate, ?free, ?poolFree, ?append⟩
  case create =>
    intro kf vf x hs hregion harena hkf hvf hx new
    have heff := fun r => createPool_of (s := b) (r := r) (c := c) hregion harena hkf hvf hx
    refine ⟨fun hbad => ?_, fun hn hranges hbytes hfree hfew hquota hmr hma => ?_⟩
    · refine runVf_ends hs hb (heff _ ?_)
      rw [KvCtx.poolCreate, if_pos (by simpa using hbad)]
      rfl
    · refine runVf_ends hs hb (heff _ ?_)
      rw [KvCtx.poolCreate, if_neg (not_or.mpr ⟨Nat.not_le.mpr hn, fun hno => by rw [hranges] at hno; cases hno⟩), if_neg (Nat.not_lt.mpr hbytes),
        if_neg ?_, if_neg ?_]
      · rfl
      · rintro (hno | hno)
        · rw [show b.rangeMapped t (c.arg 48 8) _ = true from hmr] at hno
          cases hno
        · rw [show b.rangeMapped t (c.arg 56 8) _ = true from hma] at hno
          cases hno
      · rintro (hno | hno | hno)
        · rw [show b.kv.pools.get? (c.arg 32 1) = none from hfree] at hno
          cases hno
        · exact Nat.not_le.mpr hfew hno
        · exact Nat.not_le.mpr hquota hno
  case seqCreate =>
    intro hs op
    refine ⟨fun hno => ?_, fun hyes => ?_, fun r u hu => seqEffect_create (s := b) hu⟩
    · show execSeqCreate fn q s = _
      exact runVf_ends hs hb (seqCmd_unmapped hno)
    · show s.changeEnds c t op (execSeqCreate fn q s)
      exact runVf_changes hs hb (seqCmd_changes hyes)
  case fork =>
    intro k d hs hd hyes op
    have hmapped : ¬ (!b.argMapped (some t) (c.arg 40 8)) = true := by rw [show b.argMapped (some t) (c.arg 40 8) = true from hyes]; decide
    have hfork : b.forkCmd c t = if d.len < c.arg 36 4 then b.fails .limit else b.seqCmd c t (some (c.arg 40 8)) (.fork h (c.arg 36 4) (c.arg 40 8)) := by
      unfold forkCmd
      rw [if_neg hmapped, show b.kv.validDesc t (c.arg 32 4) = some (k, d) from hd]
    refine ⟨fun hlen => runVf_ends hs hb (hfork.trans (if_pos hlen)), fun hlen => runVf_changes hs hb ?_, fun r u hu => seqEffect_fork (s := b) hd hu⟩
    exact (hfork.trans (if_neg (Nat.not_lt.mpr hlen))).trans (seqCmd_changes hyes)
  case truncate =>
    intro k d hs hd hyes op
    refine ⟨?_, fun r u hu => seqEffect_truncate (s := b) hd hu⟩
    show s.changeEnds c t op (execSeqTruncate fn q s)
    exact runVf_changes hs hb (seqCmd_changes hyes)
  case free =>
    intro k d hs hd
    refine ⟨?_, fun r u hu => seqEffect_free (s := b) hd hu⟩
    show s.changeEnds c t (.seq (.free h)) (execSeqFree fn q s)
    exact runVf_changes hs hb rfl
  case poolFree =>
    intro hs
    refine ⟨fun x hx hten => ?_, fun hno => ?_⟩
    · have hpool : b.freePool c t = if b.kv.descs.any (fun e => e.2.pool == c.arg 32 1) then b.fails .limit
          else ({ b with kv := { b.kv with pools := b.kv.pools.del (c.arg 32 1) } } : State).ends 0 := by
        unfold freePool
        dsimp only
        rw [show b.kv.pools.get? (c.arg 32 1) = some x from hx, Option.filter_some, if_pos (by rw [hten]; exact beq_self_eq_true t)]
      refine ⟨fun hused => runVf_ends hs hb (hpool.trans (if_pos ?_)), fun hunused => runVf_ends hs hb (hpool.trans (if_neg ?_))⟩
      · obtain ⟨e, he, hp⟩ := hused
        exact List.any_eq_true.mpr ⟨e, he, beq_iff_eq.mpr hp⟩
      · intro hany
        obtain ⟨e, he, hp⟩ := List.any_eq_true.mp hany
        exact hunused e he (beq_iff_eq.mp hp)
    · refine runVf_ends hs hb ?_
      unfold freePool
      dsimp only
      rw [show (b.kv.pools.get? (c.arg 32 1)).filter (fun q => q.tenant == t) = none from ?_]
      · rfl
      · refine Option.filter_eq_none_iff.mpr fun x hx hten => ?_
        exact hno x hx (beq_iff_eq.mp hten)
  case append =>
    intro adm x k d p bs hs hyes hx hd hp hr hbounded hbs pairs unit rows
    have hctx : b.kvCtx t = some x := hx
    have heff : ∀ r, (match x.append unit h (c.arg 38 2) (c.arg 36 2) rows with
        | .error e => b.fails e
        | .ok x1 =>
          let x2 := x1.commitUnit unit true
          if (x2.unitRecs unit).isEmpty then
            (b.putKv x2, some (b.doneOr t ((c.arg 40 8, p.layers * p.h * c.arg 36 2 * 32 * (p.rk + p.rv)) ::
              x1.rowSpans unit h (c.arg 38 2) (c.arg 36 2) pairs), lengthWord ((x2.kv.descs.get? k).elim 0 (·.len))))
          else b.fails .badAddress) = r → b.appendCmd c t adm = r := by
      intro r hr'
      have hkv : x.kv = b.kv := (kvCtx_of hctx).2.1
      unfold appendCmd
      dsimp only
      rw [if_neg (by rw [show b.argMapped (some t) (c.arg 40 8) = true from hyes]; decide), if_neg hr, hctx]
      dsimp only
      rw [hkv, show b.kv.validDesc t (c.arg 32 4) = some (k, d) from hd]
      dsimp only
      rw [show b.kv.pools.get? d.pool = some p from hp]
      dsimp only
      rw [admitted_unbounded hbounded, show b.argRead (some t) (c.arg 40 8) (p.layers * p.h * c.arg 36 2 * 32 * (p.rk + p.rv)) = .ok bs from hbs]
      exact hr'
    refine ⟨fun e he => ?_, fun y hy hrecs => ?_⟩
    · show execSeqAppend fn q adm s = _
      refine runVf_ends hs hb (heff _ ?_)
      rw [he]
      rfl
    refine ⟨_, doneOr_done (s := b) (t := t) ((c.arg 40 8, p.layers * p.h * c.arg 36 2 * 32 * (p.rk + p.rv)) ::
      y.rowSpans unit h (c.arg 38 2) (c.arg 36 2) pairs), ?_⟩
    show execSeqAppend fn q adm s = _
    refine runVf_ends hs hb (heff _ ?_)
    rw [hy]
    dsimp only
    rw [hrecs]
    rfl

end Sys2Proof.Proofs
end

section
/-! SUPPORT. What a step does, and what reset leaves (R57, R361, R382, R397, R536). -/

namespace Sys2Proof.Machine

/-- A lookup in a map made from the numbers below n. -/
theorem AMap.get?_rangeMap {α : Type} (f : Nat → α) {n k : Nat} (h : k < n) : AMap.get? ((List.range n).map fun i => (i, f i)) k = some (f k) := by
  have hmaps : ∀ l : List Nat, k ∈ l → AMap.get? (l.map fun i => (i, f i)) k = some (f k) := by
    intro l hk
    induction l with
    | nil => cases hk
    | cons a l ih =>
      rw [List.map_cons, AMap.get?]
      split
      · rename_i hak
        rw [hak]
      · rename_i hak
        exact ih ((List.mem_cons.mp hk).resolve_left (Ne.symm hak))
  exact hmaps _ (List.mem_range.mpr h)

namespace RackTime

variable {r : RackTime}

@[simp] theorem clockStep_ticks : r.clockStep.ticks = r.ticks + 1 := by
  unfold clockStep
  dsimp only
  split
  · rfl
  split
  · split <;> rfl
  split <;> rfl

theorem clockStep_held (h : r.hold ≠ 0) : r.clockStep = { r with ticks := r.ticks + 1, hold := r.hold - 1 } := if_pos h

theorem clockStep_loses (h : r.hold = 0) (hn : r.now % 1000 = 999) (hs : r.slew < 0) : r.clockStep.slew = r.slew + 1 ∧
    r.clockStep.now = if r.slew % 2 = 0 then r.now else r.now + 1 := by
  have heq : r.clockStep = if r.slew % 2 = 0 then { r with ticks := r.ticks + 1, slew := r.slew + 1 }
      else { r with ticks := r.ticks + 1, slew := r.slew + 1, now := r.now + 1 } := (if_neg (not_not.mpr h)).trans (if_pos ⟨hn, hs⟩)
  rw [heq]
  split <;> exact ⟨rfl, rfl⟩

theorem clockStep_gains (h : r.hold = 0) (hn : r.now % 1000 = 999) (hs : 0 < r.slew) :
    r.clockStep = { r with ticks := r.ticks + 1, slew := r.slew - 1, now := r.now + 2 } :=
  (if_neg (not_not.mpr h)).trans ((if_neg fun hno => absurd hno.2 (not_lt.mpr (le_of_lt hs))).trans (if_pos ⟨hn, hs⟩))

theorem clockStep_plain (h : r.hold = 0) (hn : r.now % 1000 ≠ 999 ∨ r.slew = 0) :
    r.clockStep = { r with ticks := r.ticks + 1, now := r.now + 1 } := by
  refine (if_neg (not_not.mpr h)).trans ((if_neg ?_).trans (if_neg ?_))
  · rintro ⟨hnow, hslew⟩
    exact hn.elim (fun hne => hne hnow) fun hz => absurd hslew (by rw [hz]; decide)
  · rintro ⟨hnow, hslew⟩
    exact hn.elim (fun hne => hne hnow) fun hz => absurd hslew (by rw [hz]; decide)

end RackTime

/-- Nothing waits for a plan's end. -/
theorem State.idleChanges_none {s : State} (hc : s.ten.changes = []) (hk : s.kv.commits = []) (hm : s.mem.moves = []) : s.idleChanges = s := by
  unfold State.idleChanges
  dsimp only
  rw [hc]
  exact if_pos (by simp [hk, hm])

/-- A nanosecond in which nothing but time changes. -/
theorem tick_quiet {s : State} (hp : s.boot.phase ≠ .off) (hc : s.ten.changes = []) (hk : s.kv.commits = []) (hm : s.mem.moves = []) :
    ∃ ports, tick s = { s with
        net := { s.net with time := s.net.time.clockStep, ports := ports }
        boot := { s.boot with aoCycles := if (s.net.time.ticks + 1) % 40 = 0 then (s.boot.aoCycles + 1) % 2 ^ 64 else s.boot.aoCycles } } ∧
      (5 * s.net.time.ticks / 64 = 5 * (s.net.time.ticks + 1) / 64 → ports = s.net.ports) := by
  have hboot : (if (s.net.time.ticks + 1) % 40 ≠ 0 then s.boot else { s.boot with aoCycles := (s.boot.aoCycles + 1) % 2 ^ 64 }) =
      { s.boot with aoCycles := if (s.net.time.ticks + 1) % 40 = 0 then (s.boot.aoCycles + 1) % 2 ^ 64 else s.boot.aoCycles } := by
    by_cases h : (s.net.time.ticks + 1) % 40 = 0
    · rw [if_neg (not_not.mpr h), if_pos h]
    · rw [if_pos h, if_neg h]
  unfold tick
  dsimp only
  rw [if_neg hp, RackTime.clockStep_ticks, hboot]
  split
  · rename_i hdue
    refine ⟨_, State.idleChanges_none hc hk hm, fun hsame => ?_⟩
    simp [blockDue, hsame] at hdue
  · exact ⟨s.net.ports, State.idleChanges_none hc hk hm, fun _ => rfl⟩

end Sys2Proof.Machine

namespace Sys2Proof.Proofs

open Sys2Proof.Machine Sys2Proof.Machine.State

/-- Settles O17. -/
theorem stepRunsFrontCommand : Obligations.StepRunsFrontCommand := by
  unfold Obligations.StepRunsFrontCommand
  refine fun s => ⟨fun c rest h => by unfold step; rw [h], fun h hoff => ?_, fun h hon hc hk hm => ?_⟩
  · unfold step
    rw [h]
    exact congrArg Host.Outcome.next (if_pos hoff)
  · obtain ⟨ports, htick, hports⟩ := tick_quiet hon hc hk hm
    refine ⟨_, by unfold step; rw [h], ?_⟩
    rw [htick]
    refine ⟨RackTime.clockStep_ticks, fun hh => ?_, fun hh hn => ?_, fun hh hn hs => ?_, fun hh hn hs => RackTime.clockStep_loses hh hn hs,
      rfl, hports, rfl, rfl, rfl, rfl, rfl, rfl, h⟩
    · dsimp only
      rw [RackTime.clockStep_held hh]
      exact ⟨rfl, rfl⟩
    · dsimp only
      rw [RackTime.clockStep_plain hh hn]
      exact ⟨rfl, rfl⟩
    · dsimp only
      rw [RackTime.clockStep_gains hh hn hs]
      exact ⟨rfl, rfl⟩

/-- The holm of a number in the state after reset. -/
theorem reset_holm {p : Nat} (h : p < 272) : State.reset.holm p = Holm.reset (if p % 68 < 64 then .idle else .spare) := by
  unfold State.holm State.reset AMap.getD
  rw [AMap.get?_rangeMap _ h]
  rfl

/-- The remap entry of a logical holm in the state after reset. -/
theorem reset_remap {lg : Nat} (h : lg < 256) : State.reset.remap.get? lg = some ⟨lg % 64, true, 0⟩ := AMap.get?_rangeMap _ h

/-- Settles O18. -/
theorem resetLeavesReadyModule : Obligations.ResetLeavesReadyModule := by
  unfold Obligations.ResetLeavesReadyModule
  intro s
  refine ⟨⟨rfl, rfl, rfl, rfl, rfl, rfl, rfl, rfl, rfl, rfl, rfl, rfl, rfl⟩, ?_, fun lg hlg => ?_, fun q j hq hj hj' => ?_⟩
  · intro q hq
    rw [List.eq_of_mem_replicate hq]
    rfl
  · rw [show s.holm (68 * (lg / 64) + lg % 64) = Holm.reset .idle from ?_]
    · refine ⟨?_, ?_, rfl, rfl, rfl⟩
      · unfold physOf?
        rw [reset_remap hlg]
        rfl
      · unfold epochOf
        rw [reset_remap hlg]
        rfl
    · rw [reset_holm (by omega), if_pos (by omega)]
  · rw [reset_holm (by omega), if_neg (by omega)]
    rfl

end Sys2Proof.Proofs
end

section
/-! SUPPORT. Commands of families 0x05 and 0x09 (R234 to R236, R439, R442 to R445, R476, R477, R518, R597). -/

namespace Sys2Proof.Machine

namespace State

variable {s b u : State} {t k i : Nat} {c : Cmd} {w : Work} {adm : Admission} {bs : List Nat} {h : ImgHdr} {stages : List Stage}

/-! ### Refusals -/

/-- Of one term or more, one is the worst. -/
theorem worstTerm_isSome {l : List Verdict} (hl : l ≠ []) : ∃ v, worstTerm l = some v := by
  have hfold : ∀ (l : List Verdict) (v : Verdict), ∃ w, l.foldl (fun (acc : Option Verdict) v => match acc with
      | some w => if v.term < w.term then some v else acc
      | none => some v) (some v) = some w := by
    intro l
    induction l with
    | nil => exact fun v => ⟨v, rfl⟩
    | cons x l ih =>
      intro v
      rw [List.foldl_cons]
      dsimp only
      split
      · exact ih x
      · exact ih v
  cases l with
  | nil => exact absurd rfl hl
  | cons x l =>
    obtain ⟨w, hw⟩ := hfold l x
    exact ⟨w, hw⟩

theorem planRefused_none (h : adm.refusal = none) : s.planRefused adm [] = none := by
  unfold planRefused
  rw [h]
  rfl

theorem planRefused_alone {v : Verdict} (h : adm.refusal = some v) :
    s.planRefused adm [] = some ({ s with free := s.free + 1 }, some (.refusedAdmission, refusal v v.period)) := by
  unfold planRefused
  rw [h]
  rfl

theorem planRefused_some {terms : List Verdict} (h : adm.refusal ≠ none ∨ terms ≠ []) :
    ∃ r, s.planRefused adm terms = some ({ s with free := s.free + 1 }, some (.refusedAdmission, r)) := by
  have hne : adm.refusal.toList ++ terms ≠ [] := by
    rcases h with h | h
    · obtain ⟨v, hv⟩ := Option.ne_none_iff_exists'.mp h
      rw [hv]
      exact List.cons_ne_nil _ _
    · exact List.append_ne_nil_of_right_ne_nil _ h
  obtain ⟨v, hv⟩ := worstTerm_isSome hne
  unfold planRefused
  rw [hv]
  exact ⟨_, rfl⟩

/-! ### Plans -/

theorem submitPlan_of {minor : Nat} (hm : ((s.que? c.fn c.q).map (·.minor)).getD 4 = minor) (hbs : s.indirect c.fn c.raw = .ok bs)
    (himg : s.readImage t minor false bs = .ok (h, stages)) : s.submitPlan c t adm =
      match s.planRefused adm (s.stateTerms h.arch adm.power h.exportPerm stages) with
      | some r => r
      | none =>
        let (k, s1) := s.newHandle (s.isth.works.filterMap fun ((_, w) : Nat × Work) => if w.kind = .plan then some w.handle else none)
        let w := { s1.newWork .plan k t c h (withCkpts stages adm) with
          earliest := adm.earliest, power := adm.power, admitted := adm.quads }
        (s1.addWork w).ends (k + 2 ^ 64 * (adm.earliest % 2 ^ 64)) := by
  unfold submitPlan
  rw [hbs]
  dsimp only
  rw [hm, himg] <;> rfl

/-- What cannot be read or checked is refused with the reason (R443 to R445). -/
theorem submitPlan_fails {minor : Nat} {e : Status} (hm : ((s.que? c.fn c.q).map (·.minor)).getD 4 = minor)
    (he : s.indirect c.fn c.raw = .error e ∨ ∃ bs, s.indirect c.fn c.raw = .ok bs ∧ s.readImage t minor false bs = .error e) :
    s.submitPlan c t adm = s.fails e := by
  unfold submitPlan
  rcases he with he | ⟨bs, hbs, he⟩
  · rw [he]
  · rw [hbs]
    dsimp only
    rw [hm, he]

theorem submitPlan_keeps {minor : Nat} (hm : ((s.que? c.fn c.q).map (·.minor)).getD 4 = minor) (hbs : s.indirect c.fn c.raw = .ok bs)
    (himg : s.readImage t minor false bs = .ok (h, stages)) (hadm : adm.refusal = none)
    (hterms : s.stateTerms h.arch adm.power h.exportPerm stages = []) :
    ∃ k w u, s.submitPlan c t adm = (u, some (.done, k + 2 ^ 64 * (adm.earliest % 2 ^ 64))) ∧
        u.isth.works = s.isth.works.set s.isth.nextWork w ∧ u.isth.nextWork = s.isth.nextWork + 1 ∧ w.kind = .plan ∧ w.handle = k ∧ w.tenant = t ∧
        w.fn = c.fn ∧ w.q = c.q ∧ w.tag = c.tag ∧ w.arch = h.arch ∧ w.period = 1000 * h.period ∧ w.earliest = adm.earliest ∧ w.power = adm.power ∧
        w.started = false ∧ w.startCmd = none ∧ w.running = false ∧ w.stages = State.withCkpts stages adm ∧
        u.holms = s.holms ∧ u.mem = s.mem ∧ u.net = s.net ∧ u.kv = s.kv ∧ u.ten = s.ten := by
  have heq := (submitPlan_of (t := t) (adm := adm) hm hbs himg).trans (by rw [hterms, planRefused_none hadm])
  exact ⟨_, _, _, heq, rfl, rfl, rfl, rfl, rfl, rfl, rfl, rfl, rfl, rfl, rfl, rfl, rfl, rfl, rfl, rfl, rfl, rfl, rfl, rfl, rfl⟩

theorem startPlan_of {r : CmdEff} (hp : s.planOf? t (c.arg 32 4) = some (i, w))
    (hr : (if c.arg 40 8 % 1000 ≠ 0 then s.fails .badCommand
      else if !s.stagesStand t w.stages then s.fails .noPermission
      else if w.started ∨ w.startCmd.isSome ∨ c.arg 40 8 < w.earliest ∨ s.slackAt { w with s0 := c.arg 40 8 } 0 < c.since + 2000
          ∨ (s.workHolms w).any s.holmPlanned then s.fails .limit
      else (s.modWork i fun x => { x with s0 := c.arg 40 8, startCmd := some c.name, stopping := false }, none)) = r) : s.startPlan c t = r := by
  unfold startPlan
  rw [hp]
  exact hr

theorem stopCmd_of (hp : s.planOf? t (c.arg 32 4) = some (i, w)) : s.stopCmd c t = if !w.started ∧ w.startCmd.isNone then s.fails .limit
    else (s.modWork i fun x => { x with stopping := true, stopCmds := x.stopCmds ++ [c.name] }, none) := by
  unfold stopCmd
  rw [hp]

theorem freePlan_of (hp : s.planOf? t (c.arg 32 4) = some (i, w)) : s.freePlan c t = if w.started ∨ w.startCmd.isSome then s.fails .limit
    else ({ s with isth := { s.isth with works := s.isth.works.del i } } : State).checkExcess.ends 0 := by
  unfold freePlan
  rw [hp]

/-- The end of an excess period is one of the power state alone, and where there is none nothing changes. -/
theorem checkExcess_frame : s.checkExcess = { s with pow := s.checkExcess.pow } ∧ (s.pow.excess = none → s.checkExcess = s) := by
  unfold checkExcess
  refine ⟨ite_ind (P := fun x : State => x = { s with pow := x.pow }) rfl rfl, fun h => if_neg ?_⟩
  rw [h]
  exact fun hno => Bool.noConfusion hno.1

theorem updatePlan_of {minor : Nat} {secs : List Section} {l : List Stage} (hm : ((s.que? c.fn c.q).map (·.minor)).getD 4 = minor)
    (hbs : s.indirect c.fn c.raw = .ok bs) (hsecs : sectionsAt bs true (bs.length / 16 + 1) 0 = (secs, true)) (hne : secs ≠ [])
    (hown : ∀ x ∈ secs, x.foreign = false) (hp : s.planOf? t (c.arg 32 4) = some (i, w))
    (hadd : s.addSections t false (w.update.getD w.stages) secs = .ok l) (hok : s.stagesErr t w.arch minor l = none) (hadm : adm.refusal = none)
    (hterms : s.stateTerms w.arch (adm.power - w.power) false
      [{ Stage.bare 0 [] with colls := (l.flatMap (·.colls)).diff (w.stages.flatMap (·.colls)) }] = []) :
    s.updatePlan c t adm =
      if w.started then ((s.modWork i fun x => { x with power := adm.power, admitted := adm.quads }).modWork i fun x =>
        { x with update := some (withCkpts l adm), updateCmds := x.updateCmds ++ [c.name] }, none)
      else ((s.modWork i fun x => { x with power := adm.power, admitted := adm.quads }).modWork i fun x =>
        { x with stages := withCkpts l adm }).ends 0 := by
  have hany : ¬ secs.any (·.foreign) = true := fun hno => by
    obtain ⟨x, hx, hf⟩ := List.any_eq_true.mp hno
    rw [hown x hx] at hf
    cases hf
  unfold updatePlan
  rw [hbs]
  dsimp only
  rw [hsecs]
  dsimp only
  rw [if_neg hany, hp]
  dsimp only
  rw [if_neg (by simp [hne]), hadd]
  dsimp only
  rw [hm, hok]
  dsimp only
  rw [hterms, planRefused_none hadm]

/-! ### Native images -/

/-- The stores of a stage reach one holm, or none. -/
theorem installStage_frame (st : Stage) (lg : Nat) : s.installStage st lg = { s with holms := (s.installStage st lg).holms } ∧
    ∀ p, s.physOf? lg ≠ some p → (s.installStage st lg).holm p = s.holm p := by
  unfold installStage
  split
  · exact ⟨rfl, fun _ _ => rfl⟩
  · rename_i r hr
    split
    · exact ⟨rfl, fun _ _ => rfl⟩
    · exact ⟨rfl, fun p hp => (holm_modHolm s r p _).trans (if_neg fun heq => hp (by rw [hr, heq]))⟩

/-- Only holms are changed, and of them only those that the stages name. -/
def Installed (stages : List Stage) (s u : State) : Prop :=
  u = { s with holms := u.holms } ∧ ∀ p, (∀ st ∈ stages, ∀ lg ∈ st.holms, s.physOf? lg ≠ some p) → u.holm p = s.holm p

/-- The stores of the stages of an image reach their holms. -/
def installStages (stages : List Stage) (s : State) : State :=
  stages.foldl (fun (s : State) st => st.holms.foldl (fun (s : State) lg => s.installStage st lg) s) s

theorem installStages_installed (stages : List Stage) (s : State) : Installed stages s (s.installStages stages) := by
  refine List.foldlRecOn stages _ ⟨rfl, fun _ _ => rfl⟩ fun t ht st hst => List.foldlRecOn st.holms _ ht fun u hu lg hlg => ?_
  obtain ⟨hframe, hholm⟩ := hu
  obtain ⟨hframe', hholm'⟩ := installStage_frame (s := u) st lg
  refine ⟨hframe'.trans (by rw [hframe]), fun p hp => (hholm' p ?_).trans (hholm p hp)⟩
  rw [hframe]
  exact hp st hst lg hlg

theorem loadNative_of {minor : Nat} (hm : ((s.que? c.fn c.q).map (·.minor)).getD 4 = minor) (hbs : s.indirect c.fn c.raw = .ok bs)
    (himg : s.readImage t minor true bs = .ok (h, stages))
    (hroom : ∀ st ∈ stages, ∀ raw ∈ st.colls, s.collFull (State.collView t st.part h.arch raw) = false) :
    ∃ j u, s.loadNative c t = (u, some (.done, j)) ∧ u.isth = { s.isth with natives := s.isth.natives.set j ⟨t, stages, h.exportPerm, h.arch⟩ } ∧
      u.mem = s.mem ∧ u.net = s.net ∧ u.kv = s.kv ∧ u.ten = s.ten ∧
      ∀ p, (∀ st ∈ stages, ∀ lg ∈ st.holms, s.physOf? lg ≠ some p) → u.holm p = s.holm p := by
  have hany : ¬ (stages.any fun st => st.colls.any fun raw => s.collFull (collView t st.part h.arch raw)) = true := fun hno => by
    obtain ⟨st, hst, hno⟩ := List.any_eq_true.mp hno
    obtain ⟨raw, hraw, hno⟩ := List.any_eq_true.mp hno
    rw [hroom st hst raw hraw] at hno
    cases hno
  obtain ⟨hframe, hholm⟩ := installStages_installed stages (s.newHandle s.isth.natives.keys).2
  refine ⟨(s.newHandle s.isth.natives.keys).1, { (s.newHandle s.isth.natives.keys).2.installStages stages with
    isth := { ((s.newHandle s.isth.natives.keys).2.installStages stages).isth with
      natives := ((s.newHandle s.isth.natives.keys).2.installStages stages).isth.natives.set (s.newHandle s.isth.natives.keys).1
        ⟨t, stages, h.exportPerm, h.arch⟩ } }, ?_, ?_⟩
  · unfold loadNative
    rw [hbs]
    dsimp only
    rw [hm, himg]
    dsimp only
    rw [if_neg hany]
    rfl
  · refine ⟨?_, ?_, ?_, ?_, ?_, hholm⟩ <;> (rw [hframe]; rfl)

theorem runNative_of {n : Native} {r : CmdEff} (hn : s.isth.natives.get? (c.arg 32 4) = some n) (ht : n.tenant = t)
    (hstand : s.stagesStand t n.stages = true)
    (hr : (if (n.stages.flatMap (·.holms)).any s.holmInUse then s.fails .limit
      else if (n.stages.flatMap (·.holms)).any s.partPending then s.waits c
      else ((s.addWork { s.newWork .native (c.arg 32 4) t c ⟨0, n.exportPerm, false, n.arch⟩ n.stages with cmd := some c.name }).beginWork
        s.isth.nextWork, none)) = r) : s.runNative c t = r := by
  unfold runNative
  rw [hn, Option.filter_some, if_pos (beq_iff_eq.mpr ht)]
  dsimp only
  rw [if_neg (by rw [hstand]; decide)]
  exact hr

/-- A unit of work as it begins: its waves start (R225, R233, R284). -/
def startedWork (s : State) (w x : Work) : Work := { x with
  running := true, closeAt := none, status := .done, degraded := false, faults := [], landPos := [], keep := []
  barriers := freshBarriers x.stages, waves := [⟨.start, sortBy (fun a b => decide (a < b)) (s.workHolms w), 0, s.now⟩]
  ckptAt := (List.range x.stages.length).map fun i => (i, s.now), ckptCounts := [], opAt := [] }

theorem beginWork_eq (hw : s.work? i = some w) : ∃ rings colls, s.beginWork i =
    { s.modWork i (s.startedWork w) with net := { s.net with rings := rings, colls := colls } } := by
  unfold beginWork
  rw [hw]
  exact ⟨_, _, rfl⟩

/-- A native image's work begins at once: it has started, and no other work has changed. -/
theorem addWork_begins (hs : s.addWork w = b) : ∃ u v, b.beginWork s.isth.nextWork = u ∧ u.work? s.isth.nextWork = some v ∧ v.kind = w.kind ∧
    v.running = true ∧ v.tenant = w.tenant ∧ v.stages = w.stages ∧ v.cmd = w.cmd ∧ v.waves.map (·.kind) = [.start] ∧
    (∀ j, j ≠ s.isth.nextWork → u.work? j = s.work? j) ∧ u.holms = s.holms ∧ u.mem = s.mem ∧ u.kv = s.kv := by
  subst hs
  have hw : (s.addWork w).work? s.isth.nextWork = some w := AMap.get?_set_self _ _ _
  obtain ⟨rings, colls, heq⟩ := beginWork_eq hw
  refine ⟨_, (s.addWork w).startedWork w w, heq, ?_, rfl, rfl, rfl, rfl, rfl, rfl, fun j hj => ?_, rfl, rfl, rfl⟩
  · refine (AMap.get?_modify ..).trans ((if_pos rfl).trans ?_)
    exact congrArg _ hw
  · refine (AMap.get?_modify ..).trans ((if_neg hj).trans ?_)
    exact (AMap.get?_set ..).trans (if_neg hj)

theorem freeNative_done {n : Native} (hn : s.isth.natives.get? (c.arg 32 4) = some n) (ht : n.tenant = t)
    (hrun : ∀ d ∈ s.isth.cmds, d.opc = 0x0902 → d.live = true → d.arg 32 4 = c.arg 32 4 → c.id ≤ d.id)
    (hwork : ∀ e ∈ s.isth.works, e.2.kind = .native → e.2.handle ≠ c.arg 32 4) :
    s.freeNative c t = ({ s with isth := { s.isth with natives := s.isth.natives.del (c.arg 32 4) } } : State).ends 0 := by
  unfold freeNative
  dsimp only
  rw [hn, Option.filter_some, if_pos (beq_iff_eq.mpr ht)]
  refine if_neg ?_
  rintro (hno | hno)
  · obtain ⟨d, hd, hno⟩ := List.any_eq_true.mp hno
    simp only [Bool.and_eq_true, beq_iff_eq, decide_eq_true_eq] at hno
    obtain ⟨⟨⟨⟨hop, hlive⟩, harg⟩, -⟩, hlt⟩ := hno
    exact Nat.not_le.mpr hlt (hrun d hd hop hlive harg)
  · obtain ⟨e, he, hno⟩ := List.any_eq_true.mp hno
    simp only [Bool.and_eq_true, beq_iff_eq] at hno
    obtain ⟨⟨hkind, hhandle⟩, -⟩ := hno
    exact hwork e he hkind hhandle

end State
end Sys2Proof.Machine
end

section
namespace Sys2Proof.Proofs

open Sys2Proof.Machine Sys2Proof.Machine.State

variable {s : State} {fn q t : Nat} {c : Cmd} {i : Nat} {w : Work}

theorem planStart_of (hb : s.boundTo fn = some t) (hp : s.planOf? t (c.arg 32 4) = some (i, w)) (hs : s.starts 0x0502 fn q c) :
    let s0 := c.arg 40 8
    let b := s.begun c
    let ends (u : State) (st : Status) (r : Nat) : Prop := exec (.planStart fn q) s = .next (u.endCmd c.name st r false)
    let fits := w.started = false ∧ w.startCmd = none ∧ w.earliest ≤ s0 ∧ c.since + 2000 ≤ s.slackAt { w with s0 := s0 } 0 ∧
      ∀ lg ∈ s.workHolms w, s.holmPlanned lg = false
    (s0 % 1000 ≠ 0 → ends b .badCommand 0) ∧
    (s0 % 1000 = 0 → s.stagesStand t w.stages = false → ends b .noPermission 0) ∧
    (s0 % 1000 = 0 → s.stagesStand t w.stages = true → ¬ fits → ends b .limit 0) ∧
    (s0 % 1000 = 0 → s.stagesStand t w.stages = true → fits → exec (.planStart fn q) s = .next
      (b.modWork i fun x => { x with s0 := s0, startCmd := some c.name, stopping := false })) := by
  intro s0 b ends fits
  have heff := fun r => startPlan_of (s := b) (t := t) (c := c) (w := w) (i := i) (r := r) hp
  have hfits : ¬ (w.started ∨ w.startCmd.isSome ∨ s0 < w.earliest ∨ b.slackAt { w with s0 := s0 } 0 < c.since + 2000
      ∨ (b.workHolms w).any b.holmPlanned) ↔ fits := by
    rw [show b.slackAt { w with s0 := s0 } 0 = s.slackAt { w with s0 := s0 } 0 from rfl, show b.workHolms w = s.workHolms w from rfl,
      show b.holmPlanned = s.holmPlanned from rfl]
    simp [fits]
  refine ⟨fun hodd => ?_, fun hok hfallen => ?_, fun hok hstand hno => ?_, fun hok hstand hyes => ?_⟩
  · show execPlanStart fn q s = _
    exact runVf_ends hs hb (heff _ (if_pos hodd))
  · show execPlanStart fn q s = _
    refine runVf_ends hs hb (heff _ ((if_neg (not_not.mpr hok)).trans (if_pos ?_)))
    rw [show b.stagesStand t w.stages = false from hfallen]
    rfl
  · show execPlanStart fn q s = _
    refine runVf_ends hs hb (heff _ ((if_neg (not_not.mpr hok)).trans ((if_neg ?_).trans (if_pos ?_))))
    · rw [show b.stagesStand t w.stages = true from hstand]
      decide
    · exact not_not.mp fun hn => hno (hfits.mp hn)
  · show execPlanStart fn q s = _
    refine runVf_goesOn hs hb (heff _ ((if_neg (not_not.mpr hok)).trans ((if_neg ?_).trans (if_neg (hfits.mpr hyes)))))
    rw [show b.stagesStand t w.stages = true from hstand]
    decide

/-- Settles O47: each command reads what it needs, checks it in its order, and changes its unit of work alone. -/
theorem planCommands : Obligations.PlanCommands := by
  unfold Obligations.PlanCommands
  intro s fn q c t hb b ends minor k
  refine ⟨?badImage, ?submit, ?noPlan, ?plan, ?load, ?run, ?free⟩
  case badImage =>
    intro adm e hs he
    show execPlanSubmit fn q adm s = _
    exact runVf_ends hs hb (submitPlan_fails (s := b) rfl he)
  case submit =>
    intro adm bs h stages hs hbs himg terms
    have heff := submitPlan_of (s := b) (t := t) (adm := adm) rfl hbs himg
    refine ⟨fun hadm hterms => ?_, fun v hadm hterms => ?_, fun hno => ?_⟩
    · obtain ⟨j, w, u, hu, hrest⟩ := submitPlan_keeps (s := b) (t := t) (adm := adm) rfl hbs himg hadm hterms
      refine ⟨j, w, u, ?_, hrest⟩
      show execPlanSubmit fn q adm s = _
      exact runVf_ends hs hb hu
    · show execPlanSubmit fn q adm s = _
      refine runVf_ends hs hb (heff.trans ?_)
      rw [show b.stateTerms h.arch adm.power h.exportPerm stages = [] from hterms, planRefused_alone hadm]
      rfl
    · obtain ⟨r, hr⟩ := planRefused_some (s := b) (adm := adm) (terms := terms) hno
      refine ⟨r, ?_⟩
      show execPlanSubmit fn q adm s = _
      refine runVf_ends hs hb (heff.trans ?_)
      rw [show b.planRefused adm (b.stateTerms h.arch adm.power h.exportPerm stages) = _ from hr]
      rfl
  case noPlan =>
    intro hno
    have hnone : b.planOf? t (c.arg 32 4) = none := hno
    refine ⟨fun hs => ?_, fun hs => ?_, fun hs => ?_⟩
    · show execPlanStart fn q s = _
      exact runVf_ends hs hb (by unfold startPlan; rw [hnone]; rfl)
    · show execPlanStop fn q s = _
      exact runVf_ends hs hb (by unfold stopCmd; rw [hnone]; rfl)
    · show execPlanFree fn q s = _
      exact runVf_ends hs hb (by unfold freePlan; rw [hnone]; rfl)
  case plan =>
    intro i w hp
    refine ⟨fun hs => planStart_of hb hp hs, fun hs => ⟨fun hst hcmd => ?_, fun hon => ?_⟩, fun hs => ⟨fun hon => ?_, fun hst hcmd => ?_⟩, ?_⟩
    · show execPlanStop fn q s = _
      exact runVf_ends hs hb ((stopCmd_of (s := b) hp).trans (if_pos (by simp [hst, hcmd])))
    · show execPlanStop fn q s = _
      refine runVf_goesOn hs hb ((stopCmd_of (s := b) hp).trans (if_neg ?_))
      rcases hon with hst | hcmd
      · simp [hst]
      · simp [hcmd]
    · show execPlanFree fn q s = _
      refine runVf_ends hs hb ((freePlan_of (s := b) hp).trans (if_pos ?_))
      exact hon.imp id Option.isSome_iff_ne_none.mpr
    · obtain ⟨hframe, hquiet⟩ := checkExcess_frame (s := { b with isth := { b.isth with works := b.isth.works.del i } })
      refine ⟨({ b with isth := { b.isth with works := b.isth.works.del i } } : State).checkExcess, ?_, ?_⟩
      · show execPlanFree fn q s = _
        exact runVf_ends hs hb ((freePlan_of (s := b) hp).trans (if_neg (by simp [hst, hcmd])))
      · refine ⟨?_, ?_, ?_, ?_, ?_, ?_, fun hnone => (congrArg State.pow (hquiet hnone)).trans rfl⟩ <;> (rw [hframe]; rfl)
    · intro adm bs secs l hs hbs hsecs hne hown hadd hok hadm hterms u
      have heff := updatePlan_of (s := b) (t := t) (adm := adm) rfl hbs hsecs hne hown hp hadd hok hadm hterms
      refine ⟨fun hst => ?_, fun hst => ?_⟩
      · show execPlanStageUpdate fn q adm s = _
        exact runVf_goesOn hs hb (heff.trans (if_pos hst))
      · show execPlanStageUpdate fn q adm s = _
        exact runVf_ends hs hb (heff.trans (if_neg (by rw [hst]; decide)))
  case load =>
    intro bs h stages hs hbs himg hroom
    obtain ⟨j, u, hu, histh, hmem, hnet, hkv, hten, hholm⟩ := loadNative_of (s := b) (t := t) rfl hbs himg hroom
    refine ⟨j, u, ?_, by rw [histh]; rfl, by rw [histh]; rfl, hmem, hnet, hkv, hten, hholm⟩
    show execNativeLoad fn q s = _
    exact runVf_ends hs hb hu
  case run =>
    intro n hs hn hten hstand lgs
    have heff := fun r => runNative_of (s := b) (c := c) (n := n) (r := r) hn hten hstand
    refine ⟨fun hused => ?_, fun hfree => ?_⟩
    · show execNativeRun fn q s = _
      exact runVf_ends hs hb (heff _ (if_pos (List.any_eq_true.mpr hused)))
    · obtain ⟨u, v, hu, hv, hkind, hrun, htn, hstages, hcmd, hwaves, hothers, hholms, hmem, hkv⟩ := addWork_begins
        (s := b) (w := { b.newWork .native (c.arg 32 4) t c ⟨0, n.exportPerm, false, n.arch⟩ n.stages with cmd := some c.name }) rfl
      refine ⟨u, v, ?_, hv, hkind, hrun, htn, hstages, hcmd, hwaves, hothers, hholms, hmem, hkv⟩
      show execNativeRun fn q s = _
      refine runVf_goesOn hs hb (heff _ ((if_neg fun hno => ?_).trans ((if_neg fun hno => ?_).trans ?_)))
      · obtain ⟨lg, hlg, hno⟩ := List.any_eq_true.mp hno
        exact absurd (hno.symm.trans (hfree lg hlg).1) Bool.noConfusion
      · obtain ⟨lg, hlg, hno⟩ := List.any_eq_true.mp hno
        exact absurd (hno.symm.trans (hfree lg hlg).2) Bool.noConfusion
      · rw [hu]
  case free =>
    intro n hs hn hten hcmds hworks
    show execNativeFree fn q s = _
    refine runVf_ends hs hb (freeNative_done (s := b) hn hten ?_ hworks)
    intro d hd hop hlive harg
    obtain ⟨e, he, rfl⟩ := List.mem_map.mp hd
    by_cases hname : e.name = c.name
    · rw [if_pos hname]
      exact le_of_eq (congrArg (fun x : CmdId => x.2.2) hname).symm
    · rw [if_neg hname] at hop hlive harg ⊢
      exact hcmds e he hop hlive harg

end Sys2Proof.Proofs
end

section
/-! SUPPORT. What the collective engine's operations keep of a collective, of the others and of units of work (R401 to R421). -/

namespace Sys2Proof.Machine

namespace Coll

variable {c d e : Coll} {r : Nat} {f : ColEntry → ColEntry}

/-- A failure toward a rank, once recorded, stays. -/
def FailsStay (c d : Coll) : Prop := d.entries.length = c.entries.length ∧ ∀ r, c.failed r = true → d.failed r = true

theorem FailsStay.refl (c : Coll) : FailsStay c c := ⟨rfl, fun _ h => h⟩

theorem FailsStay.trans (h : FailsStay c d) (k : FailsStay d e) : FailsStay c e := ⟨k.1.trans h.1, fun r hr => k.2 r (h.2 r hr)⟩

theorem entry_modEntry : (c.modEntry r f).entry k = if k = r ∧ r < c.entries.length then f (c.entry k) else c.entry k := getD_modAt ..

theorem FailsStay.modEntry (hf : ∀ x : ColEntry, x.status.isDone = false → (f x).status.isDone = false) : FailsStay c (c.modEntry r f) := by
  refine ⟨modAt_length .., fun k hk => ?_⟩
  unfold failed at hk ⊢
  rw [entry_modEntry]
  split
  · rw [hf _ (by simpa using hk)]
    rfl
  · exact hk

/-- Pieces of a collective have been sent, or a failure recorded. -/
def Sends (c d : Coll) : Prop :=
  d = { c with entries := d.entries, outstanding := d.outstanding, sentTo := d.sentTo, credits := d.credits } ∧ FailsStay c d

theorem Sends.refl (c : Coll) : Sends c c := ⟨rfl, .refl c⟩

theorem Sends.trans (h : Sends c d) (k : Sends d e) : Sends c e := by
  obtain ⟨hcd, hf⟩ := h
  obtain ⟨hde, hg⟩ := k
  refine ⟨?_, hf.trans hg⟩
  rw [hcd] at hde
  exact hde

/-- Pieces of a collective have been sent, landed or combined, or a failure recorded. -/
def Moves (c d : Coll) : Prop :=
  d.raw = c.raw ∧ d.active = c.active ∧ d.done = c.done ∧ d.held = c.held ∧ d.emitted = c.emitted ∧ d.counts = c.counts ∧ FailsStay c d

theorem Moves.refl (c : Coll) : Moves c c := ⟨rfl, rfl, rfl, rfl, rfl, rfl, .refl c⟩

theorem Moves.trans (h : Moves c d) (k : Moves d e) : Moves c e := by
  obtain ⟨hraw, hactive, hdone, hheld, hemitted, hcounts, hf⟩ := h
  obtain ⟨hraw', hactive', hdone', hheld', hemitted', hcounts', hf'⟩ := k
  exact ⟨hraw'.trans hraw, hactive'.trans hactive, hdone'.trans hdone, hheld'.trans hheld, hemitted'.trans hemitted, hcounts'.trans hcounts,
    hf.trans hf'⟩

theorem Sends.moves (h : Sends c d) : Moves c d := by
  obtain ⟨heq, hf⟩ := h
  exact ⟨(congrArg Coll.raw heq).trans rfl, (congrArg Coll.active heq).trans rfl, (congrArg Coll.done heq).trans rfl,
    (congrArg Coll.held heq).trans rfl, (congrArg Coll.emitted heq).trans rfl, (congrArg Coll.counts heq).trans rfl, hf⟩

theorem Sends.grants (h : Sends c d) : d.grants = c.grants := (congrArg Coll.grants h.1).trans rfl

end Coll

/-- A unit of work is what it was. -/
def Work.Same (x y : Work) : Prop := y.kind = x.kind ∧ y.tenant = x.tenant ∧ y.cmd = x.cmd ∧ y.running = x.running

theorem Work.Same.refl (x : Work) : x.Same x := ⟨rfl, rfl, rfl, rfl⟩

theorem Work.Same.trans {x y z : Work} (h : x.Same y) (k : y.Same z) : x.Same z := by
  obtain ⟨hkind, hten, hcmd, hrun⟩ := h
  obtain ⟨hkind', hten', hcmd', hrun'⟩ := k
  exact ⟨hkind'.trans hkind, hten'.trans hten, hcmd'.trans hcmd, hrun'.trans hrun⟩

namespace State

variable {s t u : State} {i : Nat} {P Q : Coll → Coll → Prop}

/-- Of the collectives only one has changed, in a way of its own, and every unit of work is what it was. -/
structure Within (P : Coll → Coll → Prop) (i : Nat) (s u : State) : Prop where
  others : ∀ j, j ≠ i → u.coll? j = s.coll? j
  this : ∀ c, s.coll? i = some c → ∃ d, u.coll? i = some d ∧ P c d
  works : ∀ w x, s.work? w = some x → ∃ y, u.work? w = some y ∧ x.Same y

namespace Within

theorem mono (h : Within P i s u) (hPQ : ∀ {c d}, P c d → Q c d) : Within Q i s u :=
  ⟨h.others, fun c hc => let ⟨d, hd, hcd⟩ := h.this c hc; ⟨d, hd, hPQ hcd⟩, h.works⟩

theorem trans {R : Coll → Coll → Prop} (h : Within P i s t) (k : Within Q i t u) (hP : ∀ a b c, P a b → Q b c → R a c) : Within R i s u := by
  refine ⟨fun j hj => (k.others j hj).trans (h.others j hj), fun c hc => ?_, fun w x hx => ?_⟩
  · obtain ⟨d, hd, hcd⟩ := h.this c hc
    obtain ⟨e, he, hde⟩ := k.this d hd
    exact ⟨e, he, hP _ _ _ hcd hde⟩
  · obtain ⟨y, hy, hxy⟩ := h.works w x hx
    obtain ⟨z, hz, hyz⟩ := k.works w y hy
    exact ⟨z, hz, hxy.trans hyz⟩

theorem of (hP : ∀ c, P c c) (hcolls : u.net.colls = s.net.colls) (hworks : u.isth.works = s.isth.works) : Within P i s u := by
  refine ⟨fun j _ => congrArg (AMap.get? · j) hcolls, fun c hc => ⟨c, (congrArg (AMap.get? · i) hcolls).trans hc, hP c⟩, fun w x hx =>
    ⟨x, (congrArg (AMap.get? · w) hworks).trans hx, .refl x⟩⟩

theorem modColl {f : Coll → Coll} (hf : ∀ c, P c (f c)) : Within P i s (s.modColl i f) := by
  refine ⟨fun j hj => (AMap.get?_modify ..).trans (if_neg hj), fun c hc => ⟨f c, ?_, hf c⟩, fun w x hx => ⟨x, hx, .refl x⟩⟩
  refine (AMap.get?_modify ..).trans ((if_pos rfl).trans ?_)
  rw [show s.net.colls.get? i = some c from hc]
  rfl

theorem modWork {w : Nat} {f : Work → Work} (hP : ∀ c, P c c) (hf : ∀ x : Work, x.Same (f x)) : Within P i s (s.modWork w f) := by
  refine ⟨fun _ _ => rfl, fun c hc => ⟨c, hc, hP c⟩, fun v x hx => ?_⟩
  rw [work_modWork, hx]
  split
  · exact ⟨f x, rfl, hf x⟩
  · exact ⟨x, rfl, .refl x⟩

end Within

/-- Pieces of collective i have been sent, or a failure of it recorded. -/
abbrev CollSends (i : Nat) (s u : State) : Prop := Within Coll.Sends i s u

/-- Pieces of collective i have been sent, landed or combined, or a failure of it recorded. -/
abbrev CollMoves (i : Nat) (s u : State) : Prop := Within Coll.Moves i s u

theorem CollSends.refl (i : Nat) (s : State) : CollSends i s s := .of Coll.Sends.refl rfl rfl
theorem CollMoves.refl (i : Nat) (s : State) : CollMoves i s s := .of Coll.Moves.refl rfl rfl
theorem CollSends.trans (h : CollSends i s t) (k : CollSends i t u) : CollSends i s u := Within.trans h k fun _ _ _ => Coll.Sends.trans
theorem CollMoves.trans (h : CollMoves i s t) (k : CollMoves i t u) : CollMoves i s u := Within.trans h k fun _ _ _ => Coll.Moves.trans
theorem CollSends.modColl {f : Coll → Coll} (hf : ∀ c, Coll.Sends c (f c)) : CollSends i s (s.modColl i f) := Within.modColl hf
theorem CollMoves.modColl {f : Coll → Coll} (hf : ∀ c, Coll.Moves c (f c)) : CollMoves i s (s.modColl i f) := Within.modColl hf
theorem CollSends.moves (h : CollSends i s u) : CollMoves i s u := h.mono Coll.Sends.moves

/-- What only hands transfers to ports changes no collective and no unit of work. -/
theorem Sending.collSends (h : Sending s u) : CollSends i s u :=
  .of Coll.Sends.refl ((congrArg (fun x : State => x.net.colls) h.1).trans rfl) ((congrArg (fun x : State => x.isth.works) h.1).trans rfl)

theorem Sending.sendAbort {arch dst chan body : Nat} {ps : List Nat} : Sending s (s.sendAbort arch dst chan ps body) := by
  unfold State.sendAbort
  split
  · exact .refl s
  · split
    · exact (Sending.xid ..).trans (.leave ..)
    · exact .refl s

theorem Sending.sendPieceOn {arch : Nat} {p : Piece} {o : XOwner} (h : s.sendPieceOn arch p o = .ok u) : Sending s u := by
  unfold State.sendPieceOn at h
  split at h
  · cases h
  · dsimp only at h
    split at h
    · cases h
    · split at h
      · cases h
      · rename_i hx
        exact (Sending.writeXfer hx).trans (.sendXfer h)

/-! ### Sends and failures (R407, R416, R421) -/

theorem recordFail_sends {r : Nat} {st : Status} : CollSends i s (s.recordFail i r st) := by
  refine Within.modColl fun c => ⟨rfl, Coll.FailsStay.modEntry fun x hx => ?_⟩
  rw [if_neg (by rw [hx]; decide)]
  exact hx

theorem abortAll_sends {c : Coll} {r : Nat} {st : Status} : CollSends i s (s.abortAll c r st) := by
  refine List.foldlRecOn _ _ (.refl i s) fun t ht d _ => ?_
  split
  · exact ht
  · split
    · exact ht.trans Sending.sendAbort.collSends
    · exact ht

theorem collFail_sends {r : Nat} {st : Status} : CollSends i s (s.collFail i r st) := by
  unfold collFail
  split
  · exact .refl i s
  · exact ite_ind (P := CollSends i s) (.refl i s) (recordFail_sends.trans abortAll_sends)

theorem sendShip_sends {c : Coll} {d : Nat} {x : Ship} {bs : List Nat} : CollSends i s (s.sendShip i c d x bs) := by
  unfold sendShip
  split
  · exact collFail_sends
  · split
    · exact collFail_sends
    · rename_i hsent
      exact (Sending.sendPieceOn hsent).collSends.trans (CollSends.modColl fun c => ⟨rfl, .refl c⟩)

theorem giveCredits_sends {d n : Nat} : CollSends i s (s.giveCredits i d n) := by
  unfold giveCredits
  split
  · exact .refl i s
  · exact ite_ind (P := CollSends i s) (.refl i s) sendShip_sends

theorem pumpTo_sends {d n : Nat} (s : State) : CollSends i s (pumpTo i d n s) := by
  induction n generalizing s with
  | zero => exact .refl i s
  | succ n ih =>
    unfold pumpTo
    split
    · exact .refl i s
    · rename_i c hc
      dsimp only
      split
      · exact .refl i s
      · split
        · exact .refl i s
        · split
          · refine (CollSends.modColl ?_).trans collFail_sends
            exact fun c => ⟨rfl, .refl c⟩
          · refine ((CollSends.modColl ?_).trans sendShip_sends).trans (ih _)
            exact fun c => ⟨rfl, .refl c⟩

theorem pumpColl_sends : CollSends i s (s.pumpColl i) := by
  unfold pumpColl
  split
  · exact .refl i s
  · refine ite_ind (P := CollSends i s) (.refl i s) (List.foldlRecOn _ _ (.refl i s) fun t ht d _ => ?_)
    exact ite_ind (P := CollSends i s) ht (ht.trans (pumpTo_sends t))

/-! ### Landings in the own output (R406, R407, R414, R488) -/

theorem wakeHolm_works {p : Nat} : (s.wakeHolm p).net = s.net ∧ (s.wakeHolm p).isth = s.isth := by
  unfold wakeHolm wakeDomain
  refine ite_ind (P := fun t : State => t.net = s.net ∧ t.isth = s.isth) ?_ ⟨rfl, rfl⟩
  refine List.foldlRecOn (motive := fun t : State => t.net = s.net ∧ t.isth = s.isth) _ _ ⟨rfl, rfl⟩ fun t ht p _ => ?_
  exact ite_ind (P := fun t : State => t.net = s.net ∧ t.isth = s.isth) ht ht

theorem memWrite_works {tn a : Nat} {bs : List Nat} (h : s.memWrite tn a bs = .ok u) : u.net = s.net ∧ u.isth = s.isth := by
  unfold memWrite at h
  split at h
  · cases h
  · split at h
    · cases h
    · cases h
      exact ⟨rfl, rfl⟩

theorem land_works {tg : Target} {bs : List Nat} (h : s.land tg bs = .ok u) : u.net = s.net ∧ u.isth = s.isth := by
  unfold land at h
  split at h
  · cases h
    exact ⟨rfl, rfl⟩
  · cases h
    refine List.foldlRecOn (motive := fun t : State => t.net = s.net ∧ t.isth = s.isth) _ _ ⟨rfl, rfl⟩ fun t ht p _ => ?_
    obtain ⟨hnet, histh⟩ := wakeHolm_works (s := t) (p := p)
    exact ⟨hnet.trans ht.1, histh.trans ht.2⟩
  · exact memWrite_works h

theorem countArrival_works {tg : Target} : (s.countArrival tg).net = s.net ∧ (s.countArrival tg).isth = s.isth := by
  unfold countArrival
  split
  · exact List.foldlRecOn (motive := fun t : State => t.net = s.net ∧ t.isth = s.isth) _ _ ⟨rfl, rfl⟩ fun t ht p _ => ht
  · exact ⟨rfl, rfl⟩

theorem CollMoves.of (hu : u.net = s.net ∧ u.isth = s.isth) : CollMoves i s u :=
  Within.of Coll.Moves.refl (by rw [hu.1]) (by rw [hu.2])

theorem keepPiece_moves {tg : Target} {bs : List Nat} : CollMoves i s (s.keepPiece tg bs) := by
  unfold keepPiece
  split
  · refine List.foldlRecOn _ _ (.refl i s) fun t ht p _ => ?_
    split
    · exact ht
    · refine ht.trans (Within.modWork Coll.Moves.refl fun x => ?_)
      split
      · exact ite_ind (P := x.Same) (.refl x) ⟨rfl, rfl, rfl, rfl⟩
      · exact .refl x
  · exact .refl i s

theorem putOut_moves {c : Coll} {off : Nat} {bs : List Nat} (h : s.putOut c off bs = .ok u) : CollMoves i s u := by
  unfold putOut at h
  split at h
  · cases h
  · split at h
    · cases h
    · rename_i hland
      cases h
      exact ((CollMoves.of (land_works hland)).trans (.of countArrival_works)).trans keepPiece_moves

theorem landOwn_moves {off n : Nat} {bs : Except Status (List Nat)} : CollMoves i s (s.landOwn i off bs n) := by
  unfold landOwn
  split
  · exact .refl i s
  · split
    · exact collFail_sends.moves
    · split
      · exact collFail_sends.moves
      · rename_i hput
        refine (putOut_moves hput).trans (.modColl fun c => ⟨rfl, rfl, rfl, rfl, rfl, rfl, .modEntry fun x hx => hx⟩)

theorem putProv_moves {at_ v : Nat} : CollMoves i s (s.putProv i at_ v) := by
  unfold putProv
  split
  · exact .refl i s
  · split
    · rename_i hw
      exact .of (memWrite_works hw)
    · exact collFail_sends.moves

theorem landRows_moves {src off : Nat} {bs : Except Status (List Nat)} {es : List Nat} : CollMoves i s (s.landRows i src off bs es) := by
  unfold landRows
  split
  · exact .refl i s
  · split
    · exact collFail_sends.moves
    · split
      · exact collFail_sends.moves
      · rename_i hput
        refine (List.foldlRecOn (motive := fun t => CollMoves i s t) _ _ (putOut_moves hput) fun t ht e _ => ht.trans putProv_moves).trans
          (.modColl fun c => ⟨rfl, rfl, rfl, rfl, rfl, rfl, .modEntry fun x hx => hx⟩)

theorem ownCopies_moves : CollMoves i s (s.ownCopies i) := by
  unfold ownCopies
  split
  · exact .refl i s
  · rename_i c hc
    have hcopy : ∀ (t : State) (src dst : Nat), CollMoves i t ((Coll.cut c.block).foldl (fun (s : State) (o, l) =>
        s.landOwn i (dst + o) (s.readPart c 0 (src + o) l) 1) t) := fun t src dst =>
      List.foldlRecOn _ _ (.refl i t) fun u hu e _ => hu.trans landOwn_moves
    dsimp only
    split
    · exact ite_ind (P := CollMoves i s) (hcopy ..) (.refl i s)
    · exact ite_ind (P := CollMoves i s) (.refl i s) (hcopy ..)
    · split
      · exact hcopy ..
      · refine List.foldlRecOn _ _ (.refl i s) fun t ht e _ => ht.trans ?_
        split
        · exact .refl i t
        · refine ite_ind (P := CollMoves i t) collFail_sends.moves (landOwn_moves.trans (.modColl fun c => ?_))
          exact ⟨rfl, rfl, rfl, rfl, rfl, rfl, .refl c⟩
      · exact .refl i s
    · exact .refl i s

/-! ### Reductions and grants (R410, R412, R414) -/

theorem combinePiece_moves {n : Nat} : CollMoves i s (s.combinePiece i n) := by
  unfold combinePiece
  split
  · exact .refl i s
  · rename_i c hc
    dsimp only
    split
    · exact collFail_sends.moves
    · refine ite_ind (P := CollMoves i s) (.refl i s) (ite_ind (P := CollMoves i s) collFail_sends.moves ?_)
      have hfirst : CollMoves i s (s.modColl i fun c =>
          { c.modEntry c.rank (fun e => { e with landed := e.landed + c.parts }) with finished := n :: c.finished }) :=
        .modColl fun d => ⟨rfl, rfl, rfl, rfl, rfl, rfl, .modEntry fun x hx => hx⟩
      split
      · refine hfirst.trans (.modColl ?_)
        exact fun d => ⟨rfl, rfl, rfl, rfl, rfl, rfl, .refl d⟩
      · split
        · exact hfirst.trans collFail_sends.moves
        · rename_i hput
          refine (hfirst.trans (putOut_moves hput)).trans (.modColl ?_)
          exact fun d => ⟨rfl, rfl, rfl, rfl, rfl, rfl, .refl d⟩

theorem mergeAll_moves : CollMoves i s (s.mergeAll i) := by
  unfold mergeAll
  split
  · exact .refl i s
  · refine ite_ind (P := CollMoves i s) (.refl i s) (.trans (List.foldlRecOn _ _ (.refl i s) fun t ht r _ => ht.trans ?_)
      (.modColl fun d => ⟨rfl, rfl, rfl, rfl, rfl, rfl, .refl d⟩))
    dsimp only
    split
    · rename_i hput
      exact putOut_moves hput
    · exact collFail_sends.moves

theorem combineLocal_moves : CollMoves i s (s.combineLocal i) := by
  unfold combineLocal
  split
  · exact .refl i s
  · exact ite_ind (P := CollMoves i s) (.refl i s)
      (.trans (List.foldlRecOn _ _ (.refl i s) fun t ht k _ => ht.trans combinePiece_moves) mergeAll_moves)

theorem grantRows_moves : CollMoves i s (s.grantRows i) := by
  unfold grantRows
  split
  · exact .refl i s
  · dsimp only
    refine ite_ind (P := CollMoves i s) (.refl i s) (List.foldlRecOn _ _ (List.foldlRecOn _ _ ?_ ?_) ?_)
    · exact .modColl fun d => ⟨rfl, rfl, rfl, rfl, rfl, rfl, .refl d⟩
    · exact fun t ht b _ => List.foldlRecOn _ _ ht fun u hu k _ => hu.trans putProv_moves
    · intro t ht e _
      exact ite_ind (P := CollMoves i s) (ht.trans (.modColl fun d => ⟨rfl, rfl, rfl, rfl, rfl, rfl, .refl d⟩)) (ht.trans sendShip_sends.moves)

theorem takeGrant_moves {d : Nat} {g : List (Nat × Nat)} : CollMoves i s (s.takeGrant i d g) := by
  unfold takeGrant
  split
  · exact .refl i s
  · exact .modColl fun c => ⟨rfl, rfl, rfl, rfl, rfl, rfl, .modEntry fun x hx => hx⟩

theorem ownRows_moves : CollMoves i s (s.ownRows i) := by
  unfold ownRows
  split
  · exact .refl i s
  · split
    · exact .refl i s
    · refine ite_ind (P := CollMoves i s) (.refl i s) (.trans ?_ (.modColl fun d => ⟨rfl, rfl, rfl, rfl, rfl, rfl, .refl d⟩))
      exact List.foldlRecOn _ _ takeGrant_moves fun t ht e _ => ht.trans landRows_moves

end State
end Sys2Proof.Machine
end

section
/-! SUPPORT. A collective becomes active, and commands of families 0x06 and 0x0704 (R20, R402 to R404, R434, R439, R441). -/

namespace Sys2Proof.Machine

namespace Coll

variable {c d e : Coll}

/-- The same descriptor, as far as it has come: active or not, done or not. -/
def Stays (c d : Coll) : Prop := d.raw = c.raw ∧ d.active = c.active ∧ d.done = c.done

theorem Stays.trans (h : Stays c d) (k : Stays d e) : Stays c e := ⟨k.1.trans h.1, k.2.1.trans h.2.1, k.2.2.trans h.2.2⟩

theorem Moves.stays (h : Moves c d) : Stays c d := by
  obtain ⟨hraw, hactive, hdone, -⟩ := h
  exact ⟨hraw, hactive, hdone⟩

/-- The same descriptor, active now. -/
def Activates (c d : Coll) : Prop := d.raw = c.raw ∧ d.active = true ∧ d.done = c.done

theorem Activates.trans (h : Activates c d) (k : Stays d e) : Activates c e := ⟨k.1.trans h.1, k.2.1.trans h.2.1, k.2.2.trans h.2.2⟩

end Coll

namespace State

variable {s t u : State} {i : Nat}

theorem CollMoves.stays (h : CollMoves i s u) : Within Coll.Stays i s u := h.mono Coll.Moves.stays

theorem touch_moves {w tn : Nat} {rs : List (Nat × Nat)} : CollMoves i s (s.touch w tn rs) := by
  unfold touch
  exact ite_ind (P := CollMoves i s) (Within.modWork Coll.Moves.refl fun x => ⟨rfl, rfl, rfl, rfl⟩) (.refl i s)

/-- A collective that is not active yet becomes active; no other collective changes, and no unit of work but for a mark (R402, R416). -/
theorem activateColl_activates {c : Coll} (hc : s.coll? i = some c) (hidle : c.active = false) : Within Coll.Activates i s (s.activateColl i) := by
  unfold activateColl
  rw [hc]
  dsimp only
  rw [if_neg (by rw [hidle]; decide)]
  have hs0 : Within Coll.Stays i s (if c.srcSpad then s else s.touch c.work c.tenant ((List.range c.parts).map fun j =>
      (c.src + j * c.srcStride, collSrcBytes c))) := ite_ind (P := Within Coll.Stays i s) (CollMoves.refl i s).stays touch_moves.stays
  generalize (if c.srcSpad then s else s.touch c.work c.tenant ((List.range c.parts).map fun j =>
    (c.src + j * c.srcStride, collSrcBytes c))) = s0 at hs0 ⊢
  have hs1 : Within Coll.Activates i s (s0.modColl i fun x => { x with active := true, entries := List.replicate x.n ⟨.done, 0, 0⟩ }) :=
    Within.trans hs0 (Within.modColl (P := Coll.Activates) fun x => ⟨rfl, rfl, rfl⟩) fun _ _ _ hab hbd =>
      ⟨hbd.1.trans hab.1, hbd.2.1, hbd.2.2.trans hab.2.2⟩
  generalize s0.modColl i (fun x => { x with active := true, entries := List.replicate x.n ⟨.done, 0, 0⟩ }) = s1 at hs1 ⊢
  have hrest : ∀ {u v}, Within Coll.Activates i s u → Within Coll.Stays i u v → Within Coll.Activates i s v := fun hu hv =>
    Within.trans hu hv fun _ _ _ => Coll.Activates.trans
  split
  · exact hrest hs1 collFail_sends.moves.stays
  · have hs2 := hrest hs1 (ite_ind (c := c.collects = true) (P := Within Coll.Stays i s1) (CollMoves.stays (List.foldlRecOn (List.range c.n) _ (.refl ..) fun t ht d _ =>
      ht.trans (giveCredits_sends (d := d) (n := c.slots)).moves)) (CollMoves.refl i s1).stays)
    refine hrest (ite_ind (P := Within Coll.Activates i s) (hrest (hrest hs2 (Within.modColl ?_)) grantRows_moves.stays) hs2)
      (((ownCopies_moves.trans ownRows_moves).trans combineLocal_moves).trans pumpColl_sends.moves).stays
    exact fun x => ⟨rfl, rfl, rfl⟩

/-- One-shot work of a COLLECTIVE command: it has begun, with its collective active (R402, R419). -/
theorem startColl_starts {w : Work} {k ord part raw : Nat} (hw : s.work? k = some w) : ∃ v x, (s.startColl k 0 ord part raw).work? k = some v ∧
    w.Same v ∧ (s.startColl k 0 ord part raw).coll? (unitKey k 0 ord) = some x ∧ x.active = true ∧ x.raw = raw ∧ x.done = false ∧
    ∀ j, j ≠ unitKey k 0 ord → (s.startColl k 0 ord part raw).coll? j = s.coll? j := by
  unfold startColl
  rw [hw]
  dsimp only
  obtain ⟨hothers, hthis, hworks⟩ := activateColl_activates
    (s := { s with net := { s.net with colls := s.net.colls.set (unitKey k 0 ord) (Coll.fresh k 0 ord w.tenant part w.arch raw w.tide) } })
    (i := unitKey k 0 ord) (AMap.get?_set_self _ _ _) rfl
  obtain ⟨v, hv, hsame⟩ := hworks k w hw
  obtain ⟨x, hx, hraw, hactive, hdone⟩ := hthis _ (AMap.get?_set_self _ _ _)
  exact ⟨v, x, hv, hsame, hx, hactive, hraw, hdone, fun j hj => (hothers j hj).trans ((AMap.get?_set ..).trans (if_neg hj))⟩

/-! ### GEMM, ATTEND and BATCH (R20, R439, R441) -/

section
variable {tn : Nat} {c : Cmd} {adm : Option Verdict} {fn q code : Nat}

/-- A command that waits has started, and is accepted again. -/
theorem runVf_waitsOn {f : State → Cmd → Nat → CmdEff} (h : s.starts code fn q c) (hb : s.boundTo fn = some tn)
    (hf : f (s.begun c) c tn = (s.begun c).waits c) : ∃ u, runVf code fn q s f = .next u ∧
      u = { s with isth := { s.isth with cmds := u.isth.cmds } } ∧ ∃ d ∈ u.isth.cmds, d.name = c.name ∧ d.st = .accepted := by
  refine ⟨_, runVf_goesOn h hb hf, rfl, { c with st := .accepted }, ?_, rfl, rfl⟩
  obtain ⟨hmem, -⟩ := starts_mem h
  refine List.mem_map.mpr ⟨{ c with st := .running }, List.mem_map.mpr ⟨c, hmem, if_pos rfl⟩, if_pos rfl⟩

theorem workCmd_fails {e : Status} (h : s.entryErr tn c.raw = some e) : s.workCmd c tn adm = s.fails e := by
  unfold workCmd
  rw [h]

theorem workCmd_waits (h : s.entryErr tn c.raw = none) (hb : c.bounded = false) (hn : s.needsHolm c tn = true) : s.workCmd c tn adm = s.waits c := by
  unfold workCmd
  rw [h]
  exact (admitted_unbounded hb).trans (if_pos hn)

theorem workCmd_runs {st : Status} (h : s.entryErr tn c.raw = none) (hb : c.bounded = false) (hn : s.needsHolm c tn = false)
    (hr : s.runEntry tn c.raw = (u, st)) : s.workCmd c tn adm = (u, some (st, 0)) := by
  unfold workCmd
  rw [h]
  refine (admitted_unbounded hb).trans ((if_neg (by rw [hn]; decide)).trans ?_)
  rw [hr]

/-- A GEMM whose operands are readable and whose result is written ends well (R441). -/
theorem gemmOp_writes {g : Gemm} {xs ys zs : List Nat} (hx : s.argRead (some tn) g.a (g.m * g.k * g.aFmt.width / 8) = .ok xs)
    (hy : s.argRead (some tn) g.b (g.n * g.k * g.bFmt.width / 8) = .ok ys) (hnone : g.init = 0 → zs = [])
    (hz : g.init ≠ 0 → s.argRead (some tn) g.init (4 * g.m * g.n) = .ok zs)
    (hw : s.argWrite (some tn) g.c ((List.range g.m).flatMap fun r => (List.range g.n).flatMap fun j =>
      toBytes (toCode g.cFmt g.sat (g.val xs ys zs r j)) (g.cFmt.width / 8)) = .ok u) :
    ∃ st, st.isDone = true ∧ s.gemmOp tn g = (u, st) := by
  have hinit : (if g.init = 0 then .ok [] else s.argRead (some tn) g.init (4 * g.m * g.n)) = .ok zs := by
    split
    · rename_i h0
      rw [hnone h0]
    · rename_i h0
      exact hz h0
  unfold gemmOp
  dsimp only
  rw [hx, hy, hinit]
  dsimp only
  rw [hw]
  exact ⟨_, doneOr_done _, rfl⟩

theorem batchCmd_of {bs : List Nat} {r : CmdEff} (hbs : s.indirect c.fn c.raw = .ok bs)
    (hr : (if bs.isEmpty ∨ bs.length % 128 ≠ 0 ∨ 32768 < bs.length then (s, some (.badCommand, 0xFFFF))
      else match s.batchErr tn (((s.que? c.fn c.q).map (·.minor)).getD 4) (fld c.raw 18 2) ((chunks 128 bs).map ofBytes) 0 with
        | some (i, e) => (s, some (e, i))
        | none => s.admitted c tn adm (if s.needsHolm c tn then s.waits c else runBatch tn ((chunks 128 bs).map ofBytes) 0 false s)) = r) :
    s.batchCmd c tn adm = r := by
  unfold batchCmd
  rw [hbs]
  exact hr

/-- The entries of a batch run in order up to the first that fails (R439). -/
theorem runBatch_cons {raw k : Nat} {rest : List Nat} {low : Bool} {st : Status} (h : s.runEntry tn raw = (u, st)) :
    runBatch tn (raw :: rest) k low s = if st.isDone then runBatch tn rest (k + 1) (low || st == .doneDegraded) u else (u, some (st, k)) := by
  rw [runBatch, h]

/-- A status that is good is DONE or DONE_DEGRADED. -/
theorem isDone_low {st : Status} (h : st.isDone = true) : (if st == .doneDegraded then Status.doneDegraded else .done) = st := by
  cases st with
  | done => rfl
  | doneDegraded => rfl
  | _ => cases h

theorem collCmd_of {bs : List Nat} {raw part : Nat} {v : Coll} {mode : Nat → Nat} {r : CmdEff} (hbs : s.indirect c.fn c.raw = .ok bs)
    (hraw : ofBytes bs = raw) (hpart : s.collPart tn = part) (hv : State.collView tn part (s.collArch tn raw) raw = v)
    (hmode : mode = fun line => match ((s.ten.parts.get? part).bind fun p => p.holms[v.srcHolm]?).bind s.physOf? with
      | some p => (s.holm p).modeOf line
      | none => 0)
    (hr : (if bs.length ≠ 128 ∨ (((s.que? c.fn c.q).map (·.minor)).getD 4 < 4 ∧ collIsNew raw) then s.fails .badCommand
      else match s.collErr mode v with
        | some e => s.fails e
        | none => if s.collFull v then s.fails .limit else s.admitted c tn adm
          (((s.addWork { s.newWork .abstract 0 tn c ⟨0, false, false, s.collArch tn raw⟩ [] with cmd := some c.name, running := true }).startColl
            s.isth.nextWork 0 opOrd part raw, none))) = r) : s.collCmd c tn adm = r := by
  subst hraw hpart hv hmode
  unfold collCmd
  rw [hbs]
  exact hr

end

end State
end Sys2Proof.Machine
end

section
namespace Sys2Proof.Proofs

open Sys2Proof.Machine Sys2Proof.Machine.State

variable {s : State} {fn q t : Nat} {c : Cmd} {adm : Option Verdict}

theorem batch_runs {bs : List Nat} (hb : s.boundTo fn = some t) (hs : s.starts 0x0603 fn q c) (hbs : (s.begun c).indirect c.fn c.raw = .ok bs) :
    let b := s.begun c
    let ends (u : State) (st : Status) (r : Nat) : Prop := exec (.batch fn q adm) s = .next (u.endCmd c.name st r false)
    let es := (chunks 128 bs).map ofBytes
    let minor := ((s.que? c.fn c.q).map (·.minor)).getD 4
    (bs = [] ∨ bs.length % 128 ≠ 0 ∨ 32768 < bs.length → ends b .badCommand 0xFFFF) ∧
    (bs ≠ [] → bs.length % 128 = 0 → bs.length ≤ 32768 →
      (∀ i e, b.batchErr t minor (fld c.raw 18 2) es 0 = some (i, e) → ends b e i) ∧
      (b.batchErr t minor (fld c.raw 18 2) es 0 = none → c.bounded = false → s.needsHolm c t = false →
        (∀ u st, es.head?.map (b.runEntry t) = some (u, st) → st.isDone = false → ends u st 0) ∧
        (∀ u st, es.length = 1 → es.head?.map (b.runEntry t) = some (u, st) → st.isDone = true → ends u st 0xFFFF) ∧
        (∀ u st v z, es.length = 2 → es.head?.map (b.runEntry t) = some (u, st) → st.isDone = true →
          es.getLast?.map (u.runEntry t) = some (v, z) → z.isDone = false → ends v z 1))) := by
  intro b ends es minor
  have heff := fun r => batchCmd_of (s := b) (tn := t) (adm := adm) (r := r) hbs
  have hends : ∀ {u : State} {st : Status} {r : Nat}, b.batchCmd c t adm = (u, some (st, r)) → ends u st r := fun h => by
    show execBatch fn q adm s = _
    exact runVf_ends hs hb h
  refine ⟨fun hbad => hends (heff _ (if_pos ?_)), fun hne hwhole hlen => ?_⟩
  · exact hbad.imp_left List.isEmpty_iff.mpr
  · have hok : ¬ (bs.isEmpty ∨ bs.length % 128 ≠ 0 ∨ 32768 < bs.length) := by
      rintro (hno | hno | hno)
      · exact hne (List.isEmpty_iff.mp hno)
      · exact hno hwhole
      · exact Nat.not_lt.mpr hlen hno
    refine ⟨fun i e he => hends (heff _ ((if_neg hok).trans ?_)), fun hgood hbounded hholm => ?_⟩
    · rw [show b.batchErr t (((b.que? c.fn c.q).map (·.minor)).getD 4) (fld c.raw 18 2) ((chunks 128 bs).map ofBytes) 0 = some (i, e) from he]
    · have hrun : b.batchCmd c t adm = runBatch t es 0 false b := by
        refine heff _ ((if_neg hok).trans ?_)
        rw [show b.batchErr t (((b.que? c.fn c.q).map (·.minor)).getD 4) (fld c.raw 18 2) ((chunks 128 bs).map ofBytes) 0 = none from hgood]
        exact (admitted_unbounded hbounded).trans (if_neg (by rw [show b.needsHolm c t = false from hholm]; decide))
      refine ⟨fun u st hu hst => hends (hrun.trans ?_), fun u st hone hu hst => hends (hrun.trans ?_),
        fun u st v z htwo hu hst hv hz => hends (hrun.trans ?_)⟩
      · obtain ⟨raw, hraw, hu⟩ := Option.map_eq_some_iff.mp hu
        obtain ⟨rest, hes⟩ := List.head?_eq_some_iff.mp hraw
        rw [hes, runBatch_cons hu, if_neg (by rw [hst]; decide)]
      · obtain ⟨raw, hes⟩ := List.length_eq_one_iff.mp hone
        rw [hes] at hu ⊢
        rw [runBatch_cons (Option.some.inj hu), if_pos hst, runBatch]
        exact congrArg (fun x => (u, some (x, 0xFFFF))) (isDone_low hst)
      · obtain ⟨raw, last, hes⟩ := List.length_eq_two.mp htwo
        rw [hes] at hu hv ⊢
        have hlast : u.runEntry t last = (v, z) := Option.some.inj hv
        rw [runBatch_cons (Option.some.inj hu), if_pos hst, runBatch_cons hlast, if_neg (by rw [hz]; decide)]

/-- Settles O48: a command waits, or runs whole on the state it has found; a COLLECTIVE's own work keeps what it began with. -/
theorem workCommands : Obligations.WorkCommands := by
  unfold Obligations.WorkCommands
  intro s fn q c t adm hb b ends waits
  refine ⟨fun hs => ?gemm, fun hs => ?attend, fun hs => ⟨fun e he => ?_, fun bs hbs => batch_runs hb hs hbs⟩, fun hs bs hbs => ?collective⟩
  case gemm =>
    have hentry : b.entryErr t c.raw = s.gemmErr t c.raw := if_pos hs.2.1
    refine ⟨fun e he => ?_, fun hok hbounded hholm => ?_, fun g xs ys zs u hok hbounded hholm hg hx hy hnone hz hw => ?_⟩
    · show execGemm fn q adm s = _
      exact runVf_ends hs hb (workCmd_fails (hentry.trans he))
    · exact runVf_waitsOn (f := fun s c t => s.workCmd c t adm) hs hb (workCmd_waits (hentry.trans hok) hbounded hholm)
    · obtain ⟨st, hst, hop⟩ := gemmOp_writes (s := b) hx hy hnone hz hw
      refine ⟨st, hst, ?_⟩
      show execGemm fn q adm s = _
      refine runVf_ends hs hb (workCmd_runs (hentry.trans hok) hbounded hholm ((if_pos hs.2.1).trans ?_))
      rw [hg]
      exact hop
  case attend =>
    have hcode : ¬ fld c.raw 0 16 = 0x0602 := fun hno => absurd (hno.symm.trans hs.2.1) (by decide)
    have hentry : b.entryErr t c.raw = s.attendErr t c.raw := if_neg hcode
    refine ⟨fun e he => ?_, fun hok hbounded hholm => ?_, fun a u st hok hbounded hholm ha hop => ?_⟩
    · show execAttend fn q adm s = _
      exact runVf_ends hs hb (workCmd_fails (hentry.trans he))
    · exact runVf_waitsOn (f := fun s c t => s.workCmd c t adm) hs hb (workCmd_waits (hentry.trans hok) hbounded hholm)
    · show execAttend fn q adm s = _
      refine runVf_ends hs hb (workCmd_runs (hentry.trans hok) hbounded hholm ((if_neg hcode).trans ?_))
      rw [ha]
      exact hop
  · show execBatch fn q adm s = _
    refine runVf_ends hs hb ?_
    unfold batchCmd
    rw [he]
  case collective =>
    intro raw part v mode
    have heff := fun r => collCmd_of (s := b) (tn := t) (adm := adm) (c := c) (raw := raw) (part := part) (v := v) (mode := mode) (r := r) hbs rfl rfl rfl rfl
    have hends : ∀ {u : State} {st : Status} {r : Nat}, b.collCmd c t adm = (u, some (st, r)) → ends (.collective fn q adm) u st r := fun h => by
      show execCollective fn q adm s = _
      exact runVf_ends hs hb h
    have hgood : bs.length = 128 → collIsNew raw = false →
        ¬ (bs.length ≠ 128 ∨ (((b.que? c.fn c.q).map (·.minor)).getD 4 < 4 ∧ collIsNew raw)) := fun hlen hnew =>
      not_or.mpr ⟨not_not.mpr hlen, fun hno => by rw [hnew] at hno; cases hno.2⟩
    refine ⟨fun hlen => hends (heff _ (if_pos (.inl hlen))), fun e hlen hnew he => hends (heff _ ((if_neg (hgood hlen hnew)).trans ?_)),
      fun hlen hnew hok hfull => hends (heff _ ((if_neg (hgood hlen hnew)).trans ?_)), fun hlen hnew hok hroom hbounded => ?_⟩
    · rw [he]
      rfl
    · rw [hok]
      exact if_pos hfull
    · obtain ⟨w, x, hw, hsame, hx, hactive, hraw, hdone, hothers⟩ := startColl_starts
        (s := b.addWork { b.newWork .abstract 0 t c ⟨0, false, false, b.collArch t raw⟩ [] with cmd := some c.name, running := true })
        (k := b.isth.nextWork) (ord := opOrd) (part := part) (raw := raw) (AMap.get?_set_self _ _ _)
      obtain ⟨hkind, hten, hcmd, hrunning⟩ := hsame
      refine ⟨_, w, x, ?_, hw, hkind, hten, hcmd, hrunning, hx, hactive, hraw, hdone, fun j hj => congrArg Option.isSome (hothers j hj)⟩
      show execCollective fn q adm s = _
      refine runVf_goesOn hs hb (heff _ ((if_neg (hgood hlen hnew)).trans ?_))
      rw [hok]
      exact (if_neg (by rw [show b.collFull v = false from hroom]; decide)).trans (admitted_unbounded hbounded)

end Sys2Proof.Proofs
end

section
/-! SUPPORT. A reply that no port can take stays among the replies that are to be sent (R372, R379). -/

namespace Sys2Proof.Machine.State

/-- The state after reset, every port DOWN, with one reply that is to leave on port 0. -/
def replyWaiting : State := { State.reset with net := { State.reset.net with replies := [⟨⟨0, []⟩, 0, 0⟩] } }

/-- Without its reply, it has no port for it. -/
theorem replyWaiting_noPort : ({ replyWaiting with net := { replyWaiting.net with replies := [] } } : State).portFor 0 [0] 0 = none := by
  decide

/-- A reply at the head that has no port stays where it is. -/
theorem transferReplySend_waits {s : State} {r : Reply} {rest : List Reply} (h : s.net.replies = r :: rest)
    (hno : ({ s with net := { s.net with replies := rest } } : State).portFor r.arch [r.port] 0 = none) : execTransferReplySend s = .next s := by
  unfold execTransferReplySend
  rw [h]
  dsimp only
  rw [hno]

end Sys2Proof.Machine.State

namespace Sys2Proof.Proofs

open Sys2Proof.Machine Sys2Proof.Machine.State

/-- Refutes O59: a reply that no port of its group can take stays at the head and is tried again, while the statement has it leave the replies. The state
after reset, where every port is DOWN, with one reply to be sent, shows it. -/
theorem not_straitCommands : ¬ Obligations.StraitCommands := by
  unfold Obligations.StraitCommands
  intro h
  obtain ⟨-, -, hsend, -⟩ := h replyWaiting
  obtain ⟨hgone, -⟩ := hsend ⟨⟨0, []⟩, 0, 0⟩ [] rfl
  have hstays : exec .transferReplySend replyWaiting = .next replyWaiting :=
    transferReplySend_waits (s := replyWaiting) (r := ⟨⟨0, []⟩, 0, 0⟩) (rest := []) rfl replyWaiting_noPort
  have hsame : replyWaiting = { replyWaiting with net := { replyWaiting.net with replies := [] } } :=
    Host.Outcome.next.inj (hstays.symm.trans (hgone replyWaiting_noPort))
  have hreplies : ([⟨⟨0, []⟩, 0, 0⟩] : List Reply) = [] := congrArg (fun u : State => u.net.replies) hsame
  cases hreplies

end Sys2Proof.Proofs
end

section
/-! SUPPORT. The page walker's requests: a walk found by its number, and what serving, closing and failing one leave (R249 to R256), and the state after a
touched range. -/

namespace Sys2Proof.Machine.State

variable {s : State}

/-- What touches a failed element marks a unit of work and nothing else. -/
theorem touch_isth (s : State) (w t : Nat) (rs : List (Nat × Nat)) : s.touch w t rs = { s with isth := (s.touch w t rs).isth } := by
  unfold touch
  split <;> rfl

theorem touch_holm {w t : Nat} {rs : List (Nat × Nat)} (p : Nat) : (s.touch w t rs).holm p = s.holm p :=
  (congrArg (State.holm · p) (touch_isth s w t rs)).trans rfl

/-- A walk that has been changed under its number. -/
theorem walk?_modWalk {f : Walk → Walk} (hf : ∀ w, (f w).id = w.id) (i : Nat) : (s.modWalk i f).walk? i = (s.walk? i).map f := by
  unfold walk? modWalk
  dsimp only
  rw [List.find?_map]
  have hsame : ((fun w : Walk => w.id == i) ∘ fun w => if (w.id == i) = true then f w else w) = fun w => w.id == i := by
    funext w
    simp only [Function.comp_apply]
    split
    next h => rw [hf w]
    next => rfl
  rw [hsame]
  cases hfind : s.kv.walks.find? fun w => w.id == i with
  | none => rfl
  | some w => exact congrArg some (if_pos (List.find?_some hfind :))

theorem walk?_id {i : Nat} {w : Walk} (h : s.walk? i = some w) : w.id = i :=
  beq_iff_eq.mp (List.find?_some h :)

/-- The scratchpad with the rows that a walk writes. -/
def putRows (h : Holm) (rs : List (Nat × List Nat)) : Holm := rs.foldl (fun (h : Holm) (a, bs) => h.putBytes a bs) h

/-- A served walk whose rows all exist: they land, and the header is kept. -/
theorem serveWalk_ok {i : Nat} {w : Walk} {lost : Bool} {c : KvCtx} {o : WalkOut} (hw : s.walk? i = some w)
    (hc : s.kvCtx (s.tenantOfHolm w.phys) = some c) (ho : w.run c (s.holm w.phys).rd lost = .ok o) :
    (s.serveWalk w lost).walk? i = some { w with landed := true, header := o.header } ∧
    (o.undef = [] → (s.serveWalk w lost).holm w.phys = putRows (s.holm w.phys) o.rows) ∧
    (∀ p, p ≠ w.phys → (s.serveWalk w lost).holm p = s.holm p) ∧ (s.serveWalk w lost).mem = s.mem ∧ (s.serveWalk w lost).net = s.net ∧
    (s.serveWalk w lost).kv.pools = s.kv.pools ∧ (s.serveWalk w lost).kv.descs = s.kv.descs := by
  have hid := walk?_id hw
  subst hid
  unfold serveWalk
  rw [hc]
  dsimp only
  rw [ho]
  dsimp only
  rw [touch_isth]
  refine ⟨?_, fun hu => ?_, fun p hp => ?_, rfl, rfl, rfl, rfl⟩
  · rw [walk?_modWalk (f := fun x => { x with landed := true, header := o.header }) (fun _ => rfl)]
    exact congrArg (Option.map _) hw
  · rw [hu]
    exact (holm_setHolm _ w.phys w.phys _).trans (if_pos rfl)
  · exact (holm_setHolm _ w.phys p _).trans (if_neg hp)

/-- A walk that fails keeps its status, and only its scratchpad area may be torn. -/
theorem serveWalk_error {i : Nat} {w : Walk} {lost : Bool} {c : KvCtx} {e : Status} (hw : s.walk? i = some w)
    (hc : s.kvCtx (s.tenantOfHolm w.phys) = some c) (ho : w.run c (s.holm w.phys).rd lost = .error e) :
    (s.serveWalk w lost).walk? i = some { w with failed := some e } ∧
    (e ≠ .memoryError → e ≠ .badAddress → (s.serveWalk w lost).holms = s.holms) ∧
    (∀ p, p ≠ w.phys → (s.serveWalk w lost).holm p = s.holm p) ∧ (s.serveWalk w lost).mem = s.mem ∧ (s.serveWalk w lost).net = s.net ∧
    (s.serveWalk w lost).kv.pools = s.kv.pools ∧ (s.serveWalk w lost).kv.descs = s.kv.descs := by
  have hid := walk?_id hw
  subst hid
  unfold serveWalk
  rw [hc]
  dsimp only
  rw [ho]
  dsimp only
  generalize (((c.kv.validDesc c.tid w.handle).bind fun (_, d) => c.kv.pools.get? d.pool).map fun q => w.areaWords q 0).getD 0 = area
  split
  next htorn =>
    refine ⟨?_, fun hm hb => ?_, fun p hp => ?_, rfl, rfl, rfl, rfl⟩
    · rw [walk?_modWalk (f := fun x => { x with failed := some e }) (fun _ => rfl)]
      exact congrArg (Option.map _) hw
    · obtain ⟨hkind, -⟩ := Bool.and_eq_true_iff.mp htorn
      rcases Bool.or_eq_true_iff.mp hkind with h | h
      · exact absurd (eq_of_beq h) hm
      · exact absurd (eq_of_beq h) hb
    · exact (holm_setHolm _ w.phys p _).trans (if_neg hp)
  next =>
    refine ⟨?_, fun _ _ => rfl, fun _ _ => rfl, rfl, rfl, rfl, rfl⟩
    rw [walk?_modWalk (f := fun x => { x with failed := some e }) (fun _ => rfl)]
    exact congrArg (Option.map _) hw

/-- The holm once a landed walk's header is written and its tile is no longer the walker's. -/
def walkClosed (s : State) (w : Walk) : Holm :=
  (putRows (s.holm w.phys) w.header).modChan w.ch fun c => c.modTile w.tile fun t => { t with walker := false }

/-- The walks without one. -/
def walkGone (s : State) (i : Nat) : KvState := { s.kv with walks := s.kv.walks.filter fun x => x.id != i }

/-- A landed walk whose tile is the next in order is counted. -/
theorem closeWalk_counts {w : Walk} {tl : Tile} (hd : ((s.walkClosed w).chan w.ch).nextDone = some tl) (hn : tl.num = w.tile)
    (hf : ((s.walkClosed w).chan w.ch).failed = none) :
    s.closeWalk w = { s.setHolm w.phys ((s.walkClosed w).setChan w.ch { ((s.walkClosed w).chan w.ch).modTile tl.num
        (fun t => { t with counted := true }) with count := ((s.walkClosed w).chan w.ch).count + 1 }) with kv := s.walkGone w.id } := by
  unfold walkClosed putRows at hd hf ⊢
  unfold closeWalk walkGone
  dsimp only
  rw [hd]
  dsimp only
  rw [if_neg (not_or.mpr ⟨by rw [hf]; exact Bool.false_ne_true, fun h => h hn⟩)]
  rfl

/-- A landed walk whose tile has to wait for an earlier one, or whose channel has failed, only writes its header. -/
theorem closeWalk_waits {w : Walk} (hd : ∀ tl, ((s.walkClosed w).chan w.ch).nextDone = some tl →
    tl.num ≠ w.tile ∨ ((s.walkClosed w).chan w.ch).failed ≠ none) :
    s.closeWalk w = { s.setHolm w.phys (s.walkClosed w) with kv := s.walkGone w.id } := by
  unfold walkClosed putRows at hd ⊢
  unfold closeWalk walkGone
  dsimp only
  split
  next tl htl =>
    rw [if_pos]
    · rfl
    · rcases hd tl htl with hn | hf
      · exact .inr hn
      · exact .inl (Option.isSome_iff_ne_none.mpr hf)
  next => rfl

/-- An append that the pool takes: its record is kept, its entry retires and its channel has no append left. -/
theorem acceptKva_ok {p ch : Nat} {j : KvaJob} {i : Invocation} {c c1 : KvCtx} {q : Pool} (hj : ((s.holm p).chan ch).kva = some j) (hi : (s.holm p).inv = some i)
    (hrun : (s.holm p).st = .running) (hfault : (s.holm p).fault = none) (hc : s.kvCtx (s.tenantOfHolm p) = some c)
    (hq : s.poolOfHandle (s.tenantOfHolm p) j.handle = some q)
    (hclean : (s.holm p).poisonedIn (j.src / 8) (j.src / 8 + j.hcnt * j.tokens * (q.rk + q.rv) - 1) = false)
    (hok : c.append i.work j.handle j.off j.tokens (kvaRows (s.holm p) q j) = .ok c1) :
    (s.acceptKva p ch).mem = c1.mem ∧ (s.acceptKva p ch).kv.pools = c1.kv.pools ∧ (s.acceptKva p ch).kv.descs = c1.kv.descs ∧
    (s.acceptKva p ch).net = s.net ∧
    (s.acceptKva p ch).holm p = (((s.holm p).retire [j.entry]).modChan ch fun x => { x with kva := none }).pump ∧
    ∀ x, x ≠ p → (s.acceptKva p ch).holm x = s.holm x := by
  unfold acceptKva
  dsimp only
  rw [hj, hi]
  dsimp only
  rw [if_neg (not_or.mpr ⟨fun h => h hrun, by rw [hfault]; exact Bool.false_ne_true⟩), hc, hq]
  dsimp only
  rw [if_neg (by rw [hclean]; exact Bool.false_ne_true), hok]
  dsimp only
  rw [touch_isth]
  exact ⟨rfl, rfl, rfl, rfl, (holm_setHolm (s.putKv c1) p p _).trans (if_pos rfl), fun x hx => (holm_setHolm (s.putKv c1) p x _).trans (if_neg hx)⟩

/-- An append that the pool refuses is a deferred fault. -/
theorem acceptKva_error {p ch : Nat} {j : KvaJob} {i : Invocation} {c : KvCtx} {q : Pool} {st : Status} (hj : ((s.holm p).chan ch).kva = some j)
    (hi : (s.holm p).inv = some i) (hrun : (s.holm p).st = .running) (hfault : (s.holm p).fault = none)
    (hc : s.kvCtx (s.tenantOfHolm p) = some c) (hq : s.poolOfHandle (s.tenantOfHolm p) j.handle = some q)
    (hclean : (s.holm p).poisonedIn (j.src / 8) (j.src / 8 + j.hcnt * j.tokens * (q.rk + q.rv) - 1) = false)
    (herr : c.append i.work j.handle j.off j.tokens (kvaRows (s.holm p) q j) = .error st) :
    s.acceptKva p ch = s.setHolm p ((s.holm p).deferred j.pc 0x31 ch st 0) := by
  unfold acceptKva
  dsimp only
  rw [hj, hi]
  dsimp only
  rw [if_neg (not_or.mpr ⟨fun h => h hrun, by rw [hfault]; exact Bool.false_ne_true⟩), hc, hq]
  dsimp only
  rw [if_neg (by rw [hclean]; exact Bool.false_ne_true), herr]

/-- Without a running append there is nothing to take. -/
theorem acceptKva_idle {p ch : Nat}
    (h : ((s.holm p).chan ch).kva = none ∨ (s.holm p).inv = none ∨ (s.holm p).st ≠ .running ∨ (s.holm p).fault ≠ none) : s.acceptKva p ch = s := by
  unfold acceptKva
  dsimp only
  split
  next j i hj hi =>
    rcases h with h | h | h | h
    · exact absurd (h.symm.trans hj) nofun
    · exact absurd (h.symm.trans hi) nofun
    · exact if_pos (.inl h)
    · exact if_pos (.inr (Option.isSome_iff_ne_none.mpr h))
  next => rfl

end Sys2Proof.Machine.State

namespace Sys2Proof.Proofs

open Sys2Proof.Machine Sys2Proof.Machine.State

/-- Settles O53: a request is looked up by its number, and each of the three operations on it is one case of the walker. -/
theorem walkerCommands : Obligations.WalkerCommands := by
  unfold Obligations.WalkerCommands
  intro s
  refine ⟨?absent, ?walk, ?append, fun _ => rfl⟩
  case absent =>
    intro i lost hnone
    dsimp only [exec]
    unfold execWalkerRequest execWalkerTileComplete execWalkerFailure
    rw [hnone]
    exact ⟨rfl, rfl, rfl⟩
  case walk =>
    intro i w hw
    dsimp only [exec]
    unfold execWalkerRequest execWalkerTileComplete execWalkerFailure
    rw [hw]
    have hid := walk?_id hw
    refine ⟨fun lost hidle => ?_, fun lost c hlanded hfailed hrun hc => ?_, fun hidle => ?_, fun hlanded hrun => ?_, fun hfailed => ?_, fun st hfailed => ?_⟩
    · exact congrArg Host.Outcome.next (if_pos (hidle.imp id (Or.imp Option.isSome_iff_ne_none.mpr id)))
    · have hserve : (if w.landed = true ∨ w.failed.isSome = true ∨ (s.holm w.phys).st ≠ .running then s else s.serveWalk w lost) = s.serveWalk w lost :=
        if_neg (by simp only [hlanded, hfailed, hrun]; decide)
      refine ⟨fun o ho => ⟨s.serveWalk w lost, congrArg Host.Outcome.next hserve, serveWalk_ok hw hc ho⟩,
        fun e he => ⟨s.serveWalk w lost, congrArg Host.Outcome.next hserve, serveWalk_error hw hc he⟩⟩
    · refine congrArg Host.Outcome.next (if_neg fun h => ?_)
      rcases hidle with hl | hr
      · exact absurd (hl.symm.trans h.1) Bool.noConfusion
      · exact hr h.2
    · refine ⟨fun tl hd hn hf => ?_, fun hd => ?_⟩
      · refine congrArg Host.Outcome.next ((if_pos ⟨hlanded, hrun⟩).trans ((closeWalk_counts hd hn hf).trans ?_))
        rw [hid]
        rfl
      · refine congrArg Host.Outcome.next ((if_pos ⟨hlanded, hrun⟩).trans ((closeWalk_waits hd).trans ?_))
        rw [hid]
        rfl
    · dsimp only
      rw [hfailed]
    · dsimp only
      rw [hfailed]
      dsimp only
      unfold failWalk
      rw [hid]
      rfl
  case append =>
    intro p ch hp hlive
    dsimp only [exec]
    unfold execKvAppendAccept
    refine ⟨fun hidle => onHolm_of ⟨hp, hlive⟩ (acceptKva_idle hidle), fun j i c q hj hi hrun hfault hc hq hclean => ⟨fun st hst => ?_, fun c1 hok => ?_⟩⟩
    · exact onHolm_of ⟨hp, hlive⟩ (acceptKva_error hj hi hrun hfault hc hq hclean hst)
    · exact ⟨s.acceptKva p ch, onHolm_of ⟨hp, hlive⟩ rfl, acceptKva_ok hj hi hrun hfault hc hq hclean hok⟩

end Sys2Proof.Proofs
end

section
/-! SUPPORT. Firmware images: what staging, activation and a handover change (R449 to R451, R538, R539). -/

namespace Sys2Proof.Machine.State

variable {s t : State} {fn q : Nat} {c : Cmd}

/-- Every command of a name has ended as it was ended. -/
theorem endCmd_ended {id : CmdId} {st : Status} {r : Nat} {f : Bool} {d : Cmd} (hd : d ∈ (s.endCmd id st r f).isth.cmds) (hname : d.name = id) :
    d.st = .ended st (r % 2 ^ 128) f s.isth.nextEnd := by
  obtain ⟨e, -, rfl⟩ := List.mem_map.mp hd
  by_cases h : (e.fn == id.1 && e.q == id.2.1 && e.id == id.2.2) = true
  · rw [if_pos h]
  · rw [if_neg h] at hname
    refine absurd ?_ h
    rw [← hname]
    simp [Cmd.name]

/-- A command that waits again has only its own state changed. -/
theorem runCmd_waitsOn {code : Nat} {f : State → Cmd → CmdEff} (h : s.starts code fn q c) (hf : f (s.begun c) c = (s.begun c).waits c) :
    ∃ u, runCmd code fn q s f = .next u ∧ u = { s with isth := { s.isth with cmds := u.isth.cmds } } :=
  ⟨((s.begun c).waits c).1, runCmd_goesOn h hf, rfl⟩

/-- Work, memories, network, sequences, tenants and queues are those of before. -/
def FirmwareFrame (s u : State) : Prop :=
  u.holms = s.holms ∧ u.mem = s.mem ∧ u.net = s.net ∧ u.kv = s.kv ∧ u.ten = s.ten ∧ u.isth.queues = s.isth.queues ∧ u.isth.works = s.isth.works

/-- One more entry stands in the module log. -/
def OneLogged (s u : State) : Prop := u.boot.moduleLog.next = (s.boot.moduleLog.next + 1) % 2 ^ 32

theorem firmwareLog_eq (s : State) (release what : Nat) : s.firmwareLog release what =
    { s with boot := { s.boot with moduleLog := (s.firmwareLog release what).boot.moduleLog } } := rfl

theorem firmwareLog_oneLogged (release what : Nat) : OneLogged s (s.firmwareLog release what) := log_next

/-! ### FIRMWARE_STAGE -/

section
variable {m : FwImage} {ok : Bool} {bs : List Nat}

theorem stageImage_waits (h : s.isth.activate.isSome = true) : s.stageImage c ok = s.waits c := if_pos h

theorem stageImage_none (ha : s.isth.activate = none) (hb : s.indirect c.fn c.raw = .ok bs) (hm : s.imageOf? (ofBytes (bs.take 256)) ok = none) :
    s.stageImage c ok = s.fails .badCommand := by
  unfold stageImage
  rw [if_neg (by rw [ha]; exact Bool.false_ne_true), hb]
  dsimp only
  rw [hm]

/-- A staged image passes the checks of its length, its generation and its signature in this order. -/
theorem stageImage_some {r : CmdEff} (ha : s.isth.activate = none) (hb : s.indirect c.fn c.raw = .ok bs)
    (hm : s.imageOf? (ofBytes (bs.take 256)) ok = some m)
    (hr : (if bs.length ≠ 256 + fld (ofBytes (bs.take 256)) 128 26 then s.fails .badCommand
      else if m.gen ≠ 2 then s.fails .version
      else if !s.imageOk m then s.fails .noPermission
      else (({ s with free := s.free + 1, isth := { s.isth with slots := setAt s.isth.slots (1 - s.isth.active) m, staged := true } } : State).firmwareLog
        m.release 0).ends (2 ^ 64 * (m.release % 2 ^ 64))) = r) : s.stageImage c ok = r := by
  unfold stageImage
  rw [if_neg (by rw [ha]; exact Bool.false_ne_true), hb]
  dsimp only
  rw [hm]
  exact hr

theorem imageOk_false (h : m.authentic = false ∨ m.keyIndex ∈ s.boot.revoked ∨ m.svn < s.boot.minSvn) : s.imageOk m = false := by
  unfold imageOk
  rcases h with h | h | h
  · simp [h]
  · simp [h]
  · simp [Nat.not_le.mpr h]

theorem imageOk_true (ha : m.authentic = true) (hg : m.gen = 2) (hk : m.keyIndex ∉ s.boot.revoked) (hv : s.boot.minSvn ≤ m.svn) : s.imageOk m = true := by
  unfold imageOk
  simp [ha, hg, hk, hv]

end

/-! ### FIRMWARE_ACTIVATE -/

section
variable {m : FwImage}

theorem activateCmd_limit (h : s.stagedImage = none ∨ s.isth.activate.isSome = true) : s.activateCmd c = s.fails .limit := by
  unfold activateCmd
  split
  next => rfl
  next m hm =>
    rcases h with h | h
    · exact absurd (h.symm.trans hm) nofun
    · exact if_pos h

theorem activateCmd_version (hm : s.stagedImage = some m) (ha : s.isth.activate = none)
    (hq : ∃ e ∈ s.isth.queues, e.2.minor < m.loMinor ∨ m.hiMinor < e.2.minor) : s.activateCmd c = s.fails .version := by
  unfold activateCmd
  rw [hm]
  refine (if_neg (by rw [ha]; exact Bool.false_ne_true)).trans (if_pos ?_)
  obtain ⟨e, he, hv⟩ := hq
  exact List.any_eq_true.mpr ⟨e, he, by simpa using hv⟩

theorem activateCmd_begins (hm : s.stagedImage = some m) (ha : s.isth.activate = none)
    (hq : ∀ e ∈ s.isth.queues, m.loMinor ≤ e.2.minor ∧ e.2.minor ≤ m.hiMinor) :
    s.activateCmd c = ({ s with isth := { s.isth with activate := some (c.name, 0) } }, none) := by
  unfold activateCmd
  rw [hm]
  refine (if_neg (by rw [ha]; exact Bool.false_ne_true)).trans (if_neg fun h => ?_)
  obtain ⟨e, he, hv⟩ := List.any_eq_true.mp h
  have hin := hq e he
  simp only [Bool.or_eq_true, decide_eq_true_eq] at hv
  omega

end

/-! ### The handover -/

section
variable {id : CmdId} {n k : Nat} {m : FwImage}

/-- Without an activation, a staged image, a spare core or a module in operation there is no handover. -/
theorem handover_idle {f : Bool} (h : s.isth.activate = none ∨ s.stagedImage = none ∨ s.flt.spareCore = none ∨ s.boot.phase ≠ .ready) :
    s.handover f = s := by
  unfold handover
  split
  next id n m k ha hm hk =>
    rcases h with h | h | h | h
    · exact absurd (h.symm.trans ha) nofun
    · exact absurd (h.symm.trans hm) nofun
    · exact absurd (h.symm.trans hk) nofun
    · exact if_pos (by rw [isReady, beq_eq_false_iff_ne.mpr h]; rfl)
  next => rfl

variable (ha : s.isth.activate = some (id, n)) (hm : s.stagedImage = some m) (hk : s.flt.spareCore = some k) (hr : s.boot.phase = .ready)
include ha hm hk hr

theorem handover_faulted {r : State} (h : (if 15 ≤ n then ({ s.firmwareLog m.release 2 with isth := { (s.firmwareLog m.release 2).isth with
    activate := none } } : State).endCmd id .aborted 0 false
    else { s.firmwareLog m.release 2 with isth := { (s.firmwareLog m.release 2).isth with activate := some (id, n + 1) } }) = r) :
    s.handover true = r := by
  unfold handover
  rw [ha, hm, hk]
  exact ((if_neg (by simp [isReady, hr])).trans (if_pos rfl)).trans h

/-- The state in which the host is told of a handover that has succeeded. -/
def handedOver (s : State) (id : CmdId) (m : FwImage) : State :=
  (({ s with isth := { s.isth with active := 1 - s.isth.active, staged := false, activate := none }
             boot := { s.boot with release := m.release } } : State).firmwareLog m.release 1).endCmd id .done
    (s.now % 2 ^ 64 + 2 ^ 64 * (m.release % 2 ^ 64)) false

theorem handover_told : Told (s.handedOver id m) (s.handover false) := by
  have hrun : s.handover false = (s.handedOver id m).functions.foldl
      (fun (t : State) fn => t.notice fn 0x40 (m.release % 2 ^ 64 + 2 ^ 64 * (s.now % 2 ^ 64))) (s.handedOver id m) := by
    unfold handover
    rw [ha, hm, hk]
    exact (if_neg (by simp [isReady, hr])).trans (if_neg Bool.false_ne_true)
  rw [hrun]
  exact List.foldlRecOn _ _ (Told.refl _) fun t ht fn _ => ht.trans Told.notice

end

end Sys2Proof.Machine.State

namespace Sys2Proof.Proofs

open Sys2Proof.Machine Sys2Proof.Machine.State

/-- Settles O51: staging checks an image in one order; a handover changes what says which image runs, and then only tells the host. -/
theorem firmwareCommands : Obligations.FirmwareCommands := by
  unfold Obligations.FirmwareCommands
  intro s fn q c
  refine ⟨?stage, ?activate, ?handover, fun f h => congrArg Host.Outcome.next (handover_idle h)⟩
  case stage =>
    intro ok hs
    refine ⟨fun hact => runCmd_waitsOn (f := fun s c => s.stageImage c ok) hs (stageImage_waits hact), fun bs m hact hbs hm => ?_, fun bs hact hbs hm => ?_⟩
    · refine ⟨fun hlen => ?_, fun hlen hgen => ?_, fun hlen hgen hno => ?_, fun hlen hgen hauth hkey hsvn => ?_⟩
      · show execFirmwareStage fn q ok s = _
        exact runCmd_ends hs (stageImage_some hact hbs hm (if_pos hlen))
      · show execFirmwareStage fn q ok s = _
        exact runCmd_ends hs (stageImage_some hact hbs hm ((if_neg (not_not.mpr hlen)).trans (if_pos hgen)))
      · show execFirmwareStage fn q ok s = _
        exact runCmd_ends hs (stageImage_some hact hbs hm
          ((if_neg (not_not.mpr hlen)).trans ((if_neg (not_not.mpr hgen)).trans (if_pos (congrArg not (imageOk_false hno))))))
      · refine ⟨_, runCmd_ends (f := fun s c => s.stageImage c ok) hs (stageImage_some hact hbs hm ((if_neg (not_not.mpr hlen)).trans
          ((if_neg (not_not.mpr hgen)).trans ((if_neg (ne_true_of_eq_false (congrArg not (imageOk_true hauth hgen hkey hsvn)))).trans rfl)))), ?_⟩
        exact ⟨rfl, rfl, rfl, firmwareLog_oneLogged m.release 0, rfl, rfl, rfl, rfl, rfl, rfl, rfl⟩
    · show execFirmwareStage fn q ok s = _
      exact runCmd_ends hs (stageImage_none hact hbs hm)
  case activate =>
    intro hs
    refine ⟨fun hno => ?_, fun m hm hact => ⟨fun hq => ?_, fun hq => ?_⟩⟩
    · show execFirmwareActivate fn q s = _
      exact runCmd_ends hs (activateCmd_limit hno)
    · show execFirmwareActivate fn q s = _
      exact runCmd_ends hs (activateCmd_version hm hact hq)
    · show execFirmwareActivate fn q s = _
      exact runCmd_goesOn hs (activateCmd_begins hm hact hq)
  case handover =>
    intro id n m k hact hm hcore hready
    refine ⟨fun hn => ?_, fun hn => ?_, ?_⟩
    · refine ⟨_, congrArg Host.Outcome.next (handover_faulted hact hm hcore hready (if_neg (Nat.not_le.mpr hn))), rfl, rfl,
        firmwareLog_oneLogged m.release 2, rfl, rfl, rfl, rfl, rfl, rfl, rfl⟩
    · refine ⟨_, congrArg Host.Outcome.next (handover_faulted hact hm hcore hready (if_pos hn)), rfl, rfl, rfl, fun d hd hname => endCmd_ended hd hname, rfl,
        firmwareLog_oneLogged m.release 2, rfl, rfl, rfl, rfl, rfl, rfl, rfl⟩
    · have htold := handover_told hact hm hcore hready
      have histh := congrArg State.isth htold
      refine ⟨s.handover false, rfl, (congrArg IsthState.activate histh).trans rfl, (congrArg IsthState.active histh).trans rfl,
        (congrArg IsthState.staged histh).trans rfl, (congrArg IsthState.slots histh).trans rfl, congrArg BootState.release htold.boot, ?_, fun d hd hname => ?_,
        htold.holms, htold.mem, htold.net, htold.kv, htold.ten, htold.queues, htold.works⟩
      · exact (congrArg (fun b : BootState => b.moduleLog.next) htold.boot).trans log_next
      · rw [htold.cmds] at hd
        refine (endCmd_ended hd hname).trans ?_
        have hsmall : (s.now % 2 ^ 64 + 2 ^ 64 * (m.release % 2 ^ 64)) % 2 ^ 128 = s.now % 2 ^ 64 + 2 ^ 64 * (m.release % 2 ^ 64) := by omega
        rw [hsmall]
        rfl

end Sys2Proof.Proofs
end

section
/-! SUPPORT. Commands of PF0 about power, tenants and partitions: what each leaves (R349, R440, R452 to R457, R504, R516, R530). -/

namespace Sys2Proof.Machine.State

variable {s t : State} {c : Cmd}

/-! ### CAP_SET -/

/-- A cap and its window have been taken; what else has changed is power and what the host is told, the energy counter excepted. -/
structure Capped (s : State) (cap window : Nat) (t : State) : Prop where
  rest : t = { s with pow := t.pow, isth := t.isth }
  cap_eq : t.pow.cap = cap
  window_eq : t.pow.window = window
  energy_eq : t.pow.energy = s.pow.energy

namespace Capped

variable {cap window : Nat}

theorem notice (h : Capped s cap window t) (fn code body : Nat) : Capped s cap window (t.notice fn code body) where
  rest := (notice_isth t fn code body).trans (by rw [notice_pow]; exact congrArg (fun x : State => { x with isth := (t.notice fn code body).isth }) h.rest)
  cap_eq := (congrArg PowerState.cap (notice_pow t fn code body)).trans h.cap_eq
  window_eq := (congrArg PowerState.window (notice_pow t fn code body)).trans h.window_eq
  energy_eq := (congrArg PowerState.energy (notice_pow t fn code body)).trans h.energy_eq

theorem noticeTenants (h : Capped s cap window t) (ts : List Nat) (code body : Nat) : Capped s cap window (t.noticeTenants ts code body) where
  rest := (noticeTenants_isth t ts code body).trans (by
    rw [noticeTenants_pow]; exact congrArg (fun x : State => { x with isth := (t.noticeTenants ts code body).isth }) h.rest)
  cap_eq := (congrArg PowerState.cap (noticeTenants_pow t ts code body)).trans h.cap_eq
  window_eq := (congrArg PowerState.window (noticeTenants_pow t ts code body)).trans h.window_eq
  energy_eq := (congrArg PowerState.energy (noticeTenants_pow t ts code body)).trans h.energy_eq

theorem modPow {f : PowerState → PowerState} (h : Capped s cap window t) (hf : ∀ x, (f x).cap = x.cap ∧ (f x).window = x.window ∧ (f x).energy = x.energy) :
    Capped s cap window (t.modPow f) where
  rest := congrArg (fun x : State => { x with pow := f t.pow }) h.rest
  cap_eq := (hf t.pow).1.trans h.cap_eq
  window_eq := (hf t.pow).2.1.trans h.window_eq
  energy_eq := (hf t.pow).2.2.trans h.energy_eq

theorem endExcess (h : Capped s cap window t) : Capped s cap window t.endExcess := h.modPow fun _ => ⟨rfl, rfl, rfl⟩

theorem dividePower (h : Capped s cap window t) : Capped s cap window t.dividePower :=
  ⟨congrArg (fun x : State => { x with pow := t.dividePower.pow }) h.rest, h.cap_eq, h.window_eq, h.energy_eq⟩

end Capped

theorem capSet_capped (cap window at_ : Nat) : Capped s cap window (s.capSet cap window at_).1 := by
  have h1 : Capped s cap window (s.modPow fun x => { x with cap := cap, window := window }) := ⟨rfl, rfl, rfl, rfl⟩
  unfold capSet
  dsimp only
  refine Capped.dividePower (Capped.modPow ?_ ?_)
  · refine ite_ind (P := Capped s cap window) (Capped.notice ?_ _ _ _) ?_ <;>
    · refine ite_ind (P := Capped s cap window) (ite_ind (P := Capped s cap window) h1 ?_) ?_
      · refine Capped.noticeTenants (Capped.notice (Capped.modPow h1 ?_) _ _ _) _ _ _
        exact fun x => ⟨rfl, rfl, rfl⟩
      · refine Capped.modPow h1.endExcess ?_
        exact fun x => ⟨rfl, rfl, rfl⟩
  · exact fun x => ⟨rfl, rfl, rfl⟩

theorem capCmd_refused (h : c.arg 32 2 < 400 ∨ 2500 < c.arg 32 2 ∨ c.arg 36 2 < 1000 ∨ 10000 < c.arg 36 2) : s.capCmd c = s.fails .badCommand := if_pos h

theorem capCmd_taken (h1 : 400 ≤ c.arg 32 2) (h2 : c.arg 32 2 ≤ 2500) (h3 : 1000 ≤ c.arg 36 2) (h4 : c.arg 36 2 ≤ 10000) :
    s.capCmd c = ((s.capSet (c.arg 32 2) (c.arg 36 2) c.since).1, some (.done, if c.arg 32 2 < s.need then 1 else 0)) := by
  refine (if_neg (by omega)).trans (Prod.ext rfl (congrArg (fun r => some (Status.done, r)) ?_))
  show (decide (c.arg 32 2 < s.need)).toNat = _
  split
  next h => rw [decide_eq_true h]; rfl
  next h => rw [decide_eq_false h]; rfl

/-! ### ENERGY_READ -/

theorem energyCmd_scope (h : 3 < c.arg 32 1) : s.energyCmd c = s.fails .badCommand := if_pos h

theorem energyCmd_read {e n : Nat} (hs : ¬ 3 < c.arg 32 1) (he : s.energyOf c.fn (c.arg 32 1) (c.arg 34 2) = some e) (hn : s.now = n) :
    s.energyCmd c = s.ends (e % 2 ^ 64 + 2 ^ 64 * (n % 2 ^ 64)) := by
  unfold energyCmd
  rw [if_neg hs, he, hn]

theorem energyCmd_refused (hs : ¬ 3 < c.arg 32 1) (he : s.energyOf c.fn (c.arg 32 1) (c.arg 34 2) = none) : s.energyCmd c = s.fails .noPermission := by
  unfold energyCmd
  rw [if_neg hs, he]

section
variable {fn i : Nat}

/-- A function sees the energy of a tenant that is its own (R440). -/
def ownEnergy (s : State) (fn t : Nat) : Bool := fn == 0 || s.boundTo fn == some t

theorem ownEnergy_iff {t : Nat} : s.ownEnergy fn t = true ↔ fn = 0 ∨ s.boundTo fn = some t := by
  unfold ownEnergy
  rw [Bool.or_eq_true, beq_iff_eq, beq_iff_eq]

theorem energyOf_tenant (h : (s.tenant? i).isSome = true) (ho : s.ownEnergy fn i = true) : s.energyOf fn 0 i = some (s.pow.eTenant.getD i 0) :=
  if_pos (Bool.and_eq_true_iff.mpr ⟨h, ho⟩)

theorem energyOf_otherTenant (ho : ¬ s.ownEnergy fn i = true) : s.energyOf fn 0 i = none := if_neg fun h => ho (Bool.and_eq_true_iff.mp h).2

theorem energyOf_queue (hi : i < 8) (h : (s.que? fn i).isSome = true) : s.energyOf fn 1 i = some (s.pow.eQueue.getD (8 * fn + i) 0) := if_pos ⟨hi, h⟩

theorem energyOf_partition {p : Partition} (h : s.ten.parts.get? i = some p) (ho : s.ownEnergy fn p.tenant = true) :
    s.energyOf fn 2 i = some (s.pow.ePart.getD i 0) := by
  unfold energyOf
  dsimp only
  rw [h]
  exact if_pos ho

theorem energyOf_noPartition (h : s.ten.parts.get? i = none) : s.energyOf fn 2 i = none := by
  unfold energyOf
  dsimp only
  rw [h]
  rfl

end

/-! ### Tenants -/

/-- Every domain wakes: holms and power only. -/
theorem wakeAll_frame : s.wakeAll = { s with holms := s.wakeAll.holms, pow := s.wakeAll.pow } ∧ s.wakeAll.pow.gated = [] ∧ s.wakeAll.pow.deepIdle = false := by
  refine ⟨?_, rfl, rfl⟩
  unfold wakeAll
  dsimp only
  have hquads : ∀ l : List Nat, ∃ h p, l.foldl (fun (s : State) k => s.wakeQuad (k / 17) (k % 17)) s = { s with holms := h, pow := p } := by
    intro l
    refine List.foldlRecOn (motive := fun t : State => ∃ h p, t = { s with holms := h, pow := p }) _ _ ⟨s.holms, s.pow, rfl⟩ fun t ht k _ => ?_
    obtain ⟨h, p, rfl⟩ := ht
    unfold wakeQuad
    split
    · refine List.foldlRecOn (motive := fun t : State => ∃ h p, t = { s with holms := h, pow := p }) _ _ ⟨_, _, rfl⟩ fun t ht x _ => ?_
      obtain ⟨h, p, rfl⟩ := ht
      split <;> exact ⟨_, _, rfl⟩
    · exact ⟨h, p, rfl⟩
  obtain ⟨h, p, hq⟩ := hquads (List.range 68)
  rw [hq]
  rfl

/-- A new tenant: its table is empty, its key and its energy counter are fresh, and every domain has woken. -/
theorem wakeAll_newTenant (tn vf : Nat) (q : Quotas) :
    (s.wakeAll.newTenant tn vf q).ten.tenants = s.ten.tenants.set tn ⟨vf, q, [], Config.freeNat .random s.net.nextKey 0⟩ ∧
    (s.wakeAll.newTenant tn vf q).pow.eTenant.get? tn = some 0 ∧ (s.wakeAll.newTenant tn vf q).net.nextKey = s.net.nextKey + 1 ∧
    (s.wakeAll.newTenant tn vf q).pow.deepIdle = false ∧ (s.wakeAll.newTenant tn vf q).pow.gated = [] ∧
    (s.wakeAll.newTenant tn vf q).mem = s.mem ∧ (s.wakeAll.newTenant tn vf q).net.ports = s.net.ports ∧
    (s.wakeAll.newTenant tn vf q).kv = s.kv := by
  obtain ⟨hw, hgated, hdeep⟩ := wakeAll_frame (s := s)
  generalize s.wakeAll = w at hw hgated hdeep ⊢
  have hten : w.ten = s.ten := (congrArg State.ten hw).trans rfl
  have hnet : w.net = s.net := (congrArg State.net hw).trans rfl
  refine ⟨?_, AMap.get?_set_self _ _ _, congrArg (fun n : NetState => n.nextKey + 1) hnet, hdeep, hgated, (congrArg State.mem hw).trans rfl,
    (congrArg (fun n : NetState => n.ports) hnet :), (congrArg State.kv hw).trans rfl⟩
  rw [← hten, ← hnet]
  rfl

section
variable {x : Tenant}

theorem createTenant_refused (h : 1023 < c.arg 32 2 ∨ c.arg 34 2 = 0 ∨ 1024 < c.arg 34 2) : s.createTenant c = s.fails .badCommand := if_pos h

/-- TENANT_CREATE of a tenant that exists changes its quotas, unless what it uses is above them. -/
theorem createTenant_old {r : CmdEff} (h : ¬ (1023 < c.arg 32 2 ∨ c.arg 34 2 = 0 ∨ 1024 < c.arg 34 2)) (hx : s.tenant? (c.arg 32 2) = some x)
    (hr : (if x.vf ≠ c.arg 34 2 then s.fails .badCommand
      else if (quotasOf c).below (s.usage (c.arg 32 2)) then s.fails .limit
      else ({ s with ten := { s.ten with tenants := s.ten.tenants.set (c.arg 32 2) { x with quotas := quotasOf c } } } : State).ends 0) = r) :
    s.createTenant c = r := by
  unfold createTenant
  dsimp only
  rw [if_neg h, hx]
  exact hr

theorem createTenant_new {r : CmdEff} (h : ¬ (1023 < c.arg 32 2 ∨ c.arg 34 2 = 0 ∨ 1024 < c.arg 34 2)) (hx : s.tenant? (c.arg 32 2) = none)
    (hr : (if (s.boundTo (c.arg 34 2)).isSome then s.fails .badCommand
      else (s.wakeAll.newTenant (c.arg 32 2) (c.arg 34 2) (quotasOf c)).ends 0) = r) : s.createTenant c = r := by
  unfold createTenant
  dsimp only
  rw [if_neg h, hx]
  exact hr

theorem destroyTenant_absent (h : s.tenant? (c.arg 32 2) = none) : s.destroyTenant c = s.fails .badCommand :=
  if_pos (Option.isNone_iff_eq_none.mpr h)

theorem destroyTenant_holds (h : (s.tenant? (c.arg 32 2)).isSome = true) (hh : s.holdsAny (c.arg 32 2) = true) : s.destroyTenant c = s.fails .limit :=
  (if_neg fun hno => by rw [Option.isNone_iff_eq_none.mp hno] at h; cases h).trans (if_pos hh)

theorem destroyTenant_done (h : (s.tenant? (c.arg 32 2)).isSome = true) (hh : s.holdsAny (c.arg 32 2) = false) :
    s.destroyTenant c = (s.dropTenant (c.arg 32 2)).ends 0 :=
  (if_neg fun hno => by rw [Option.isNone_iff_eq_none.mp hno] at h; cases h).trans (if_neg (ne_true_of_eq_false hh))

/-- No holm keeps user slots for a tenant that has gone. -/
theorem dropTenant_holm (tn p : Nat) : (s.dropTenant tn).holm p = if (s.holm p).owner = some tn then { s.holm p with owner := none } else s.holm p := by
  show (AMap.get? (s.holms.map fun ((p, h) : Nat × Holm) => (p, if h.owner = some tn then { h with owner := none } else h)) p).getD _ = _
  rw [AMap.get?_mapVals (f := fun _ (h : Holm) => if h.owner = some tn then { h with owner := none } else h)]
  unfold State.holm AMap.getD
  cases s.holms.get? p with
  | none => exact (if_neg nofun).symm
  | some h => rfl

end

/-! ### Partitions -/

/-- A change of which nothing stands in the way takes effect: the partition is as it says, the role epochs of the holms that it touches are one higher,
and its command ends. -/
theorem applyPart_done {x : PartChange} {tide : Nat} (hb : s.partBreaks x = false) :
    (s.applyPart x tide).ten.changes = (s.ten.changes.filter fun y => y != x) ∧
    (s.applyPart x tide).ten.parts = (if x.bitmap = 0 then s.ten.parts.del x.part else s.ten.parts.set x.part ⟨x.tenant, BitVec.ofNat 256 x.bitmap⟩) ∧
    (s.applyPart x tide).remap = (s.bumpEpochs (s.partTouched x)).remap ∧
    (∀ d ∈ (s.applyPart x tide).isth.cmds, d.name = x.cmd → d.st = .ended .done (tide % 2 ^ 64 % 2 ^ 128) false s.isth.nextEnd) ∧
    (s.applyPart x tide).mem = s.mem ∧ (s.applyPart x tide).net = s.net ∧ (s.applyPart x tide).kv = s.kv := by
  unfold applyPart
  rw [if_neg (ne_true_of_eq_false hb)]
  dsimp only
  generalize hfold : List.foldl _ s (s.partTouched x) = u
  have hu : ∃ h, u = { s with holms := h } := by
    rw [← hfold]
    refine List.foldlRecOn (motive := fun t : State => ∃ h, t = { s with holms := h }) _ _ ⟨s.holms, rfl⟩ fun t ht lg _ => ?_
    obtain ⟨h, rfl⟩ := ht
    split <;> exact ⟨_, rfl⟩
  obtain ⟨h, rfl⟩ := hu
  exact ⟨rfl, rfl, rfl, fun d hd hname => endCmd_ended hd hname, rfl, rfl, rfl⟩

theorem bumpEpochs_epochOf {lgs : List Nat} {u : State} (h : u.remap = (s.bumpEpochs lgs).remap) (lg : Nat) :
    u.epochOf lg = ((s.remap.get? lg).map fun r => if lgs.contains lg then (r.epoch + 1) % 2 ^ 24 else r.epoch).getD 0 := by
  unfold epochOf
  rw [h]
  show (((AMap.get? (s.remap.map fun ((lg, r) : Nat × Remap) => (lg, if lgs.contains lg then { r with epoch := (r.epoch + 1) % 2 ^ 24 } else r)) lg)).map _).getD 0 = _
  rw [AMap.get?_mapVals (f := fun lg (r : Remap) => if lgs.contains lg then { r with epoch := (r.epoch + 1) % 2 ^ 24 } else r), Option.map_map]
  refine congrArg (Option.getD · 0) (congrArg (Option.map · _) (funext fun r => ?_))
  dsimp only [Function.comp_apply]
  split <;> rfl

/-- PARTITION_SET with no change under way runs the one change, if it can take effect. -/
theorem setPartition_only {r : CmdEff} (ht : (s.tenant? (c.arg 34 2)).isSome = true) (hb : s.bitmapTaken (c.arg 32 1) (c.arg 40 32) = false)
    (hp : s.partBreaks ⟨c.arg 32 1, c.arg 34 2, c.arg 40 32, c.since, c.name⟩ = false) (hc : s.ten.changes = [])
    (hr : (let x : PartChange := ⟨c.arg 32 1, c.arg 34 2, c.arg 40 32, c.since, c.name⟩
      let u : State := { s with ten := { s.ten with changes := [x] } }
      ((if u.partReady x && !(u.partTenants x).any u.hasPlan then u.applyPart x 0 else u, none) : CmdEff)) = r) : s.setPartition c = r := by
  unfold setPartition
  dsimp only
  rw [if_neg (fun h => by rw [Option.isNone_iff_eq_none.mp h] at ht; cases ht),
    if_neg (not_or.mpr ⟨ne_true_of_eq_false hb, ne_true_of_eq_false hp⟩), hc]
  exact hr

theorem partReady_only {x : PartChange} (h : ∀ lg ∈ s.partTouched x, ∀ p, s.physOf? lg = some p → (s.holm p).inv = none) (hc : s.ten.changes = [x]) :
    s.partReady x = true := by
  refine Bool.and_eq_true_iff.mpr ⟨List.all_eq_true.mpr fun lg hlg => ?_, ?_⟩
  · split
    next p hp => exact Option.isNone_iff_eq_none.mpr (h lg hlg p hp)
    next => rfl
  · rw [hc]
    have hstop : [x].takeWhile (· != x) = [] := by simp
    rw [hstop]
    rfl

/-! ### TIER3_REGISTER and REGION_MAP -/

theorem hostForm_one {a : Nat} : hostForm a 1 = bitAt a 63 := by
  unfold hostForm
  rw [Nat.mod_one]
  exact Bool.and_true _

theorem registerTier3_addr (h : bitAt (c.arg 40 8) 63 = false ∨ s.argMapped none (c.arg 40 8) = false) : s.registerTier3 c = s.fails .badAddress := by
  refine if_pos ?_
  rw [hostForm_one]
  rcases h with h | h
  · rw [h]; rfl
  · rw [h]; exact Bool.or_true _

theorem registerTier3_mapped {r : CmdEff} (h1 : bitAt (c.arg 40 8) 63 = true) (h2 : s.argMapped none (c.arg 40 8) = true)
    (hr : (if c.arg 48 8 = 0 ∨ c.arg 48 8 % regionSize ≠ 0 ∨ 2 ^ 40 < c.arg 48 8 then s.fails .badCommand
      else if 2 ^ 40 < c.arg 48 8 + (s.mem.backing.map fun ((_, k) : Nat × Nat) => k).sum then s.fails .limit
      else ({ s with mem := { s.mem with backing := s.mem.backing ++ [(c.arg 40 8 % 2 ^ 63, c.arg 48 8)] } } : State).ends 0) = r) :
    s.registerTier3 c = r := by
  refine Eq.trans (if_neg ?_) hr
  rw [hostForm_one, h1, h2]
  decide

theorem mapCmd_gives {fn : Nat} {x : Tenant} (hm : c.arg 33 1 = 1) (ht : c.arg 48 8 < 2 ^ 48) (hta : c.arg 48 8 % regionSize = 0) (hs : c.arg 40 8 < 2 ^ 44)
    (hsa : c.arg 40 8 % regionSize = 0) (h0 : c.arg 32 1 = 0) (hx : s.tenant? (c.arg 34 2) = some x) (hp : c.arg 36 4 ≠ 0) :
    s.mapCmd fn c = s.atCommit c (c.arg 34 2) (.mapDpa (c.arg 36 4) (c.arg 40 8) (c.arg 48 8)) := by
  have hform : tenantForm (c.arg 48 8) regionSize = true :=
    Bool.and_eq_true_iff.mpr ⟨decide_eq_true ht, beq_iff_eq.mpr hta⟩
  unfold mapCmd
  dsimp only
  rw [if_neg (by rw [hform]; decide), if_pos hm, if_neg (by omega), if_neg (by rw [hx]; simp [h0, hp])]

/-- A command of any function whose change takes effect at once or at a commit point. -/
theorem runCmd_changes {code fn q tn : Nat} {op : CommitOp} {f : State → Cmd → CmdEff} (h : s.starts code fn q c)
    (hf : f (s.begun c) c = (s.begun c).atCommit c tn op) : s.changeEnds c tn op (runCmd code fn q s f) := by
  have hplan : (s.begun c).hasPlan tn = s.hasPlan tn := rfl
  rw [changeEnds, runCmd_starts h, hf]
  unfold atCommit
  dsimp only
  refine ⟨fun hp => ?_, fun hp => ?_⟩
  · rw [if_pos (by rw [hplan, hp]; rfl)]
    exact ⟨fun r u hu => by rw [hu]; rfl, fun e he => by rw [he]; rfl⟩
  · rw [if_neg (by rw [hplan, hp]; decide)]
    refine ⟨fun e hne he => ?_, fun hlimit => ?_⟩
    · rw [he]
      dsimp only
      rw [if_neg hne]
      rfl
    · cases hnow : (s.begun c).commitEffect tn op 0 with
      | ok x => rfl
      | error e =>
        dsimp only
        rw [if_pos (hlimit e hnow)]
        rfl

end Sys2Proof.Machine.State

namespace Sys2Proof.Proofs

open Sys2Proof.Machine Sys2Proof.Machine.State

/-- Settles O50: each command is the case of its row that its fields and the state select. -/
theorem tenantManagement : Obligations.TenantManagement := by
  unfold Obligations.TenantManagement
  intro s fn q c
  refine ⟨?cap, ?energy, ?create, ?destroy, ?partition, ?parity, ?tier3, ?map⟩
  case cap =>
    intro hs
    refine ⟨fun hno => ?_, fun h1 h2 h3 h4 => ?_⟩
    · show execCapSet fn q s = _
      exact runCmd_ends hs (capCmd_refused hno)
    · have hcap := capSet_capped (s := s.begun c) (c.arg 32 2) (c.arg 36 2) c.since
      refine ⟨((s.begun c).capSet (c.arg 32 2) (c.arg 36 2) c.since).1, runCmd_ends (f := fun s c => s.capCmd c) hs (capCmd_taken h1 h2 h3 h4),
        hcap.cap_eq, hcap.window_eq, hcap.energy_eq, (congrArg State.holms hcap.rest).trans rfl, (congrArg State.ten hcap.rest).trans rfl,
        (congrArg State.mem hcap.rest).trans rfl, (congrArg (fun u : State => u.net.ports) hcap.rest).trans rfl,
        (congrArg State.kv hcap.rest).trans rfl⟩
  case energy =>
    intro hs
    have hread : ∀ {k e : Nat}, c.arg 32 1 = k → k ≤ 3 → (s.begun c).energyOf c.fn k (c.arg 34 2) = some e → exec (.energyRead fn q) s =
        .next ((s.begun c).endCmd c.name .done (e % 2 ^ 64 + 2 ^ 64 * (s.now % 2 ^ 64)) false) := by
      intro k e hk hle he
      show execEnergyRead fn q s = _
      exact runCmd_ends hs (energyCmd_read (by rw [hk]; exact Nat.not_lt.mpr hle) (by rw [hk]; exact he) rfl)
    have hrefused : ∀ {k : Nat}, c.arg 32 1 = k → k ≤ 3 → (s.begun c).energyOf c.fn k (c.arg 34 2) = none → exec (.energyRead fn q) s =
        .next ((s.begun c).endCmd c.name .noPermission 0 false) := by
      intro k hk hle he
      show execEnergyRead fn q s = _
      exact runCmd_ends hs (energyCmd_refused (by rw [hk]; exact Nat.not_lt.mpr hle) (by rw [hk]; exact he))
    refine ⟨fun h0 ht ho => ?_, fun h1 hi hque => ?_, fun p h2 hp ho => ?_, fun h3 => ?_, fun hno => ?_, fun hscope => ?_⟩
    · exact hread h0 (by omega) (energyOf_tenant (s := s.begun c) ht (ownEnergy_iff.mpr ho))
    · exact hread h1 (by omega) (energyOf_queue (s := s.begun c) hi hque)
    · exact hread h2 (by omega) (energyOf_partition (s := s.begun c) hp (ownEnergy_iff.mpr ho))
    · exact hread h3 (by omega) rfl
    · rcases hno with ⟨h0, ho⟩ | ⟨h2, hp⟩
      · exact hrefused h0 (by omega) (energyOf_otherTenant (s := s.begun c) fun h => ho (ownEnergy_iff.mp h))
      · exact hrefused h2 (by omega) (energyOf_noPartition (s := s.begun c) hp)
    · show execEnergyRead fn q s = _
      exact runCmd_ends hs (energyCmd_scope hscope)
  case create =>
    intro hs
    refine ⟨fun hno => ?_, fun x ht hv hv' hx => ⟨fun hvf => ?_, fun hvf hu => ?_, fun hvf hu => ?_⟩, fun ht hv hv' hx => ⟨fun hbound => ?_, fun hbound => ?_⟩⟩
    · show execTenantCreate fn q s = _
      exact runCmd_ends hs (createTenant_refused hno)
    · show execTenantCreate fn q s = _
      exact runCmd_ends hs (createTenant_old (by omega) hx (if_pos hvf))
    · show execTenantCreate fn q s = _
      exact runCmd_ends hs (createTenant_old (by omega) hx ((if_neg (not_not.mpr hvf)).trans (if_pos hu)))
    · show execTenantCreate fn q s = _
      exact runCmd_ends hs (createTenant_old (by omega) hx ((if_neg (not_not.mpr hvf)).trans ((if_neg (ne_true_of_eq_false hu)).trans rfl)))
    · show execTenantCreate fn q s = _
      exact runCmd_ends hs (createTenant_new (by omega) hx (if_pos hbound))
    · have hfree : ¬ (((s.begun c).boundTo (c.arg 34 2)).isSome = true) := by
        rw [show (s.begun c).boundTo (c.arg 34 2) = none from hbound]
        exact Bool.false_ne_true
      have hfields : ¬ (1023 < c.arg 32 2 ∨ c.arg 34 2 = 0 ∨ 1024 < c.arg 34 2) :=
        not_or.mpr ⟨Nat.not_lt.mpr ht, not_or.mpr ⟨Nat.pos_iff_ne_zero.mp hv, Nat.not_lt.mpr hv'⟩⟩
      exact ⟨(s.begun c).wakeAll.newTenant (c.arg 32 2) (c.arg 34 2) (quotasOf c), runCmd_ends (f := fun s c => s.createTenant c) hs
        (createTenant_new hfields hx ((if_neg hfree).trans rfl)), wakeAll_newTenant (s := s.begun c) _ _ _⟩
  case destroy =>
    intro hs
    refine ⟨fun hno => ?_, fun ht hh => ?_, fun ht hh => ?_⟩
    · show execTenantDestroy fn q s = _
      exact runCmd_ends hs (destroyTenant_absent hno)
    · show execTenantDestroy fn q s = _
      exact runCmd_ends hs (destroyTenant_holds ht hh)
    · refine ⟨(s.begun c).dropTenant (c.arg 32 2), runCmd_ends (f := fun s c => s.destroyTenant c) hs (destroyTenant_done ht hh), rfl, rfl, ?_, fun p => ?_,
        fun p hp => ?_, rfl, rfl, rfl⟩
      · exact (AMap.get?_del _ _ _).trans (if_pos rfl)
      · rw [dropTenant_holm]
        split
        next => exact nofun
        next h => exact h
      · exact (dropTenant_holm _ _).trans (if_neg hp)
  case partition =>
    intro hs
    refine ⟨fun hno => ?_, fun ht hno => ?_, fun ht hbit hbreak hch => ⟨fun hplan => ?_, fun hplan hidle => ?_⟩⟩
    · show execPartitionSet fn q s = _
      exact runCmd_ends hs (if_pos (Option.isNone_iff_eq_none.mpr hno))
    · show execPartitionSet fn q s = _
      have hsome : ¬ (s.tenant? (c.arg 34 2)).isNone = true := by
        obtain ⟨y, hy⟩ := Option.isSome_iff_exists.mp ht
        rw [hy]
        exact Bool.false_ne_true
      exact runCmd_ends hs ((if_neg hsome).trans (if_pos hno))
    · show execPartitionSet fn q s = _
      refine runCmd_goesOn hs (setPartition_only (s := s.begun c) ht hbit hbreak hch ?_)
      refine congrArg (fun u : State => ((u, none) : CmdEff)) (if_neg fun h => ?_)
      obtain ⟨y, hy, hyp⟩ := hplan
      have hboth : ∀ b : Bool, b = true → (!b) = true → False := by decide
      exact hboth _ (List.any_eq_true.mpr ⟨y, hy, hyp⟩) (Bool.and_eq_true_iff.mp h).2
    · let x : PartChange := ⟨c.arg 32 1, c.arg 34 2, c.arg 40 32, c.since, c.name⟩
      let u : State := { s.begun c with ten := { s.ten with changes := [x] } }
      have hready : (u.partReady x && !(u.partTenants x).any u.hasPlan) = true := by
        refine Bool.and_eq_true_iff.mpr ⟨partReady_only (s := u) (x := x) hidle rfl, ?_⟩
        have hnone : (u.partTenants x).any u.hasPlan = false := List.any_eq_false.mpr fun y hy => ne_true_of_eq_false (hplan y hy)
        rw [hnone]
        rfl
      obtain ⟨hchanges, hparts, hremap, hcmds, hmem, hnet, hkv⟩ := applyPart_done (s := u) (x := x) (tide := 0) hbreak
      refine ⟨u.applyPart x 0, runCmd_goesOn (f := fun s c => s.setPartition c) hs (setPartition_only (s := s.begun c) ht hbit hbreak hch
        (congrArg (fun u : State => ((u, none) : CmdEff)) (if_pos hready))), ?_, ?_, fun lg hlg hin => ?_, fun lg hlg => ?_, hcmds, hmem, congrArg NetState.ports hnet, hkv⟩
      · rw [hchanges]
        show [x].filter (fun y => y != x) = []
        simp
      · rw [hparts]
        by_cases hz : c.arg 40 32 = 0
        · rw [if_pos hz, if_pos hz]
          exact (AMap.get?_del _ _ _).trans (if_pos rfl)
        · rw [if_neg hz, if_neg hz]
          exact AMap.get?_set_self _ _ _
      · rw [bumpEpochs_epochOf hremap]
        obtain ⟨r, hr⟩ := Option.isSome_iff_exists.mp hin
        have hin' : (u.partTouched x).contains lg = true := List.elem_eq_true_of_mem hlg
        rw [show u.remap.get? lg = some r from hr, hin', epochOf, hr]
        rfl
      · rw [bumpEpochs_epochOf hremap]
        have hout : (u.partTouched x).contains lg = false := by
          rw [Bool.eq_false_iff]
          exact fun h => hlg (List.elem_iff.mp h)
        rw [hout]
        rfl
  case parity =>
    intro hs
    show execParitySet fn q s = _
    exact runCmd_ends hs rfl
  case tier3 =>
    intro hs
    refine ⟨fun hno => ?_, fun h63 hmap => ⟨fun hno => ?_, fun h0 hmod hmax hsum => ?_, fun h0 hmod hsum => ?_⟩⟩
    · show execTier3Register fn q s = _
      exact runCmd_ends hs (registerTier3_addr (s := s.begun c) hno)
    · show execTier3Register fn q s = _
      exact runCmd_ends hs (registerTier3_mapped (s := s.begun c) h63 hmap (if_pos hno))
    · show execTier3Register fn q s = _
      exact runCmd_ends hs (registerTier3_mapped (s := s.begun c) h63 hmap ((if_neg (by omega)).trans (if_pos hsum)))
    · show execTier3Register fn q s = _
      exact runCmd_ends hs (registerTier3_mapped (s := s.begun c) h63 hmap ((if_neg (by omega)).trans ((if_neg (Nat.not_lt.mpr hsum)).trans rfl)))
  case map =>
    intro x hs hm ht hta hsrc hsa h0 hx hp
    exact runCmd_changes (f := fun s c => s.mapCmd fn c) hs (mapCmd_gives (s := s.begun c) hm ht hta hsrc hsa h0 hx hp)

end Sys2Proof.Proofs
end

section
/-! SUPPORT. What the failure of a ring, a collective or a unit of work leaves of the module, and what becomes of a port's traffic: no port changes but in
what still has to leave it (R295, R296, R372, R375, R379, R383, R421, R495). -/

namespace Sys2Proof.Machine

/-- Ports of one list and another differ only in what still has to leave them. -/
def PortsKept (p q : List Port) : Prop := q.length = p.length ∧ ∀ i, ∃ l, q.getD i .reset = { p.getD i .reset with leaving := l }

namespace PortsKept

variable {p q r : List Port}

theorem refl (p : List Port) : PortsKept p p := ⟨rfl, fun _ => ⟨_, rfl⟩⟩

theorem trans (h : PortsKept p q) (k : PortsKept q r) : PortsKept p r := by
  refine ⟨k.1.trans h.1, fun i => ?_⟩
  obtain ⟨l, hl⟩ := h.2 i
  obtain ⟨m, hm⟩ := k.2 i
  exact ⟨m, by rw [hm, hl]⟩

theorem modAt {i : Nat} {f : Port → Port} (hf : ∀ q, ∃ l, f q = { q with leaving := l }) : PortsKept p (modAt p i f) := by
  refine ⟨modAt_length p i f, fun j => ?_⟩
  rw [getD_modAt]
  split
  · exact hf _
  · exact ⟨_, rfl⟩

theorem map {f : Port → Port} (hf : ∀ q, ∃ l, f q = { q with leaving := l }) : PortsKept p (p.map f) := by
  refine ⟨List.length_map .., fun j => ?_⟩
  rw [List.getD_eq_getElem?_getD, List.getElem?_map, List.getD_eq_getElem?_getD]
  cases p[j]? with
  | none => exact ⟨_, rfl⟩
  | some x => exact hf x

end PortsKept

namespace State

variable {s t u : State}

/-- From s to u rings, collectives and units of work have failed or ended, or bytes have been written: transfers that are not answered, links, windows,
tenants, power and the boot stay as they are. -/
def Fails (s u : State) : Prop :=
  u = { s with
    holms := u.holms, reqs := u.reqs, mem := u.mem, kv := u.kv, free := u.free
    isth := { s.isth with works := u.isth.works, cmds := u.isth.cmds, nextEnd := u.isth.nextEnd }
    net := { s.net with ports := u.net.ports, nextXid := u.net.nextXid, rings := u.net.rings, colls := u.net.colls } } ∧
  PortsKept s.net.ports u.net.ports

namespace Fails

theorem refl (s : State) : Fails s s := ⟨rfl, .refl _⟩

theorem trans (h : Fails s t) (k : Fails t u) : Fails s u := by
  have hi := congrArg (fun x : State => { x with
    holms := u.holms, reqs := u.reqs, mem := u.mem, kv := u.kv, free := u.free
    isth := { x.isth with works := u.isth.works, cmds := u.isth.cmds, nextEnd := u.isth.nextEnd }
    net := { x.net with ports := u.net.ports, nextXid := u.net.nextXid, rings := u.net.rings, colls := u.net.colls } }) h.1
  exact ⟨Eq.trans k.1 hi, h.2.trans k.2⟩

/-- A chain of such changes. -/
theorem foldl {α : Type} {f : State → α → State} (hf : ∀ t a, Fails t (f t a)) (l : List α) : Fails s (l.foldl f s) :=
  List.foldlRecOn l f (refl s) fun t ht a _ => ht.trans (hf t a)

theorem modWork {w : Nat} {f : Work → Work} : Fails s (s.modWork w f) := ⟨rfl, .refl _⟩
theorem modRing {i : Nat} {f : Ring → Ring} : Fails s (s.modRing i f) := ⟨rfl, .refl _⟩
theorem modColl {i : Nat} {f : Coll → Coll} : Fails s (s.modColl i f) := ⟨rfl, .refl _⟩
theorem modHolm {p : Nat} {f : Holm → Holm} : Fails s (s.modHolm p f) := ⟨rfl, .refl _⟩
theorem free (n : Nat) : Fails s { s with free := n } := ⟨rfl, .refl _⟩

theorem leave {i chan : Nat} {x : Xfer} : Fails s (s.leave i chan x) := ⟨rfl, .modAt fun _ => ⟨_, rfl⟩⟩

theorem sendAbort {arch dst chan body : Nat} {ps : List Nat} : Fails s (s.sendAbort arch dst chan ps body) := by
  unfold State.sendAbort
  split
  · exact .refl s
  · split
    · exact Fails.trans (t := { s with net := { s.net with nextXid := _ } }) ⟨rfl, .refl _⟩ .leave
    · exact .refl s

/-! ### Rings and collectives -/

theorem ringAbort {r : Ring} {idx failed : Nat} {st : Status} : Fails s (s.ringAbort r idx st failed) := by
  unfold State.ringAbort
  dsimp only
  split
  · exact .refl s
  · exact .sendAbort

theorem stopRing {i failed : Nat} {st : Status} {from_ : Option Nat} : Fails s (s.stopRing i st failed from_) := by
  unfold State.stopRing
  split
  · exact .refl s
  · exact ite_ind (P := Fails s) (.refl s) (modRing.trans (foldl (fun _ _ => ringAbort) _))

theorem abortAll {c : Coll} {rank : Nat} {st : Status} : Fails s (s.abortAll c rank st) := by
  refine foldl (fun t d => ?_) _
  split
  · exact .refl t
  · split
    · exact .sendAbort
    · exact .refl t

theorem collFail {i rank : Nat} {st : Status} : Fails s (s.collFail i rank st) := by
  unfold State.collFail
  split
  · exact .refl s
  · exact ite_ind (P := Fails s) (.refl s) ((modColl (s := s)).trans abortAll)

/-! ### Units of work -/

theorem leaveHolm {p : Nat} {hs : HState} : Fails s (s.leaveHolm p hs) := ⟨rfl, .refl _⟩

theorem commitAppends {w tn : Nat} {ok : Bool} : Fails s (s.commitAppends w tn ok).1 := by
  unfold State.commitAppends
  split
  · exact .refl s
  · exact ⟨rfl, .refl _⟩

theorem finishOneShot {w : Nat} : Fails s (s.finishOneShot w) := by
  have hlast : ∀ {t : State} {ws : AMap Work} {rs : AMap Ring} {cs : AMap Coll}, Fails s t →
      Fails s { t with isth := { t.isth with works := ws }, net := { t.net with rings := rs, colls := cs } } :=
    fun ht => ht.trans ⟨rfl, .refl _⟩
  unfold State.finishOneShot
  split
  · exact .refl s
  · dsimp only
    refine hlast ?_
    split
    · exact commitAppends.trans ⟨rfl, .refl _⟩
    · exact commitAppends

theorem settle {w : Nat} : Fails s (s.settle w) := by
  unfold State.settle
  split
  · exact .refl s
  · exact ite_ind (P := Fails s) (.refl s) (ite_ind (P := Fails s) modWork finishOneShot)

theorem failWork {w : Nat} {st : Status} : Fails s (s.failWork w st) := by
  unfold State.failWork
  split
  · exact .refl s
  · refine ite_ind (P := Fails s) (.refl s) ?_
    refine Fails.trans (Fails.trans (Fails.trans (modWork.trans (foldl (fun _ _ => leaveHolm) _)) (foldl (fun t e => ?_) _)) (foldl (fun t e => ?_) _)) settle
    · exact ite_ind (P := Fails t) stopRing (.refl t)
    · exact ite_ind (P := Fails t) collFail (.refl t)

theorem failRing {i : Nat} {st : Status} : Fails s (s.failRing i st) := by
  unfold State.failRing
  split
  · exact .refl s
  · exact ite_ind (P := Fails s) (.refl s) (stopRing.trans failWork)

/-! ### Bytes -/

theorem memWrite {tn a : Nat} {bs : List Nat} (h : s.memWrite tn a bs = .ok u) : Fails s u := by
  unfold State.memWrite at h
  split at h
  · cases h
  · split at h
    · cases h
    · cases h
      exact ⟨rfl, .refl _⟩

theorem cutOff {i : Nat} {got : List Nat} : Fails s (s.cutOff i got) := by
  unfold State.cutOff
  dsimp only
  refine ite_ind (P := Fails s) (.refl s) ?_
  split
  · exact .refl s
  · exact .refl s
  · exact ite_ind (P := Fails s) (.refl s) ((free (s.free + 1)).trans (foldl (fun _ _ => modHolm) _))
  · split
    next hw => exact (free (s.free + 1)).trans (memWrite hw)
    next => exact free (s.free + 1)

/-! ### What stays -/

theorem ten (h : Fails s u) : u.ten = s.ten := (congrArg State.ten h.1).trans rfl
theorem boot (h : Fails s u) : u.boot = s.boot := (congrArg State.boot h.1).trans rfl
theorem sent (h : Fails s u) : u.net.sent = s.net.sent := (congrArg (fun x : State => x.net.sent) h.1).trans rfl

end Fails

/-! ### Traffic on ports -/

/-- From s to u transfers have been moved or ended: no port has changed but in what still has to leave it, and no tenant. -/
def Moved (s u : State) : Prop :=
  u.ten = s.ten ∧ u.net = { s.net with
    ports := u.net.ports, sent := u.net.sent, nextXid := u.net.nextXid, rings := u.net.rings, colls := u.net.colls
    time := { s.net.time with paths := u.net.time.paths } } ∧
  PortsKept s.net.ports u.net.ports

namespace Moved

theorem refl (s : State) : Moved s s := ⟨rfl, rfl, .refl _⟩

theorem trans (h : Moved s t) (k : Moved t u) : Moved s u := by
  obtain ⟨hten, hnet, hports⟩ := h
  obtain ⟨kten, knet, kports⟩ := k
  have hi := congrArg (fun n : NetState => { n with
    ports := u.net.ports, sent := u.net.sent, nextXid := u.net.nextXid, rings := u.net.rings, colls := u.net.colls
    time := { n.time with paths := u.net.time.paths } }) hnet
  exact ⟨kten.trans hten, Eq.trans knet hi, hports.trans kports⟩

theorem foldl {α : Type} {f : State → α → State} (hf : ∀ t a, Moved t (f t a)) (l : List α) : Moved s (l.foldl f s) :=
  List.foldlRecOn l f (refl s) fun t ht a _ => ht.trans (hf t a)

theorem of (ht : u.ten = s.ten) (hn : u.net = s.net) : Moved s u := by
  refine ⟨ht, ?_, ?_⟩
  · rw [hn]
  · rw [hn]
    exact .refl _

theorem fails (h : Fails s u) : Moved s u := by
  have htime : u.net.time = s.net.time := (congrArg (fun x : State => x.net.time) h.1).trans rfl
  refine ⟨h.ten, (congrArg State.net h.1).trans ?_, h.2⟩
  rw [h.sent, htime]

theorem ports (h : Moved s u) (i : Nat) : ∃ l, u.port i = { s.port i with leaving := l } := h.2.2.2 i
theorem length (h : Moved s u) : u.net.ports.length = s.net.ports.length := h.2.2.1
theorem archs (h : Moved s u) : u.net.archs = s.net.archs := (congrArg NetState.archs h.2.1).trans rfl
theorem windows (h : Moved s u) : u.net.windows = s.net.windows := (congrArg NetState.windows h.2.1).trans rfl
theorem claim (h : Moved s u) : u.net.claim = s.net.claim := (congrArg NetState.claim h.2.1).trans rfl
theorem st (h : Moved s u) (i : Nat) : (u.port i).st = (s.port i).st := by
  obtain ⟨l, hl⟩ := h.ports i
  rw [hl]

theorem log {cls st x r : Nat} {tn : Option Nat} : Moved s (s.log cls st tn x r) := .of (log_ten ..) (log_net ..)
theorem linkLog {i e l : Nat} : Moved s (s.linkLog i e l) := log
theorem notice {fn code body : Nat} : Moved s (s.notice fn code body) := .of (notice_ten ..) (notice_net ..)
theorem noticeTenants {ts : List Nat} {code body : Nat} : Moved s (s.noticeTenants ts code body) := .of (noticeTenants_ten ..) (noticeTenants_net ..)
theorem masked {k x d n : Nat} : Moved s (s.masked k x d n) := .of (masked_ten ..) (masked_net ..)
theorem free (n : Nat) : Moved s { s with free := n } := .of rfl rfl
theorem leave {i chan : Nat} {x : Xfer} : Moved s (s.leave i chan x) := fails .leave
theorem modSent {a b : Sent} : Moved s (s.modSent a b) := ⟨rfl, rfl, .refl _⟩

theorem placeSent {a : Sent} {turn : Nat} : Moved s (s.placeSent a turn) := by
  unfold State.placeSent
  split
  · exact (modSent (s := s)).trans ((free _).trans leave)
  · exact modSent

theorem placeWaiting : Moved s s.placeWaiting := foldl (fun _ _ => placeSent) _

/-- A transfer that ends leaves the transfers that are not answered, and what it serves goes on or fails. -/
theorem endSent {a : Sent} {st : Status} : Moved s (s.endSent a st) ∧ (s.endSent a st).net.sent = s.net.sent.erase a := by
  let s0 : State := { s with net := { s.net with
    sent := s.net.sent.erase a
    ports := s.net.ports.map fun q => { q with leaving := q.leaving.filter fun l => l.x != a.x } } }
  have h0 : Moved s s0 := ⟨rfl, rfl, .map fun _ => ⟨_, rfl⟩⟩
  have hend : ∀ {t : State}, Fails s0 t → Moved s t ∧ t.net.sent = s.net.sent.erase a := fun ht => ⟨h0.trans (fails ht), ht.sent⟩
  have hmarked : Fails s0 (if a.degraded then (match s0.ownerWork a.owner with
      | some w => s0.modWork w fun x => { x with degraded := true }
      | none => s0) else s0) := by
    refine ite_ind (P := Fails s0) ?_ (.refl s0)
    split
    · exact .modWork
    · exact .refl s0
  refine hend ?_
  unfold State.endSent
  dsimp only
  split
  next rid _ _ =>
    refine ite_ind (P := Fails s0) (hmarked.trans (.trans .modRing .failRing)) ?_
    split
    · exact hmarked.trans (.trans .modRing .settle)
    · exact hmarked.trans .modRing
  next cid rank _ => exact ite_ind (P := Fails s0) (hmarked.trans .modColl) (hmarked.trans (.trans .modColl .collFail))
  next => exact hmarked

theorem endAll {l : List Sent} {st : Status} : Moved s (s.endAll l st) := foldl (fun _ _ => endSent.1) l

theorem dropWaiting : Moved s s.dropWaiting := endAll

theorem dropLoans : Moved s s.dropLoans := .of rfl rfl

theorem followOffers : Moved s s.followOffers := ⟨rfl, rfl, .refl _⟩

theorem reroute {i : Nat} : Moved s (s.reroute i) := by
  have hempty : Moved s (s.modPort i fun q => { q with leaving := [] }) := ⟨rfl, rfl, .modAt fun _ => ⟨_, rfl⟩⟩
  unfold State.reroute
  dsimp only
  refine Moved.trans (Moved.trans ?_ (foldl (fun t a => (modSent (s := t)).trans placeSent) _)) dropWaiting
  split
  · exact hempty.trans (foldl (fun _ _ => leave) _)
  · exact hempty

end Moved

/-- What waits in no port any more: a port's unanswered transfers have ended. -/
theorem endAll_sent {l : List Sent} {st : Status} : (s.endAll l st).net.sent = l.foldl List.erase s.net.sent := by
  unfold endAll
  induction l generalizing s with
  | nil => rfl
  | cons a l ih => exact ih.trans (congrArg (List.foldl List.erase · l) Moved.endSent.2)

end State

end Sys2Proof.Machine
end

section
/-! SUPPORT. One port that changes while the others only go on sending, and a port that fails; then link blocks, flit-slot tables and LINK_INIT (R363 to R370,
R376, R379, R383). -/

namespace Sys2Proof.Machine

theorem modAt_eq_setAt {α : Type} (l : List α) (i : Nat) (f : α → α) (d : α) : modAt l i f = setAt l i (f (l.getD i d)) := by
  induction l generalizing i with
  | nil => rfl
  | cons x t ih =>
    cases i with
    | zero => rfl
    | succ i => exact congrArg (List.cons x) (ih i)

theorem setAt_setAt {α : Type} (l : List α) (i : Nat) (a b : α) : setAt (setAt l i a) i b = setAt l i b := by
  induction l generalizing i with
  | nil => rfl
  | cons x t ih =>
    cases i with
    | zero => rfl
    | succ i => exact congrArg (List.cons x) (ih i)

/-- A port out of service, with what its peer is told. -/
def Port.outOfService (q : Port) (tell : List (List Nat)) : Port :=
  { q with partialIn := [], st := .failed, mgtOut := q.mgtOut ++ tell, offer := none, peerEn := none, charted := false }

theorem onPort_of {i : Nat} {s t : State} {f : Port → State → State} (hi : i < 32) (hl : s.live = true) (h : f (s.port i) s = t) :
    onPort i s f = .next t :=
  (if_pos hi).trans (congrArg Host.Outcome.next ((if_pos hl).trans h))

namespace State

variable {s t u : State} {i : Nat} {q : Port}

theorem modPort_eq_setPort {f : Port → Port} : s.modPort i f = s.setPort i (f (s.port i)) :=
  congrArg (fun l => { s with net := { s.net with ports := l } }) (modAt_eq_setAt s.net.ports i f .reset)

theorem port_setPort_self (hi : i < s.net.ports.length) : (s.setPort i q).port i = q := (port_setPort s i i q).trans (if_pos ⟨rfl, hi⟩)

theorem modPort_setPort {f : Port → Port} (hi : i < s.net.ports.length) : (s.setPort i q).modPort i f = s.setPort i (f q) := by
  rw [modPort_eq_setPort, port_setPort_self hi]
  exact congrArg (fun l => { s with net := { s.net with ports := l } }) (setAt_setAt s.net.ports i q (f q))

/-- From s to u traffic has moved, and port i has become q; ports differ from what this says only in what still has to leave them. -/
structure Reshaped (i : Nat) (q : Port) (s u : State) : Prop where
  ten : u.ten = s.ten
  net : u.net = { s.net with
    ports := u.net.ports, sent := u.net.sent, nextXid := u.net.nextXid, rings := u.net.rings, colls := u.net.colls
    time := { s.net.time with paths := u.net.time.paths } }
  length : u.net.ports.length = s.net.ports.length
  here : ∃ l, u.port i = { q with leaving := l }
  others : ∀ j, j ≠ i → ∃ l, u.port j = { s.port j with leaving := l }

namespace Reshaped

theorem moved (h : Reshaped i q s t) (k : Moved t u) : Reshaped i q s u := by
  have hi := congrArg (fun n : NetState => { n with
    ports := u.net.ports, sent := u.net.sent, nextXid := u.net.nextXid, rings := u.net.rings, colls := u.net.colls
    time := { n.time with paths := u.net.time.paths } }) h.net
  refine ⟨k.1.trans h.ten, Eq.trans k.2.1 hi, k.length.trans h.length, ?_, fun j hj => ?_⟩
  · obtain ⟨l, hl⟩ := h.here
    obtain ⟨m, hm⟩ := k.ports i
    exact ⟨m, by rw [hm, hl]⟩
  · obtain ⟨l, hl⟩ := h.others j hj
    obtain ⟨m, hm⟩ := k.ports j
    exact ⟨m, by rw [hm, hl]⟩

theorem of (h : Moved s u) (i : Nat) : Reshaped i (s.port i) s u := ⟨h.1, h.2.1, h.length, h.ports i, fun j _ => h.ports j⟩

/-- A change of the port that does not look at what has to leave it. -/
theorem modPort {f : Port → Port} {r : Port} (h : Reshaped i q s t) (hi : i < s.net.ports.length)
    (hf : ∀ l, ∃ m, f { q with leaving := l } = { r with leaving := m }) : Reshaped i r s (t.modPort i f) := by
  have hi' : i < t.net.ports.length := h.length ▸ hi
  refine ⟨h.ten, ?_, (modAt_length _ _ _).trans h.length, ?_, fun j hj => ?_⟩
  · exact congrArg (fun n : NetState => { n with ports := modAt t.net.ports i f }) h.net
  · obtain ⟨l, hl⟩ := h.here
    rw [port_modPort, if_pos ⟨rfl, hi'⟩, hl]
    exact hf l
  · rw [port_modPort, if_neg fun hc => hj hc.1]
    exact h.others j hj

theorem st_others (h : Reshaped i q s u) {j : Nat} (hj : j ≠ i) : (u.port j).st = (s.port j).st := by
  obtain ⟨l, hl⟩ := h.others j hj
  rw [hl]

end Reshaped

theorem setPort_reshaped (hi : i < s.net.ports.length) : Reshaped i q s (s.setPort i q) :=
  ⟨rfl, rfl, setAt_length .., ⟨q.leaving, port_setPort_self hi⟩, fun j hj => ⟨(s.port j).leaving, (port_setPort s i j q).trans (if_neg fun h => hj h.1)⟩⟩

/-- What comes after a port has been set is as if it had been so from the start. -/
theorem Reshaped.afterSet {r : Port} (h : Reshaped i r (s.setPort i q) u) : Reshaped i r s u := by
  refine ⟨h.ten, h.net, h.length.trans (setAt_length ..), h.here, fun j hj => ?_⟩
  obtain ⟨l, hl⟩ := h.others j hj
  exact ⟨l, hl.trans (by rw [(port_setPort s i j q).trans (if_neg fun h => hj h.1)])⟩

/-! ### A port that fails -/

theorem cutPartials_reshaped (hi : i < s.net.ports.length) : Reshaped i { s.port i with partialIn := [] } s (s.cutPartials i) := by
  refine Reshaped.modPort (Reshaped.of (Moved.fails (Fails.foldl (fun _ _ => Fails.cutOff) _)) i) hi ?_
  exact fun l => ⟨l, rfl⟩

theorem failPort_reshaped {kind lane : Nat} {tell : List (List Nat)} (hi : i < s.net.ports.length) :
    Reshaped i ((s.port i).outOfService tell) s (s.failPort i kind lane tell) := by
  have hdown : Reshaped i ((s.port i).outOfService tell) s ((s.cutPartials i).modPort i fun q => { q with
      st := .failed, mgtOut := q.mgtOut ++ tell, offer := none, peerEn := none, charted := false }) := by
    refine Reshaped.modPort (cutPartials_reshaped hi) hi ?_
    exact fun l => ⟨l, rfl⟩
  have hmoved := (hdown.moved (Moved.reroute (i := i))).moved Moved.followOffers
  unfold failPort
  exact ite_ind (P := Reshaped i _ s) (hmoved.moved ((Moved.free _).trans Moved.masked)) hmoved

theorem portError_reshaped {reason : Nat} (hi : i < s.net.ports.length) :
    Reshaped i ((s.port i).outOfService [portDownFlit reason]) s (s.portError i reason) := (failPort_reshaped hi).moved Moved.linkLog

end State

end Sys2Proof.Machine

namespace Sys2Proof.Machine

/-! ### Blocks -/

/-- A block that does not decode is discarded and asked for again. -/
theorem Port.receive_undecoded {q : Port} {fl : List (List Nat)} {ctl : Nat} (h : q.badAt = none) :
    q.receive false fl ctl = ({ q with badAt := some q.rxIndex, nakDue := true, rxIndex := (q.rxIndex + 1) % 65536 }, false) := by
  unfold Port.receive
  dsimp only
  rw [h]
  rfl

/-! ### LINK_INIT -/

/-- A LINK_INIT that announces enough buffers. -/
def initOk (v : Nat) : Prop := fld v 8 8 = 1 ∧ ∀ c n, (c, n) ∈ State.leastBuffers → n ≤ (State.announcedBy v).getD c 0

theorem takeInit_enough {s : State} {i v : Nat} (h : initOk v) : s.takeInit i v = s.modPort i fun q => { q with
    credits := State.announcedBy v, announced := State.announcedBy v, initRcvd := true, st := if q.initSent then .chart else q.st } := by
  refine if_neg (not_or.mpr ⟨not_not.mpr h.1, ?_⟩)
  rw [Bool.not_eq_true, Bool.not_eq_false']
  exact List.all_eq_true.mpr fun x hx => decide_eq_true (h.2 x.1 x.2 hx)

theorem takeInit_short {s : State} {i v : Nat} (h : ¬ initOk v) : s.takeInit i v = s.modPort i fun q => { q with
    mgtOut := q.mgtOut ++ [portDownFlit 0] } := by
  refine if_pos ?_
  by_cases hv : fld v 8 8 = 1
  · refine .inr ?_
    rw [Bool.not_eq_true', Bool.eq_false_iff]
    exact fun hall => h ⟨hv, fun c n hc => of_decide_eq_true (List.all_eq_true.mp hall (c, n) hc)⟩
  · exact .inl hv

end Sys2Proof.Machine

namespace Sys2Proof.Proofs

open Sys2Proof.Machine Sys2Proof.Machine.State

/-- Settles O56: a block, a timer or a management flit changes its own port; a protocol error also moves the port's traffic. -/
theorem linkCommands : Obligations.LinkCommands := by
  unfold Obligations.LinkCommands
  intro s i hi hl hlen
  have hin : i < s.net.ports.length := hlen ▸ hi
  dsimp only [exec]
  unfold execLinkBlockReceive execReplayTimeout execNakRepeatTimer execFlitSlotTableSwap execLinkInit
  refine ⟨fun d fl ctl hs => ?_, fun d fl ctl q1 hs hr => ?_, fun d fl ctl q1 hs hr => ?_, fun fl ctl hs hb => ?_, fun hno => ?_, fun x fl rest hu hs => ?_,
    fun hb => ?_, fun hb => ?_, fun tab ht => ?_, fun tab ht => ?_, fun hno => ?_, fun v q1 hpop => ⟨fun hst => ?_, fun hst hno => ?_, fun hst hok => ?_⟩⟩
  · exact onPort_of hi hl (if_pos (by rw [hs]; rfl))
  · exact onPort_of hi hl ((if_neg (by rw [hs]; decide)).trans (by rw [hr]))
  · have herr := (portError_reshaped (s := s.setPort i q1) (reason := 0) (by rw [setPort, setAt_length]; exact hin)).afterSet
    rw [port_setPort_self hin] at herr
    obtain ⟨l, hport⟩ := herr.here
    refine ⟨(s.setPort i q1).portError i 0, onPort_of hi hl ((if_neg (by rw [hs]; decide)).trans (by rw [hr])), ?_, ?_, fun j _ hj => herr.st_others hj⟩
    · rw [hport]
      rfl
    · rw [hport]
      exact List.mem_append_right _ (List.mem_singleton_self _)
  · exact onPort_of hi hl ((if_neg (by rw [hs]; decide)).trans (by rw [Port.receive_undecoded hb]))
  · refine onPort_of hi hl ?_
    split
    next x fl rest hu =>
      rcases hno with hno | hno
      · exact absurd (hno.symm.trans hu) nofun
      · exact if_neg (ne_true_of_eq_false hno)
    next => rfl
  · refine onPort_of hi hl ?_
    rw [hu]
    exact if_pos hs
  · exact onPort_of hi hl (if_neg (by rw [hb]; exact Bool.false_ne_true))
  · exact onPort_of hi hl (if_pos (Option.isSome_iff_ne_none.mpr hb))
  · exact onPort_of hi hl (if_neg (ne_true_of_eq_false ht))
  · exact onPort_of hi hl ((if_pos ht).trans modPort_eq_setPort)
  · exact onPort_of hi hl (by rw [hno])
  · refine onPort_of hi hl ?_
    rw [hpop]
    exact if_neg hst
  · refine onPort_of hi hl ?_
    rw [hpop]
    exact (if_pos hst).trans ((takeInit_short hno).trans (modPort_setPort hin))
  · refine onPort_of hi hl ?_
    rw [hpop]
    refine (if_pos hst).trans ((takeInit_enough hok).trans ((modPort_setPort hin).trans ?_))
    rw [hst]

end Sys2Proof.Proofs
end

section
/-! SUPPORT. Lanes that fail and move to the spare, and links that lose their signal or train (R376, R378, R379, R382 to R384). -/

namespace Sys2Proof.Machine

/-- A logical lane map with one physical lane replaced by the spare. -/
def onSpare (lane : Nat) (m : List Nat) : List Nat := m.map fun k => if k = lane then 4 else k

namespace State

variable {s t u : State} {i lane v : Nat} {q : Port}

/-- A port without a link. -/
def deadPort (q : Port) : Prop := q.st = .down ∨ q.st = .hold

/-! ### LANE_FAIL and LANE_SWAP -/

theorem takeLaneFail_idle (h : 5 ≤ fld v 16 8 ∨ deadPort (s.port i)) : s.takeLaneFail i v = s := if_pos h

/-- A transmit lane of this end moves to the spare where it carries a lane and the spare is free. -/
def swapsLane (q : Port) (v : Nat) : Bool := q.txMap.contains (fld v 16 8) && !q.txLaneLost

theorem takeLaneFail_fails (hi : i < s.net.ports.length) (hl : fld v 16 8 < 5) (hd : ¬ deadPort (s.port i)) :
    Reshaped i (({ s.port i with
        txLaneLost := true
        swapAt := if swapsLane (s.port i) v then some (fld v 16 8, fld v 32 16, true) else (s.port i).swapAt } : Port).outOfService
      (if swapsLane (s.port i) v then [laneSwap (fld v 16 8) (fld v 32 16)] else [])) s (s.takeLaneFail i v) := by
  have hrun : ¬ (5 ≤ fld v 16 8 ∨ (s.port i).st = .down ∨ (s.port i).st = .hold) := not_or.mpr ⟨Nat.not_le.mpr hl, hd⟩
  unfold takeLaneFail
  dsimp only
  rw [if_neg hrun, modPort_eq_setPort]
  have hfail := (failPort_reshaped (s := s.setPort i { s.port i with
      txLaneLost := true
      swapAt := if swapsLane (s.port i) v then some (fld v 16 8, fld v 32 16, true) else (s.port i).swapAt }) (kind := 4) (lane := fld v 16 8)
    (tell := if swapsLane (s.port i) v then [laneSwap (fld v 16 8) (fld v 32 16)] else []) (by rw [setPort, setAt_length]; exact hi)).afterSet
  rw [port_setPort_self hi] at hfail
  exact hfail

theorem takeLaneSwap_set (hi : i < s.net.ports.length) : (s.setPort i q).takeLaneSwap i v = s.setPort i (match q.swapAt with
    | some (lane, _, false) => if lane = fld v 16 8 then { q with swapAt := some (lane, fld v 32 16, false) } else q
    | _ => q) := by
  unfold takeLaneSwap
  exact (modPort_setPort hi).trans rfl

/-! ### A receive lane that fails -/

theorem laneLost_idle (h : 5 ≤ lane ∨ deadPort (s.port i)) : s.laneLost i lane = s := if_pos h

section
variable (hl : lane < 5) (hd : ¬ deadPort (s.port i))
include hl hd

theorem laneLost_live : s.laneLost i lane = if (s.port i).rxLaneLost then
      (if (s.port i).rxMap.contains lane then
        (((s.modPort i fun q => { q with lanesGone := true }).failPort i 5 0 [portDownFlit 1]).linkLog i 0 lane).linkLog i 2 lane else s)
    else if !(s.port i).rxMap.contains lane then s.modPort i fun q => { q with rxLaneLost := true }
    else (((s.modPort i fun q => { q with rxLaneLost := true, swapAt := some (lane, ((s.port i).rxIndex + 64) % 65536, false) }).failPort i 4 lane
      [laneFail lane (((s.port i).rxIndex + 64) % 65536)]).linkLog i 0 lane) :=
  if_neg (not_or.mpr ⟨Nat.not_le.mpr hl, hd⟩)

theorem laneLost_unused (hr : (s.port i).rxLaneLost = true) (hm : lane ∉ (s.port i).rxMap) : s.laneLost i lane = s :=
  (laneLost_live hl hd).trans ((if_pos hr).trans (if_neg fun h => hm (List.elem_iff.mp h)))

theorem laneLost_spare (hr : (s.port i).rxLaneLost = false) (hm : lane ∉ (s.port i).rxMap) :
    s.laneLost i lane = s.setPort i { s.port i with rxLaneLost := true } := by
  refine (laneLost_live hl hd).trans ((if_neg (ne_true_of_eq_false hr)).trans ((if_pos ?_).trans modPort_eq_setPort))
  exact congrArg not (Bool.eq_false_iff.mpr fun h => hm (List.elem_iff.mp h))

theorem laneLost_second (hi : i < s.net.ports.length) (hr : (s.port i).rxLaneLost = true) (hm : lane ∈ (s.port i).rxMap) :
    Reshaped i (({ s.port i with lanesGone := true } : Port).outOfService [portDownFlit 1]) s (s.laneLost i lane) := by
  rw [laneLost_live hl hd, if_pos hr, if_pos (List.elem_eq_true_of_mem hm), modPort_eq_setPort]
  have hfail := (failPort_reshaped (s := s.setPort i { s.port i with lanesGone := true }) (kind := 5) (lane := 0) (tell := [portDownFlit 1])
    (by rw [setPort, setAt_length]; exact hi)).afterSet
  rw [port_setPort_self hi] at hfail
  exact (hfail.moved Moved.linkLog).moved Moved.linkLog

theorem laneLost_first (hi : i < s.net.ports.length) (hr : (s.port i).rxLaneLost = false) (hm : lane ∈ (s.port i).rxMap) :
    Reshaped i (({ s.port i with rxLaneLost := true, swapAt := some (lane, ((s.port i).rxIndex + 64) % 65536, false) } : Port).outOfService
      [laneFail lane (((s.port i).rxIndex + 64) % 65536)]) s (s.laneLost i lane) := by
  rw [laneLost_live hl hd, if_neg (ne_true_of_eq_false hr), if_neg (ne_true_of_eq_false (congrArg not (List.elem_eq_true_of_mem hm))), modPort_eq_setPort]
  have hfail := (failPort_reshaped (s := s.setPort i { s.port i with
      rxLaneLost := true, swapAt := some (lane, ((s.port i).rxIndex + 64) % 65536, false) }) (kind := 4) (lane := lane)
    (tell := [laneFail lane (((s.port i).rxIndex + 64) % 65536)]) (by rw [setPort, setAt_length]; exact hi)).afterSet
  rw [port_setPort_self hi] at hfail
  exact hfail.moved Moved.linkLog

end

/-! ### The remap -/

/-- The port after the remap: the spare carries the lane, and a port that had failed trains again. -/
def remapped (q : Port) (lane : Nat) (tx : Bool) : Port :=
  let q1 := if tx then { q with txMap := onSpare lane q.txMap } else { q with rxMap := onSpare lane q.rxMap }
  if q.st = .failed then q1.linkUp else { q1 with swapAt := none }

theorem remapped_fields (q : Port) (lane : Nat) (tx : Bool) : (remapped q lane tx).swapAt = none ∧
    (remapped q lane tx).txMap = (if tx then onSpare lane q.txMap else q.txMap) ∧
    (remapped q lane tx).rxMap = (if tx then q.rxMap else onSpare lane q.rxMap) ∧
    (remapped q lane tx).st = (if q.st = .failed then .train else q.st) := by
  unfold remapped
  dsimp only
  by_cases hf : q.st = .failed
  · rw [if_pos hf, if_pos hf]
    cases tx <;> exact ⟨rfl, rfl, rfl, rfl⟩
  · rw [if_neg hf, if_neg hf]
    cases tx <;> exact ⟨rfl, rfl, rfl, rfl⟩

theorem remapLane_none (h : (s.port i).swapAt = none) : s.remapLane i = s := by
  unfold remapLane
  rw [h]

/-- The remap sets the port; a receive lane's is recorded for the repair table and logged. -/
theorem remapLane_some {b : Nat} {tx : Bool} (h : (s.port i).swapAt = some (lane, b, tx)) :
    s.remapLane i = (if tx then s.setPort i (remapped (s.port i) lane tx)
      else ({ s.setPort i (remapped (s.port i) lane tx) with boot := { s.boot with
        repairsDue := s.boot.repairsDue ++ [Repair.straitLane i lane] } } : State).linkLog i 1 lane) := by
  unfold remapLane
  rw [h]
  dsimp only
  rw [modPort_eq_setPort]
  rfl

/-! ### Loss of signal -/

/-- Elements of a list that meet a condition are gone once each of them has been erased. -/
theorem not_mem_erase_filter {α : Type} [DecidableEq α] {l : List α} {p : α → Bool} {x : α} (hx : x ∈ (l.filter p).foldl List.erase l) : p x = false := by
  rw [← List.diff_eq_foldl] at hx
  by_contra hp
  have hcount : List.count x (l.diff (l.filter p)) = 0 := by
    rw [List.count_diff, List.count_filter (Bool.not_eq_false _ ▸ hp : p x = true), Nat.sub_self]
  exact List.count_eq_zero.mp hcount hx

theorem foldl_erase_subset {α : Type} [DecidableEq α] (l m : List α) : m.foldl List.erase l ⊆ l := by
  rw [← List.diff_eq_foldl]
  exact List.diff_subset l m

theorem loseSignal_reshaped (hi : i < s.net.ports.length) :
    Reshaped i { (s.port i).linkUp with st := .hold, peerFixed := false } s (s.loseSignal i) := by
  have hhold : Reshaped i { (s.port i).linkUp with st := .hold, peerFixed := false } s ((s.cutPartials i).modPort i fun q => { q.linkUp with
      st := .hold, peerFixed := false }) := by
    refine Reshaped.modPort (cutPartials_reshaped hi) hi ?_
    exact fun l => ⟨[], rfl⟩
  exact ((hhold.moved Moved.endAll).moved Moved.dropWaiting).moved Moved.followOffers

theorem loseSignal_sent {x : Sent} (hx : x ∈ (s.loseSignal i).net.sent) : x.port ≠ i := by
  have hcut : ((s.cutPartials i).modPort i fun q => { q.linkUp with st := .hold, peerFixed := false }).net.sent = s.net.sent :=
    (Fails.foldl (fun _ _ => Fails.cutOff) (s.port i).partialIn).sent
  have hend := foldl_erase_subset _ _ ((endAll_sent (st := .linkLost) ▸ hx :))
  rw [endAll_sent, hcut] at hend
  exact beq_eq_false_iff_ne.mp (not_mem_erase_filter (p := fun t : Sent => t.port == i) hend)

/-! ### Hold and training -/

theorem trainTimeout_reshaped (hi : i < s.net.ports.length) :
    Reshaped i { q.linkUp with st := .down, peerFixed := false } s (s.setPort i { q.linkUp with st := .down, peerFixed := false }).dropWaiting :=
  (setPort_reshaped hi).moved Moved.dropWaiting

theorem holdExpired_reshaped (hi : i < s.net.ports.length) : Reshaped i { s.port i with st := .down, peerFixed := false } s (s.holdExpired i) := by
  have hdown : Reshaped i { s.port i with st := .down, peerFixed := false } s
      ((s.modPort i fun q => { q with st := .down, peerFixed := false }).linkLog i 4 0) := by
    rw [modPort_eq_setPort]
    exact (setPort_reshaped hi).moved Moved.linkLog
  unfold holdExpired
  dsimp only
  refine Reshaped.moved ?_ Moved.dropWaiting
  split
  · exact hdown
  · exact (hdown.moved Moved.notice).moved Moved.noticeTenants

end State

end Sys2Proof.Machine

namespace Sys2Proof.Proofs

open Sys2Proof.Machine Sys2Proof.Machine.State

section
variable {s : State} {i : Nat} (hi : i < 32) (hl : s.live = true) (hin : i < s.net.ports.length)
include hi hl hin

/-- LANE_FAIL at its port (R378). -/
theorem laneFail_at {v : Nat} {q1 : Port} (hpop : (s.port i).popMgt (fun v => fld v 0 8 == 0x04) = some (v, q1)) :
    (5 ≤ fld v 16 8 ∨ deadPort q1 → exec (.laneFail i) s = .next (s.setPort i q1)) ∧
    (fld v 16 8 < 5 → ¬ deadPort q1 → ∃ t, exec (.laneFail i) s = .next t ∧ (t.port i).st = .failed ∧ (t.port i).txLaneLost = true ∧
      (fld v 16 8 ∈ q1.txMap → q1.txLaneLost = false →
        (t.port i).swapAt = some (fld v 16 8, fld v 32 16, true) ∧ laneSwap (fld v 16 8) (fld v 32 16) ∈ (t.port i).mgtOut) ∧
      (fld v 16 8 ∉ q1.txMap ∨ q1.txLaneLost = true → (t.port i).swapAt = q1.swapAt ∧ (t.port i).mgtOut = q1.mgtOut)) := by
  have hrun : ∀ {t}, (s.setPort i q1).takeLaneFail i v = t → exec (.laneFail i) s = .next t := by
    intro t ht
    show execLaneFail i s = _
    refine onPort_of hi hl ?_
    rw [hpop]
    exact ht
  have hset : (s.setPort i q1).port i = q1 := port_setPort_self hin
  refine ⟨fun hno => hrun (takeLaneFail_idle (by rw [hset]; exact hno)), fun hlane hlive => ?_⟩
  have hfail := takeLaneFail_fails (s := s.setPort i q1) (v := v) (by rw [setPort, setAt_length]; exact hin) hlane (by rw [hset]; exact hlive)
  rw [hset] at hfail
  obtain ⟨l, hport⟩ := hfail.here
  refine ⟨_, hrun rfl, ?_, ?_, fun hmem hfree => ?_, fun hno => ?_⟩
  · rw [hport]
    rfl
  · rw [hport]
    rfl
  · have hswap : swapsLane q1 v = true := Bool.and_eq_true_iff.mpr ⟨List.elem_eq_true_of_mem hmem, congrArg not hfree⟩
    rw [hport, hswap]
    exact ⟨rfl, List.mem_append_right _ (List.mem_singleton_self _)⟩
  · have hswap : swapsLane q1 v = false := by
      refine Bool.eq_false_iff.mpr fun h => ?_
      obtain ⟨hmem, hfree⟩ := Bool.and_eq_true_iff.mp h
      rcases hno with hno | hno
      · exact hno (List.elem_iff.mp hmem)
      · rw [hno] at hfree
        cases hfree
    rw [hport, hswap]
    exact ⟨rfl, List.append_nil _⟩

/-- LANE_SWAP at its port (R378). -/
theorem laneSwap_at {v : Nat} {q1 : Port} (hpop : (s.port i).popMgt (fun v => fld v 0 8 == 0x05) = some (v, q1)) :
    (∀ b, q1.swapAt = some (fld v 16 8, b, false) →
      exec (.laneSwap i) s = .next (s.setPort i { q1 with swapAt := some (fld v 16 8, fld v 32 16, false) })) ∧
    ((∀ b, q1.swapAt ≠ some (fld v 16 8, b, false)) → exec (.laneSwap i) s = .next (s.setPort i q1)) := by
  have hrun : ∀ {t}, (s.setPort i q1).takeLaneSwap i v = t → exec (.laneSwap i) s = .next t := by
    intro t ht
    show execLaneSwap i s = _
    refine onPort_of hi hl ?_
    rw [hpop]
    exact ht
  refine ⟨fun b hb => hrun ((takeLaneSwap_set hin).trans (congrArg (s.setPort i) ?_)), fun hno => hrun ((takeLaneSwap_set hin).trans (congrArg (s.setPort i) ?_))⟩
  · rw [hb]
    exact if_pos rfl
  · split
    next lane b hswap =>
      refine if_neg fun hlane => hno b ?_
      rw [← hlane]
      exact hswap
    next => rfl

/-- PORT_DOWN at its port (R379). -/
theorem portDown_at {v : Nat} {q1 : Port} (hpop : (s.port i).popMgt (fun v => fld v 0 8 == 0x06) = some (v, q1)) :
    (q1.sends = false → exec (.portDown i) s = .next (s.setPort i q1)) ∧
    (q1.sends = true → ∃ t, exec (.portDown i) s = .next t ∧ (t.port i).st = .failed ∧ (t.port i).mgtOut = q1.mgtOut ∧ (t.port i).partialIn = []) := by
  have hrun : ∀ {t}, (if q1.sends then ((s.setPort i q1).failPort i 5 0 []).linkLog i 2 0 else s.setPort i q1) = t → exec (.portDown i) s = .next t := by
    intro t ht
    show execPortDown i s = _
    refine onPort_of hi hl ?_
    rw [hpop]
    exact ht
  refine ⟨fun hno => hrun (if_neg (ne_true_of_eq_false hno)), fun hs => ⟨_, hrun (if_pos hs), ?_⟩⟩
  have hfail := (failPort_reshaped (s := s.setPort i q1) (kind := 5) (lane := 0) (tell := []) (by rw [setPort, setAt_length]; exact hin)).moved
    (Moved.linkLog (i := i) (e := 2) (l := 0))
  rw [port_setPort_self hin] at hfail
  obtain ⟨l, hport⟩ := hfail.here
  rw [hport]
  exact ⟨rfl, List.append_nil _, rfl⟩

/-- A detected failure of a receive lane (R378). -/
theorem laneFailureDetect_at (lane : Nat) : (5 ≤ lane ∨ deadPort (s.port i) → exec (.laneFailureDetect i lane) s = .next s) ∧
    (lane < 5 → ¬ deadPort (s.port i) →
      ((s.port i).rxLaneLost = true → lane ∉ (s.port i).rxMap → exec (.laneFailureDetect i lane) s = .next s) ∧
      ((s.port i).rxLaneLost = true → lane ∈ (s.port i).rxMap → ∃ t, exec (.laneFailureDetect i lane) s = .next t ∧ (t.port i).st = .failed ∧
        (t.port i).lanesGone = true ∧ portDownFlit 1 ∈ (t.port i).mgtOut) ∧
      ((s.port i).rxLaneLost = false → lane ∉ (s.port i).rxMap →
        exec (.laneFailureDetect i lane) s = .next (s.setPort i { s.port i with rxLaneLost := true })) ∧
      ((s.port i).rxLaneLost = false → lane ∈ (s.port i).rxMap → ∃ t, exec (.laneFailureDetect i lane) s = .next t ∧ (t.port i).st = .failed ∧
        (t.port i).rxLaneLost = true ∧ (t.port i).swapAt = some (lane, ((s.port i).rxIndex + 64) % 65536, false) ∧
        laneFail lane (((s.port i).rxIndex + 64) % 65536) ∈ (t.port i).mgtOut)) := by
  dsimp only [exec]
  unfold execLaneFailureDetect
  refine ⟨fun hno => onPort_of hi hl (laneLost_idle hno), fun hlane hlive => ⟨fun hr hm => onPort_of hi hl (laneLost_unused hlane hlive hr hm),
    fun hr hm => ⟨s.laneLost i lane, onPort_of hi hl rfl, ?_⟩, fun hr hm => onPort_of hi hl (laneLost_spare hlane hlive hr hm),
    fun hr hm => ⟨s.laneLost i lane, onPort_of hi hl rfl, ?_⟩⟩⟩
  · obtain ⟨l, hport⟩ := (laneLost_second hlane hlive hin hr hm).here
    rw [hport]
    exact ⟨rfl, rfl, List.mem_append_right _ (List.mem_singleton_self _)⟩
  · obtain ⟨l, hport⟩ := (laneLost_first hlane hlive hin hr hm).here
    rw [hport]
    exact ⟨rfl, rfl, rfl, List.mem_append_right _ (List.mem_singleton_self _)⟩

/-- The block of a remap has come (R378). -/
theorem laneRemap_at {lane b : Nat} {tx : Bool} (hswap : (s.port i).swapAt = some (lane, b, tx)) :
    ∃ t, exec (.laneRemap i) s = .next t ∧ (t.port i).swapAt = none ∧
      (t.port i).txMap = (if tx then onSpare lane (s.port i).txMap else (s.port i).txMap) ∧
      (t.port i).rxMap = (if tx then (s.port i).rxMap else onSpare lane (s.port i).rxMap) ∧
      (t.port i).st = (if (s.port i).st = .failed then .train else (s.port i).st) ∧
      t.boot.repairsDue = (if tx then s.boot.repairsDue else s.boot.repairsDue ++ [.straitLane i lane]) ∧
      (∀ j, j ≠ i → t.port j = s.port j) ∧ t.holms = s.holms ∧ t.mem = s.mem ∧ t.net.sent = s.net.sent := by
  have hfields := remapped_fields (s.port i) lane tx
  have hself : (s.setPort i (remapped (s.port i) lane tx)).port i = remapped (s.port i) lane tx := port_setPort_self hin
  have hothers : ∀ j, j ≠ i → (s.setPort i (remapped (s.port i) lane tx)).port j = s.port j :=
    fun j hj => (port_setPort s i j _).trans (if_neg fun h => hj h.1)
  obtain ⟨hsw, htx, hrx, hst⟩ := hself ▸ hfields
  have hrun : exec (.laneRemap i) s = .next (s.remapLane i) := by
    show execLaneRemap i s = _
    exact onPort_of hi hl rfl
  refine ⟨s.remapLane i, hrun, ?_⟩
  rw [remapLane_some hswap]
  cases tx with
  | true => exact ⟨hsw, htx, hrx, hst, rfl, hothers, rfl, rfl, rfl⟩
  | false =>
    rw [if_neg Bool.false_ne_true]
    exact ⟨hsw, htx, hrx, hst, log_repairsDue, hothers, rfl, rfl, rfl⟩

/-- A port fails of itself, or loses its signal (R379, R382, R383). -/
theorem portFailure_at : (¬ ((s.port i).st = .up ∨ (s.port i).st = .chart ∨ (s.port i).st = .charted) → exec (.portFailure i) s = .next s) ∧
    ((s.port i).st = .up ∨ (s.port i).st = .chart ∨ (s.port i).st = .charted → ∃ t, exec (.portFailure i) s = .next t ∧ (t.port i).st = .failed ∧
      (t.port i).mgtOut = (s.port i).mgtOut ++ (if 64 ≤ (s.port i).retries then [portDownFlit 2] else []) ∧ (t.port i).partialIn = []) := by
  dsimp only [exec]
  unfold execPortFailure
  have hfail := (failPort_reshaped (s := s) (kind := 5) (lane := 0) (tell := if 64 ≤ (s.port i).retries then [portDownFlit 2] else []) hin).moved
    (Moved.linkLog (i := i) (e := 2) (l := 0))
  obtain ⟨l, hport⟩ := hfail.here
  refine ⟨fun hno => onPort_of hi hl ?_, fun hup => ⟨_, onPort_of hi hl (t := (s.failPort i 5 0 (if 64 ≤ (s.port i).retries then
    [portDownFlit 2] else [])).linkLog i 2 0) ?_, ?_⟩⟩
  · split
    next h => exact absurd (.inl h) hno
    next h => exact absurd (.inr (.inl h)) hno
    next h => exact absurd (.inr (.inr h)) hno
    next => rfl
  · rcases hup with h | h | h <;> rw [h]
  · rw [hport]
    exact ⟨rfl, rfl, rfl⟩

theorem lossOfSignal_at :
    (¬ (((s.port i).st = .up ∨ (s.port i).st = .chart ∨ (s.port i).st = .charted) ∨ (s.port i).st = .failed) → exec (.lossOfSignal i) s = .next s) ∧
    (((s.port i).st = .up ∨ (s.port i).st = .chart ∨ (s.port i).st = .charted) ∨ (s.port i).st = .failed → ∃ t, exec (.lossOfSignal i) s = .next t ∧
      (t.port i).st = .hold ∧ (t.port i).peerFixed = false ∧ (t.port i).unacked = [] ∧ (t.port i).partialIn = [] ∧ ∀ x ∈ t.net.sent, x.port ≠ i) := by
  dsimp only [exec]
  unfold execLossOfSignal
  obtain ⟨l, hport⟩ := (loseSignal_reshaped hin).here
  refine ⟨fun hno => onPort_of hi hl ?_, fun hup => ⟨s.loseSignal i, onPort_of hi hl ?_, ?_⟩⟩
  · split
    next h => exact absurd (.inl (.inl h)) hno
    next h => exact absurd (.inr h) hno
    next h => exact absurd (.inl (.inr (.inl h))) hno
    next h => exact absurd (.inl (.inr (.inr h))) hno
    next => rfl
  · rcases hup with (h | h | h) | h <;> rw [h]
  · exact ⟨(congrArg Port.st hport).trans rfl, (congrArg Port.peerFixed hport).trans rfl, (congrArg Port.unacked hport).trans rfl,
      (congrArg Port.partialIn hport).trans rfl, fun x hx => loseSignal_sent hx⟩

omit hin in
/-- Signal trains a port anew (R382, R384). -/
theorem signalDetect_at : (s.linksLive = false → exec (.signalDetect i) s = .next s) ∧
    (s.linksLive = true →
      (deadPort (s.port i) → exec (.signalDetect i) s = .next ((s.wakeStrait i).setPort i ((s.port i).linkUp.freshMaps (s.badLanes i)))) ∧
      ((s.port i).st = .failed → (s.port i).swapAt = none → (s.port i).lanesGone = false →
        exec (.signalDetect i) s = .next (s.setPort i (s.port i).linkUp)) ∧
      ((s.port i).st = .failed → (s.port i).swapAt ≠ none ∨ (s.port i).lanesGone = true → exec (.signalDetect i) s = .next s) ∧
      (¬ deadPort (s.port i) → (s.port i).st ≠ .failed → exec (.signalDetect i) s = .next s)) := by
  dsimp only [exec]
  unfold execSignalDetect
  refine ⟨fun hno => onPort_of hi hl (if_pos (by rw [hno]; rfl)), fun hlive => ?_⟩
  have hgo : ¬ ((!s.linksLive) = true) := by
    rw [hlive]
    exact Bool.false_ne_true
  refine ⟨fun hd => onPort_of hi hl ((if_neg hgo).trans ?_), fun hf hs hg => onPort_of hi hl ((if_neg hgo).trans ?_),
    fun hf hs => onPort_of hi hl ((if_neg hgo).trans ?_), fun hd hf => onPort_of hi hl ((if_neg hgo).trans ?_)⟩
  · rcases hd with h | h <;> rw [h]
  · rw [hf]
    exact if_neg (by rw [hs, hg]; decide)
  · rw [hf]
    exact if_pos (hs.imp Option.isSome_iff_ne_none.mpr id)
  · split
    next h => exact absurd (.inl h) hd
    next h => exact absurd (.inr h) hd
    next h => exact absurd h hf
    next => rfl

/-- Training or the hold time is over (R382, R383). -/
theorem timeouts_at : ((s.port i).st ≠ .train → exec (.trainTimeout i) s = .next s) ∧
    ((s.port i).st = .train → ∃ t, exec (.trainTimeout i) s = .next t ∧ (t.port i).st = .down ∧ (t.port i).peerFixed = false) ∧
    ((s.port i).st ≠ .hold → exec (.holdTimerExpiry i) s = .next s) ∧
    ((s.port i).st = .hold → ∃ t, exec (.holdTimerExpiry i) s = .next t ∧ (t.port i).st = .down ∧ (t.port i).peerFixed = false ∧
      (t.port i).peer = (s.port i).peer) := by
  dsimp only [exec]
  unfold execTrainTimeout execHoldTimerExpiry
  refine ⟨fun hno => onPort_of hi hl (if_neg hno), fun hst => ⟨_, onPort_of hi hl (if_pos hst), ?_⟩, fun hno => onPort_of hi hl (if_neg hno),
    fun hst => ⟨_, onPort_of hi hl (if_pos hst), ?_⟩⟩
  · obtain ⟨l, hport⟩ := (trainTimeout_reshaped (q := s.port i) hin).here
    rw [hport]
    exact ⟨rfl, rfl⟩
  · obtain ⟨l, hport⟩ := (holdExpired_reshaped hin).here
    rw [hport]
    exact ⟨rfl, rfl, rfl⟩

end

/-- Settles O58: each event is a case of its own port; a failure, a loss and a timeout also move or end the port's traffic. -/
theorem laneAndPortEvents : Obligations.LaneAndPortEvents := by
  unfold Obligations.LaneAndPortEvents
  intro s i hi hl hlen
  have hin : i < s.net.ports.length := hlen ▸ hi
  obtain ⟨hfail, hfails⟩ := portFailure_at hi hl hin
  obtain ⟨hloss, hlost⟩ := lossOfSignal_at hi hl hin
  obtain ⟨hdark, hsignal⟩ := signalDetect_at hi hl
  obtain ⟨htrain, htrained, hhold, hheld⟩ := timeouts_at hi hl hin
  refine ⟨fun c k hck hno => ?_, fun v q1 hpop => laneFail_at hi hl hin hpop, fun v q1 hpop => laneSwap_at hi hl hin hpop,
    fun v q1 hpop => portDown_at hi hl hin hpop, fun lane => laneFailureDetect_at hi hl hin lane, fun hno => ?_,
    fun lane b tx hswap => laneRemap_at hi hl hin hswap, ⟨hfail, hfails, hloss, hlost⟩, hdark, hsignal, htrain, htrained, hhold, hheld⟩
  · simp only [List.mem_cons, Prod.mk.injEq, List.not_mem_nil, or_false] at hck
    rcases hck with ⟨rfl, rfl⟩ | ⟨rfl, rfl⟩ | ⟨rfl, rfl⟩
    · show execLaneFail i s = _
      refine onPort_of hi hl ?_
      rw [hno]
    · show execLaneSwap i s = _
      refine onPort_of hi hl ?_
      rw [hno]
    · show execPortDown i s = _
      refine onPort_of hi hl ?_
      rw [hno]
  · show execLaneRemap i s = _
    exact onPort_of hi hl (remapLane_none hno)

end Sys2Proof.Proofs
end

section
/-! SUPPORT. Charting: what a HELLO, an ENABLE and a TIME flit leave of their port, and a port that comes up (R382, R388 to R394, R399). -/

namespace Sys2Proof.Machine.State

variable {s t u : State} {i v : Nat} {q : Port}

/-! ### Transfers that are placed -/

theorem placeSent_frame {a : Sent} {k : Nat} : s.placeSent a k = { s with net := (s.placeSent a k).net, free := (s.placeSent a k).free } := by
  unfold placeSent
  split <;> rfl

theorem placeWaiting_frame : s.placeWaiting = { s with net := s.placeWaiting.net, free := s.placeWaiting.free } := by
  unfold placeWaiting
  refine List.foldlRecOn (motive := fun t : State => t = { s with net := t.net, free := t.free }) _ _ rfl fun t ht a _ => ?_
  exact placeSent_frame.trans (congrArg (fun x : State => { x with net := (t.placeSent a.1 a.2).net, free := (t.placeSent a.1 a.2).free }) ht)

/-! ### A port that comes up -/

/-- Both ends are enabled for one archipelago whose member the peer is. -/
def meetsPeer (s : State) (i : Nat) : Prop := ∃ a k p, (s.port i).st = .charted ∧ (s.port i).enabled = some a ∧ (s.port i).peerEn = some (a, k) ∧
  (s.port i).peer = some p ∧ ((s.net.archs.get? a).bind fun x => x.members.get? k) = some (p.serial, p.inc, p.rack)

theorem tryUp_cases : s.tryUp i = s ∨ (s.meetsPeer i ∧ s.tryUp i = ((s.modPort i fun q => { q with st := .up }).linkLog i 3 0).placeWaiting) := by
  unfold tryUp
  dsimp only
  split
  next a b k p hst hen hpe hp =>
    by_cases h : a = b ∧ ((s.net.archs.get? a).bind fun x => x.members.get? k) = some (p.serial, p.inc, p.rack)
    · rw [if_pos h]
      exact .inr ⟨⟨a, k, p, hst, hen, by rw [hpe, h.1], hp, h.2⟩, rfl⟩
    · rw [if_neg h]
      exact .inl rfl
  next => exact .inl rfl

theorem tryUp_frame : (s.tryUp i).holms = s.holms ∧ (s.tryUp i).mem = s.mem ∧ (s.tryUp i).kv = s.kv ∧ (s.tryUp i).ten = s.ten := by
  rcases tryUp_cases (s := s) (i := i) with h | ⟨-, h⟩
  · rw [h]
    exact ⟨rfl, rfl, rfl, rfl⟩
  · rw [h, placeWaiting_frame]
    exact ⟨log_holms .., log_mem .., log_kv .., log_ten ..⟩

/-- A port that is tried stays as it is, or comes up from CHARTED where its own end is enabled for what the peer's is. -/
theorem Reshaped.tryUp (h : Reshaped i q s t) (hi : i < s.net.ports.length) : Reshaped i q s (t.tryUp i) ∨
    (q.st = .charted ∧ (∃ a k, q.enabled = some a ∧ q.peerEn = some (a, k)) ∧ Reshaped i { q with st := .up } s (t.tryUp i)) := by
  rcases tryUp_cases (s := t) (i := i) with he | ⟨⟨a, k, p, hst, hen, hpe, -⟩, he⟩
  · rw [he]
    exact .inl h
  · rw [he]
    obtain ⟨l, hport⟩ := h.here
    rw [hport] at hst hen hpe
    refine .inr ⟨hst, ⟨a, k, hen, hpe⟩, ?_⟩
    refine Reshaped.moved (Reshaped.moved (Reshaped.modPort h hi ?_) Moved.linkLog) Moved.placeWaiting
    exact fun l => ⟨l, rfl⟩

/-! ### Notices of charting -/

theorem Reshaped.chartNotice {p : Peer} {code : Nat} (h : Reshaped i q s t) (hi : i < s.net.ports.length) :
    ∃ n, Reshaped i { q with noticed := n } s (t.chartNotice i code p) := by
  unfold State.chartNotice
  by_cases hn : (t.port i).noticed = some (t.net.inc, p.inc)
  · rw [if_pos hn]
    exact ⟨q.noticed, h⟩
  · rw [if_neg hn]
    refine ⟨some (t.net.inc, p.inc), Reshaped.moved (Reshaped.modPort h hi ?_) Moved.notice⟩
    exact fun l => ⟨l, rfl⟩

theorem peerNew_moved {p : Peer} : Moved s (s.peerNew i p) := by
  unfold peerNew
  dsimp only
  split
  · exact .refl s
  · exact (Moved.notice.trans Moved.noticeTenants).trans (Moved.foldl (fun _ _ => Moved.endAll) _)

/-! ### HELLO -/

/-- The peer that a HELLO names. -/
def helloPeer (v : Nat) : Peer := ⟨fld v 32 64, fld v 96 64, fld v 16 5, fld v 160 32⟩

/-- The claim after a HELLO, and whether it conflicts. -/
def helloClaim (s : State) (i v : Nat) : Claim × Bool := if i < 30 ∧ bitAt v 198 then mergeClaim s.net.claim (candidate i v) else (s.net.claim, false)

/-- The HELLO names another peer than the one that the port has charted with. -/
def otherPeer (q : Port) (v : Nat) : Prop :=
  q.peerFixed = true ∧ (q.peer.any fun o => o.serial != (helloPeer v).serial || o.inc != (helloPeer v).inc) = true

theorem otherPeer_iff : otherPeer q v ↔
    q.peerFixed = true ∧ ∃ o, q.peer = some o ∧ (o.serial ≠ (helloPeer v).serial ∨ o.inc ≠ (helloPeer v).inc) := by
  refine and_congr Iff.rfl ?_
  cases q.peer with
  | none => exact ⟨nofun, fun ⟨o, h, _⟩ => absurd h nofun⟩
  | some o =>
    rw [Option.any_some, Bool.or_eq_true, bne_iff_ne, bne_iff_ne]
    exact ⟨fun h => ⟨o, rfl, h⟩, fun ⟨o', h, k⟩ => Option.some.inj h ▸ k⟩

/-- The echo of a HELLO names this end. -/
def helloEcho (s : State) (i v : Nat) : Prop :=
  bitAt v 397 = true ∧ fld v 264 64 = s.net.serial % 2 ^ 64 ∧ fld v 328 64 = s.net.inc % 2 ^ 64 ∧ fld v 392 5 = i

theorem takeHello_other (h : otherPeer (s.port i) v) : s.takeHello i v = s.portError i 0 := if_pos h

/-- A HELLO of the same peer: the port has its peer and the claim, and may have charted. -/
theorem takeHello_same (hi : i < s.net.ports.length) (h : ¬ otherPeer (s.port i) v) :
    ∃ r, Reshaped i r { s with net := { s.net with claim := (s.helloClaim i v).1 } } (s.takeHello i v) ∧ r.peer = some (helloPeer v) ∧ r.peerFixed = true ∧
      r.conflict = (s.helloClaim i v).2 ∧ ((s.port i).st ≠ .chart → r.st = (s.port i).st) ∧
      ((s.port i).st = .chart → (s.cabled i (helloPeer v) = false ∨ (s.helloClaim i v).2 = true) → r.st = .chart) ∧
      ((s.port i).st = .chart → s.cabled i (helloPeer v) = true → (s.helloClaim i v).2 = false → s.helloEcho i v →
        r.charted = true ∧ (r.st = .charted ∨ r.st = .up)) := by
  let m := s.helloClaim i v
  let sc : State := { s with net := { s.net with claim := m.1 } }
  let r0 : Port := { s.port i with peer := some (helloPeer v), peerFixed := true, conflict := m.2 }
  let s1 : State := sc.modPort i fun q => { q with peer := some (helloPeer v), peerFixed := true, conflict := m.2 }
  have hi' : i < sc.net.ports.length := hi
  have h1 : Reshaped i r0 sc s1 := by
    refine Reshaped.modPort (Reshaped.of (Moved.refl sc) i) hi ?_
    exact fun l => ⟨l, rfl⟩
  have hrun : s.takeHello i v = (if (s.port i).st ≠ .chart then s1
      else if !s1.cabled i (helloPeer v) then s1.chartNotice i 0x30 (helloPeer v)
      else if m.2 then s1.chartNotice i 0x31 (helloPeer v)
      else if bitAt v 397 ∧ fld v 264 64 = s.net.serial % 2 ^ 64 ∧ fld v 328 64 = s.net.inc % 2 ^ 64 ∧ fld v 392 5 = i then
        ((s1.modPort i fun q => { q with st := .charted, charted := true }).peerNew i (helloPeer v)).tryUp i
      else s1) := if_neg h
  have hcabled : s1.cabled i (helloPeer v) = s.cabled i (helloPeer v) := rfl
  rw [hrun, hcabled]
  by_cases hst : (s.port i).st ≠ .chart
  · rw [if_pos hst]
    exact ⟨r0, h1, rfl, rfl, rfl, fun _ => rfl, fun hc => absurd hc hst, fun hc => absurd hc hst⟩
  · rw [if_neg hst]
    have hchart : (s.port i).st = .chart := not_not.mp hst
    cases hcab : s.cabled i (helloPeer v) with
    | false =>
      obtain ⟨n, hn⟩ := h1.chartNotice (p := helloPeer v) (code := 0x30) hi'
      exact ⟨_, hn, rfl, rfl, rfl, fun hc => absurd hchart hc, fun _ _ => hchart, fun _ hc => absurd hc nofun⟩
    | true =>
      rw [if_neg (by decide)]
      by_cases hbad : m.2 = true
      · rw [if_pos hbad]
        obtain ⟨n, hn⟩ := h1.chartNotice (p := helloPeer v) (code := 0x31) hi'
        exact ⟨_, hn, rfl, rfl, rfl, fun hc => absurd hchart hc, fun _ _ => hchart, fun _ _ hc => absurd (hbad.symm.trans hc) nofun⟩
      · rw [if_neg hbad]
        have hclear : ¬ (true = false ∨ (s.helloClaim i v).2 = true) := not_or.mpr ⟨nofun, hbad⟩
        by_cases hecho : bitAt v 397 ∧ fld v 264 64 = s.net.serial % 2 ^ 64 ∧ fld v 328 64 = s.net.inc % 2 ^ 64 ∧ fld v 392 5 = i
        · rw [if_pos hecho]
          have h2 : Reshaped i { r0 with st := .charted, charted := true } sc
              ((s1.modPort i fun q => { q with st := .charted, charted := true }).peerNew i (helloPeer v)) := by
            refine Reshaped.moved (Reshaped.modPort h1 hi' ?_) peerNew_moved
            exact fun l => ⟨l, rfl⟩
          rcases h2.tryUp hi' with hup | ⟨-, -, hup⟩
          · exact ⟨_, hup, rfl, rfl, rfl, fun hc => absurd hchart hc, fun _ hc => absurd hc hclear, fun _ _ _ _ => ⟨rfl, .inl rfl⟩⟩
          · exact ⟨_, hup, rfl, rfl, rfl, fun hc => absurd hchart hc, fun _ hc => absurd hc hclear, fun _ _ _ _ => ⟨rfl, .inr rfl⟩⟩
        · rw [if_neg hecho]
          exact ⟨r0, h1, rfl, rfl, rfl, fun hc => absurd hchart hc, fun _ _ => hchart, fun _ _ _ hc => absurd hc hecho⟩

/-! ### ENABLE and TIME -/

theorem takeEnable_again (h1 : bitAt v 474 = true) (h2 : (s.port i).st = .up) : s.takeEnable i v = s := (if_pos h1).trans (if_pos h2)

theorem takeEnable_on (h1 : bitAt v 474 = true) (h2 : (s.port i).st ≠ .up) :
    s.takeEnable i v = (s.modPort i fun q => { q with peerEn := some (fld v 400 64, fld v 464 10) }).tryUp i := (if_pos h1).trans (if_neg h2)

theorem takeEnable_off (h1 : bitAt v 474 = false) (h2 : (s.port i).st ≠ .up) : s.takeEnable i v = s.modPort i fun q => { q with peerEn := none } :=
  (if_neg (ne_true_of_eq_false h1)).trans (if_neg h2)

/-- A port that is in CHARTED again: its traffic moves. -/
theorem chartedAgain_reshaped (hi : i < s.net.ports.length) : Reshaped i { s.port i with partialIn := [], st := .charted, peerEn := none, offer := none } s
    ((((s.cutPartials i).modPort i fun q => { q with st := .charted, peerEn := none, offer := none }).reroute i).followOffers) := by
  refine Reshaped.moved (Reshaped.moved (Reshaped.modPort (cutPartials_reshaped hi) hi ?_) Moved.reroute) Moved.followOffers
  exact fun l => ⟨l, rfl⟩

theorem takeEnable_withdrawn (h1 : bitAt v 474 = false) (h2 : (s.port i).st = .up) :
    s.takeEnable i v = (((s.cutPartials i).modPort i fun q => { q with st := .charted, peerEn := none, offer := none }).reroute i).followOffers :=
  (if_neg (ne_true_of_eq_false h1)).trans (if_pos h2)

/-- The offer of a TIME flit: none from a port that is not UP, and none at depth 7. -/
theorem takeTime_reshaped (hi : i < s.net.ports.length) : ∃ o, Reshaped i { s.port i with lastTx := fld v 480 64, lastRx := s.now, offer := o } s (s.takeTime i v) ∧
    ((s.port i).st ≠ .up ∨ 7 ≤ fld v 704 3 → o = none) := by
  unfold takeTime
  dsimp only
  generalize (if i < 30 then (0 : Int) else _) = theta
  generalize (decide (i < 30) || fld v 544 64 != 0) = known
  refine ⟨_, Reshaped.moved (Reshaped.modPort (Reshaped.of (Moved.refl s) i) hi fun l => ⟨l, rfl⟩) Moved.followOffers, fun hno => if_neg fun h => ?_⟩
  obtain ⟨hup, -, hdepth⟩ := h
  rcases hno with hno | hno
  · exact hno hup
  · exact absurd hdepth (Nat.not_lt.mpr hno)

end Sys2Proof.Machine.State
end

section
/-! SUPPORT. Rack time: synchronisation states, frames, reference clocks and paths to a reference rack (R395 to R400). -/

namespace Sys2Proof.Machine

/-- A map into which every number of a list has been entered. -/
theorem AMap.get?_foldl_set {α : Type} (g : Nat → α) (l : List Nat) (m : AMap α) (k : Nat) :
    (l.foldl (fun (m : AMap α) a => m.set a (g a)) m).get? k = if k ∈ l then some (g k) else m.get? k := by
  induction l generalizing m with
  | nil => exact (if_neg List.not_mem_nil).symm
  | cons a l ih =>
    rw [List.foldl_cons, ih, AMap.get?_set]
    by_cases hl : k ∈ l
    · rw [if_pos hl, if_pos (List.mem_cons_of_mem a hl)]
    · rw [if_neg hl]
      by_cases ha : k = a
      · rw [if_pos ha, if_pos (ha ▸ List.mem_cons_self), ha]
      · rw [if_neg ha, if_neg fun h => (List.mem_cons.mp h).elim ha hl]

theorem pulseOf_invalid {w : Nat} (h : w < 60 ∨ 900 < w) : pulseOf w = .invalid := by
  unfold pulseOf
  rcases h with h | h
  · exact if_pos h
  · rw [if_neg (by omega), if_neg (by omega), if_neg (by omega), if_neg (by omega)]

theorem pulseOf_bit {w : Nat} (h : 60 ≤ w) (k : w < 450) : pulseOf w = .bit (if w < 200 then 0 else 1) := by
  unfold pulseOf
  rw [if_neg (by omega)]
  by_cases h2 : w < 200
  · rw [if_pos h2, if_pos h2]
  · rw [if_neg h2, if_neg h2, if_pos k]

theorem pulseOf_marker {w : Nat} (h : 450 ≤ w) (k : w ≤ 900) : pulseOf w = .marker := by
  unfold pulseOf
  rw [if_neg (by omega), if_neg (by omega), if_neg (by omega), if_pos k]

namespace State

variable {s t : State}

/-! ### Synchronisation states -/

theorem timeNotice_logged {new old : SyncSt} : Logged s (s.timeNotice new old) := by
  unfold timeNotice
  exact (Logged.log.trans Logged.notice).trans (Logged.foldl (fun _ _ => Logged.noticeTenant) _)

/-- From s to u the synchronisation state has become a new one, the host has been told, and tides may have lost their guarantee. -/
structure Synced (s : State) (new : SyncSt) (u : State) : Prop where
  net : ∃ f, u.net = { s.net with time := { s.net.time with sync := new, wasFree := f } }
  holms : u.holms = s.holms
  mem : u.mem = s.mem

theorem setSync_synced (new : SyncSt) : Synced s new (s.setSync new) := by
  unfold setSync
  dsimp only
  split
  next h =>
    subst h
    exact ⟨⟨s.net.time.wasFree, rfl⟩, rfl, rfl⟩
  next =>
    have hlog := timeNotice_logged.trans (Logged.suspendTides (s := (s.modTime fun t => { t with
      sync := new, wasFree := if new = .locked then false else t.wasFree || new == .free }).timeNotice new s.net.time.sync))
    exact ⟨⟨_, (congrArg State.net hlog).trans rfl⟩, (congrArg State.holms hlog).trans rfl, (congrArg State.mem hlog).trans rfl⟩

/-! ### Pulses (R396, R397) -/

section
variable (hstill : s.net.time.sync ≠ .locked ∨ s.net.time.edgeError = 0)
include hstill

theorem takePulse_bit (b : Nat) : s.takePulse (.bit b) =
    s.modTime fun t => { t with frame := t.frame.bind fun (v, n) => if n < 64 then some (2 * v + b, n + 1) else none } := by
  unfold takePulse
  dsimp only
  rw [if_pos hstill]

theorem takePulse_marker {r : State} (hr : (match s.net.time.frame with
      | some (v, 64) => s.takeFrame v
      | _ => s.modTime fun t => { t with agreed := 0, nextMark := none }) = r) :
    s.takePulse .marker = r.modTime fun t => { t with frame := some (0, 0) } := by
  unfold takePulse
  dsimp only
  rw [if_pos hstill, ← hr] <;> rfl

end

/-- The frame that a counter which is not synchronised has decoded: the second that agrees locks it. -/
theorem takeFrame_unsync {v : Nat} (hsync : s.net.time.sync = .unsync) :
    (s.takeFrame v).net.time.nextMark = some (v + 65) ∧
    (s.net.time.nextMark = some v → 1 ≤ s.net.time.agreed → (s.takeFrame v).net.time.sync = .locked ∧
      (s.takeFrame v).net.time.agreed = s.net.time.agreed + 1 ∧ (s.net.time.now ≤ 1000 * v → (s.takeFrame v).net.time.now = 1000 * v)) ∧
    (s.net.time.nextMark ≠ some v → (s.takeFrame v).net.time.sync = .unsync ∧ (s.takeFrame v).net.time.agreed = 1 ∧
      (s.takeFrame v).net.time.now = s.net.time.now) := by
  let n := if s.net.time.nextMark = some v then s.net.time.agreed + 1 else 1
  let s1 : State := s.modTime fun t => { t with agreed := n, nextMark := some (v + 65) }
  have hrun : s.takeFrame v = if 2 ≤ n then (s1.modTime fun t => t.load (1000 * v)).setSync .locked else s1 := by
    unfold takeFrame
    dsimp only
    rw [hsync]
  have hload : ∀ x : RackTime, (x.load (1000 * v)).nextMark = x.nextMark ∧ (x.load (1000 * v)).agreed = x.agreed ∧
      (x.now ≤ 1000 * v → (x.load (1000 * v)).now = 1000 * v) := by
    intro x
    unfold RackTime.load
    split
    next h => exact ⟨rfl, rfl, fun _ => rfl⟩
    next h => exact ⟨rfl, rfl, fun hle => absurd hle h⟩
  rw [hrun]
  by_cases h2 : 2 ≤ n
  · rw [if_pos h2]
    obtain ⟨f, hnet⟩ := (setSync_synced (s := s1.modTime fun t => t.load (1000 * v)) .locked).net
    obtain ⟨hmark, hagreed, hnow⟩ := hload s1.net.time
    rw [hnet]
    refine ⟨hmark, fun hm _ => ⟨rfl, hagreed.trans (if_pos hm), hnow⟩, fun hm => ?_⟩
    have hone : n = 1 := if_neg hm
    omega
  · rw [if_neg h2]
    refine ⟨rfl, fun hm hagreed => ?_, fun hm => ⟨hsync, if_neg hm, rfl⟩⟩
    have hmore : n = s.net.time.agreed + 1 := if_pos hm
    omega

/-! ### Reference clocks (R395, R397) -/

/-- A clock is good. -/
def clockOk (t : RackTime) (b : Bool) : Bool := if b then t.goodB else t.goodA

theorem clockBad_already {b : Bool} (h : clockOk s.net.time b = false) : s.clockBad b = s := if_pos h

/-- A clock that goes bad: the other one serves, or the counter is FREE. -/
theorem clockBad_effect {b : Bool} (h : clockOk s.net.time b ≠ false) :
    clockOk (s.clockBad b).net.time b = false ∧
    (s.clockBad b).net.time.sync = (if clockOk s.net.time (!b) then s.net.time.sync else .free) ∧
    (s.clockBad b).net.time.clockB = (if clockOk s.net.time (!b) ∧ s.net.time.clockB = b then !b else s.net.time.clockB) ∧
    (s.clockBad b).holms = s.holms ∧ (s.clockBad b).mem = s.mem := by
  let s1 : State := s.modTime fun t => if b then { t with goodB := false } else { t with goodA := false }
  have h1 : clockOk s1.net.time b = false ∧ s1.net.time.sync = s.net.time.sync ∧ s1.net.time.clockB = s.net.time.clockB := by
    cases b <;> exact ⟨rfl, rfl, rfl⟩
  let s2 : State := s1.modTime fun t => { t with
    clockB := !b, now := if Config.freeNat .measure s.free 0 % 3 = 1 then t.now + 1 else t.now
    hold := if Config.freeNat .measure s.free 0 % 3 = 2 then t.hold + 1 else t.hold }
  have hrun : s.clockBad b = (if clockOk s.net.time (!b) ∧ s.net.time.clockB = b then ({ s2 with free := s2.free + 1 } : State).masked 9 b.toNat 0 0
      else if clockOk s.net.time (!b) then s1 else s1.setSync .free) := by
    cases b <;> exact if_neg h
  rw [hrun]
  obtain ⟨hbad, hsync, hclock⟩ := h1
  by_cases ho : clockOk s.net.time (!b) = true
  · by_cases hb : s.net.time.clockB = b
    · have hmove : clockOk s.net.time (!b) = true ∧ s.net.time.clockB = b := ⟨ho, hb⟩
      rw [if_pos hmove, if_pos hmove, if_pos ho]
      refine ⟨?_, ?_, ?_, masked_holms .., masked_mem ..⟩ <;> rw [masked_net]
      · cases b <;> exact rfl
      · exact hsync
      · rfl
    · have hstay : ¬ (clockOk s.net.time (!b) = true ∧ s.net.time.clockB = b) := fun hc => hb hc.2
      rw [if_neg hstay, if_neg hstay, if_pos ho, if_pos ho]
      exact ⟨hbad, hsync, hclock, rfl, rfl⟩
  · have hstay : ¬ (clockOk s.net.time (!b) = true ∧ s.net.time.clockB = b) := fun hc => ho hc.1
    rw [if_neg hstay, if_neg hstay, if_neg ho, if_neg ho]
    obtain ⟨⟨f, hnet⟩, hholms, hmem⟩ := setSync_synced (s := s1) .free
    refine ⟨?_, congrArg (fun n : NetState => n.time.sync) hnet, (congrArg (fun n : NetState => n.time.clockB) hnet).trans hclock, hholms, hmem⟩
    rw [hnet]
    exact hbad

/-- A clock that is good again: a counter that was FREE counts from it. -/
theorem clockGood_effect (b : Bool) :
    clockOk (s.clockGood b).net.time b = true ∧
    (s.clockGood b).net.time.sync = (if s.net.time.sync = .free then .holdover else s.net.time.sync) ∧
    (s.clockGood b).net.time.clockB = (if s.net.time.sync = .free then b else s.net.time.clockB) ∧
    (s.clockGood b).holms = s.holms ∧ (s.clockGood b).mem = s.mem := by
  let s1 : State := s.modTime fun t => if b then { t with goodB := true } else { t with goodA := true }
  unfold clockGood
  dsimp only
  by_cases hf : s.net.time.sync = .free
  · rw [if_pos hf, if_pos hf, if_pos hf]
    obtain ⟨⟨f, hnet⟩, hholms, hmem⟩ := setSync_synced (s := s1.modTime fun t => { t with clockB := b }) .holdover
    refine ⟨?_, congrArg (fun n : NetState => n.time.sync) hnet, congrArg (fun n : NetState => n.time.clockB) hnet, hholms, hmem⟩
    rw [hnet]
    cases b <;> exact rfl
  · rw [if_neg hf, if_neg hf, if_neg hf]
    cases b <;> exact ⟨rfl, rfl, rfl, rfl, rfl⟩

/-! ### Lost paths (R400) -/

/-- Archipelagos whose path to their reference rack has just been lost. -/
def lostPaths (s : State) : List Nat := (s.spanning none).filter fun a => (s.pathOf a).depth == 7 && !(s.pathOf a).lost

theorem depthGone_none (h : s.lostPaths = []) : s.depthGone = s := if_pos (List.isEmpty_iff.mpr h)

theorem depthGone_effect (h : s.lostPaths ≠ []) :
    (∀ a ∈ s.lostPaths, ∃ p, s.depthGone.net.time.paths.get? a = some p ∧ p.lost = true ∧ p.depth = 7) ∧
    s.depthGone.net.time.now = s.net.time.now ∧ s.depthGone.net.time.sync = s.net.time.sync ∧ s.depthGone.holms = s.holms ∧ s.depthGone.mem = s.mem := by
  let s1 : State := s.modTime fun t => { t with
    paths := s.lostPaths.foldl (fun (m : AMap TimePath) a => m.set a { s.pathOf a with lost := true }) t.paths }
  have hrun : s.depthGone = (s1.timeNotice s.net.time.sync s.net.time.sync).suspendTides := if_neg fun hc => h (List.isEmpty_iff.mp hc)
  have hlog : Logged s1 s.depthGone := hrun ▸ timeNotice_logged.trans Logged.suspendTides
  have hnet : s.depthGone.net = s1.net := (congrArg State.net hlog).trans rfl
  refine ⟨fun a ha => ⟨{ s.pathOf a with lost := true }, ?_, rfl, ?_⟩, (congrArg (fun n : NetState => n.time.now) hnet :),
    (congrArg (fun n : NetState => n.time.sync) hnet :), (congrArg State.holms hlog).trans rfl, (congrArg State.mem hlog).trans rfl⟩
  · rw [hnet]
    exact (AMap.get?_foldl_set (fun a => { s.pathOf a with lost := true }) s.lostPaths s.net.time.paths a).trans (if_pos ha)
  · exact eq_of_beq (Bool.and_eq_true_iff.mp (List.mem_filter.mp ha).2).1

/-! ### CHART flits and timers -/

section
variable {i v k : Nat} {q1 : Port} {f : State → Nat → State}

/-- The next CHART flit of a kind. -/
def popChart (q : Port) (k : Nat) : Option (Nat × Port) := q.popMgt fun v => isChart v && (chtKind v == k || chtKind v == 0 || 3 < chtKind v)

/-- A port on which CHART flits are taken in. -/
def charting (q : Port) : Prop := q.st = .chart ∨ q.st = .charted ∨ q.st = .up

theorem takeChart_none (h : popChart (s.port i) k = none) : s.takeChart i k f = s := by
  unfold popChart at h
  unfold takeChart
  rw [h]

theorem takeChart_some {r : State} (h : popChart (s.port i) k = some (v, q1)) (hr : (if !chartOk v then (s.setPort i q1).portError i 0
      else match q1.st with
        | .chart | .charted | .up => f (s.setPort i q1) v
        | _ => s.setPort i q1) = r) : s.takeChart i k f = r := by
  unfold popChart at h
  unfold takeChart
  rw [h]
  exact hr

theorem takeChart_bad (h : popChart (s.port i) k = some (v, q1)) (hv : chartOk v = false) : s.takeChart i k f = (s.setPort i q1).portError i 0 :=
  takeChart_some h (if_pos (congrArg not hv))

theorem takeChart_idle (h : popChart (s.port i) k = some (v, q1)) (hv : chartOk v = true) (hc : ¬ charting q1) : s.takeChart i k f = s.setPort i q1 := by
  refine takeChart_some h ((if_neg (ne_true_of_eq_false (congrArg not hv))).trans ?_)
  split
  next h => exact absurd (.inl h) hc
  next h => exact absurd (.inr (.inl h)) hc
  next h => exact absurd (.inr (.inr h)) hc
  next => rfl

theorem takeChart_takes (h : popChart (s.port i) k = some (v, q1)) (hv : chartOk v = true) (hc : charting q1) : s.takeChart i k f = f (s.setPort i q1) v := by
  refine takeChart_some h ((if_neg (ne_true_of_eq_false (congrArg not hv))).trans ?_)
  rcases hc with hst | hst | hst <;> rw [hst]

end

end State

end Sys2Proof.Machine

namespace Sys2Proof.Proofs

open Sys2Proof.Machine Sys2Proof.Machine.State

section
variable {s : State} {i v : Nat} {q1 : Port} (hi : i < 32) (hl : s.live = true) (hin : i < s.net.ports.length)
include hi hl hin

omit hin in
/-- A CHART flit is taken at its port. -/
theorem chart_runs {c : Instr} {k : Nat} {t : State} (hck : (c, k) ∈ [(Instr.hello i, 1), (Instr.chartEnable i, 2), (Instr.chartTime i, 3)])
    (ht : ∀ f, s.takeChart i k f = t) : exec c s = .next t := by
  simp only [List.mem_cons, Prod.mk.injEq, List.not_mem_nil, or_false] at hck
  rcases hck with ⟨rfl, rfl⟩ | ⟨rfl, rfl⟩ | ⟨rfl, rfl⟩
  · show execHello i s = _
    exact onPort_of hi hl (ht _)
  · show execChartEnable i s = _
    exact onPort_of hi hl (ht _)
  · show execChartTime i s = _
    exact onPort_of hi hl (ht _)

/-- What is common to the three kinds of CHART flits (R388). -/
theorem chart_common {c : Instr} {k : Nat} (hck : (c, k) ∈ [(Instr.hello i, 1), (Instr.chartEnable i, 2), (Instr.chartTime i, 3)]) :
    (popChart (s.port i) k = none → exec c s = .next s) ∧
    (∀ v q1, popChart (s.port i) k = some (v, q1) → chartOk v = false →
      ∃ t, exec c s = .next t ∧ (t.port i).st = .failed ∧ portDownFlit 0 ∈ (t.port i).mgtOut) ∧
    (∀ v q1, popChart (s.port i) k = some (v, q1) → chartOk v = true → ¬ charting q1 → exec c s = .next (s.setPort i q1)) := by
  refine ⟨fun hno => chart_runs hi hl hck fun f => takeChart_none hno, fun v q1 hpop hbad => ?_,
    fun v q1 hpop hok hidle => chart_runs hi hl hck fun f => takeChart_idle hpop hok hidle⟩
  obtain ⟨l, hport⟩ := (portError_reshaped (s := s.setPort i q1) (reason := 0) (by rw [setPort, setAt_length]; exact hin)).here
  refine ⟨_, chart_runs hi hl hck fun f => takeChart_bad hpop hbad, (congrArg Port.st hport).trans rfl, ?_⟩
  rw [hport]
  exact List.mem_append_right _ (List.mem_singleton_self _)

/-- A HELLO that its port takes in (R389 to R391, R394). -/
theorem hello_at (hpop : popChart (s.port i) 1 = some (v, q1)) (hok : chartOk v = true) (hc : charting q1) :
    (otherPeer q1 v → ∃ t, exec (.hello i) s = .next t ∧ (t.port i).st = .failed ∧ portDownFlit 0 ∈ (t.port i).mgtOut) ∧
    (¬ otherPeer q1 v → ∃ t, exec (.hello i) s = .next t ∧ (t.port i).peer = some (helloPeer v) ∧ (t.port i).peerFixed = true ∧
      (t.port i).conflict = (s.helloClaim i v).2 ∧ t.net.claim = (s.helloClaim i v).1 ∧ t.net.archs = s.net.archs ∧ t.net.windows = s.net.windows ∧
      (q1.st ≠ .chart → (t.port i).st = q1.st) ∧
      (q1.st = .chart → (s.cabled i (helloPeer v) = false ∨ (s.helloClaim i v).2 = true) → (t.port i).st = .chart) ∧
      (q1.st = .chart → s.cabled i (helloPeer v) = true → (s.helloClaim i v).2 = false → s.helloEcho i v →
        (t.port i).charted = true ∧ ((t.port i).st = .charted ∨ (t.port i).st = .up))) := by
  have hin' : i < (s.setPort i q1).net.ports.length := by
    rw [setPort, setAt_length]
    exact hin
  have hself : (s.setPort i q1).port i = q1 := port_setPort_self hin
  have hrun : exec (.hello i) s = .next ((s.setPort i q1).takeHello i v) := by
    show execHello i s = _
    exact onPort_of hi hl (takeChart_takes hpop hok hc)
  refine ⟨fun hother => ?_, fun hsame => ?_⟩
  · rw [takeHello_other (hself.symm ▸ hother)] at hrun
    obtain ⟨l, hport⟩ := (portError_reshaped (reason := 0) hin').here
    refine ⟨_, hrun, (congrArg Port.st hport).trans rfl, ?_⟩
    rw [hport]
    exact List.mem_append_right _ (List.mem_singleton_self _)
  · obtain ⟨r, hr, hpeer, hfixed, hconf, hst, hchart, hcharted⟩ := takeHello_same hin' (hself.symm ▸ hsame)
    rw [hself] at hst hchart hcharted
    obtain ⟨l, hport⟩ := hr.here
    refine ⟨_, hrun, ?_⟩
    rw [hport]
    exact ⟨hpeer, hfixed, hconf, (congrArg NetState.claim hr.net).trans rfl, (congrArg NetState.archs hr.net).trans rfl,
      (congrArg NetState.windows hr.net).trans rfl, hst, hchart, hcharted⟩

/-- An ENABLE or its withdrawal that a port takes in (R393). -/
theorem chartEnable_at (hpop : popChart (s.port i) 2 = some (v, q1)) (hok : chartOk v = true) (hc : charting q1) :
    (bitAt v 474 = true → q1.st = .up → exec (.chartEnable i) s = .next (s.setPort i q1)) ∧
    (bitAt v 474 = true → q1.st ≠ .up → ∃ t, exec (.chartEnable i) s = .next t ∧ (t.port i).peerEn = some (fld v 400 64, fld v 464 10) ∧
      ((t.port i).st = q1.st ∨ (q1.st = .charted ∧ q1.enabled = some (fld v 400 64) ∧ (t.port i).st = .up)) ∧
      t.net.claim = s.net.claim ∧ t.net.archs = s.net.archs ∧ t.holms = s.holms) ∧
    (bitAt v 474 = false → q1.st ≠ .up → exec (.chartEnable i) s = .next (s.setPort i { q1 with peerEn := none })) ∧
    (bitAt v 474 = false → q1.st = .up → ∃ t, exec (.chartEnable i) s = .next t ∧ (t.port i).st = .charted ∧
      (t.port i).peerEn = none ∧ (t.port i).offer = none) := by
  have hself : (s.setPort i q1).port i = q1 := port_setPort_self hin
  have hrun : ∀ {t}, (s.setPort i q1).takeEnable i v = t → exec (.chartEnable i) s = .next t := by
    intro t ht
    show execChartEnable i s = _
    exact onPort_of hi hl ((takeChart_takes hpop hok hc).trans ht)
  refine ⟨fun hon hup => hrun (takeEnable_again hon (hself.symm ▸ hup)), fun hon hup => ?_,
    fun hoff hup => hrun ((takeEnable_off hoff (hself.symm ▸ hup)).trans (modPort_setPort hin)), fun hoff hup => ?_⟩
  · have ht := takeEnable_on hon (s := s.setPort i q1) (i := i) (hself.symm ▸ hup)
    rw [modPort_setPort hin] at ht
    obtain ⟨hholms, -⟩ := tryUp_frame (s := s.setPort i { q1 with peerEn := some (fld v 400 64, fld v 464 10) }) (i := i)
    rcases (setPort_reshaped (q := { q1 with peerEn := some (fld v 400 64, fld v 464 10) }) hin).tryUp hin with hr | ⟨hst, ⟨a, k, hen, hpe⟩, hr⟩
    · obtain ⟨l, hport⟩ := hr.here
      refine ⟨_, hrun ht, (congrArg Port.peerEn hport).trans rfl, .inl ((congrArg Port.st hport).trans rfl), (congrArg NetState.claim hr.net).trans rfl,
        (congrArg NetState.archs hr.net).trans rfl, hholms⟩
    · obtain ⟨l, hport⟩ := hr.here
      obtain ⟨harch, -⟩ := Prod.mk.inj (Option.some.inj hpe)
      refine ⟨_, hrun ht, (congrArg Port.peerEn hport).trans rfl, .inr ⟨hst, by rw [harch]; exact hen, (congrArg Port.st hport).trans rfl⟩,
        (congrArg NetState.claim hr.net).trans rfl, (congrArg NetState.archs hr.net).trans rfl, hholms⟩
  · obtain ⟨l, hport⟩ := (chartedAgain_reshaped (s := s.setPort i q1) (i := i) (by rw [setPort, setAt_length]; exact hin)).here
    exact ⟨_, hrun (takeEnable_withdrawn hoff (hself.symm ▸ hup)), (congrArg Port.st hport).trans rfl, (congrArg Port.peerEn hport).trans rfl,
      (congrArg Port.offer hport).trans rfl⟩

/-- A TIME flit that a port takes in (R399). -/
theorem chartTime_at (hpop : popChart (s.port i) 3 = some (v, q1)) (hok : chartOk v = true) (hc : charting q1) : ∃ t, exec (.chartTime i) s = .next t ∧
    (t.port i).lastTx = fld v 480 64 ∧ (t.port i).lastRx = s.now ∧ (t.port i).st = q1.st ∧ t.holms = s.holms ∧ t.mem = s.mem ∧
    (q1.st ≠ .up ∨ 7 ≤ fld v 704 3 → (t.port i).offer = none) := by
  have hself : (s.setPort i q1).port i = q1 := port_setPort_self hin
  obtain ⟨o, hr, ho⟩ := takeTime_reshaped (s := s.setPort i q1) (i := i) (v := v) (by rw [setPort, setAt_length]; exact hin)
  rw [hself] at hr ho
  obtain ⟨l, hport⟩ := hr.here
  have hrun : exec (.chartTime i) s = .next ((s.setPort i q1).takeTime i v) := by
    show execChartTime i s = _
    exact onPort_of hi hl (takeChart_takes hpop hok hc)
  exact ⟨_, hrun, (congrArg Port.lastTx hport).trans rfl, (congrArg Port.lastRx hport).trans rfl, (congrArg Port.st hport).trans rfl, rfl, rfl,
    fun hno => (congrArg Port.offer hport).trans (ho hno)⟩

end

/-- The timers of HELLO and TIME (R389, R399). -/
theorem chartTimers_at {s : State} {i : Nat} (hi : i < 32) (hl : s.live = true) :
    ((s.port i).charted = true →
      exec (.helloTimer i) s = .next (s.setPort i { s.port i with mgtOut := (s.port i).mgtOut ++ [helloFlit s i] })) ∧
    ((s.port i).charted = false → exec (.helloTimer i) s = .next s) ∧
    ((s.port i).st = .up ∧ (∃ n a, s.archOfPort i = some (n, a) ∧ a.spansRacks = true) →
      exec (.timeFlitTimer i) s = .next (s.setPort i { s.port i with mgtOut := (s.port i).mgtOut ++ [timeFlit s i] })) ∧
    (¬ ((s.port i).st = .up ∧ ∃ n a, s.archOfPort i = some (n, a) ∧ a.spansRacks = true) → exec (.timeFlitTimer i) s = .next s) := by
  dsimp only [exec]
  unfold execHelloTimer execTimeFlitTimer
  refine ⟨fun h => onPort_of hi hl (if_pos h), fun h => onPort_of hi hl (if_neg (ne_true_of_eq_false h)), fun h => onPort_of hi hl (if_pos ?_),
    fun h => onPort_of hi hl (if_neg fun hc => h ?_)⟩
  · obtain ⟨hup, n, a, ha, hs⟩ := h
    rw [ha]
    exact ⟨hup, hs⟩
  · obtain ⟨hup, hs⟩ := hc
    cases ha : s.archOfPort i with
    | none =>
      rw [ha] at hs
      cases hs
    | some x =>
      rw [ha] at hs
      exact ⟨hup, x.1, x.2, rfl, hs⟩

/-- Without power the always-on island does nothing (R536). -/
theorem clocks_off {s : State} (h : s.boot.phase = .off) : (∀ w, exec (.rtpEdge w) s = .next s) ∧ exec .rtpLoss s = .next s ∧
    (∀ b, exec (.refclkBad b) s = .next s) ∧ (∀ b, exec (.refclkGood b) s = .next s) ∧ exec .timeDepthLost s = .next s := by
  have hoff : s.powered = false := by rw [powered, h]; rfl
  dsimp only [exec]
  unfold execRtpEdge execRtpLoss execRefclkBad execRefclkGood execTimeDepthLost
  rw [hoff]
  exact ⟨fun _ => rfl, rfl, fun _ => rfl, fun _ => rfl, rfl⟩

section
variable {s : State} (hon : s.boot.phase ≠ .off)
include hon

/-- A pulse of a width that the always-on island takes in (R396, R397). -/
theorem rtpEdge_runs {w : Nat} {t : State} (ht : (match pulseOf w with
      | .invalid => s.modTime fun t => { t with frame := none, agreed := 0, nextMark := none }
      | p => s.takePulse p) = t) : exec (.rtpEdge w) s = .next t := by
  show execRtpEdge w s = _
  have hp : s.powered = true := bne_iff_ne.mpr hon
  unfold execRtpEdge
  rw [hp]
  exact congrArg Host.Outcome.next ht

/-- A pulse train that is lost (R397). -/
theorem rtpLoss_at : ∃ t, exec .rtpLoss s = .next t ∧ t.net.time.frame = none ∧ t.net.time.nextMark = none ∧ t.net.time.agreed = 0 ∧
    t.net.time.sync = (if s.net.time.sync = .locked then .holdover else s.net.time.sync) ∧ t.net.time.now = s.net.time.now ∧ t.holms = s.holms ∧
    t.mem = s.mem := by
  have hp : s.powered = true := bne_iff_ne.mpr hon
  let s1 : State := s.modTime fun t => { t with frame := none, agreed := 0, nextMark := none }
  have hrun : exec .rtpLoss s = .next (if s.net.time.sync = .locked then s1.setSync .holdover else s1) := by
    show execRtpLoss s = _
    unfold execRtpLoss
    rw [hp]
    rfl
  refine ⟨_, hrun, ?_⟩
  by_cases hs : s.net.time.sync = .locked
  · rw [if_pos hs, if_pos hs]
    obtain ⟨⟨f, hnet⟩, hholms, hmem⟩ := setSync_synced (s := s1) .holdover
    rw [hnet]
    exact ⟨rfl, rfl, rfl, rfl, rfl, hholms, hmem⟩
  · rw [if_neg hs, if_neg hs]
    exact ⟨rfl, rfl, rfl, rfl, rfl, rfl, rfl⟩

/-- The first and the second marker that agree, of a counter that is not synchronised (R397). -/
theorem rtpEdge_frame {w v : Nat} (hw : 450 ≤ w) (hw' : w ≤ 900) (hsync : s.net.time.sync = .unsync) (hframe : s.net.time.frame = some (v, 64)) :
    ∃ t, exec (.rtpEdge w) s = .next t ∧ t.net.time.frame = some (0, 0) ∧ t.net.time.nextMark = some (v + 65) ∧
      (s.net.time.nextMark = some v → 1 ≤ s.net.time.agreed → t.net.time.sync = .locked ∧ t.net.time.agreed = s.net.time.agreed + 1 ∧
        (s.net.time.now ≤ 1000 * v → t.net.time.now = 1000 * v)) ∧
      (s.net.time.nextMark ≠ some v → t.net.time.sync = .unsync ∧ t.net.time.agreed = 1 ∧ t.net.time.now = s.net.time.now) := by
  have hmarker : s.takePulse .marker = (s.takeFrame v).modTime fun t => { t with frame := some (0, 0) } :=
    takePulse_marker (.inl (by rw [hsync]; decide)) (by rw [hframe] <;> rfl)
  refine ⟨(s.takeFrame v).modTime fun t => { t with frame := some (0, 0) }, rtpEdge_runs hon ?_, rfl, takeFrame_unsync hsync⟩
  rw [pulseOf_marker hw hw']
  exact hmarker

/-- The island's clock and pulse events with power (R395 to R400). -/
theorem clocks_on : (∀ b,
      (clockOk s.net.time b = false → exec (.refclkBad b) s = .next s) ∧
      (¬ clockOk s.net.time b = false → ∃ t, exec (.refclkBad b) s = .next t ∧ clockOk t.net.time b = false ∧
        t.net.time.sync = (if clockOk s.net.time (!b) then s.net.time.sync else .free) ∧
        t.net.time.clockB = (if clockOk s.net.time (!b) ∧ s.net.time.clockB = b then !b else s.net.time.clockB) ∧ t.holms = s.holms ∧ t.mem = s.mem) ∧
      ∃ t, exec (.refclkGood b) s = .next t ∧ clockOk t.net.time b = true ∧
        t.net.time.sync = (if s.net.time.sync = .free then .holdover else s.net.time.sync) ∧
        t.net.time.clockB = (if s.net.time.sync = .free then b else s.net.time.clockB) ∧ t.holms = s.holms ∧ t.mem = s.mem) ∧
    (s.lostPaths = [] → exec .timeDepthLost s = .next s) ∧
    (s.lostPaths ≠ [] → ∃ t, exec .timeDepthLost s = .next t ∧
      (∀ a ∈ s.lostPaths, ∃ p, t.net.time.paths.get? a = some p ∧ p.lost = true ∧ p.depth = 7) ∧
      t.net.time.now = s.net.time.now ∧ t.net.time.sync = s.net.time.sync ∧ t.holms = s.holms ∧ t.mem = s.mem) := by
  have hp : s.powered = true := bne_iff_ne.mpr hon
  dsimp only [exec]
  unfold execRefclkBad execRefclkGood execTimeDepthLost
  rw [hp]
  refine ⟨fun b => ⟨fun hbad => congrArg Host.Outcome.next (clockBad_already hbad), fun hbad => ⟨s.clockBad b, rfl, clockBad_effect hbad⟩,
    s.clockGood b, rfl, clockGood_effect b⟩, fun h => congrArg Host.Outcome.next (depthGone_none h), fun h => ⟨s.depthGone, rfl, depthGone_effect h⟩⟩

end

/-- Settles O57: each flit, timer and clock event is the case of its own function; a port's traffic and the host's notices go beside. -/
theorem chartingAndTime : Obligations.ChartingAndTime := by
  unfold Obligations.ChartingAndTime
  intro s
  refine ⟨fun i hi hl hlen => ?_, rfl, clocks_off, fun hon => ?_⟩
  · have hin : i < s.net.ports.length := hlen ▸ hi
    obtain ⟨hhello, hquiet, htime, hnotime⟩ := chartTimers_at hi hl
    refine ⟨fun c k hck => chart_common hi hl hin hck, fun v q1 hpop hok hc => ?_, fun v q1 hpop hok hc => chartEnable_at hi hl hin hpop hok hc,
      fun v q1 hpop hok hc => chartTime_at hi hl hin hpop hok hc, hhello, hquiet, htime, hnotime⟩
    obtain ⟨hother, hsame⟩ := hello_at hi hl hin hpop hok hc
    refine ⟨fun h => hother (otherPeer_iff.mpr h), fun h => ?_⟩
    obtain ⟨t, hrun, hpeer, hfixed, hconf, hclaim, harchs, hwin, hst, hchart, hcharted⟩ := hsame fun ho => h (otherPeer_iff.mp ho)
    exact ⟨t, hrun, hpeer, hfixed, hconf, hclaim, harchs, hwin, hst, hchart, fun h1 h2 h3 h4 h5 h6 h7 => hcharted h1 h2 h3 ⟨h4, h5, h6, h7⟩⟩
  · obtain ⟨hclocks, hnopath, hpath⟩ := clocks_on hon
    refine ⟨fun w hw => rtpEdge_runs hon (by rw [pulseOf_invalid hw]; rfl), fun w hw hw' hstill => rtpEdge_runs hon ?_,
      fun w hw hw' hstill hframe => rtpEdge_runs hon ?_, fun w v hw hw' hsync hframe => rtpEdge_frame hon hw hw' hsync hframe, rtpLoss_at hon, fun b => ?_,
      hnopath, hpath⟩
    · rw [pulseOf_bit hw hw']
      exact takePulse_bit hstill _
    · rw [pulseOf_marker hw hw']
      refine takePulse_marker hstill (r := s.modTime fun t => { t with agreed := 0, nextMark := none }) ?_
      split
      next v hv => exact absurd hv (hframe v)
      next => rfl
    · have hb := hclocks b
      cases b <;> exact hb

end Sys2Proof.Proofs
end

section
/-! SUPPORT. Windows, archipelagos and link enables as commands (R91, R373 to R375, R382, R392, R393, R408, R463). -/

namespace Sys2Proof.Machine.State

variable {s t u : State} {c : Cmd} {i tn : Nat} {q : Port}

/-! ### WINDOW_OPEN and WINDOW_CLOSE -/

/-- A window that is opened takes a free index, its index's generation and a fresh key. -/
theorem putWindow_free {f : Nat → Nat → Window} {g key : Nat} (hi : s.freeWindow = some i) (hg : s.windowGen i = g) (hk : s.drawKey = key) :
    s.putWindow f = ({ s with free := s.free + 1, net := { s.net with nextKey := s.net.nextKey + 1, windows := s.net.windows.set i (f g key) } },
      some (.done, i + 2 ^ 14 * g + 2 ^ 64 * key)) := by
  subst hg hk
  unfold putWindow
  rw [hi]
  rfl

theorem openCmd_memory (h : c.arg 32 1 = 0) : s.openCmd c tn = s.openMemory c tn := by
  unfold openCmd
  rw [h]; rfl

theorem openCmd_scratch (h : c.arg 32 1 = 1) : s.openCmd c tn = s.openScratch c tn := by
  unfold openCmd
  rw [h]; rfl

theorem openCmd_other (h : 2 ≤ c.arg 32 1) : s.openCmd c tn = s.fails .badCommand := by
  unfold openCmd
  split
  next h0 => omega
  next h1 => omega
  next => rfl

theorem openMemory_unmapped (h : s.tenantMapped tn (c.arg 48 8) 4096 = false) : s.openMemory c tn = s.fails .badAddress :=
  if_pos (congrArg not h)

theorem openMemory_opens (hm : s.tenantMapped tn (c.arg 48 8) 4096 = true)
    (hf : ¬ (c.arg 33 1 = 0 ∨ c.arg 34 1 ≠ 0 ∨ c.arg 64 16 ≠ 0 ∨ c.arg 56 8 = 0 ∨ c.arg 56 8 % 4096 ≠ 0 ∨ 2 ^ 40 < c.arg 56 8))
    (hj : s.joinedArch tn (c.arg 40 8) = true) (hr : s.windowRoom tn = true) : s.openMemory c tn = s.putWindow fun g key =>
      { tenant := tn, memory := true, write := bitAt c.raw 264, read := bitAt c.raw 265, base := c.arg 48 8, len := c.arg 56 8, holms := []
        arch := c.arg 40 8, gen := g, key := key } :=
  (if_neg (ne_true_of_eq_false (congrArg not hm))).trans ((if_neg hf).trans
    ((if_neg (ne_true_of_eq_false (congrArg not hj))).trans (if_neg (ne_true_of_eq_false (congrArg not hr)))))

/-- Holm indices that a WINDOW_OPEN names. -/
def windowIxs (c : Cmd) : List Nat := (List.range (c.arg 34 1)).map fun j => c.arg (64 + j) 1

theorem openScratch_opens {part : Nat} {p : Partition}
    (hf : ¬ (c.arg 33 1 = 0 ∨ c.arg 34 1 = 0 ∨ 16 < c.arg 34 1 ∨ c.arg 48 8 ≠ fld (c.arg 48 8) 0 17 + 2 ^ 32 * fld (c.arg 48 8) 32 17 ∨
      fld (c.arg 48 8) 32 17 < fld (c.arg 48 8) 0 17 ∨ c.arg 56 8 ≠ 0 ∨ 2 ^ (8 * c.arg 34 1) ≤ c.arg 64 16))
    (hj : s.joinedArch tn (c.arg 40 8) = true) (hpart : s.windowPart tn (windowIxs c) = some part) (hp : s.ten.parts.get? part = some p)
    (hl : ∀ lg ∈ (windowIxs c).filterMap fun j => p.holms[j]?, s.windowLines lg (fld (c.arg 48 8) 0 17) (fld (c.arg 48 8) 32 17) = true)
    (hr : s.windowRoom tn = true) : s.openScratch c tn = s.putWindow fun g key =>
      { tenant := tn, memory := false, write := bitAt c.raw 264, read := bitAt c.raw 265, base := 32 * fld (c.arg 48 8) 0 17
        len := 32 * (fld (c.arg 48 8) 32 17 - fld (c.arg 48 8) 0 17 + 1)
        holms := ((windowIxs c).zip ((windowIxs c).filterMap fun j => p.holms[j]?)).map fun (j, lg) => (part, j, s.epochOf lg)
        arch := c.arg 40 8, gen := g, key := key } := by
  unfold windowIxs at hpart hl ⊢
  unfold openScratch
  dsimp only
  rw [if_neg hf, if_neg (ne_true_of_eq_false (congrArg not hj)), hpart]
  dsimp only
  rw [hp]
  refine (if_neg (ne_true_of_eq_false (congrArg not (List.all_eq_true.mpr hl)))).trans ?_
  exact if_neg (ne_true_of_eq_false (congrArg not hr))

theorem closeCmd_mine {w : Window} (hw : s.net.windows.get? (c.arg 32 4 % 2 ^ 14) = some w) (hm : w.gen = c.arg 32 4 / 2 ^ 14 ∧ w.tenant = tn) :
    s.closeCmd c tn = (s.closeWindow (c.arg 32 4 % 2 ^ 14)).ends 0 := by
  unfold closeCmd
  dsimp only
  rw [hw]
  exact if_pos hm

theorem closeCmd_other (h : ∀ w, s.net.windows.get? (c.arg 32 4 % 2 ^ 14) = some w → ¬ (w.gen = c.arg 32 4 / 2 ^ 14 ∧ w.tenant = tn)) :
    s.closeCmd c tn = s.fails .badAddress := by
  unfold closeCmd
  dsimp only
  split
  next w hw => exact if_neg (h w hw)
  next => rfl

/-! ### SLICE_JOIN and SLICE_LEAVE -/

theorem joinCmd_other {a : Arch} (ha : s.net.archs.get? (c.arg 32 8) = some a) (ht : a.tenant ≠ tn) : s.joinCmd c tn = s.fails .noPermission := by
  unfold joinCmd
  dsimp only
  rw [ha, Option.filter_some_neg (by simpa using ht)]

theorem joinCmd_joined {a : Arch} (ha : s.net.archs.get? (c.arg 32 8) = some a) (ht : a.tenant = tn) (hj : a.joined = true) :
    s.joinCmd c tn = s.ends a.own := by
  have hf : (some a).filter (fun a => a.tenant == tn) = some a := Option.filter_some_pos (beq_iff_eq.mpr ht)
  unfold joinCmd
  dsimp only
  rw [ha, hf]
  dsimp only
  rw [if_pos hj]

theorem joinCmd_new {a : Arch} {g key : Nat} (ha : s.net.archs.get? (c.arg 32 8) = some a) (ht : a.tenant = tn) (hj : a.joined = false)
    (hi : s.freeWindow = some i) (hg : s.windowGen i = g) (hk : s.drawKey = key) :
    s.joinCmd c tn = (s.keyDrawn.modArch (c.arg 32 8) fun a => { a with joined := true, transit := some (i + 2 ^ 14 * g, key) }).ends a.own := by
  have hf : (some a).filter (fun a => a.tenant == tn) = some a := Option.filter_some_pos (beq_iff_eq.mpr ht)
  unfold joinCmd
  dsimp only
  rw [ha, hf]
  dsimp only
  rw [if_neg (ne_true_of_eq_false hj), hi]
  dsimp only
  rw [hg, hk]

/-- SLICE_LEAVE of an archipelago that nothing uses: its transit window closes. -/
def leftArch (s : State) (id : Nat) (a : Arch) : State :=
  (match a.transit with | some (h, _) => s.closeWindow (h % 2 ^ 14) | none => s).modArch id fun a => { a with joined := false, transit := none }

theorem leaveCmd_other (hj : s.joinedArch tn (c.arg 32 8) = false) : s.leaveCmd c tn = s.fails .noPermission := if_pos (congrArg not hj)

theorem leaveCmd_used (hj : s.joinedArch tn (c.arg 32 8) = true) (hu : s.archUsed (c.arg 32 8) = true) : s.leaveCmd c tn = s.fails .limit :=
  (if_neg (ne_true_of_eq_false (congrArg not hj))).trans (if_pos hu)

theorem leaveCmd_done {a : Arch} (hj : s.joinedArch tn (c.arg 32 8) = true) (hu : s.archUsed (c.arg 32 8) = false)
    (ha : s.net.archs.get? (c.arg 32 8) = some a) : s.leaveCmd c tn = (s.leftArch (c.arg 32 8) a).ends 0 := by
  unfold leaveCmd leftArch
  dsimp only
  rw [if_neg (ne_true_of_eq_false (congrArg not hj)), if_neg (ne_true_of_eq_false hu), ha]
  rfl

theorem leftArch_effect {id : Nat} {a : Arch} (ha : s.net.archs.get? id = some a) :
    (s.leftArch id a).net.archs.get? id = some { a with joined := false, transit := none } ∧
    (∀ j, j ≠ id → (s.leftArch id a).net.archs.get? j = s.net.archs.get? j) ∧
    (∀ w, a.transit = some w → (s.leftArch id a).net.windows.get? (w.1 % 2 ^ 14) = none) ∧
    (s.leftArch id a).holms = s.holms ∧ (s.leftArch id a).mem = s.mem ∧ (s.leftArch id a).net.ports = s.net.ports := by
  let f : Arch → Arch := fun a => { a with joined := false, transit := none }
  have harch : (s.net.archs.modify id f).get? id = some (f a) := (AMap.get?_modify ..).trans ((if_pos rfl).trans (congrArg (Option.map f) ha))
  have hothers : ∀ j, j ≠ id → (s.net.archs.modify id f).get? j = s.net.archs.get? j := fun j hj => (AMap.get?_modify ..).trans (if_neg hj)
  unfold leftArch
  cases ht : a.transit with
  | none => exact ⟨harch, hothers, fun w hw => absurd hw nofun, rfl, rfl, rfl⟩
  | some w =>
    refine ⟨harch, hothers, fun w' hw => ?_, rfl, rfl, rfl⟩
    obtain rfl := Option.some.inj hw
    exact (AMap.get?_del _ _ _).trans (if_pos rfl)

/-! ### SLICE_DEFINE -/

theorem tryUp_archs : (s.tryUp i).net.archs = s.net.archs := by
  rcases tryUp_cases (s := s) (i := i) with h | ⟨-, h⟩
  · rw [h]
  · rw [h, Moved.placeWaiting.archs]
    rfl

/-- A definition that becomes current leaves holms, memories, sequences and tenants as they are. -/
theorem defineArch_effect {id own : Nat} {ms : AMap (Nat × Nat × Nat)} {a : Arch} (ha : (match s.net.archs.get? id with
      | some a => { a with own := own, members := ms }
      | none => (⟨tn, own, ms, false, none⟩ : Arch)) = a) :
    (s.defineArch id tn own ms).net.archs.get? id = some a ∧ (s.defineArch id tn own ms).holms = s.holms ∧
    (s.defineArch id tn own ms).mem = s.mem ∧ (s.defineArch id tn own ms).kv = s.kv ∧ (s.defineArch id tn own ms).ten = s.ten := by
  subst ha
  unfold defineArch
  dsimp only
  generalize hdef : ({ s with net := { s.net with archs := s.net.archs.set id _ } } : State) = s1
  have hups : ∀ l : List Nat, (l.foldl (fun (s : State) i => s.tryUp i) s1).net.archs = s1.net.archs ∧
      (l.foldl (fun (s : State) i => s.tryUp i) s1).holms = s1.holms ∧ (l.foldl (fun (s : State) i => s.tryUp i) s1).mem = s1.mem ∧
      (l.foldl (fun (s : State) i => s.tryUp i) s1).kv = s1.kv ∧ (l.foldl (fun (s : State) i => s.tryUp i) s1).ten = s1.ten := by
    intro l
    refine List.foldlRecOn (motive := fun t : State => t.net.archs = s1.net.archs ∧ t.holms = s1.holms ∧ t.mem = s1.mem ∧ t.kv = s1.kv ∧ t.ten = s1.ten)
      _ _ ⟨rfl, rfl, rfl, rfl, rfl⟩ fun t ht i _ => ?_
    obtain ⟨harchs, hholms, hmem, hkv, hten⟩ := ht
    obtain ⟨kholms, kmem, kkv, kten⟩ := tryUp_frame (s := t) (i := i)
    exact ⟨tryUp_archs.trans harchs, kholms.trans hholms, kmem.trans hmem, kkv.trans hkv, kten.trans hten⟩
  obtain ⟨harchs, hholms, hmem, hkv, hten⟩ := hups (List.range 32)
  generalize List.foldl _ s1 (List.range 32) = u at harchs hholms hmem hkv hten ⊢
  refine ⟨?_, hholms.trans ?_, hmem.trans ?_, hkv.trans ?_, hten.trans ?_⟩
  · refine (congrArg (AMap.get? · id) (Moved.followOffers.archs.trans harchs)).trans ?_
    rw [← hdef]
    exact AMap.get?_set_self _ _ _
  · rw [← hdef]
  · rw [← hdef]
  · rw [← hdef]
  · rw [← hdef]

section
variable {bs : List Nat} {ms : AMap (Nat × Nat × Nat)} {a : Arch}

theorem defineCmd_refused (hb : s.indirect c.fn c.raw = .ok bs)
    (h : c.arg 32 8 = 0 ∨ s.tenant? (c.arg 40 2) = none ∨ 1023 < c.arg 42 2 ∨ s.memberTable (c.arg 42 2) bs = none) : s.defineCmd c = s.fails .badCommand := by
  unfold defineCmd
  dsimp only
  rw [hb]
  dsimp only
  split
  next => rfl
  next hok =>
    rcases h with h | h | h | h
    · exact absurd (.inl h) hok
    · exact absurd (.inr (.inl (Option.isNone_iff_eq_none.mpr h))) hok
    · exact absurd (.inr (.inr h)) hok
    · rw [h]

variable (hb : s.indirect c.fn c.raw = .ok bs) (hid : c.arg 32 8 ≠ 0) (ht : (s.tenant? (c.arg 40 2)).isSome = true) (hown : c.arg 42 2 ≤ 1023)
  (hms : s.memberTable (c.arg 42 2) bs = some ms)
include hb hid ht hown hms

theorem defineCmd_checked {r : CmdEff} (hr : (match s.net.archs.get? (c.arg 32 8) with
      | some a =>
        if a.tenant ≠ c.arg 40 2 then s.fails .badCommand
        else if s.archPlanned (c.arg 32 8) then s.fails .limit
        else (s.defineArch (c.arg 32 8) (c.arg 40 2) (c.arg 42 2) ms).ends 0
      | none => if 64 ≤ s.net.archs.length then s.fails .limit else (s.defineArch (c.arg 32 8) (c.arg 40 2) (c.arg 42 2) ms).ends 0) = r) :
    s.defineCmd c = r := by
  obtain ⟨x, hx⟩ := Option.isSome_iff_exists.mp ht
  have hok : ¬ (c.arg 32 8 = 0 ∨ (s.tenant? (c.arg 40 2)).isNone = true ∨ 1023 < c.arg 42 2) := by
    rw [hx]
    exact not_or.mpr ⟨hid, not_or.mpr ⟨Bool.false_ne_true, Nat.not_lt.mpr hown⟩⟩
  unfold defineCmd
  dsimp only
  rw [hb]
  dsimp only
  rw [if_neg hok, hms]
  exact hr

theorem defineCmd_new {r : CmdEff} (ha : s.net.archs.get? (c.arg 32 8) = none)
    (hr : (if 64 ≤ s.net.archs.length then s.fails .limit else (s.defineArch (c.arg 32 8) (c.arg 40 2) (c.arg 42 2) ms).ends 0) = r) : s.defineCmd c = r := by
  refine defineCmd_checked hb hid ht hown hms ?_
  rw [ha]
  exact hr

theorem defineCmd_old {r : CmdEff} (ha : s.net.archs.get? (c.arg 32 8) = some a) (hr : (if a.tenant ≠ c.arg 40 2 then s.fails .badCommand
      else if s.archPlanned (c.arg 32 8) then s.fails .limit
      else (s.defineArch (c.arg 32 8) (c.arg 40 2) (c.arg 42 2) ms).ends 0) = r) : s.defineCmd c = r := by
  refine defineCmd_checked hb hid ht hown hms ?_
  rw [ha]
  exact hr

end

/-! ### LINK_ENABLE -/

theorem Reshaped.archs (h : Reshaped i q s u) : u.net.archs = s.net.archs := (congrArg NetState.archs h.net).trans rfl

/-- One port of LINK_ENABLE: its hold time and its enable are as the command says. -/
theorem enablePort_reshaped {id hold : Nat} {on : Bool} (hi : i < s.net.ports.length) :
    ∃ r, Reshaped i r s (s.enablePort id hold on i) ∧ r.holdMs = hold ∧ r.enabled = if on then some id else none := by
  have h1 : Reshaped i { s.port i with holdMs := hold } s (s.modPort i fun q => { q with holdMs := hold }) := by
    refine Reshaped.modPort (Reshaped.of (Moved.refl s) i) hi ?_
    exact fun l => ⟨l, rfl⟩
  unfold enablePort
  dsimp only
  cases on with
  | true =>
    have h2 : Reshaped i { s.port i with holdMs := hold, enabled := some id } s
        ((s.modPort i fun q => { q with holdMs := hold }).modPort i fun q => { q with enabled := some id }) := by
      refine Reshaped.modPort h1 hi ?_
      exact fun l => ⟨l, rfl⟩
    rcases h2.tryUp hi with h | ⟨-, -, h⟩
    · exact ⟨_, h, rfl, rfl⟩
    · exact ⟨_, h, rfl, rfl⟩
  | false =>
    generalize s.modPort i (fun q => { q with holdMs := hold }) = s1 at h1 ⊢
    show ∃ r, Reshaped i r s (s1.withdrawPort i) ∧ r.holdMs = hold ∧ r.enabled = none
    unfold withdrawPort
    obtain ⟨l, hport⟩ := h1.here
    split
    next hnone =>
      rw [hport] at hnone
      exact ⟨_, h1, rfl, hnone⟩
    next a ha =>
      let told : Port → Port := fun q => { q with
        enabled := none
        mgtOut := if q.st = .up ∨ q.st = .charted then q.mgtOut ++ [enableFlit s1 i a false] else q.mgtOut }
      have h2 : Reshaped i (told { s.port i with holdMs := hold }) s (s1.modPort i told) := by
        refine Reshaped.modPort h1 hi ?_
        exact fun l => ⟨l, rfl⟩
      have h3 : Reshaped i { told { s.port i with holdMs := hold } with partialIn := [] } s ((s1.modPort i told).cutPartials i) := by
        refine Reshaped.modPort (h2.moved (Moved.fails (Fails.foldl (fun _ _ => Fails.cutOff) _))) hi ?_
        exact fun l => ⟨l, rfl⟩
      have h4 : Reshaped i { told { s.port i with holdMs := hold } with partialIn := [], st := .charted, peerEn := none, offer := none } s
          (((s1.modPort i told).cutPartials i).modPort i fun q => { q with st := .charted, peerEn := none, offer := none }) := by
        refine Reshaped.modPort h3 hi ?_
        exact fun l => ⟨l, rfl⟩
      by_cases hup : (s1.port i).st = .up
      · refine ⟨{ told { s.port i with holdMs := hold } with partialIn := [], st := .charted, peerEn := none, offer := none }, ?_, rfl, rfl⟩
        rw [if_pos hup]
        exact (h4.moved Moved.reroute).moved Moved.followOffers
      · refine ⟨told { s.port i with holdMs := hold }, ?_, rfl, rfl⟩
        rw [if_neg hup]
        exact h2

/-- LINK_ENABLE over a list of ports. -/
theorem enablePorts_effect {id hold : Nat} {on : Bool} (l : List Nat) (hl : ∀ i ∈ l, i < s.net.ports.length) :
    (∀ i ∈ l, ((l.foldl (fun (s : State) i => s.enablePort id hold on i) s).port i).holdMs = hold ∧
      ((l.foldl (fun (s : State) i => s.enablePort id hold on i) s).port i).enabled = if on then some id else none) ∧
    (∀ i, i ∉ l → ((l.foldl (fun (s : State) i => s.enablePort id hold on i) s).port i).holdMs = (s.port i).holdMs ∧
      ((l.foldl (fun (s : State) i => s.enablePort id hold on i) s).port i).enabled = (s.port i).enabled) ∧
    (l.foldl (fun (s : State) i => s.enablePort id hold on i) s).net.archs = s.net.archs ∧
    (l.foldl (fun (s : State) i => s.enablePort id hold on i) s).ten = s.ten := by
  induction l generalizing s with
  | nil => exact ⟨fun i hi => absurd hi List.not_mem_nil, fun _ _ => ⟨rfl, rfl⟩, rfl, rfl⟩
  | cons j l ih =>
    obtain ⟨r, hr, hhold, hen⟩ := enablePort_reshaped (id := id) (hold := hold) (on := on) (hl j List.mem_cons_self)
    obtain ⟨hin, hout, harchs, hten⟩ := ih (s := s.enablePort id hold on j) fun i hi => hr.length ▸ hl i (List.mem_cons_of_mem j hi)
    obtain ⟨m, hport⟩ := hr.here
    refine ⟨fun i hi => ?_, fun i hi => ?_, harchs.trans hr.archs, hten.trans hr.ten⟩
    · by_cases hil : i ∈ l
      · exact hin i hil
      · obtain ⟨h1, h2⟩ := hout i hil
        obtain rfl : i = j := (List.mem_cons.mp hi).resolve_right hil
        exact ⟨h1.trans ((congrArg Port.holdMs hport).trans hhold), h2.trans ((congrArg Port.enabled hport).trans hen)⟩
    · obtain ⟨hij, hil⟩ := not_or.mp fun h => hi (List.mem_cons.mpr h)
      obtain ⟨h1, h2⟩ := hout i hil
      obtain ⟨m', hother⟩ := hr.others i hij
      exact ⟨h1.trans ((congrArg Port.holdMs hother).trans rfl), h2.trans ((congrArg Port.enabled hother).trans rfl)⟩

/-- Ports that a LINK_ENABLE names. -/
def linkPorts (c : Cmd) : List Nat := (List.range 32).filter fun i => bitAt (c.arg 32 4) i

theorem mem_linkPorts : i ∈ linkPorts c ↔ i < 32 ∧ bitAt (c.arg 32 4) i = true := by
  unfold linkPorts
  rw [List.mem_filter, List.mem_range]

theorem linkCmd_refused (h : c.arg 36 2 = 0 ∨ 10000 < c.arg 36 2 ∨ s.net.archs.get? (c.arg 40 8) = none ∨
    (∃ i a, i < 32 ∧ bitAt (c.arg 32 4) i = true ∧ (s.port i).enabled = some a ∧ a ≠ c.arg 40 8)) : s.linkCmd c = s.fails .badCommand := by
  by_cases hf : c.arg 36 2 = 0 ∨ 10000 < c.arg 36 2 ∨ (s.net.archs.get? (c.arg 40 8)).isNone = true
  · exact if_pos hf
  · refine (if_neg hf).trans (if_pos ?_)
    rcases h with h | h | h | ⟨i, a, hi, hb, ha, hne⟩
    · exact absurd (.inl h) hf
    · exact absurd (.inr (.inl h)) hf
    · exact absurd (.inr (.inr (Option.isNone_iff_eq_none.mpr h))) hf
    · refine List.any_eq_true.mpr ⟨i, mem_linkPorts.mpr ⟨hi, hb⟩, ?_⟩
      rw [ha]
      exact bne_iff_ne.mpr hne

theorem linkCmd_done (h1 : 1 ≤ c.arg 36 2) (h2 : c.arg 36 2 ≤ 10000) (ha : (s.net.archs.get? (c.arg 40 8)).isSome = true)
    (hp : ∀ i a, i < 32 → bitAt (c.arg 32 4) i = true → (s.port i).enabled = some a → a = c.arg 40 8) :
    s.linkCmd c = ((linkPorts c).foldl (fun (s : State) i => s.enablePort (c.arg 40 8) (c.arg 36 2) (bitAt c.raw 304) i) s).ends 0 := by
  obtain ⟨x, hx⟩ := Option.isSome_iff_exists.mp ha
  have hf : ¬ (c.arg 36 2 = 0 ∨ 10000 < c.arg 36 2 ∨ (s.net.archs.get? (c.arg 40 8)).isNone = true) := by
    rw [hx]
    exact not_or.mpr ⟨Nat.pos_iff_ne_zero.mp h1, not_or.mpr ⟨Nat.not_lt.mpr h2, Bool.false_ne_true⟩⟩
  refine (if_neg hf).trans (if_neg fun h => ?_)
  obtain ⟨i, hi, hany⟩ := List.any_eq_true.mp h
  obtain ⟨hi, hb⟩ := mem_linkPorts.mp hi
  cases he : (s.port i).enabled with
  | none =>
    rw [he] at hany
    cases hany
  | some a =>
    rw [he] at hany
    exact bne_iff_ne.mp hany (hp i a hi hb he)

end Sys2Proof.Machine.State
end
section
/-! The obligation on windows, archipelagos and link enables. -/

namespace Sys2Proof.Proofs
open Sys2Proof.Machine Sys2Proof.Machine.State

/-- Settles O49: what each command checks decides the first failure; past the checks, a window is put at a free index with a fresh key, a join draws
its transit window, a leave closes it, a definition tries every port up, and LINK_ENABLE reshapes the ports of its mask one by one. -/
theorem windowCommands : Obligations.WindowCommands := by
  unfold Obligations.WindowCommands
  intro s fn q c b ends fresh
  refine ⟨fun t hb hs => ?opens, fun t hb hs => ?close, fun t hb hs a ha => ?join, fun t hb hs => ?leave, fun hs bs hbs => ?define, fun hs hports => ?link⟩
  case opens =>
    intro a n
    have hends : ∀ {u : State} {st : Status} {r : Nat}, b.openCmd c t = (u, some (st, r)) → ends (.windowOpen fn q) u st r := fun h => by
      show execWindowOpen fn q s = _
      exact runVf_ends hs hb h
    refine ⟨fun i h0 hm h33 h34 h64 hn hmod hle hj hroom hi => ?_, fun h0 hm => ?_, fun i part p h1 h33 hlo hhi ha hle hn h64 hj hpart hp hl hroom hi => ?_,
      fun h2 => hends (openCmd_other h2)⟩
    · have hok : ¬ (c.arg 33 1 = 0 ∨ c.arg 34 1 ≠ 0 ∨ c.arg 64 16 ≠ 0 ∨ c.arg 56 8 = 0 ∨ c.arg 56 8 % 4096 ≠ 0 ∨ 2 ^ 40 < c.arg 56 8) :=
        not_or.mpr ⟨h33, not_or.mpr ⟨not_not.mpr h34, not_or.mpr ⟨not_not.mpr h64, not_or.mpr ⟨hn, not_or.mpr ⟨not_not.mpr hmod, Nat.not_lt.mpr hle⟩⟩⟩⟩⟩
      exact hends (((openCmd_memory h0).trans (openMemory_opens (s := b) hm hok hj hroom)).trans (putWindow_free (s := b) hi rfl rfl))
    · exact hends ((openCmd_memory h0).trans (openMemory_unmapped (s := b) hm))
    · have hok : ¬ (c.arg 33 1 = 0 ∨ c.arg 34 1 = 0 ∨ 16 < c.arg 34 1 ∨ c.arg 48 8 ≠ fld (c.arg 48 8) 0 17 + 2 ^ 32 * fld (c.arg 48 8) 32 17 ∨
          fld (c.arg 48 8) 32 17 < fld (c.arg 48 8) 0 17 ∨ c.arg 56 8 ≠ 0 ∨ 2 ^ (8 * c.arg 34 1) ≤ c.arg 64 16) :=
        not_or.mpr ⟨h33, not_or.mpr ⟨Nat.ne_of_gt hlo, not_or.mpr ⟨Nat.not_lt.mpr hhi, not_or.mpr ⟨not_not.mpr ha, not_or.mpr ⟨Nat.not_lt.mpr hle,
          not_or.mpr ⟨not_not.mpr hn, Nat.not_le.mpr h64⟩⟩⟩⟩⟩⟩
      exact hends (((openCmd_scratch h1).trans (openScratch_opens (s := b) hok hj hpart hp hl hroom)).trans (putWindow_free (s := b) hi rfl rfl))
  case close =>
    have hends : ∀ {u : State} {st : Status} {r : Nat}, b.closeCmd c t = (u, some (st, r)) → ends (.windowClose fn q) u st r := fun h => by
      show execWindowClose fn q s = _
      exact runVf_ends hs hb h
    exact ⟨fun w hw hm => hends (closeCmd_mine (s := b) hw hm), fun hno => hends (closeCmd_other (s := b) hno)⟩
  case join =>
    have hends : ∀ {u : State} {st : Status} {r : Nat}, b.joinCmd c t = (u, some (st, r)) → ends (.sliceJoin fn q) u st r := fun h => by
      show execSliceJoin fn q s = _
      exact runVf_ends hs hb h
    exact ⟨fun ht => hends (joinCmd_other (s := b) ha ht), fun ht hj => hends (joinCmd_joined (s := b) ha ht hj),
      fun i ht hj hi => hends (joinCmd_new (s := b) ha ht hj hi rfl rfl)⟩
  case leave =>
    intro id
    have hends : ∀ {u : State} {st : Status} {r : Nat}, b.leaveCmd c t = (u, some (st, r)) → ends (.sliceLeave fn q) u st r := fun h => by
      show execSliceLeave fn q s = _
      exact runVf_ends hs hb h
    refine ⟨fun hj => hends (leaveCmd_other (s := b) hj), fun hj hu => hends (leaveCmd_used (s := b) hj hu), fun a hj hu ha => ?_⟩
    exact ⟨_, hends (leaveCmd_done (s := b) hj hu ha), leftArch_effect (s := b) ha⟩
  case define =>
    intro id t own
    have hends : ∀ {u : State} {st : Status} {r : Nat}, b.defineCmd c = (u, some (st, r)) → ends (.sliceDefine fn q) u st r := fun h => by
      show execSliceDefine fn q s = _
      exact runCmd_ends hs h
    refine ⟨fun ms hid ht hown hms => ?_, fun hbad => hends (defineCmd_refused (s := b) hbs hbad)⟩
    have hnew := fun r => defineCmd_new (s := b) (r := r) hbs hid ht hown hms
    have hold := fun a r => defineCmd_old (s := b) (a := a) (r := r) hbs hid ht hown hms
    refine ⟨fun ha hfull => hends (hnew _ ha (if_pos hfull)), fun a ha hne => hends (hold a _ ha (if_pos hne)),
      fun a ha heq hp => hends (hold a _ ha ((if_neg (not_not.mpr heq)).trans (if_pos hp))), fun a ha heq hp => ?_, fun ha hroom => ?_⟩
    · refine ⟨_, hends (hold a _ ha ((if_neg (not_not.mpr heq)).trans (if_neg (ne_true_of_eq_false hp)))), defineArch_effect ?_⟩
      rw [show b.net.archs.get? id = some a from ha]
    · refine ⟨_, hends (hnew _ ha (if_neg (Nat.not_le.mpr hroom))), defineArch_effect ?_⟩
      rw [show b.net.archs.get? id = none from ha]
  case link =>
    intro mask id
    have hends : ∀ {u : State} {st : Status} {r : Nat}, b.linkCmd c = (u, some (st, r)) → ends (.linkEnable fn q) u st r := fun h => by
      show execLinkEnable fn q s = _
      exact runCmd_ends hs h
    refine ⟨fun hbad => hends (linkCmd_refused (s := b) hbad), fun hlo hhi ha hp => ?_⟩
    obtain ⟨hin, hout, harchs, hten⟩ := enablePorts_effect (s := b) (id := id) (hold := c.arg 36 2) (on := bitAt c.raw 304) (linkPorts c)
      fun i hi => Nat.lt_of_lt_of_eq (mem_linkPorts.mp hi).1 hports.symm
    exact ⟨_, hends (linkCmd_done (s := b) hlo hhi ha hp), fun i hi hbit => hin i (mem_linkPorts.mpr ⟨hi, hbit⟩),
      fun i _ hbit => hout i fun h => ne_true_of_eq_false hbit (mem_linkPorts.mp h).2, harchs, hten⟩

end Sys2Proof.Proofs
end

section
/-! SUPPORT. The collective engine's events: pieces told to it, transit slots, the collector, emitted chunks, aborts and completion (R307, R407 to
R421). -/

namespace Sys2Proof.Machine

namespace InFlight

/-- Index of a chunk that an MMA has emitted, its first element, and its bytes (R307, R418). -/
def chunkKey (f : InFlight) (row chunk : Nat) : Nat := row * ((f.emitAt.2.2.2 + 63) / 64) + chunk

def chunkElem (f : InFlight) (row chunk : Nat) : Nat := row * f.emitAt.2.2.2 + 64 * chunk

def chunkBytes (f : InFlight) (h : Holm) (row chunk : Nat) : List Nat :=
  h.bytes (4 * (f.emitAt.1 + f.emitAt.2.1 * row) + 64 * chunk * f.emitAt.2.2.1 / 8) (min 64 (f.emitAt.2.2.2 - 64 * chunk) * f.emitAt.2.2.1 / 8)

end InFlight

/-- A key of a map is found. -/
theorem AMap.exists_get?_of_mem {α : Type} {m : AMap α} {k : Nat} {v : α} (h : (k, v) ∈ m) : ∃ w, m.get? k = some w := by
  induction m with
  | nil => cases h
  | cons x t ih =>
    obtain ⟨a, w⟩ := x
    by_cases hk : a = k
    · exact ⟨w, if_pos hk⟩
    · obtain ⟨y, hy⟩ := ih ((List.mem_cons.mp h).resolve_left fun he => hk (congrArg Prod.fst he).symm)
      exact ⟨y, (if_neg hk).trans hy⟩

namespace State

variable {s t u v : State} {i arch port : Nat} {c d : Coll} {p : Piece} {f : Nat → Piece → Bool} {idx : List Nat}

theorem exists_coll_of_find {g : Nat × Coll → Bool} (h : s.net.colls.find? g = some (i, c)) : ∃ d, s.coll? i = some d :=
  AMap.exists_get?_of_mem (List.mem_of_find?_eq_some h)

theorem popPiece_taken (h : s.popPiece f = some (port, arch, p, u)) : u.net.colls = s.net.colls := by
  unfold popPiece at h
  split at h
  · cases h
  · cases h
    rfl

theorem exists_coll_of_popPiece (h : s.popPiece f = some (port, arch, p, u)) (hc : s.collOf arch p = some (i, c)) : ∃ d, u.coll? i = some d := by
  obtain ⟨d, hd⟩ := exists_coll_of_find hc
  exact ⟨d, (congrArg (AMap.get? · i) (popPiece_taken h)).trans hd⟩

theorem coll_modColl {g : Coll → Coll} (h : s.coll? i = some c) : (s.modColl i g).coll? i = some (g c) :=
  (AMap.get?_modify ..).trans ((if_pos rfl).trans (congrArg (Option.map g) h))

theorem coll_modColl_ne {g : Coll → Coll} {j : Nat} (h : j ≠ i) : (s.modColl i g).coll? j = s.coll? j := (AMap.get?_modify ..).trans (if_neg h)

/-! ### Pieces in transit (R408) -/

/-- Transit slots of a class in use. -/
def transitUsed (s : State) (k : Nat) : Nat := (s.net.transit.filter fun ((_, t) : Nat × Transit) => t.cls == k).length

theorem transitClass_zero (h : s.transitUsed 0 < 64) : (List.range 2).find? (fun k => decide (s.transitUsed k < 64)) = some 0 := by
  simp [List.range_succ, h]

theorem transitClass_one (h0 : 64 ≤ s.transitUsed 0) (h1 : s.transitUsed 1 < 64) :
    (List.range 2).find? (fun k => decide (s.transitUsed k < 64)) = some 1 := by
  simp [List.range_succ, Nat.not_lt.mpr h0, h1]

theorem transitClass_none (h0 : 64 ≤ s.transitUsed 0) (h1 : 64 ≤ s.transitUsed 1) :
    (List.range 2).find? (fun k => decide (s.transitUsed k < 64)) = none := by
  simp [List.range_succ, h0, h1]

section
variable (hf : (fun (arch : Nat) (p : Piece) => s.inTransit arch p || p.kind == 1 || p.kind == 0 || 4 < p.kind) = f)
include hf

theorem pieceArrival_none (hp : s.popPiece f = none) : execCollectivePieceArrival idx s = .next s := by
  unfold execCollectivePieceArrival
  rw [hf, hp]

variable (hp : s.popPiece f = some (port, arch, p, u))
include hp

theorem pieceArrival_transit {k : Nat} (ht : s.inTransit arch p = true) (hk : (List.range 2).find? (fun k => decide (s.transitUsed k < 64)) = some k)
    (hne : k ≠ 2) : execCollectivePieceArrival idx s = .next
      { u with net := { u.net with transit := u.net.transit.set (AMap.freeKey s.net.transit 128 0) ⟨arch, k, p, port⟩ } } := by
  unfold transitUsed at hk
  unfold execCollectivePieceArrival
  rw [hf, hp]
  dsimp only
  rw [if_pos ht, hk]
  exact congrArg Host.Outcome.next (if_neg hne)

theorem pieceArrival_blocked (ht : s.inTransit arch p = true) (hk : (List.range 2).find? (fun k => decide (s.transitUsed k < 64)) = none) :
    execCollectivePieceArrival idx s = .next s := by
  unfold transitUsed at hk
  unfold execCollectivePieceArrival
  rw [hf, hp]
  dsimp only
  rw [if_pos ht, hk]
  rfl

theorem pieceArrival_stranger (ht : s.inTransit arch p = false) (hc : s.collOf arch p = none) : execCollectivePieceArrival idx s = .next u := by
  unfold execCollectivePieceArrival
  rw [hf, hp]
  dsimp only
  rw [if_neg (ne_true_of_eq_false ht), hc]

theorem pieceArrival_ours (ht : s.inTransit arch p = false) (hc : s.collOf arch p = some (i, c)) :
    execCollectivePieceArrival idx s = .next (if p.kind = 1 then u.takeData i c p idx else u.collFail i p.src .badCommand) := by
  unfold execCollectivePieceArrival
  rw [hf, hp]
  dsimp only
  rw [if_neg (ne_true_of_eq_false ht), hc]

end

/-! ### DATA at its destination (R407, R415, R416) -/

/-- The checks that a DATA piece passes at its destination. -/
def dataOk (s : State) (c : Coll) (p : Piece) : Prop := s.pieceOk c p = true ∧ c.agrees (s.streams c) p = true ∧ p.bytes ≤ p.data.length

theorem takeData_bad (h : ¬ s.dataOk c p) : s.takeData i c p idx = s.collFail i p.src .badCommand := by
  refine if_pos ?_
  by_contra hno
  obtain ⟨hok, hno⟩ := not_or.mp hno
  obtain ⟨hagrees, hlen⟩ := not_or.mp hno
  exact h ⟨by simpa using hok, by simpa using hagrees, Nat.not_lt.mp hlen⟩

section
variable (h : s.dataOk c p)
include h

theorem dataOk_passes : ¬ ((!s.pieceOk c p) = true ∨ (!c.agrees (s.streams c) p) = true ∨ p.data.length < p.bytes) := by
  obtain ⟨hok, hagrees, hlen⟩ := h
  exact not_or.mpr ⟨ne_true_of_eq_false (congrArg not hok), not_or.mpr ⟨ne_true_of_eq_false (congrArg not hagrees), Nat.not_lt.mpr hlen⟩⟩

theorem takeData_failed (hfail : c.failed p.src = true) : s.takeData i c p idx = s := (if_neg (dataOk_passes h)).trans (if_pos hfail)

variable (hfail : c.failed p.src = false)
include hfail

theorem takeData_slot (hred : (c.reduces = true ∧ c.op ≠ 3) ∨ c.routed = true) : s.takeData i c p idx =
    if (c.held.filter fun q => q.src == p.src).length ≥ c.slots then s.collFail i p.src .badCommand
    else s.modColl i fun c => { c with held := c.held ++ [{ p with idx := idx }] } := by
  refine (if_neg (dataOk_passes h)).trans ((if_neg (ne_true_of_eq_false hfail)).trans (if_pos ?_))
  refine hred.imp_left fun hr => ⟨hr.1, ?_⟩
  rw [decide_eq_false fun hg => hr.2 hg.1]
  rfl

variable (hr : c.reduces = false) (ho : c.routed = false) (hx : c.indexed = false)
include hr ho hx

theorem takeData_refused {st : Status} (hput : s.putOut c p.off p.body = .error st) : s.takeData i c p idx = s.collFail i p.src st := by
  unfold takeData
  rw [if_neg (dataOk_passes h), if_neg (ne_true_of_eq_false hfail)]
  dsimp only
  rw [hput, hr, ho, hx, if_neg (by simp), if_neg (by simp)]

theorem takeData_lands (hput : s.putOut c p.off p.body = .ok v) : ∃ t, s.takeData i c p idx = t ∧ t.mem = v.mem ∧ t.holms = v.holms ∧
    ∀ x, v.coll? i = some x → ∃ y, t.coll? i = some y ∧ y.entries = modAt x.entries p.src fun e => { e with landed := e.landed + 1 } := by
  unfold takeData
  rw [if_neg (dataOk_passes h), if_neg (ne_true_of_eq_false hfail)]
  dsimp only
  rw [hput, hr, ho, hx, if_neg (by simp), if_neg (by simp)]
  exact ⟨_, rfl, rfl, rfl, fun x hx => ⟨_, coll_modColl hx, rfl⟩⟩

end

/-! ### The collector (R410, R412, R414, R416) -/

/-- One held piece is consumed: its credit returns, and nothing of the collective's held pieces changes any more. -/
theorem collectorCombine_moves {cid piece : Nat} (hc : s.coll? cid = some c) (ha : c.active = true) (hd : c.done = false) :
    ∃ t, execCollectorCombine cid piece s = .next t ∧
      CollMoves cid (s.modColl cid fun c => { c with held := c.held.filter fun p => p.num != piece }) t := by
  unfold execCollectorCombine
  rw [hc]
  dsimp only
  rw [if_neg (show ¬ ((!c.active) = true ∨ c.done = true) by rw [ha, hd]; decide)]
  refine ⟨_, rfl, ?_⟩
  generalize s.modColl cid (fun c => { c with held := c.held.filter fun p => p.num != piece }) = s1
  have htake : ∀ l : List Piece, CollMoves cid s1 (l.foldl (fun (s : State) (p : Piece) =>
      match s.coll? cid with
      | none => s
      | some c1 =>
        if c1.routed then (s.landRows cid p.src p.off (.ok p.body) p.idx).giveCredits cid p.src 1
        else
          let got := c1.consumed.getD piece []
          if got.any fun (k, _, _) => k == p.part then (s.collFail cid p.src .badCommand).giveCredits cid p.src 1
          else (s.modColl cid fun c => { c.modEntry p.src (fun e => { e with landed := e.landed + 1 }) with
            consumed := c.consumed.set piece (got ++ [(p.part, p.off, p.body)]) }).giveCredits cid p.src 1) s1) := by
    refine fun l => List.foldlRecOn _ _ (.refl cid s1) fun t ht p _ => ht.trans ?_
    split
    · exact .refl cid t
    · refine ite_ind (P := CollMoves cid t) (landRows_moves.trans giveCredits_sends.moves)
        (ite_ind (P := CollMoves cid t) (collFail_sends.moves.trans giveCredits_sends.moves) (.trans ?_ giveCredits_sends.moves))
      exact .modColl fun c => ⟨rfl, rfl, rfl, rfl, rfl, rfl, .modEntry fun x hx => hx⟩
  exact ite_ind (P := CollMoves cid s1) ((htake _).trans pumpColl_sends.moves)
    ((((htake _).trans combinePiece_moves).trans mergeAll_moves).trans pumpColl_sends.moves)

theorem collectorCombine_idle {cid piece : Nat} (hc : s.coll? cid = some c) (h : c.active = false ∨ c.done = true) :
    execCollectorCombine cid piece s = .next s := by
  unfold execCollectorCombine
  rw [hc]
  exact congrArg Host.Outcome.next (if_pos (h.imp_left (congrArg not)))

theorem collectorCombine_none {cid piece : Nat} (hc : s.coll? cid = none) : execCollectorCombine cid piece s = .next s := by
  unfold execCollectorCombine
  rw [hc]

/-! ### CREDIT, COUNT and GRANT (R414, R416) -/

section
variable (hf : (fun (arch : Nat) (p : Piece) => !s.inTransit arch p && p.kind == 4) = f)
include hf

theorem creditReceive_none (hp : s.popPiece f = none) : execCollectiveCreditReceive s = .next s := by
  unfold execCollectiveCreditReceive
  rw [hf, hp]

variable (hp : s.popPiece f = some (port, arch, p, u))
include hp

theorem creditReceive_stranger (hc : s.collOf arch p = none) : execCollectiveCreditReceive s = .next u := by
  unfold execCollectiveCreditReceive
  rw [hf, hp]
  dsimp only
  rw [hc]

theorem creditReceive_bad (hc : s.collOf arch p = some (i, c)) (h : s.pieceOk c p = false ∨ p.bytes ≠ 0) :
    execCollectiveCreditReceive s = .next (u.collFail i p.src .badCommand) := by
  unfold execCollectiveCreditReceive
  rw [hf, hp]
  dsimp only
  rw [hc]
  exact congrArg Host.Outcome.next (if_pos (h.imp_left (congrArg not)))

theorem creditReceive_good (hc : s.collOf arch p = some (i, c)) (hok : s.pieceOk c p = true) (hb : p.bytes = 0) :
    execCollectiveCreditReceive s = .next
      ((u.modColl i fun c => { c with credits := c.credits.set p.src (c.credits.getD p.src 0 + p.num) }).pumpColl i) := by
  unfold execCollectiveCreditReceive
  rw [hf, hp]
  dsimp only
  rw [hc]
  exact congrArg Host.Outcome.next (if_neg (not_or.mpr ⟨ne_true_of_eq_false (congrArg not hok), not_not.mpr hb⟩))

end

section
variable (hf : (fun (arch : Nat) (p : Piece) => !s.inTransit arch p && p.kind == 2) = f)
include hf

theorem countReceive_none (hp : s.popPiece f = none) : execAlltoallCountReceive s = .next s := by
  unfold execAlltoallCountReceive
  rw [hf, hp]

variable (hp : s.popPiece f = some (port, arch, p, u))
include hp

theorem countReceive_stranger (hc : s.collOf arch p = none) : execAlltoallCountReceive s = .next u := by
  unfold execAlltoallCountReceive
  rw [hf, hp]
  dsimp only
  rw [hc]

theorem countReceive_bad (hc : s.collOf arch p = some (i, c))
    (h : ¬ (s.pieceOk c p = true ∧ c.routed = true ∧ p.bytes = 256 ∧ c.counts.get? p.src = none)) :
    execAlltoallCountReceive s = .next (u.collFail i p.src .badCommand) := by
  unfold execAlltoallCountReceive
  rw [hf, hp]
  dsimp only
  rw [hc]
  refine congrArg Host.Outcome.next (if_pos ?_)
  by_contra hno
  simp only [not_or, Bool.not_eq_true', Bool.not_eq_false, ne_eq, not_not, Bool.not_eq_true, Option.isSome_eq_false_iff, Option.isNone_iff_eq_none] at hno
  exact h hno

theorem countReceive_good (hc : s.collOf arch p = some (i, c))
    (h : s.pieceOk c p = true ∧ c.routed = true ∧ p.bytes = 256 ∧ c.counts.get? p.src = none) :
    ∃ t x, execAlltoallCountReceive s = .next t ∧ t.coll? i = some x ∧ x.counts.get? p.src = some ((chunks 4 p.body).map ofBytes) := by
  obtain ⟨hok, hrouted, hbytes, hcounts⟩ := h
  obtain ⟨d, hd⟩ := exists_coll_of_popPiece hp hc
  unfold execAlltoallCountReceive
  rw [hf, hp]
  dsimp only
  rw [hc]
  dsimp only
  rw [hok, hrouted, hbytes, hcounts, if_neg (by decide)]
  have hset := coll_modColl (g := fun c => { c with counts := c.counts.set p.src ((chunks 4 p.body).map ofBytes) }) hd
  have hmoves : ∀ {z : State}, CollMoves i z ((((z.giveCredits i p.src 1).grantRows i).ownRows i).pumpColl i) :=
    ((giveCredits_sends.moves.trans grantRows_moves).trans ownRows_moves).trans pumpColl_sends.moves
  obtain ⟨x, hx, -, -, -, -, -, hsame, -⟩ := hmoves.this _ hset
  exact ⟨_, x, rfl, hx, (congrArg (AMap.get? · p.src) hsame).trans (AMap.get?_set_self ..)⟩

end

theorem coll_takeGrant {g : List (Nat × Nat)} {r : Nat} (h : s.coll? i = some c) :
    ∃ d, (s.takeGrant i r g).coll? i = some d ∧ d.grants.get? r = some g := by
  unfold takeGrant
  rw [h]
  exact ⟨_, coll_modColl h, AMap.get?_set_self ..⟩

section
variable (hf : (fun (arch : Nat) (p : Piece) => !s.inTransit arch p && p.kind == 3) = f)
include hf

theorem grantReceive_none (hp : s.popPiece f = none) : execAlltoallGrantReceive s = .next s := by
  unfold execAlltoallGrantReceive
  rw [hf, hp]

variable (hp : s.popPiece f = some (port, arch, p, u))
include hp

theorem grantReceive_stranger (hc : s.collOf arch p = none) : execAlltoallGrantReceive s = .next u := by
  unfold execAlltoallGrantReceive
  rw [hf, hp]
  dsimp only
  rw [hc]

theorem grantReceive_bad (hc : s.collOf arch p = some (i, c))
    (h : ¬ (s.pieceOk c p = true ∧ c.routed = true ∧ p.bytes = 256 ∧ c.grants.get? p.src = none)) :
    execAlltoallGrantReceive s = .next (u.collFail i p.src .badCommand) := by
  unfold execAlltoallGrantReceive
  rw [hf, hp]
  dsimp only
  rw [hc]
  refine congrArg Host.Outcome.next (if_pos ?_)
  by_contra hno
  simp only [not_or, Bool.not_eq_true', Bool.not_eq_false, ne_eq, not_not, Bool.not_eq_true, Option.isSome_eq_false_iff, Option.isNone_iff_eq_none] at hno
  exact h hno

theorem grantReceive_good (hc : s.collOf arch p = some (i, c))
    (h : s.pieceOk c p = true ∧ c.routed = true ∧ p.bytes = 256 ∧ c.grants.get? p.src = none) :
    ∃ t x, execAlltoallGrantReceive s = .next t ∧ t.coll? i = some x ∧
      x.grants.get? p.src = some ((chunks 4 p.body).map fun b => (ofBytes (b.take 2), ofBytes (b.drop 2))) := by
  obtain ⟨hok, hrouted, hbytes, hgrants⟩ := h
  obtain ⟨d, hd⟩ := exists_coll_of_popPiece hp hc
  unfold execAlltoallGrantReceive
  rw [hf, hp]
  dsimp only
  rw [hc]
  dsimp only
  rw [hok, hrouted, hbytes, hgrants, if_neg (by decide)]
  obtain ⟨e, he, hset⟩ := coll_takeGrant (g := (chunks 4 p.body).map fun b => (ofBytes (b.take 2), ofBytes (b.drop 2))) (r := p.src) hd
  obtain ⟨x, hx, hsends⟩ := (pumpColl_sends (i := i)).this _ he
  exact ⟨_, x, rfl, hx, (congrArg (AMap.get? · p.src) hsends.grants).trans hset⟩

end

/-! ### Transit slots (R408) -/

theorem transitForward_empty {slot : Nat} (h : s.net.transit.get? slot = none) : execTransitForward slot s = .next s := by
  unfold execTransitForward
  rw [h]

section
variable {slot : Nat} {e : Transit} (h : s.net.transit.get? slot = some e)
  (hu : ({ s with net := { s.net with transit := s.net.transit.del slot } } : State) = u)
include h hu

theorem transitForward_dropped {st : Status} (hs : u.sendPieceOn e.arch e.piece (.transit slot) = .error st) : execTransitForward slot s = .next u := by
  unfold execTransitForward
  rw [h]
  dsimp only
  rw [hu, hs]

theorem transitForward_sent (hs : u.sendPieceOn e.arch e.piece (.transit slot) = .ok v) : execTransitForward slot s = .next v := by
  unfold execTransitForward
  rw [h]
  dsimp only
  rw [hu, hs]

end

theorem sendPieceOn_transit {o : XOwner} (h : s.sendPieceOn arch p o = .ok u) : u.net.transit = s.net.transit :=
  (congrArg (fun x : State => x.net.transit) (Sending.sendPieceOn h).1).trans rfl

/-! ### Chunks that an MMA emits (R307, R418) -/

section
variable {cid row chunk : Nat}

theorem mmaEmitChunk_none (h : s.coll? cid = none) : execMmaEmitChunk cid row chunk s = .next s := by
  unfold execMmaEmitChunk
  rw [h]

variable (hc : s.coll? cid = some c)
include hc

theorem mmaEmitChunk_absent (he : s.emitter c = none) : execMmaEmitChunk cid row chunk s = .next s := by
  unfold execMmaEmitChunk
  rw [hc]
  dsimp only
  rw [he]

variable {q : Nat} (he : s.emitter c = some q)
include he

theorem mmaEmitChunk_idle (hhit : ((s.holm q).inFlight.find? fun f => f.emits.contains (row, chunk) &&
    (s.boundColl (s.holm q) f.cslot).map (·.ord) == some c.ord) = none) : execMmaEmitChunk cid row chunk s = .next s := by
  unfold execMmaEmitChunk
  rw [hc]
  dsimp only
  rw [he]
  dsimp only
  rw [hhit]

/-- The chunk is taken from the instruction in flight. -/
def chunkTaken (s : State) (q : Nat) (f : InFlight) (row chunk : Nat) : State :=
  s.setHolm q { s.holm q with inFlight := (s.holm q).inFlight.map fun g => if g = f then { g with emits := g.emits.erase (row, chunk) } else g }

variable {f : InFlight} (hhit : ((s.holm q).inFlight.find? fun f => f.emits.contains (row, chunk) &&
    (s.boundColl (s.holm q) f.cslot).map (·.ord) == some c.ord) = some f)
include hhit

theorem mmaEmitChunk_over (h : c.active = false ∨ c.done = true ∨ ∃ z, (f.chunkKey row chunk, f.chunkElem row chunk, z) ∈ c.emitted) :
    execMmaEmitChunk cid row chunk s = .next (s.chunkTaken q f row chunk) := by
  unfold execMmaEmitChunk
  rw [hc]
  dsimp only
  rw [he]
  dsimp only
  rw [hhit]
  refine congrArg Host.Outcome.next (if_pos (h.imp (congrArg not) fun h => h.imp_right fun ⟨z, hz⟩ => ?_))
  exact List.any_eq_true.mpr ⟨_, hz, Bool.and_eq_true_iff.mpr ⟨beq_iff_eq.mpr rfl, beq_iff_eq.mpr rfl⟩⟩

theorem mmaEmitChunk_handed (ha : c.active = true) (hd : c.done = false)
    (h : ¬ ∃ z, (f.chunkKey row chunk, f.chunkElem row chunk, z) ∈ c.emitted) :
    ∃ t x, execMmaEmitChunk cid row chunk s = .next t ∧ t.coll? cid = some x ∧
      x.emitted = c.emitted ++ [(f.chunkKey row chunk, f.chunkElem row chunk, f.chunkBytes (s.holm q) row chunk)] := by
  have hnew : ¬ ((!c.active) = true ∨ c.done = true ∨
      (c.emitted.any fun (x, y, _) => x == f.chunkKey row chunk && y == f.chunkElem row chunk) = true) := by
    rintro (h1 | h1 | h1)
    · rw [ha] at h1
      cases h1
    · rw [hd] at h1
      cases h1
    · obtain ⟨⟨x, y, z⟩, hz, heq⟩ := List.any_eq_true.mp h1
      obtain ⟨hx, hy⟩ := Bool.and_eq_true_iff.mp heq
      obtain rfl := beq_iff_eq.mp hx
      obtain rfl := beq_iff_eq.mp hy
      exact h ⟨z, hz⟩
  unfold execMmaEmitChunk
  rw [hc]
  dsimp only
  rw [he]
  dsimp only
  rw [hhit]
  have hset := coll_modColl (s := s.chunkTaken q f row chunk) (i := cid) (g := fun c => { c with emitted := c.emitted ++
    [(f.chunkKey row chunk, f.chunkElem row chunk, f.chunkBytes (s.holm q) row chunk)] }) hc
  have hmoves : ∀ (z : State) (off k : Nat) (bs : List Nat),
      CollMoves cid z ((if c.op = 1 then z.landOwn cid off (.ok bs) 1 else z.combinePiece cid k).pumpColl cid) := fun z off k bs =>
    (ite_ind (P := CollMoves cid z) landOwn_moves combinePiece_moves).trans pumpColl_sends.moves
  obtain ⟨x, hx, -, -, -, -, hsame, -⟩ := (hmoves _ _ _ _).this _ hset
  exact ⟨_, x, congrArg Host.Outcome.next (if_neg hnew), hx, hsame⟩

end

/-! ### Aborts of a collective (R409, R421) -/

theorem abortReceive_none (h : s.popAbort 2 = none) : execCollectiveAbortReceive s = .next s := by
  unfold execCollectiveAbortReceive
  rw [h]

theorem abortReceive_stranger {x : Xfer} (h : s.popAbort 2 = some (none, x, u)) : execCollectiveAbortReceive s = .next u := by
  unfold execCollectiveAbortReceive
  rw [h]

section
variable {x : Xfer} {hit : Nat × Coll → Bool} (h : s.popAbort 2 = some (some arch, x, u))
  (hh : (fun ((_, c) : Nat × Coll) => c.id == fld (ofBytes x.data) 32 32 && c.arch == arch && c.active && !c.done &&
    c.tide % 2 ^ 64 == fld (ofBytes x.data) 64 64) = hit)
include h hh

theorem abortReceive_missed (hm : u.net.colls.find? hit = none) : execCollectiveAbortReceive s = .next u := by
  unfold execCollectiveAbortReceive
  rw [h]
  dsimp only
  rw [hh, hm]

theorem abortReceive_hit {st : Status} {r : Nat} (hm : u.net.colls.find? hit = some (i, c)) (hr : fld (ofBytes x.data) 16 10 = r)
    (hst : Status.ofCode? (fld (ofBytes x.data) 8 8) = some st) (hdone : st.isDone = false) (hn : r < c.n) :
    execCollectiveAbortReceive s = .next (if c.reduces ∨ c.routed then
      (c.held.foldl (fun (s : State) p => s.giveCredits i p.src 1) (u.recordFail i r st)).modColl i fun c => { c with held := [] }
      else u.recordFail i r st) := by
  unfold execCollectiveAbortReceive
  rw [h]
  dsimp only
  rw [hh, hm, hst]
  dsimp only
  rw [hr, if_neg (not_or.mpr ⟨ne_true_of_eq_false hdone, Nat.not_le.mpr hn⟩)]

end

/-- A recorded failure is there. -/
theorem recordFail_failed {st : Status} {r : Nat} (hc : s.coll? i = some c) (hst : st.isDone = false) :
    ∃ d, (s.recordFail i r st).coll? i = some d ∧ (r < d.entries.length → d.failed r = true) := by
  refine ⟨_, coll_modColl hc, fun hr => ?_⟩
  have hlen : r < c.entries.length := Nat.lt_of_lt_of_eq hr (modAt_length ..)
  unfold Coll.failed
  rw [Coll.entry_modEntry, if_pos ⟨rfl, hlen⟩]
  split
  · rw [hst]
    rfl
  · rename_i hfail
    rw [Bool.eq_false_iff.mpr hfail]
    rfl

/-- What an ABORT leaves: the failure is recorded, and where pieces are combined or routed none is held any more. -/
theorem abortReceive_effect {st : Status} {r : Nat} (hc : s.coll? i = some d) (hst : st.isDone = false) :
    ∃ z, (if c.reduces ∨ c.routed then
        (c.held.foldl (fun (s : State) p => s.giveCredits i p.src 1) (s.recordFail i r st)).modColl i fun c => { c with held := [] }
        else s.recordFail i r st).coll? i = some z ∧ (c.reduces = true ∨ c.routed = true → z.held = []) ∧
      (r < z.entries.length → z.failed r = true) := by
  obtain ⟨e, he, hfail⟩ := recordFail_failed (r := r) hc hst
  by_cases hcoll : c.reduces = true ∨ c.routed = true
  · rw [if_pos hcoll]
    have hgives : CollSends i (s.recordFail i r st) (c.held.foldl (fun (s : State) p => s.giveCredits i p.src 1) (s.recordFail i r st)) :=
      List.foldlRecOn _ _ (.refl i _) fun t ht p _ => ht.trans giveCredits_sends
    obtain ⟨z, hz, -, hlen, hstay⟩ := hgives.this e he
    exact ⟨_, coll_modColl hz, fun _ => rfl, fun hr => hstay r (hfail (Nat.lt_of_lt_of_eq hr hlen))⟩
  · rw [if_neg hcoll]
    exact ⟨e, he, fun h => absurd h hcoll, hfail⟩

/-! ### Completion (R419, R420) -/

theorem collectiveComplete_none {cid : Nat} (h : s.coll? cid = none) : execCollectiveComplete cid s = .next s := by
  unfold execCollectiveComplete
  rw [h]

theorem collectiveComplete_waits {cid : Nat} (h : s.coll? cid = some c) (ht : s.collThrough c = false) : execCollectiveComplete cid s = .next s := by
  unfold execCollectiveComplete
  rw [h]
  exact congrArg Host.Outcome.next (if_neg (ne_true_of_eq_false ht))

theorem collectiveComplete_through {cid : Nat} (h : s.coll? cid = some c) (ht : s.collThrough c = true) :
    execCollectiveComplete cid s = .next ((s.completeColl cid).settle c.work) := by
  unfold execCollectiveComplete
  rw [h]
  exact congrArg Host.Outcome.next (if_pos ht)

/-- A collective that has completed holds nothing. -/
theorem completeColl_over (hc : s.coll? i = some c) : ∀ e ∈ (s.completeColl i).net.colls, e.1 = i → e.2.done = true ∧ e.2.held = [] := by
  unfold completeColl
  rw [hc]
  dsimp only
  intro e he hi
  obtain ⟨⟨a, d⟩, -, rfl⟩ := List.mem_map.mp he
  dsimp only at hi ⊢
  split
  next => exact ⟨rfl, rfl⟩
  next ha =>
    rw [if_neg ha] at hi
    exact absurd hi ha

theorem commitAppends_net {w tn : Nat} {ok : Bool} : (s.commitAppends w tn ok).1.net = s.net := by
  unfold commitAppends
  split
  · rfl
  · rfl

/-- The end of a unit of work takes collectives away and puts none in. -/
theorem finishOneShot_colls {w : Nat} : ∀ e ∈ (s.finishOneShot w).net.colls, e ∈ s.net.colls := by
  unfold finishOneShot
  split
  · exact fun e he => he
  · intro e he
    have hmem := (List.mem_filter.mp he).1
    split at hmem
    · exact commitAppends_net (s := s) ▸ hmem
    · exact commitAppends_net (s := s) ▸ hmem

theorem settle_colls {w : Nat} : ∀ e ∈ (s.settle w).net.colls, e ∈ s.net.colls := by
  unfold settle
  split
  · exact fun e he => he
  · refine ite_ind (P := fun t : State => ∀ e ∈ t.net.colls, e ∈ s.net.colls) (fun e he => he)
      (ite_ind (P := fun t : State => ∀ e ∈ t.net.colls, e ∈ s.net.colls) (fun e he => he) finishOneShot_colls)

end State
end Sys2Proof.Machine
end

section
/-! The obligation on the collective engine. -/

namespace Sys2Proof.Proofs
open Sys2Proof.Machine Sys2Proof.Machine.State

/-- Settles O55: each event is followed through the engine's operations, which keep what a collective holds, has emitted and counted, and every failure
once recorded (CollMoves, CollSends). -/
theorem collectiveCommands : Obligations.CollectiveCommands := by
  unfold Obligations.CollectiveCommands
  intro s fData fKind used
  refine ⟨fun idx hp => pieceArrival_none rfl hp, fun hp => creditReceive_none rfl hp, fun hp => countReceive_none rfl hp,
    fun hp => grantReceive_none rfl hp, fun idx port arch p u hp => ?piece, fun cid piece hc => collectorCombine_none hc,
    fun cid piece c hc => ?combine, fun port arch p u hp => ?credit, fun port arch p u hp => ?count, fun port arch p u hp => ?grant,
    fun slot h => transitForward_empty h, fun slot e h => ?transit, fun cid row chunk hc => mmaEmitChunk_none hc, fun cid row chunk c hc => ?chunk,
    fun h => abortReceive_none h, fun x u h => abortReceive_stranger h, fun arch x u h => ?abort, fun cid hc => collectiveComplete_none hc,
    fun cid c hc => ?complete⟩
  case piece =>
    intro takes
    refine ⟨fun ht => ⟨fun h0 => pieceArrival_transit rfl hp ht (transitClass_zero h0) (by decide),
      fun h0 h1 => pieceArrival_transit rfl hp ht (transitClass_one h0 h1) (by decide), fun h0 h1 => pieceArrival_blocked rfl hp ht (transitClass_none h0 h1)⟩,
      fun ht hc => pieceArrival_stranger rfl hp ht hc, fun i c ht hc => ?_⟩
    intro good
    have hours := pieceArrival_ours (idx := idx) rfl hp ht hc
    have htake : good → exec (.collectivePieceArrival idx) s = .next (u.takeData i c p idx) :=
      fun hg => hours.trans (congrArg Host.Outcome.next (if_pos hg.1))
    have hdata : good → u.dataOk c p := fun hg => hg.2
    refine ⟨fun hbad => ?_, fun hg hfail => (htake hg).trans (congrArg _ (takeData_failed (hdata hg) hfail)), fun hg hfail hred => ?_, fun hg hfail hr ho hx => ?_⟩
    · refine hours.trans (congrArg Host.Outcome.next ?_)
      by_cases hk : p.kind = 1
      · exact (if_pos hk).trans (takeData_bad fun h => hbad ⟨hk, h⟩)
      · exact if_neg hk
    · have hslot := (htake hg).trans (congrArg Host.Outcome.next (takeData_slot (hdata hg) hfail hred))
      exact ⟨fun hroom => hslot.trans (congrArg _ (if_neg (Nat.not_le.mpr hroom))), fun hfull => hslot.trans (congrArg _ (if_pos hfull))⟩
    · refine ⟨fun st hput => (htake hg).trans (congrArg _ (takeData_refused (hdata hg) hfail hr ho hx hput)), fun v hput => ?_⟩
      obtain ⟨t, ht, hmem, hholms, hcoll⟩ := takeData_lands (i := i) (idx := idx) (hdata hg) hfail hr ho hx hput
      exact ⟨t, (htake hg).trans (congrArg _ ht), hmem, hholms, hcoll⟩
  case combine =>
    refine ⟨fun h => collectorCombine_idle hc h, fun ha hd => ?_⟩
    obtain ⟨t, ht, hmoves⟩ := collectorCombine_moves (piece := piece) hc ha hd
    obtain ⟨x, hx, -, -, hdone, hheld, -⟩ := hmoves.this _ (coll_modColl hc)
    exact ⟨t, x, ht, hx, hheld, hdone.trans hd, fun j hj => (hmoves.others j hj).trans (coll_modColl_ne hj)⟩
  case credit =>
    exact ⟨fun hc => creditReceive_stranger rfl hp hc, fun i c hc => ⟨fun h => creditReceive_bad rfl hp hc h,
      fun hok hb => creditReceive_good rfl hp hc hok hb⟩⟩
  case count =>
    exact ⟨fun hc => countReceive_stranger rfl hp hc, fun i c hc => ⟨fun h => countReceive_bad rfl hp hc h, fun h => countReceive_good rfl hp hc h⟩⟩
  case grant =>
    exact ⟨fun hc => grantReceive_stranger rfl hp hc, fun i c hc => ⟨fun h => grantReceive_bad rfl hp hc h, fun h => grantReceive_good rfl hp hc h⟩⟩
  case transit =>
    intro u
    exact ⟨fun st hs => transitForward_dropped h rfl hs, fun v hs => ⟨transitForward_sent h rfl hs, sendPieceOn_transit hs⟩⟩
  case chunk =>
    refine ⟨fun he => mmaEmitChunk_absent hc he, fun p he => ?_⟩
    intro h hit
    refine ⟨fun hnone => mmaEmitChunk_idle hc he hnone, fun f hf => ?_⟩
    exact ⟨fun h => mmaEmitChunk_over hc he hf h, fun ha hd hnew => mmaEmitChunk_handed hc he hf ha hd hnew⟩
  case abort =>
    intro b hit
    refine ⟨fun hm => abortReceive_missed h rfl hm, fun i c st hm hst hdone hn => ?_⟩
    obtain ⟨d, hd⟩ := exists_coll_of_find hm
    obtain ⟨z, hz, hheld, hfail⟩ := abortReceive_effect (c := c) (r := fld b 16 10) hd hdone
    exact ⟨_, z, abortReceive_hit h rfl hm rfl hst hdone hn, hz, hheld, hfail⟩
  case complete =>
    refine ⟨fun ht => collectiveComplete_waits hc ht, fun ht => ⟨_, collectiveComplete_through hc ht, fun x hx => ?_⟩⟩
    exact completeColl_over hc _ (settle_colls _ (AMap.mem_of_get? hx)) rfl

end Sys2Proof.Proofs
end

section
/-! SUPPORT. What counting, arrivals at barriers and failures leave of rings (R225, R281, R284, R295, R296, R488). -/

namespace Sys2Proof.Machine

/-- Slots of a ring have been freed, its blocks handed over or its credits returned: what has landed stays, and so does all the rest. -/
def Ring.Freed (x y : Ring) : Prop :=
  y = { x with
    returned := y.returned, heldBack := y.heldBack, freed := y.freed, readyReleases := y.readyReleases, origin := y.origin, landed := y.landed } ∧
  ∀ b ∈ x.landed, b ∈ y.landed

theorem Ring.Freed.refl (x : Ring) : x.Freed x := ⟨rfl, fun _ h => h⟩

theorem Ring.Freed.trans {x y z : Ring} (h : x.Freed y) (k : y.Freed z) : x.Freed z := by
  have hi := congrArg (fun r : Ring => { r with
    returned := z.returned, heldBack := z.heldBack, freed := z.freed, readyReleases := z.readyReleases, origin := z.origin, landed := z.landed }) h.1
  exact ⟨Eq.trans k.1 hi, fun b hb => k.2 b (h.2 b hb)⟩

namespace State

variable {s t u : State} {i j : Nat}

/-! ### Landings counted (R281, R488) -/

/-- Only holms and units of work have changed. -/
def Counted (s u : State) : Prop := u = { s with holms := u.holms, isth := { s.isth with works := u.isth.works } }

namespace Counted

theorem refl (s : State) : Counted s s := rfl

theorem trans (h : Counted s t) (k : Counted t u) : Counted s u := by
  have hi := congrArg (fun x : State => { x with holms := u.holms, isth := { x.isth with works := u.isth.works } }) h
  exact Eq.trans k hi

theorem modWork {w : Nat} {f : Work → Work} : Counted s (s.modWork w f) := rfl
theorem modHolm {p : Nat} {f : Holm → Holm} : Counted s (s.modHolm p f) := rfl

theorem foldl {α : Type} {f : State → α → State} (hf : ∀ t a, Counted t (f t a)) (l : List α) : Counted s (l.foldl f s) :=
  List.foldlRecOn l f (refl s) fun t ht a _ => ht.trans (hf t a)

theorem touch {w tn : Nat} {rs : List (Nat × Nat)} : Counted s (s.touch w tn rs) := ite_ind (P := Counted s) modWork (refl s)

theorem keepLanding {r : Ring} {slot : Nat} {bs : List Nat} : Counted s (s.keepLanding r slot bs) := ite_ind (P := Counted s) (refl s) modWork

theorem writeSlot {r : Ring} {slot : Nat} {bs : List Nat} (hm : r.mem = false) : ∃ t, s.writeSlot r slot bs = .ok t ∧ Counted s t := by
  refine ⟨_, if_neg (ne_true_of_eq_false hm), foldl (fun t p => ?_) _⟩
  exact modHolm

theorem countHolm {w lg : Nat} (n : Nat) (s : State) : Counted s (s.countHolm w lg n) := by
  induction n generalizing s with
  | zero => exact refl s
  | succ n ih =>
    unfold State.countHolm
    split
    · dsimp only
      split
      · exact refl s
      · split
        · exact refl s
        · exact ite_ind (P := Counted s) ((modWork.trans modHolm).trans (ih _)) (refl s)
    · exact refl s

theorem countLandings {w : Nat} : Counted s (s.countLandings w) := foldl (fun t _ => countHolm _ t) _

theorem holdBar {b : Nat} {lgs : List Nat} : Counted s (s.holdBar b lgs) := by
  refine foldl (fun t l => ?_) _
  split
  · exact modHolm
  · exact refl t

theorem net (h : Counted s u) : u.net = s.net := (congrArg State.net h).trans rfl
theorem mem (h : Counted s u) : u.mem = s.mem := (congrArg State.mem h).trans rfl
theorem kv (h : Counted s u) : u.kv = s.kv := (congrArg State.kv h).trans rfl

end Counted

/-! ### Arrivals at barriers (R225, R284, R486, R488) -/

/-- Of what the links carry only rings have changed, and of those only what a release of a barrier changes. -/
def Released (s u : State) : Prop :=
  u.net = { s.net with rings := u.net.rings } ∧
  ∃ f : Nat → Ring → Ring, u.net.rings = s.net.rings.map (fun ((i, r) : Nat × Ring) => (i, f i r)) ∧ ∀ (i : Nat) (r : Ring), r.Freed (f i r)

namespace Released

theorem of (h : u.net = s.net) : Released s u := by
  refine ⟨by rw [h], fun _ r => r, ?_, fun _ r => .refl r⟩
  rw [h]
  exact (List.map_id' _).symm

theorem trans (h : Released s t) (k : Released t u) : Released s u := by
  obtain ⟨hnet, f, hf, hfreed⟩ := h
  obtain ⟨knet, g, hg, kfreed⟩ := k
  have hi := congrArg (fun n : NetState => { n with rings := u.net.rings }) hnet
  refine ⟨Eq.trans knet hi, fun i r => g i (f i r), ?_, fun i r => (hfreed i r).trans (kfreed i _)⟩
  rw [hg, hf, List.map_map]
  rfl

theorem mapRings {f : Nat → Ring → Ring} (hf : ∀ (i : Nat) (r : Ring), r.Freed (f i r)) :
    Released s { s with net := { s.net with rings := s.net.rings.map (fun ((i, r) : Nat × Ring) => (i, f i r)) } } := ⟨rfl, f, rfl, hf⟩

end Released

/-- A slot's free barrier is released: its credit returns, or is held back until the next checkpoint. -/
def ringSlotFreed (r : Ring) (hold : Bool) (b : Nat) : Ring :=
  if r.freeBar ≤ b ∧ b - r.freeBar < r.slots then
    if hold then { r with heldBack := r.heldBack ++ [b - r.freeBar], freed := r.freed + 1 }
    else { r with returned := r.returned ++ [b - r.freeBar], freed := r.freed + 1 }
  else r

/-- A ready barrier is released: it hands over the next origin block. -/
def ringHandedOver (r : Ring) (b : Nat) : Ring :=
  if r.orig ∧ r.readyBar = b ∧ r.readyReleases < r.blocks * r.rounds then
    { r with
      readyReleases := r.readyReleases + 1, origin := r.origin ++ [(r.readyReleases / r.blocks, r.readyReleases % r.blocks)]
      landed := r.landed ++ [(r.readyReleases / r.blocks, 0, r.readyReleases % r.blocks)] }
  else r

theorem ringSlotFreed_freed {r : Ring} {hold : Bool} {b : Nat} : r.Freed (ringSlotFreed r hold b) :=
  ite_ind (P := r.Freed) (ite_ind (P := r.Freed) ⟨rfl, fun _ h => h⟩ ⟨rfl, fun _ h => h⟩) (.refl r)

theorem ringHandedOver_freed {r : Ring} {b : Nat} : r.Freed (ringHandedOver r b) :=
  ite_ind (P := r.Freed) ⟨rfl, fun _ h => List.mem_append_left _ h⟩ (.refl r)

/-- Credits of a ring's freed slots are held back: its stage has checkpoints. -/
def holdsBack (s : State) (w : Nat) (r : Ring) : Bool :=
  match s.work? w with
  | some x => ((x.stages[r.stage]?).map fun (st : Stage) => !st.ckpts.isEmpty).getD false
  | none => false

/-- What a release of a barrier does to one ring of the partition. -/
def freedRing (s : State) (w part b : Nat) (r : Ring) : Ring :=
  if r.work ≠ w ∨ r.part ≠ part then r else ringHandedOver (ringSlotFreed r (s.holdsBack w r) b) b

theorem freedRing_freed {w part b : Nat} {r : Ring} : r.Freed (s.freedRing w part b r) :=
  ite_ind (P := r.Freed) (.refl r) (ringSlotFreed_freed.trans ringHandedOver_freed)

theorem ringRelease_released {w part b : Nat} : Released s (s.ringRelease w part b) := by
  refine Released.trans (t := { s with net := { s.net with rings := s.net.rings.map (fun ((i, r) : Nat × Ring) => (i, s.freedRing w part b r)) } })
    (.mapRings fun _ _ => freedRing_freed) (.of ?_)
  refine Eq.trans Counted.countLandings.net (congrArg (fun l => ({ s.net with rings := l } : NetState)) (List.map_congr_left fun e _ => ?_))
  obtain ⟨i, r⟩ := e
  unfold freedRing
  dsimp only
  split
  · rfl
  · rfl

theorem checkpointDone_released {w : Nat} {stages lgs : List Nat} : Released s (s.checkpointDone w stages lgs) :=
  (Released.mapRings (s := s) (f := fun _ r => if r.work == w && stages.contains r.stage then { r with returned := r.returned ++ r.heldBack, heldBack := [] } else r)
    fun _ r => ite_ind (P := r.Freed) ⟨rfl, fun _ h => h⟩ (.refl r)).trans (.of rfl)

theorem checkpoint_released {w : Nat} {stages lgs : List Nat} : Released s (s.checkpointDone w stages lgs).dividePower :=
  (checkpointDone_released (lgs := lgs)).trans (.of rfl)

theorem barArrive_released {w part b : Nat} {lg : Option Nat} : Released s (s.barArrive w part b lg) := by
  unfold barArrive
  split
  · exact .of rfl
  · split
    · exact .of rfl
    · dsimp only
      split
      · exact .of Counted.holdBar.net
      · split
        · exact .of (Counted.holdBar.net.trans rfl)
        · have hrelease : ∀ {l : List Nat} {f : Work → Work}, Released s ((l.foldl (fun (s : State) l => match s.physOf? l with
              | some p => s.modHolm p fun h => { h with held := h.held.filter (· != b) }
              | none => s) (s.modWork w f)).ringRelease w part b) := fun {l f} => by
            refine Released.trans (.of (Counted.net (Counted.trans .modWork (Counted.foldl (fun t l => ?_) l)))) ringRelease_released
            split
            · exact .modHolm
            · exact .refl t
          exact ite_ind (P := Released s) hrelease (hrelease.trans checkpoint_released)

/-! ### A property of every ring of an index -/

/-- Every ring entered under an index has a property. -/
def AllRings (i : Nat) (P : Ring → Prop) (s : State) : Prop := ∀ e ∈ s.net.rings, e.1 = i → P e.2

namespace AllRings

variable {P : Ring → Prop}

theorem ring (h : AllRings i P s) : ∀ x, s.ring? i = some x → P x := fun x hx => h (i, x) (AMap.mem_of_get? hx) rfl

theorem of (h : AllRings i P s) (hr : ∀ e ∈ u.net.rings, e ∈ s.net.rings) : AllRings i P u := fun e he => h e (hr e he)

theorem modRing_self {f : Ring → Ring} (hf : ∀ r, P (f r)) : AllRings i P (s.modRing i f) := by
  intro e he hi
  obtain ⟨⟨a, r⟩, -, rfl⟩ := List.mem_map.mp he
  dsimp only at hi ⊢
  split
  next => exact hf r
  next ha =>
    rw [if_neg ha] at hi
    exact absurd hi ha

theorem modRing_ne {f : Ring → Ring} (h : AllRings i P s) (hj : j ≠ i) : AllRings i P (s.modRing j f) := by
  intro e he hi
  obtain ⟨⟨a, r⟩, ha, rfl⟩ := List.mem_map.mp he
  dsimp only at hi ⊢
  split
  next hja =>
    rw [if_pos hja] at hi
    exact absurd (hja.symm.trans hi) hj
  next hja =>
    rw [if_neg hja] at hi
    exact h (a, r) ha hi

theorem released (h : AllRings i P s) (hr : Released s u) (hP : ∀ x y, Ring.Freed x y → P x → P y) : AllRings i P u := by
  obtain ⟨-, f, hf, hfreed⟩ := hr
  intro e he hi
  rw [hf] at he
  obtain ⟨⟨a, r⟩, ha, rfl⟩ := List.mem_map.mp he
  exact hP _ _ (hfreed a r) (h (a, r) ha hi)

end AllRings

/-! ### Failures (R295, R296, R421, R495) -/

theorem finishOneShot_rings {w : Nat} : ∀ e ∈ (s.finishOneShot w).net.rings, e ∈ s.net.rings := by
  unfold finishOneShot
  split
  · exact fun e he => he
  · intro e he
    have hmem := (List.mem_filter.mp he).1
    split at hmem
    · exact commitAppends_net (s := s) ▸ hmem
    · exact commitAppends_net (s := s) ▸ hmem

theorem settle_rings {w : Nat} : ∀ e ∈ (s.settle w).net.rings, e ∈ s.net.rings := by
  unfold settle
  split
  · exact fun e he => he
  · exact ite_ind (P := fun t : State => ∀ e ∈ t.net.rings, e ∈ s.net.rings) (fun e he => he)
      (ite_ind (P := fun t : State => ∀ e ∈ t.net.rings, e ∈ s.net.rings) (fun e he => he) finishOneShot_rings)

theorem Sending.rings (h : Sending s u) : u.net.rings = s.net.rings := (congrArg (fun x : State => x.net.rings) h.1).trans rfl
theorem Sending.isth (h : Sending s u) : u.isth = s.isth := (congrArg State.isth h.1).trans rfl

theorem Sending.foldl {α : Type} {f : State → α → State} (hf : ∀ t a, Sending t (f t a)) (l : List α) : Sending s (l.foldl f s) :=
  List.foldlRecOn l f (.refl s) fun t ht a _ => ht.trans (hf t a)

theorem Sending.ringAbort {r : Ring} {idx failed : Nat} {st : Status} : Sending s (s.ringAbort r idx st failed) := by
  unfold State.ringAbort
  dsimp only
  split
  · exact .refl s
  · exact .sendAbort

/-- A collective's failure touches no ring and no unit of work. -/
theorem collFail_rings {r : Nat} {st : Status} : (s.collFail i r st).net.rings = s.net.rings ∧ (s.collFail i r st).isth = s.isth := by
  unfold collFail
  split
  · exact ⟨rfl, rfl⟩
  · refine ite_ind (P := fun t : State => t.net.rings = s.net.rings ∧ t.isth = s.isth) ⟨rfl, rfl⟩ ?_
    have habort : ∀ {t : State} {c : Coll}, Sending t (t.abortAll c r st) := fun {t c} => by
      refine Sending.foldl (fun t d => ?_) _
      split
      · exact .refl t
      · split
        · exact .sendAbort
        · exact .refl t
    exact ⟨habort.rings, habort.isth⟩

section
variable {st st1 : Status} {failed : Nat} {from_ : Option Nat}

theorem stopRing_isth : (s.stopRing i st failed from_).isth = s.isth := by
  unfold stopRing
  split
  · rfl
  · exact ite_ind (P := fun t : State => t.isth = s.isth) rfl (Sending.foldl (fun _ _ => .ringAbort) _).isth

/-- A ring that runs and is stopped has the status from then on. -/
theorem stopRing_stopped {r : Ring} (hr : s.ring? i = some r) (hrun : r.stopped = none) :
    AllRings i (·.stopped = some st) (s.stopRing i st failed from_) := by
  unfold stopRing
  rw [hr]
  dsimp only
  rw [hrun, if_neg (by decide)]
  exact AllRings.of (AllRings.modRing_self fun _ => rfl) fun e he => (Sending.foldl (fun _ _ => .ringAbort) _).rings ▸ he

/-- A ring that has stopped keeps its status when any ring is stopped. -/
theorem AllRings.stopRing (h : AllRings i (·.stopped = some st1) s) : AllRings i (·.stopped = some st1) (s.stopRing j st failed from_) := by
  unfold State.stopRing
  split
  · exact h
  · rename_i r hr
    by_cases hj : j = i
    · subst hj
      rw [if_pos (by rw [h.ring r hr]; rfl)]
      exact h
    · split
      · exact h
      · exact AllRings.of (h.modRing_ne hj) fun e he => (Sending.foldl (fun _ _ => .ringAbort) _).rings ▸ he

end

/-- The failure of a unit of work, step by step: a property that its steps keep. -/
theorem failWork_keeps {Q : State → Prop} {w : Nat} {st : Status} {wk : Work} (hw : s.work? w = some wk) (hrun : wk.running = true)
    (hclose : wk.closeAt = none)
    (h0 : Q (s.modWork w fun x => { x with status := if x.status.isDone then st else x.status, waves := [] }))
    (hleave : ∀ (t : State) p hs, Q t → Q (t.leaveHolm p hs)) (hstop : ∀ (t : State) j n, Q t → Q (t.stopRing j st n none))
    (hcoll : ∀ (t : State) j r, Q t → Q (t.collFail j r st)) (hsettle : ∀ t : State, Q t → Q (t.settle w)) : Q (s.failWork w st) := by
  unfold failWork
  rw [hw]
  dsimp only
  rw [hrun, hclose, if_neg (by decide)]
  refine hsettle _ (List.foldlRecOn _ _ (List.foldlRecOn _ _ (List.foldlRecOn _ _ h0 ?_) ?_) ?_)
  · exact fun t ht p _ => hleave t p _ ht
  · exact fun t ht e _ => ite_ind (P := Q) (hstop t _ _ ht) ht
  · exact fun t ht e _ => ite_ind (P := Q) (hcoll t _ _ ht) ht

theorem failWork_idle {w : Nat} {st : Status} (h : ∀ wk, s.work? w = some wk → wk.running = true → wk.closeAt ≠ none) : s.failWork w st = s := by
  unfold failWork
  split
  · rfl
  · rename_i wk hw
    refine if_pos ?_
    by_cases hrun : wk.running = true
    · exact .inr (Option.isSome_iff_ne_none.mpr (h wk hw hrun))
    · exact .inl (congrArg not (Bool.eq_false_of_not_eq_true hrun))

theorem AllRings.failWork {w : Nat} {st st1 : Status} (h : AllRings i (·.stopped = some st1) s) : AllRings i (·.stopped = some st1) (s.failWork w st) := by
  by_cases hrun : ∃ wk, s.work? w = some wk ∧ wk.running = true ∧ wk.closeAt = none
  · obtain ⟨wk, hw, hrun, hclose⟩ := hrun
    refine failWork_keeps (Q := AllRings i (·.stopped = some st1)) hw hrun hclose h (fun _ _ _ ht => ht) (fun _ _ _ ht => ht.stopRing)
      (fun t _ _ ht => ht.of fun e he => ?_) (fun t ht => ht.of settle_rings)
    exact (collFail_rings (s := t)).1 ▸ he
  · rw [failWork_idle fun wk hw hr hc => hrun ⟨wk, hw, hr, hc⟩]
    exact h

theorem failRing_runs {r : Ring} {st : Status} (hr : s.ring? i = some r) (hrun : r.stopped = none) :
    s.failRing i st = (s.stopRing i st (s.ownIx (s.ringArch r)) none).failWork r.work st := by
  unfold failRing
  rw [hr]
  dsimp only
  rw [hrun, if_neg (by decide)]

theorem failRing_stopped {r : Ring} {st : Status} (hr : s.ring? i = some r) (hrun : r.stopped = none) :
    AllRings i (·.stopped = some st) (s.failRing i st) := by
  rw [failRing_runs hr hrun]
  exact (stopRing_stopped hr hrun).failWork

/-- A unit of work, where it is there, has a status. -/
def WorkEnds (w : Nat) (st : Status) (s : State) : Prop := ∀ x, s.work? w = some x → x.status = st

theorem WorkEnds.of {w : Nat} {st : Status} (h : WorkEnds w st s) (hi : u.isth = s.isth) : WorkEnds w st u := fun x hx =>
  h x ((congrArg (fun n : IsthState => n.works.get? w) hi).symm.trans hx)

theorem finishOneShot_work {w : Nat} : (s.finishOneShot w).work? w = none := by
  unfold finishOneShot
  split
  · assumption
  · exact (AMap.get?_del ..).trans (if_pos rfl)

theorem WorkEnds.settle {w : Nat} {st : Status} (h : WorkEnds w st s) : WorkEnds w st (s.settle w) := by
  unfold State.settle
  split
  · exact h
  · refine ite_ind (P := WorkEnds w st) h (ite_ind (P := WorkEnds w st) (fun x hx => ?_) (fun x hx => ?_))
    · rw [work_modWork, if_pos rfl] at hx
      obtain ⟨y, hy, rfl⟩ := Option.map_eq_some_iff.mp hx
      exact h y hy
    · rw [finishOneShot_work] at hx
      cases hx

theorem failWork_status {w : Nat} {st : Status} {wk : Work} (hw : s.work? w = some wk) (hrun : wk.running = true) (hclose : wk.closeAt = none) :
    WorkEnds w (if wk.status.isDone then st else wk.status) (s.failWork w st) := by
  refine failWork_keeps (Q := WorkEnds w (if wk.status.isDone then st else wk.status)) hw hrun hclose (fun x hx => ?_) (fun _ _ _ ht => ht.of rfl)
    (fun _ _ _ ht => ht.of stopRing_isth) (fun _ _ _ ht => ht.of collFail_rings.2) (fun _ ht => ht.settle)
  rw [work_modWork, if_pos rfl, hw] at hx
  cases hx
  rfl

end State
end Sys2Proof.Machine
end

section
/-! SUPPORT. The shuttle's operations and events (R281 to R286, R295, R296). -/

namespace Sys2Proof.Machine

theorem AMap.modify_of_not_found {α : Type} {m : AMap α} {k : Nat} {f : α → α} (h : m.get? k = none) : m.modify k f = m := by
  induction m with
  | nil => rfl
  | cons e t ih =>
    obtain ⟨a, v⟩ := e
    by_cases ha : a = k
    · exact absurd ((if_pos ha).symm.trans h) nofun
    · refine congrArg₂ List.cons (if_neg ha) (ih ?_)
      exact (if_neg ha).symm.trans h

namespace State

variable {s t u v : State} {i : Nat} {r : Ring}

theorem ring_modRing {f : Ring → Ring} (h : s.ring? i = some r) : (s.modRing i f).ring? i = some (f r) :=
  (AMap.get?_modify ..).trans ((if_pos rfl).trans (congrArg (Option.map f) h))

theorem ring_modRing_ne {f : Ring → Ring} {j : Nat} (h : j ≠ i) : (s.modRing i f).ring? j = s.ring? j := (AMap.get?_modify ..).trans (if_neg h)

theorem Released.ring (h : Released s u) (hr : s.ring? i = some r) : ∃ x, u.ring? i = some x ∧ r.Freed x := by
  obtain ⟨-, f, hf, hfreed⟩ := h
  refine ⟨f i r, ?_, hfreed i r⟩
  refine (congrArg (AMap.get? · i) hf).trans ((AMap.get?_mapVals _ i).trans ?_)
  rw [show s.net.rings.get? i = some r from hr]
  rfl

/-! ### Origin blocks (R282) -/

/-- The next origin block of a ring. -/
def nextOrigin (r : Ring) : Nat × Nat × Nat := (r.origin.length / max 1 r.blocks, 0, r.origin.length % max 1 r.blocks)

/-- The walker fetches the ring's next origin block. -/
def fetchDue (s : State) (r : Ring) : Prop :=
  r.orig = false ∧ r.stopped = none ∧ s.ringUp r = true ∧ (nextOrigin r).1 < r.rounds ∧ r.granted = true ∧ r.mayUse r.given (nextOrigin r) = true

/-- What the walker is asked for an origin block. -/
def originWalk (r : Ring) : Walk :=
  { id := 0, phys := 0, ch := 0, tile := 0, walker := r.quad, handle := r.handle, sel := 2 ^ 2 * r.head + 2 ^ 6 * r.hcnt, sreg := 0
    treg := r.token0 + (nextOrigin r).2.2 * r.tokens, tokens := r.tokens, layer := r.layer + (if r.lstep then (nextOrigin r).1 else 0), incT := 0
    pc := 0, landed := false, header := [], failed := none }

theorem fetchOrigin_none {lost : Bool} (h : s.ring? i = none) : s.fetchOrigin i lost = s := by
  unfold fetchOrigin
  rw [h]

theorem fetchDue_iff : ¬ s.fetchDue r ↔ r.orig = true ∨ r.stopped.isSome = true ∨ (!s.ringUp r) = true ∨ r.rounds ≤ (nextOrigin r).1 ∨
    (!r.granted) = true ∨ (!r.mayUse r.given (nextOrigin r)) = true := by
  unfold fetchDue
  simp only [Bool.not_eq_true', not_and_or, Bool.not_eq_false, Bool.not_eq_true, Nat.not_lt, Option.isSome_iff_ne_none, ne_eq]

section
variable {lost : Bool} (hr : s.ring? i = some r)
include hr

theorem fetchOrigin_waits (h : ¬ s.fetchDue r) : s.fetchOrigin i lost = s := by
  unfold fetchOrigin
  rw [hr]
  exact if_pos (fetchDue_iff.mp h)

variable (hdue : s.fetchDue r)
include hdue

theorem fetchOrigin_unbound (hc : s.kvCtx (s.ringTenant r) = none) : s.fetchOrigin i lost = s.failRing i .badAddress := by
  unfold fetchOrigin
  rw [hr]
  refine (if_neg (fun h => fetchDue_iff.mpr h hdue)).trans ?_
  rw [hc]

/-- The ring has one origin block more, which has landed. -/
def originLanded (s : State) (i : Nat) (r : Ring) : State :=
  s.modRing i fun x => { x with origin := x.origin ++ [((nextOrigin r).1, (nextOrigin r).2.2)], landed := x.landed ++ [nextOrigin r] }

theorem fetchOrigin_lands {c : KvCtx} {o : WalkOut} (hc : s.kvCtx (s.ringTenant r) = some c)
    (ho : (originWalk r).run c (fun _ => 0) lost = .ok o) : ∃ bs, ∀ s1, s.writeSlot r (r.slotOf (nextOrigin r)) bs = .ok s1 →
      s.fetchOrigin i lost =
        (((s1.touch r.work c.tid o.reads).keepLanding r (r.slotOf (nextOrigin r)) bs).originLanded i r).countLandings r.work := by
  have hgo := fun h => fetchDue_iff.mpr h hdue
  dsimp only [originWalk, nextOrigin] at hgo ho ⊢
  unfold fetchOrigin
  rw [hr]
  dsimp only
  rw [if_neg hgo, hc]
  dsimp only
  rw [ho]
  dsimp only
  generalize Mem.read _ 64 96 ++ _ = bs
  refine ⟨bs, fun s1 hs1 => ?_⟩
  rw [hs1]
  rfl

theorem fetchOrigin_fetches {c : KvCtx} {o : WalkOut} (hm : r.mem = false) (hc : s.kvCtx (s.ringTenant r) = some c)
    (ho : (originWalk r).run c (fun _ => 0) lost = .ok o) : ∃ x, (s.fetchOrigin i lost).ring? i = some x ∧
      x.origin = r.origin ++ [((nextOrigin r).1, (nextOrigin r).2.2)] ∧ x.landed = r.landed ++ [nextOrigin r] ∧
      (s.fetchOrigin i lost).mem = s.mem ∧ (s.fetchOrigin i lost).kv = s.kv := by
  obtain ⟨bs, hbs⟩ := fetchOrigin_lands hr hdue hc ho
  obtain ⟨s1, hs1, hwrite⟩ := Counted.writeSlot (s := s) (r := r) (slot := r.slotOf (nextOrigin r)) (bs := bs) hm
  have hkeep : Counted s ((s1.touch r.work c.tid o.reads).keepLanding r (r.slotOf (nextOrigin r)) bs) :=
    (hwrite.trans .touch).trans .keepLanding
  rw [hbs s1 hs1]
  generalize (s1.touch r.work c.tid o.reads).keepLanding r (r.slotOf (nextOrigin r)) bs = s2 at hkeep ⊢
  have hcount : Counted (s2.originLanded i r) ((s2.originLanded i r).countLandings r.work) := .countLandings
  have hring : s2.ring? i = some r := (congrArg (fun n : NetState => n.rings.get? i) hkeep.net).trans hr
  exact ⟨_, (congrArg (fun n : NetState => n.rings.get? i) hcount.net).trans (ring_modRing hring), rfl, rfl, hcount.mem.trans hkeep.mem,
    hcount.kv.trans hkeep.kv⟩

end

/-! ### Slots granted (R284) -/

theorem slotCreditGrant_none (h : s.ring? i = none) : execSlotCreditGrant i s = .next s := by
  unfold execSlotCreditGrant
  rw [h]

theorem slotCreditGrant_waits (hr : s.ring? i = some r) (h : r.granted = true ∨ r.stopped ≠ none ∨ s.ringUp r = false) :
    execSlotCreditGrant i s = .next s := by
  unfold execSlotCreditGrant
  rw [hr]
  exact congrArg Host.Outcome.next (if_pos (h.imp_right fun h => h.imp Option.isSome_iff_ne_none.mpr (congrArg not)))

theorem slotCreditGrant_grants (hr : s.ring? i = some r) (hg : r.granted = false) (hs : r.stopped = none) (hup : s.ringUp r = true) :
    execSlotCreditGrant i s = .next (s.modRing i fun r => { r with granted := true, returned := r.returned ++ List.range r.slots }) := by
  unfold execSlotCreditGrant
  rw [hr]
  dsimp only
  rw [hg, hs, hup, if_neg (by decide)]

/-! ### Sends (R283, R284, R285, R292) -/

/-- A transfer to the next rank can be sent: it is a member, not a new node, and not every port is lost. -/
def openToNext (s : State) (r : Ring) : Prop :=
  (∃ a m, s.net.archs.get? (s.ringArch r) = some a ∧ a.members.get? r.nextIx = some m) ∧ (∀ d, s.memberGone (s.ringArch r) d = false) ∧
    s.allLost r.ports = false

theorem sendXfer_sent {arch chan turn : Nat} {ps : List Nat} {x : Xfer} {o : XOwner} (hg : s.memberGone arch x.dst = false) (hl : s.allLost ps = false) :
    ∃ v y, s.sendXfer arch chan ps turn x o = .ok v ∧ v.net.sent = s.net.sent ++ [y] ∧ y.owner = o ∧ y.x.data = x.data ∧ y.arch = arch ∧
      y.chan = chan := by
  unfold sendXfer
  rw [if_neg (ne_true_of_eq_false hg), if_neg (fun h => ne_true_of_eq_false hl h.1)]
  dsimp only
  split
  · exact ⟨_, _, rfl, rfl, rfl, rfl, rfl, rfl⟩
  · exact ⟨_, _, rfl, rfl, rfl, rfl, rfl, rfl⟩

theorem sendToNext_sent {off q : Nat} {mc : Bool} {bs : List Nat} (h : s.openToNext r) : ∃ v y, Sending s v ∧
    s.sendToNext i r off mc bs q = v.modRing i (fun r => { r with outstanding := r.outstanding + 1 }) ∧ v.net.sent = s.net.sent ++ [y] ∧
    y.owner = .ring i q ∧ y.x.data = bs ∧ y.arch = s.ringArch r ∧ y.chan = 4 := by
  obtain ⟨⟨a, m, ha, hm⟩, hgone, hlost⟩ := h
  have hwrite : ∃ x v, s.writeXfer (s.ringArch r) r.nextIx r.window r.key off 1 bs = some (x, v) ∧ x.data = bs ∧ v.net.sent = s.net.sent ∧
      v.net.archs = s.net.archs ∧ v.net.ports = s.net.ports := by
    unfold writeXfer
    rw [ha]
    dsimp only
    rw [hm]
    exact ⟨_, _, rfl, rfl, rfl, rfl, rfl⟩
  obtain ⟨x, v, hx, hdata, hsent, harchs, hports⟩ := hwrite
  have hgone' : ∀ d, v.memberGone (s.ringArch r) d = false := fun d => by
    rw [← hgone d]
    unfold memberGone
    rw [harchs, hports]
  have hlost' : v.allLost r.ports = false := by
    rw [← hlost]
    unfold allLost port
    rw [hports]
  have hmc : (if mc then { x with hdr := x.hdr + 2 ^ 7 } else x).data = x.data := by
    cases mc with
    | true => rfl
    | false => rfl
  obtain ⟨w, y, hw, hy, hown, hyd, harch, hchan⟩ := sendXfer_sent (chan := 4) (turn := q) (o := .ring i q) (hgone' _) hlost'
  refine ⟨w, y, (Sending.writeXfer hx).trans (.sendXfer hw), ?_, hy.trans (congrArg (· ++ [y]) hsent), hown, (hyd.trans hmc).trans hdata, harch, hchan⟩
  unfold sendToNext
  dsimp only
  rw [hx]
  dsimp only
  rw [hw]

/-- A block that leaves: its ring counts it, and one transfer is sent for it. -/
theorem shuttle_leaves {f : Ring → Ring} {off q slot : Nat} {mc : Bool} {bs : List Nat} (hr : s.ring? i = some r) (h : s.openToNext r)
    (ht : ((s.modRing i f).sendToNext i r off mc bs q).shuttleDone r slot = t) :
    ∃ x y, t.ring? i = some x ∧ Ring.Freed { f r with outstanding := (f r).outstanding + 1 } x ∧ t.net.sent = s.net.sent ++ [y] ∧
      y.owner = .ring i q ∧ y.x.data = bs ∧ y.arch = s.ringArch r ∧ y.chan = 4 := by
  obtain ⟨v, y, hsend, hto, hsent, hown, hdata, harch, hchan⟩ := sendToNext_sent (s := s.modRing i f) (i := i) (off := off) (q := q) (mc := mc) (bs := bs) h
  have hv : v.ring? i = some (f r) := (congrArg (AMap.get? · i) hsend.rings).trans (ring_modRing hr)
  rw [hto] at ht
  have hdone : Released (v.modRing i fun r => { r with outstanding := r.outstanding + 1 }) t := ht ▸ barArrive_released
  obtain ⟨x, hx, hfreed⟩ := hdone.ring (ring_modRing hv)
  exact ⟨x, y, hx, hfreed, ((congrArg NetState.sent hdone.1).trans rfl).trans hsent, hown, hdata, harch, hchan⟩

/-- The next block in order may leave. -/
def sendDue (s : State) (r : Ring) (b : Nat × Nat × Nat) : Prop :=
  r.stopped = none ∧ s.ringUp r = true ∧ b.1 < r.rounds ∧ b ∈ r.landed ∧ r.mayUse r.credits (b.1, b.2.1 + 1, b.2.2) = true ∧ s.backReady r b = true

/-- Accumulators of a block of the last step may return. -/
def backDue (s : State) (r : Ring) (b : Nat × Nat × Nat) : Prop :=
  r.stopped = none ∧ r.bwd = true ∧ s.ringUp r = true ∧ b.1 < r.rounds ∧ b ∈ r.landed ∧ s.backReady r b = true

/-- The block whose accumulators return next. -/
def nextBack (r : Ring) : Nat × Nat × Nat := (r.nextRet / max 1 r.blocks, r.n - 1, r.nextRet % max 1 r.blocks)

theorem takeCredits_none {l : List Nat} (h : s.ring? i = none) : s.takeCredits i l = s :=
  congrArg (fun m => ({ s with net := { s.net with rings := m } } : State)) (AMap.modify_of_not_found h)

theorem sendBlock_none {own : Bool} (h : s.ring? i = none) : s.sendBlock i own = s := by
  unfold sendBlock
  rw [h]

theorem sendBack_none (h : s.ring? i = none) : s.sendBack i = s := by
  unfold sendBack
  rw [h]

section
variable (hr : s.ring? i = some r)
include hr

theorem sendBlock_waits {own : Bool} (h : ¬ s.sendDue r (r.outBlock r.next) ∨ ((r.outBlock r.next).2.1 == 0) ≠ own) : s.sendBlock i own = s := by
  unfold sendBlock
  rw [hr]
  refine if_pos ?_
  by_contra hno
  simp only [not_or, Bool.not_eq_true', Bool.not_eq_false, Option.isSome_iff_ne_none, ne_eq, not_not, Nat.not_le, List.contains_eq_mem, decide_eq_true_eq] at hno
  obtain ⟨hstop, hup, hround, hown, hland, hmay, hback⟩ := hno
  exact h.elim (fun h => h ⟨hstop, hup, hround, hland, hmay, hback⟩) (fun h => h hown)

theorem sendBlock_sends {own : Bool} {bs : List Nat} (h : s.sendDue r (r.outBlock r.next)) (hown : ((r.outBlock r.next).2.1 == 0) = own)
    (hbs : s.readSlot r (r.slotOf (r.outBlock r.next)) = .ok bs) : ∃ off slot mc, s.sendBlock i own =
      ((s.modRing i fun r => { r with next := r.next + 1 }).sendToNext i r off mc bs
        (r.seq ((r.outBlock r.next).1, (r.outBlock r.next).2.1 + 1, (r.outBlock r.next).2.2))).shuttleDone r slot := by
  obtain ⟨hstop, hup, hround, hland, hmay, hback⟩ := h
  unfold sendBlock
  rw [hr]
  dsimp only
  rw [if_neg ?_, hbs]
  · exact ⟨_, _, _, rfl⟩
  · rw [hstop, hup, hmay, hback]
    simp [hown, hland, Nat.not_le.mpr hround]

theorem sendBack_forward (h : r.bwd = false) : s.sendBack i = s := by
  unfold sendBack
  rw [hr]
  exact if_pos (.inr (.inl (congrArg not h)))

theorem sendBack_waits (h : ¬ s.backDue r (nextBack r)) : s.sendBack i = s := by
  unfold sendBack
  rw [hr]
  refine if_pos ?_
  by_contra hno
  simp only [not_or, Bool.not_eq_true', Bool.not_eq_false, Option.isSome_iff_ne_none, ne_eq, not_not, Nat.not_le, List.contains_eq_mem, decide_eq_true_eq] at hno
  obtain ⟨hstop, hbwd, hup, hround, hland, hback⟩ := hno
  exact h ⟨hstop, hbwd, hup, hround, hland, hback⟩

theorem sendBack_sends {bs : List Nat} (h : s.backDue r (nextBack r)) (hbs : s.readSlot r (r.slotOf (nextBack r)) = .ok bs) :
    ∃ off slot, s.sendBack i = ((s.modRing i fun r => { r with nextRet := r.nextRet + 1 }).sendToNext i r off false
      (bs.drop (bs.length - 32 * r.accLines)) (r.total + r.nextRet)).shuttleDone r slot := by
  obtain ⟨hstop, hbwd, hup, hround, hland, hback⟩ := h
  dsimp only [nextBack] at hround hland hback hbs
  unfold sendBack
  rw [hr]
  dsimp only
  rw [if_neg ?_, hbs]
  · exact ⟨_, _, rfl⟩
  · rw [hstop, hbwd, hup, hback]
    simp [hland, hround]

end

/-! ### Landings (R281, R283, R285, R295) -/

/-- Neither the transfers told to the shuttle nor the replies have changed. -/
def Unanswered (s u : State) : Prop := u.net.shuttleIn = s.net.shuttleIn ∧ u.net.replies = s.net.replies

/-- One reply more is to leave by a port. -/
def Answered (port arch : Nat) (s u : State) : Prop :=
  u.net.shuttleIn = s.net.shuttleIn ∧ ∃ y, u.net.replies = s.net.replies ++ [y] ∧ y.port = port ∧ y.arch = arch

theorem Unanswered.trans (h : Unanswered s t) (k : Unanswered t u) : Unanswered s u := ⟨k.1.trans h.1, k.2.trans h.2⟩

theorem Unanswered.of (h : u.net = s.net) : Unanswered s u := by
  rw [Unanswered, h]
  exact ⟨rfl, rfl⟩

theorem Released.unanswered (h : Released s u) : Unanswered s u :=
  ⟨(congrArg NetState.shuttleIn h.1).trans rfl, (congrArg NetState.replies h.1).trans rfl⟩

theorem Fails.unanswered (h : Fails s u) : Unanswered s u :=
  ⟨(congrArg (fun x : State => x.net.shuttleIn) h.1).trans rfl, (congrArg (fun x : State => x.net.replies) h.1).trans rfl⟩

section
variable {port arch : Nat} {x : Xfer}

theorem Unanswered.answered (h : Unanswered s t) (k : Answered port arch t u) : Answered port arch s u := by
  obtain ⟨hin, y, hy, hport, harch⟩ := k
  exact ⟨hin.trans h.1, y, hy.trans (congrArg (· ++ [y]) h.2), hport, harch⟩

theorem Answered.unanswered (h : Answered port arch s t) (k : Unanswered t u) : Answered port arch s u := by
  obtain ⟨hin, y, hy, hport, harch⟩ := h
  exact ⟨k.1.trans hin, y, k.2.trans hy, hport, harch⟩

theorem reply_answered {st : Status} {rd : Bool} {data : List Nat} : Answered port arch s (s.reply port arch x st rd data) := by
  unfold reply
  exact ite_ind (P := Answered port arch s) ⟨rfl, _, rfl, rfl, rfl⟩ ⟨rfl, _, rfl, rfl, rfl⟩

theorem reply_rings {st : Status} {rd : Bool} {data : List Nat} : (s.reply port arch x st rd data).net.rings = s.net.rings := by
  unfold reply
  exact ite_ind (P := fun t : State => t.net.rings = s.net.rings) rfl rfl

theorem countKeyFail_unanswered : Unanswered s (s.countKeyFail port x) := by
  unfold countKeyFail
  split
  · exact .of rfl
  · exact ite_ind (P := Unanswered s) (.of rfl) ⟨rfl, rfl⟩

theorem writeSlot_unanswered {slot : Nat} {bs : List Nat} (h : s.writeSlot r slot bs = .ok u) : Unanswered s u := by
  cases hm : r.mem with
  | false =>
    obtain ⟨t, ht, hcount⟩ := Counted.writeSlot (s := s) (slot := slot) (bs := bs) hm
    obtain rfl := Except.ok.inj (ht.symm.trans h)
    exact .of hcount.net
  | true =>
    unfold writeSlot at h
    dsimp only at h
    rw [if_pos hm] at h
    split at h
    · cases h
    · rename_i s1 hs1
      exact .of ((memWrite_works h).1.trans (memWrite_works hs1).1)

/-- A landing that is counted and answered, after which its work may be through. -/
theorem landed_answered {w : Nat} : Answered port arch s (((s.countLandings w).reply port arch x .done false []).settle w) :=
  (Unanswered.answered (.of Counted.countLandings.net) reply_answered).unanswered Fails.settle.unanswered

theorem landSlot_answered {slot : Nat} : Answered port arch s (s.landSlot port arch i r slot x) := by
  unfold landSlot
  split
  · exact reply_answered.unanswered Fails.failRing.unanswered
  · refine ite_ind (P := Answered port arch s) reply_answered (ite_ind (P := Answered port arch s)
      (reply_answered.unanswered Fails.failRing.unanswered) ?_)
    split
    · exact reply_answered
    · rename_i s1 hs1
      refine Unanswered.answered ?_ landed_answered
      have hland : ∀ {f : Ring → Ring}, Unanswered s ((s1.keepLanding r slot x.data).modRing i f) := fun {f} =>
        ((writeSlot_unanswered hs1).trans (.of Counted.keepLanding.net)).trans ⟨rfl, rfl⟩
      exact ite_ind (P := Unanswered s) (hland.trans barArrive_released.unanswered) hland

theorem landReturn_answered : Answered port arch s (s.landReturn port arch i r x) := by
  unfold landReturn
  dsimp only
  refine ite_ind (P := Answered port arch s) reply_answered ?_
  split
  · exact reply_answered
  · rename_i s1 hs1
    exact Unanswered.answered ((Fails.memWrite hs1).unanswered.trans ⟨rfl, rfl⟩) landed_answered

/-- A transfer that comes to the shuttle is answered exactly once. -/
theorem landBlock_answered : Answered port arch s (s.landBlock port arch x) := by
  unfold landBlock byTarget
  split
  · exact countKeyFail_unanswered.answered reply_answered
  · dsimp only
    unfold byRing
    split
    · exact reply_answered
    · dsimp only
      split
      · exact landSlot_answered
      · exact landReturn_answered

theorem landSlot_lands {slot : Nat} {b : Nat × Nat × Nat} (hexp : expectedIn r slot = some b) (hm : r.mem = false) (hstop : r.stopped = none)
    (hb : b.2.1 ≠ 0) (hmay : r.mayUse r.given b = true) : AllRings i (b ∈ ·.landed) (s.landSlot port arch i r slot x) := by
  obtain ⟨s1, hs1, -⟩ := Counted.writeSlot (s := s) (slot := slot) (bs := x.data) hm
  have hbad : ¬ (b.2.1 = 0 ∨ (!r.mayUse r.given b) = true) := not_or.mpr ⟨hb, ne_true_of_eq_false (congrArg not hmay)⟩
  unfold landSlot
  rw [hexp]
  dsimp only
  rw [hstop, if_neg (by decide), if_neg hbad, hs1]
  dsimp only
  have hland : ∀ {t : State}, AllRings i (b ∈ ·.landed) (t.modRing i fun r => { r with landed := r.landed ++ [b] }) :=
    .modRing_self fun _ => List.mem_append_right _ List.mem_cons_self
  refine AllRings.of (s := (State.countLandings _ r.work).reply port arch x .done false []) (fun e he => ?_) settle_rings
  rw [reply_rings, Counted.countLandings.net] at he
  refine (ite_ind (P := AllRings i (b ∈ ·.landed)) ?_ hland) e he
  exact hland.released barArrive_released fun _ _ hf hx => hf.2 b hx

theorem landBlock_lands {tg : Target} {slot : Nat} {b : Nat × Nat × Nat} (htg : s.checkXfer port x = .ok tg)
    (hring : s.ringFor arch x tg = some (i, r, some slot)) (hexp : expectedIn r slot = some b) (hm : r.mem = false) (hstop : r.stopped = none)
    (hb : b.2.1 ≠ 0) (hmay : r.mayUse r.given b = true) : AllRings i (b ∈ ·.landed) (s.landBlock port arch x) := by
  unfold landBlock
  rw [htg]
  show AllRings i _ (byRing (s.ringFor arch x tg) _ _)
  rw [hring]
  exact landSlot_lands hexp hm hstop hb hmay

end

theorem shuttleBlockLanding_none (h : ∀ e ∈ s.net.shuttleIn, s.landsIn i e = false) : execShuttleBlockLanding i s = .next s := by
  unfold execShuttleBlockLanding
  rw [List.find?_eq_none.mpr fun e he => ne_true_of_eq_false (h e he)]

theorem shuttleBlockLanding_lands {port arch : Nat} {x : Xfer} (h : s.net.shuttleIn.find? (s.landsIn i) = some (port, arch, x)) :
    execShuttleBlockLanding i s = .next (({ s with net := { s.net with shuttleIn := s.net.shuttleIn.erase (port, arch, x) } } : State).landBlock
      port arch x) := by
  unfold execShuttleBlockLanding
  rw [h]

/-! ### Failures of a ring (R295, R296, R409) -/

theorem ringFailure_none {v : Nat} (h : s.ring? i = none) : execRingFailure i v s = .next s := by
  unfold execRingFailure
  rw [h]
  cases Status.ofCode? v with
  | none => rfl
  | some st => rfl

theorem ringFailure_idle {v : Nat} (h : Status.ofCode? v = none ∨ ∀ wk, s.work? r.work = some wk → wk.running = false) (hr : s.ring? i = some r) :
    execRingFailure i v s = .next s := by
  unfold execRingFailure
  rw [hr]
  cases hv : Status.ofCode? v with
  | none => rfl
  | some st =>
    refine congrArg Host.Outcome.next (if_pos (.inr ?_))
    rw [Bool.not_eq_true']
    cases hw : s.work? r.work with
    | none => rfl
    | some wk => exact h.elim (fun h => absurd (hv.symm.trans h) nofun) fun h => h wk hw

section
variable {v : Nat} {st : Status} {wk : Work} (hr : s.ring? i = some r) (hv : Status.ofCode? v = some st)
include hr hv

theorem ringFailure_done (hd : st.isDone = true) : execRingFailure i v s = .next s := by
  unfold execRingFailure
  rw [hr, hv]
  exact congrArg Host.Outcome.next (if_pos (.inl hd))

theorem ringFailure_fails (hw : s.work? r.work = some wk) (hrun : wk.running = true) (hd : st.isDone = false) : execRingFailure i v s = .next (s.failRing i st) := by
  unfold execRingFailure
  rw [hr, hv]
  dsimp only
  rw [hw, if_neg]
  exact not_or.mpr ⟨ne_true_of_eq_false hd, ne_true_of_eq_false (congrArg not hrun)⟩

end

theorem failRing_status {st : Status} {wk : Work} (hr : s.ring? i = some r) (hstop : r.stopped = none) (hw : s.work? r.work = some wk)
    (hrun : wk.running = true) (hclose : wk.closeAt = none) : WorkEnds r.work (if wk.status.isDone then st else wk.status) (s.failRing i st) := by
  rw [failRing_runs hr hstop]
  exact failWork_status ((congrArg (fun n : IsthState => n.works.get? r.work) stopRing_isth).trans hw) hrun hclose

theorem ringAbortReceive_none (h : s.popAbort 1 = none) : execRingAbortReceive s = .next s := by
  unfold execRingAbortReceive
  rw [h]

theorem ringAbortReceive_stranger {x : Xfer} (h : s.popAbort 1 = some (none, x, u)) : execRingAbortReceive s = .next u := by
  unfold execRingAbortReceive
  rw [h]

section
variable {arch : Nat} {x : Xfer} {hit : Nat × Ring → Bool} (h : s.popAbort 1 = some (some arch, x, u))
  (hh : (fun ((_, r) : Nat × Ring) =>
    u.ringArch r == arch && r.num == fld (ofBytes x.data) 32 8 && (r.nextIx == x.src || r.prevIx == x.src) && r.stopped.isNone
      && fld (ofBytes x.data) 0 4 == 1 && fld (ofBytes x.data) 64 64 == ((u.work? r.work).map (·.tide)).getD 0 % 2 ^ 64) = hit)
include h hh

theorem ringAbortReceive_missed (hm : u.net.rings.find? hit = none) : execRingAbortReceive s = .next u := by
  unfold execRingAbortReceive
  rw [h]
  dsimp only
  rw [hh, hm]

theorem ringAbortReceive_hit (hm : u.net.rings.find? hit = some (i, r)) : execRingAbortReceive s =
    .next ((u.stopRing i .aborted (fld (ofBytes x.data) 16 10) (some x.src)).failWork r.work .aborted) := by
  unfold execRingAbortReceive
  rw [h]
  dsimp only
  rw [hh, hm]

end

end State
end Sys2Proof.Machine
end
section
/-! The obligation on the shuttle. -/

namespace Sys2Proof.Proofs
open Sys2Proof.Machine Sys2Proof.Machine.State

/-- Settles O54: sends and origin blocks are followed through counting and the slot's free barrier, which only free slots of rings (Released); a
landing is answered once on each of its ways; a ring that has stopped stays so through every step of the failure of its work. -/
theorem shuttleCommands : Obligations.ShuttleCommands := by
  unfold Obligations.ShuttleCommands
  intro s i
  refine ⟨fun hr => ?absent, fun r hr => ?ring, fun l r hr => ?sends, fun h => shuttleBlockLanding_none h, fun port arch x h => ?lands,
    fun h => ringAbortReceive_none h, fun x u h => ringAbortReceive_stranger h, fun arch x u h => ?abort⟩
  case absent =>
    have hsend : ∀ (l : List Nat) (own : Bool), (s.takeCredits i l).sendBlock i own = s := fun l own => by
      rw [takeCredits_none hr, sendBlock_none hr]
    refine ⟨fun lost => congrArg Host.Outcome.next (fetchOrigin_none hr), fun l => congrArg Host.Outcome.next (hsend l true), fun l => ?_,
      slotCreditGrant_none hr, fun v => ringFailure_none hr⟩
    refine congrArg Host.Outcome.next ?_
    rw [hsend l false, sendBack_none hr]
  case ring =>
    intro k b due
    refine ⟨fun lost h => congrArg Host.Outcome.next (fetchOrigin_waits hr h), fun lost hdue hc => ?_, fun lost c o hdue hm hc ho => ?_,
      fun h => slotCreditGrant_waits hr h, fun hg hs hup => ?_, fun v h => ringFailure_idle h hr, fun v st wk hv hw hrun => ⟨fun hd => ringFailure_done hr hv hd,
        fun hd hs hclose => ?_⟩⟩
    · exact ⟨_, congrArg Host.Outcome.next (fetchOrigin_unbound hr hdue hc), (failRing_stopped hr hdue.2.1).ring⟩
    · obtain ⟨x, hx, horigin, hlanded, hmem, hkv⟩ := fetchOrigin_fetches (lost := lost) hr hdue hm hc ho
      exact ⟨_, x, rfl, hx, horigin, hlanded, hmem, hkv⟩
    · exact ⟨_, _, slotCreditGrant_grants hr hg hs hup, rfl, ring_modRing hr, rfl, fun j hj => ring_modRing_ne hj⟩
    · exact ⟨_, ringFailure_fails hr hv hw hrun hd, (failRing_stopped hr hs).ring, failRing_status hr hs hw hrun hclose⟩
  case sends =>
    intro u b ret may mayRet open_ leaves
    have hwait : ∀ own : Bool, ¬ may ∨ ((b.2.1 == 0) ≠ own) → u.sendBlock i own = u := fun own h => sendBlock_waits hr h
    have hsend : ∀ (own : Bool) bs, may → (b.2.1 == 0) = own → open_ → u.readSlot r (r.slotOf b) = .ok bs → ∃ x y,
        (u.sendBlock i own).ring? i = some x ∧ Ring.Freed { r with next := r.next + 1, outstanding := r.outstanding + 1 } x ∧
        (u.sendBlock i own).net.sent = u.net.sent ++ [y] ∧ y.owner = .ring i (r.seq (b.1, b.2.1 + 1, b.2.2)) ∧ y.x.data = bs ∧
        y.arch = u.ringArch r ∧ y.chan = 4 := fun own bs hmay hown hopen hbs => by
      obtain ⟨off, slot, mc, heq⟩ := sendBlock_sends hr hmay hown hbs
      exact shuttle_leaves hr hopen heq.symm
    have hback : ¬ may ∨ b.2.1 = 0 → exec (.shuttleForward i l) s = .next (u.sendBack i) := fun h =>
      congrArg (fun t : State => Host.Outcome.next (t.sendBack i)) (hwait false (h.imp_right fun h => by rw [h]; decide))
    refine ⟨fun h => congrArg Host.Outcome.next (hwait true (h.imp_right fun h => by simpa using h)), fun bs hmay hb hopen hbs => ?_, fun h hno => ?_,
      fun bs hmay hb hbwd hopen hbs => ?_, fun bs h hret hopen hbs => ?_⟩
    · obtain ⟨x, y, hx, hfreed, hy⟩ := hsend true bs hmay (by rw [hb]; rfl) hopen hbs
      exact ⟨_, x, y, rfl, hx, (congrArg Ring.next hfreed.1).trans rfl, (congrArg Ring.nextRet hfreed.1).trans rfl,
        (congrArg Ring.outstanding hfreed.1).trans rfl, hy⟩
    · exact (hback h).trans (congrArg Host.Outcome.next (sendBack_waits hr hno))
    · obtain ⟨x, y, hx, hfreed, hy⟩ := hsend false bs hmay (by simpa using hb) hopen hbs
      have hforward : x.bwd = false := (congrArg (fun z : Ring => z.bwd) hfreed.1).trans hbwd
      exact ⟨_, x, y, congrArg Host.Outcome.next (sendBack_forward hx hforward), hx, (congrArg Ring.next hfreed.1).trans rfl,
        (congrArg Ring.nextRet hfreed.1).trans rfl, (congrArg Ring.outstanding hfreed.1).trans rfl, hy⟩
    · obtain ⟨off, slot, heq⟩ := sendBack_sends hr hret hbs
      obtain ⟨x, y, hx, hfreed, hy⟩ := shuttle_leaves hr hopen heq.symm
      exact ⟨_, x, y, hback h, hx, (congrArg Ring.next hfreed.1).trans rfl, (congrArg Ring.nextRet hfreed.1).trans rfl,
        (congrArg Ring.outstanding hfreed.1).trans rfl, hy⟩
  case lands =>
    intro u
    obtain ⟨hin, y, hy, hport, harch⟩ := landBlock_answered (s := u) (port := port) (arch := arch) (x := x)
    exact ⟨_, y, shuttleBlockLanding_lands h, hin, hy, hport, harch, fun tg r k b htg hring hexp hm hstop hb hmay =>
      (landBlock_lands htg hring hexp hm hstop hb hmay).ring⟩
  case abort =>
    intro hit
    refine ⟨fun hm => ringAbortReceive_missed h rfl hm, fun j r hm hr => ⟨_, ringAbortReceive_hit h rfl hm, ?_⟩⟩
    have hrun : r.stopped = none := by
      have hall := List.find?_some hm
      simp only [Bool.and_eq_true] at hall
      exact Option.isNone_iff_eq_none.mp hall.1.1.2
    exact (stopRing_stopped hr hrun).failWork.ring

end Sys2Proof.Proofs
end
